-- ==== Sys2Proof/Word.lean ====
section
/-!
DEFINITION. The word types of the DM24 model (spec/00_scope.md R12, R13).
-/
namespace Sys2Proof

/-- One byte. -/
abbrev Byte := BitVec 8
/-- A byte string, lowest address first (R12). -/
abbrev Bytes := List Byte
/-- A 32-bit word. -/
abbrev W32 := BitVec 32
/-- A 64-bit word, the width of every BAR0 register (R557). -/
abbrev W64 := BitVec 64
/-- A SHA3-256 digest. -/
abbrev Digest := BitVec 256
/-- A sequencer instruction word, 256 bits (Table 3-3). -/
abbrev InstrWord := BitVec 256
/-- A vector register or vector operand of 256 bytes (R592). -/
abbrev V2048 := BitVec 2048

end Sys2Proof
end

