-- ==== Sys2Proof/Syntax.lean ====
section
/-!
DEFINITION. The commands of the DM24: one constructor of `Instr` for each of the 248 rows of
spec/opcode_table.json, with its operands. The table gives no operands and no bits; an operand is
what the row's rule says reaches the module from outside, or what names the part concerned
(notes/assumptions/11.md).
-/
namespace Sys2Proof

/-- A host port (R416). -/
abbrev Port := Fin 4
/-- A queue pair of a port (R418). -/
abbrev Qp := Fin 64
/-- A physical tile, row × 64 + column (Table 1-1). -/
abbrev TileIx := Fin 2048
/-- A network link (R369). -/
abbrev LinkIx := Fin 24
/-- A harness instance number (R138). -/
abbrev InstIx := Fin 8
/-- A physical sync object (R346). -/
abbrev SyncIx := Fin 4096

/-- The five lanes of a tile's local sequencer (Table 3-2). -/
inductive Lane where
  | mx | vx | sx | tx | gx
  deriving DecidableEq, Repr

/-- The memory tiers that hold data (Table 5-1). -/
inductive Tier where
  | t1 | t2 | t3
  deriving DecidableEq, Repr

/-- What caused a port reset (R526, Table 17-2). -/
inductive PortResetCause where
  | hotReset | linkDisable | linkLoss
  deriving DecidableEq, Repr

/-- The common command codes that the I3C target supports (R583). -/
inductive I3cCcc where
  | entdaa (addr : Nat)
  | setdasa (addr : Nat)
  | enec
  | disec
  | rstact
  deriving DecidableEq, Repr

/-- The header fields of a frame as it arrives at a MAC (Table 12-2), and the GT bytes it carries
(GT header, target block, poison map, payload; Tables 12-4 and 12-6). -/
structure Frame where
  fcsOk      : Bool
  dstMac     : BitVec 48
  etherType  : Nat
  vlan       : Option Nat
  extHeader  : Bool
  udpPort    : Nat
  checksumOk : Bool
  icvOk      : Bool
  an         : Nat
  ce         : Bool
  gt         : Bytes
  deriving DecidableEq, Repr

/-- What the heads and routers of the tiles hand over at a step's end for one lengths-table entry:
the token each tree node carries, and the FP32 logits of each sampled node, by token ID (R333, R334). -/
structure EntryOut where
  nodeTokens : List Nat
  logits     : List (List W32)
  deriving DecidableEq, Repr

/-- The router logits of one layer: for each token slot, the FP32 logit of each routed expert
(R289, R290). -/
structure LayerLogits where
  rows : List (List W32)
  deriving DecidableEq, Repr

/-- One unit's outcome in a self-test slice or program (Table 16-11, R521): mismatches and the
receiver margin in 1/64 UI where one is measured. -/
structure UnitResult where
  target  : Nat
  unit    : Nat
  address : Nat
  bit     : Nat
  margin  : Option Int
  errors  : Nat
  absent  : Bool
  deriving DecidableEq, Repr

/-- The commands: one constructor per row of spec/opcode_table.json, in the table's order.
`d` names a taken descriptor by its take number; `p` a received packet by its number. -/
inductive Instr where
  -- supply and resets
  | coldPowerOn
  | inputUndervoltageLockout
  | inputOvervoltageShutoff
  | thermalShutoff (dieC hbmC : Int)
  | perstDeassertBoot
  | warmReset
  | portReset (port : Port) (cause : PortResetCause)
  | functionLevelReset (port : Port)
  | arrayReset (port : Port)
  | t3InitComplete (failed : List (Fin 24))
  -- security mailbox; the bytes are those read at ADDR (R458)
  | fwLoad (bundle : Bytes)
  | sliceRecord (record : Bytes)
  | contextGrant (grant : Bytes)
  | contextRevoke (grant : Bytes)
  | certRead
  | logRead
  | challenge
  | certInstall (chain : Bytes)
  | toManufacture (token : Bytes)
  | toProvisioned (token : Bytes)
  | ownerClaim (token : Bytes)
  | ownerTransfer (token : Bytes)
  | debugUnlock (token : Bytes)
  | toReturn (token : Bytes)
  | toScrapped (token : Bytes)
  | svnCommit
  | debugLock
  -- doorbells, queue pairs, windows
  | doorbellSqTail (port : Port) (page : Fin 256) (size value : Nat)
  | doorbellCqHead (port : Port) (page : Fin 256) (size value : Nat)
  | doorbellTqHead (port : Port) (page : Fin 256) (size value : Nat)
  | doorbellEqHead (port : Port) (page : Fin 256) (size value : Nat)
  | descriptorTake (port : Port) (qp : Qp) (slot : Bytes)
  | qpEnable (port : Port) (qp : Qp)
  | qpDisable (port : Port) (qp : Qp)
  | ringInterruptDelay (port : Port) (qp : Qp) (token : Bool)
  | hdmDecoderCommit (port : Port) (n : Fin 16)
  | cxlMemRead (port : Port) (n : Fin 16) (offset len : Nat)
  | cxlMemWrite (port : Port) (n : Fin 16) (offset : Nat) (data : Bytes)
  -- descriptors; byte operands are partner memory that the descriptor names (notes/assumptions/7.md)
  | nop (d : Nat)
  | fence (d : Nat)
  | pkgStage (d : Nat) (data : Bytes)
  | pkgAdmit (d : Nat) (pkg table : Bytes)
  | pkgEvict (d : Nat)
  | harnessLoad (d : Nat) (image : Bytes)
  | harnessRelease (d : Nat)
  | overlayRegister (d : Nat) (image : Bytes)
  | overlaySwitch (d : Nat)
  | overlayStagingDone (i : InstIx)
  | overlayCommitTread (i : InstIx)
  | regionDrained (i : InstIx)
  | drainLimitExpiry (i : InstIx)
  | switchFreezeDone (i : InstIx)
  | switchParkDone (i : InstIx)
  | bayApplyDone (i : InstIx)
  | harnessBind (d : Nat) (table : Bytes)
  | harnessUnbind (d : Nat)
  | reqOpen (d : Nat) (params prompt : Bytes)
  | reqAppend (d : Nat) (prompt : Bytes)
  | reqCancel (d : Nat)
  | reqClose (d : Nat)
  | adapterLoad (d : Nat) (image : Bytes)
  | adapterRetire (d : Nat)
  | runGraph (d : Nat) (far : List Bytes)
  | syncSetArrive (d : Nat)
  | syncSetAdd (d : Nat)
  | syncSetPost (d : Nat)
  | syncSetBase (d : Nat)
  | syncWaitWait (d : Nat)
  | syncWaitAcquire (d : Nat)
  | syncWaitTimeout (d : Nat)
  | syncWaitSatisfied (d : Nat)
  | moveRelocate (d : Nat)
  | moveImport (d : Nat) (data : Bytes)
  | moveExport (d : Nat)
  | moveAlloc (d : Nat)
  | moveFree (d : Nat)
  | attest (d : Nat)
  | keyImport (d : Nat) (blob : Bytes)
  | keyClear (d : Nat)
  | ctxSave (d : Nat)
  | ctxSaveFreeze (d : Nat)
  | sendFenceSatisfied (d : Nat)
  | ctxRestore (d : Nat) (area : Bytes)
  | resumeTreadRelease (d : Nat)
  | telemetrySnap (d : Nat)
  | telemetryLatch (d : Nat)
  | eventLogWrite
  -- one clk of one lane (R89)
  | instrNop (t : TileIx) (l : Lane)
  | setlc (t : TileIx) (l : Lane)
  | setf (t : TileIx) (l : Lane)
  | clrf (t : TileIx) (l : Lane)
  | jump (t : TileIx) (l : Lane)
  | halt (t : TileIx) (l : Lane)
  | send (t : TileIx) (l : Lane)
  | eos (t : TileIx) (l : Lane)
  | syncArrive (t : TileIx)
  | syncAdd (t : TileIx)
  | syncWait (t : TileIx)
  | take (t : TileIx)
  | complete (t : TileIx)
  | acquire (t : TileIx)
  | post (t : TileIx)
  | setBase (ctx vid : Nat) (base : Nat)
  | newStep (ctx vid : Nat) (n : W32)
  | restart (ctx vid : Nat) (n : W32)
  | barrierTimedRelease (o : SyncIx)
  | barrierTimeout (o : SyncIx)
  | barrierFloorRelease (o : SyncIx)
  | generationRetire (o : SyncIx)
  | riserWaveStart (o : SyncIx) (wave : Nat)
  | mxeOp (t : TileIx)
  | merge (t : TileIx)
  | mxeOpComplete (t : TileIx)
  | vop (t : TileIx)
  | sop (t : TileIx)
  | t2Read (t : TileIx)
  | t2Write (t : TileIx)
  | t2MoveComplete (t : TileIx)
  | galGet (t : TileIx)
  | galPut (t : TileIx)
  | galleryTransferDone (t : TileIx)
  | spillReturn (t : TileIx) (q : Fin 24)
  | fabricWatchdogExpiry (t : TileIx)
  -- fetch and protection
  | fetchIssue (engine : Fin 16)
  | fetchUnitLanded (engine : Fin 16) (index : Nat)
  | pageRebuild (tier : Tier) (word : Nat)
  | pageRebuildDone (tier : Tier) (page : Nat)
  | ceBucketLeak (tier : Tier)
  | patrolScrubPage (tier : Tier) (unit : Nat)
  | repairGo (value : W64)
  | repairCommit (value : W64)
  | repairDone
  -- serving loop
  | stepPlan (group : Nat)
  | stepStart (group : Nat)
  | groupFirstStep (group : Nat)
  | stepSettle (group : Nat) (outs : List EntryOut) (routing : List LayerLogits)
  | periodEstimateUpdate (group : Nat)
  | roleEvaluation (group : Nat)
  -- links
  | linkEnable (k : LinkIx) (en : Bool)
  | linkTrained (k : LinkIx) (lanes : BitVec 4)
  | linkDown (k : LinkIx) (cause : Nat)
  | linkRetrain (k : LinkIx)
  | helloA (k : LinkIx) (payload : Bytes) (rxNs : Nat)
  | helloB (k : LinkIx) (payload : Bytes)
  | helloDelay (k : LinkIx) (payload : Bytes)
  | helloRetry (k : LinkIx)
  | frameReceive (k : LinkIx) (f : Frame)
  | gtAck (k : LinkIx) (ack : Nat) (negative : Bool)
  | ackTimer (k : LinkIx)
  | retryTimeout (k : LinkIx)
  | gtWrite (p : Nat)
  | gtRead (p : Nat)
  | gtData (p : Nat)
  | gtStream (p : Nat)
  | gtSync (p : Nat)
  | gtSyncRsp (p : Nat)
  | gtDir (p : Nat)
  | gtDone (p : Nat)
  | gtRedirect (p : Nat)
  | gtForward (p : Nat)
  | packetTimeout (msg : Nat)
  | ecnRateRaise (k : LinkIx)
  -- CTRL messages
  | floorReq (p : Nat)
  | linkState (p : Nat)
  | descFwd (p : Nat)
  | descDone (p : Nat)
  | reqFwd (p : Nat)
  | reqAck (p : Nat)
  | stepPlanReceive (p : Nat)
  | settle (p : Nat)
  | bind (p : Nat)
  | sliceStop (p : Nat)
  | sliceStopTread
  | adapterCtrl (p : Nat)
  -- time
  | beaconSend
  | beacon (k : LinkIx) (payload : Bytes) (arrivalNs : Nat)
  | treadEdge (offsetNs : Int) (sinceLastNs : Nat)
  | treadLock
  | treadHoldoverEntry
  | treadRelock
  | flightBoundaryTimeCheck
  | treadLoad (data : Bytes)
  | treadNumberLoaded
  | treadAnchorWrite (port : Port) (value : W64)
  | treadFallingEdge (highNs : Nat)
  -- power
  | cap (data : Bytes)
  | capHoldEnd
  | capDeadlineCheck
  | floorAdopt
  | opVoltageStep (mv : Nat)
  | averagePowerCheck
  | rampEnvelopeUpdate (drawW : Nat)
  | pull (o : SyncIx)
  | pullEnd
  | thermalWarning (dieC hbmC : Int)
  | thermalWarningStep (dieC hbmC : Int)
  | thermalTrip (dieC hbmC : Int)
  | pwrBrakeAssert
  | pwrBrakeDeassert
  | coolantStop
  | coolantResume
  -- I3C, power states, Newel
  | slot (data : Bytes)
  | i3cStatusRead
  | i3cNotifyRepeat
  | i3cWriteRefused (index : Nat) (data : Bytes)
  | a1Entry
  | a1Exit
  | a2Entry
  | a2Exit
  | newelWatchdogExpiry
  | newelRestartDone (copyOk : Bool)
  | heartbeatMissed (core : Fin 32)
  | firmwarePoison
  -- counters, lifetime, self-test
  | counterHalfWrapService (counter : Nat)
  | counterSweep
  | lifetimeAccumulate
  | lifetimeCommit
  | selftestSliceStart
  | selftestSliceEnd (results : List UnitResult)
  | selftestCfgWrite (value : W64)
  | inFieldPass (unit : Nat)
  | t2March (unit : Nat)
  | t3March (unit : Nat)
  | padSweep (unit : Nat)
  | linkLoopback (unit : Nat)
  | hostLoopback (unit : Nat)
  | tileBist (unit : Nat)
  | selftestProgramDone (results : List UnitResult)
  -- debug and telemetry
  | syncForceSetValue (object : SyncIx) (value : W32)
  | syncForceRelease (object : SyncIx) (gen : W32)
  | scanFreeze
  | scanOut
  | scanIn
  | scanRelease
  | scanCommandDone
  | qdepthSampleEnable
  | qdepthSample
  | ceSettingWrite (offset : Nat) (value : W64)
  | registerWrite (port : Port) (bar : Nat) (offset size : Nat) (value : W64)
  | inputOvervoltageRecovery
  | thermalTripClear (dieC hbmC : Int)
  | portLinkTrained (port : Port) (width speed : Nat)
  | hdmDecoderUncommit (port : Port) (n : Fin 16)
  | backInvalidateResponse (w : Nat)
  | doneRecordHoldExpiry (k : LinkIx)
  | t2InitComplete
  | voltageRampStart
  | i3cCommand (c : I3cCcc)
  deriving DecidableEq, Repr

end Sys2Proof
end

