-- ==== Sys2Proof/Machine/Maps.lean ====
section
/-!
DEFINITION. Maps from numbers to values, held as lists with rising keys, so that equal maps built by the same
operations are equal data. `mget` reads, `mset` writes, `merase` removes.
-/
namespace Sys2Proof.Machine

/-- A map with natural-number keys, lowest key first. -/
abbrev AMap (V : Type) := List (Nat × V)

/-- The value at key `k`, if the map lists one. -/
def mget {V : Type} : AMap V → Nat → Option V
  | [], _ => none
  | (j, v) :: m, k => if j = k then some v else mget m k

/-- The value at key `k`, or `d` when the map lists none. -/
def mgetD {V : Type} (m : AMap V) (k : Nat) (d : V) : V := (mget m k).getD d

/-- Writes `v` at key `k`, keeping the keys in rising order. -/
def mset {V : Type} : AMap V → Nat → V → AMap V
  | [], k, v => [(k, v)]
  | (j, w) :: m, k, v =>
    if k < j then (k, v) :: (j, w) :: m
    else if j = k then (k, v) :: m
    else (j, w) :: mset m k v

/-- Removes key `k`. -/
def merase {V : Type} (m : AMap V) (k : Nat) : AMap V := m.filter fun e => e.1 ≠ k

/-- True where the map lists key `k`. -/
def mhas {V : Type} (m : AMap V) (k : Nat) : Bool := (mget m k).isSome

/-- Applies `f` to the value at key `k`, taking `d` where none is listed. -/
def mupd {V : Type} (m : AMap V) (k : Nat) (d : V) (f : V → V) : AMap V := mset m k (f (mgetD m k d))

/-- Applies `f` to the value at key `k`; a key that is not listed stays so. -/
def madj {V : Type} (m : AMap V) (k : Nat) (f : V → V) : AMap V :=
  match mget m k with
  | some v => mset m k (f v)
  | none => m

/-- Applies `f` to every value. -/
def mmap {V : Type} (m : AMap V) (f : Nat → V → V) : AMap V := m.map fun e => (e.1, f e.1 e.2)

/-- Keeps the entries for which `p` holds. -/
def mkeep {V : Type} (m : AMap V) (p : Nat → V → Bool) : AMap V := m.filter fun e => p e.1 e.2

/-- The keys for which `p` holds, lowest first. -/
def mkeys {V : Type} (m : AMap V) (p : Nat → V → Bool) : List Nat := (m.filter fun e => p e.1 e.2).map (·.1)

/-- The lowest natural number below `n` that is no key of the map. -/
def mfresh {V : Type} (m : AMap V) (n : Nat) : Option Nat := (List.range n).find? fun k => !mhas m k

end Sys2Proof.Machine
end

