-- ==== Sys2Proof/Config.lean ====
section
/-!
DEFINITION. What the spec takes from other standards or leaves open: constants and functions with no body, so that
nothing proved rests on a value of theirs (notes/assumptions/8.md, 10.md, 12.md, 13.md).
-/
namespace Sys2Proof

/-- The free value number `n`: a number that the spec leaves open (entropy, unstated results, power drawn);
the reader takes it modulo the range that the spec gives (notes/assumptions/10.md). -/
opaque freeValue : Nat → Nat

/-- SHA3-256 of FIPS 202. -/
opaque sha3 : Bytes → Digest
/-- KMAC256 of SP 800-185 with 32 bytes of output: key, label, data (R445). -/
opaque kdf : Digest → String → Bytes → Digest
/-- ML-DSA-44 public key of a seed, 1,312 bytes (FIPS 204). -/
opaque dsaPublic : Digest → BitVec 10496
/-- ML-DSA-44 signature over a message, 2,420 bytes. -/
opaque dsaSign : Digest → Bytes → BitVec 19360
/-- ML-DSA-44 check: public key, message, signature. -/
opaque dsaVerify : Bytes → Bytes → Bytes → Bool
/-- ML-KEM-768 encapsulation key of a seed, 1,184 bytes (FIPS 203). -/
opaque kemPublic : Digest → BitVec 9472
/-- ML-KEM-768 encapsulation for a key with fresh entropy: ciphertext, 1,088 bytes. -/
opaque kemCipher : Bytes → Nat → BitVec 8704
/-- The shared secret that the encapsulating end obtains. -/
opaque kemShare : Bytes → Nat → Digest
/-- ML-KEM-768 decapsulation of a ciphertext with the seed of the key pair; none where it fails. -/
opaque kemOpen : Digest → Bytes → Option Digest
/-- AES-256-GCM opening: key, IV, AAD, ciphertext, tag; none where the tag fails. -/
opaque gcmOpen : Digest → Bytes → Bytes → Bytes → Bytes → Option Bytes
/-- One byte of an AES-256-GCM keystream: key, IV, byte position. -/
opaque gcmStream : Digest → Bytes → Nat → Byte
/-- AES-256-GCM tag, 16 bytes: key, IV, AAD, ciphertext. -/
opaque gcmTag : Digest → Bytes → Bytes → Bytes → BitVec 128
/-- AES-256-XTS decryption of one 4 KiB unit: key, tweak, unit (R462); 4,096 bytes. -/
opaque xtsOpen : Bytes → Nat → Bytes → BitVec 32768
/-- True where a certificate chain ends in the Kereno root and names the given ML-DSA-44 public key (R446). -/
opaque chainValid : Bytes → Bytes → Bool
/-- The four firmware-signer digests in ROM (Table 14-3). -/
opaque romSigners : Fin 4 → Digest
/-- The life-cycle authority digest in ROM (R453). -/
opaque romAuthority : Digest
/-- ROM_DIGEST of the attestation report (Table 14-14). -/
opaque romDigest : Digest

/-- The functions of R72 whose bits this manual does not fix, on FP32 codes; `k` numbers the function
(notes/assumptions/12.md). -/
opaque approxFn : Nat → W32 → W32
/-- The T1 banks that the MXE's operand fetch takes in a clk, of the 16, by instruction word and K position; the manual gives the fetch
its priority and not its pattern (R38, R162; notes/assumptions/83.md). -/
opaque fetchBanks : BitVec 256 → Nat → BitVec 16
/-- The results of PACK and UNPACK, which the manual does not give, by function and formats, from the whole operand
(notes/assumptions/12.md). -/
opaque packFn : Nat → V2048 → V2048
/-- True where a repair target (kind, unit, address) takes in a word of its tier: where a row, a column, a pad or a lane lies the manual
does not say (notes/assumptions/15.md). -/
opaque repairCovers : Nat → Nat → Nat → Nat → Bool
/-- WEAR_US's increase of one flight for temperature and voltage, in FP32 with its power function (R514). -/
opaque wearOfFlight : Int → Nat → Nat

/-- True where the overlays of a group support an OUTPUT of Table 10-1, by MODEL_UID and decode overlay; the manual does
not say how overlays state it (notes/assumptions/29.md). -/
opaque outputSupported : Nat → Nat → Nat → Bool
/-- Bytes of an EMBED or SCORE result, by MODEL_UID and OUTPUT (notes/assumptions/29.md). -/
opaque outputBytes : Nat → Nat → Nat

/-- Passes that a harness makes in one step, by HARNESS_UID, one for each layer group, the register that holds the weight base and its
value for a pass and relative tile: firmware's, from the model (R132; notes/assumptions/99.md). -/
opaque layerPasses : Nat → Nat
opaque passReg : Nat → Nat
opaque passBase : Nat → Nat → Nat → BitVec 64

/-- The router logits of a step's tokens in one layer, slot by slot, as the matrix engine has drained them: HARNESS_UID, step number,
generation, layer (R289; notes/assumptions/100.md). -/
opaque routerLogits : Nat → Nat → Nat → Nat → List (List W32)

/-- A stream of the static schedule that carries exchange messages from a tile of one member to a tile of another, or of the same: physical
tiles, stream numbers and ends, the unit's bytes, the buffer's units (R195, R297, R302). -/
structure ExStream where
  src   : Nat
  sNum  : Nat
  sEast : Bool
  dst   : Nat
  rNum  : Nat
  rEast : Bool
  unit  : Nat
  slots : Nat
  rate  : Nat
  deriving DecidableEq, Repr

/-- The exchange streams of a harness from one member to another, by HARNESS_UID and the two indices, and the credits in rows that a sender
holds at first toward a buffer, by HARNESS_UID and buffer: the schedule's, which the manual does not give (R297, R303;
notes/assumptions/101.md). -/
opaque exchangePlan : Nat → Nat → Nat → List ExStream
opaque exchangeCredits : Nat → Nat → Nat

/-- What firmware writes into the operation records of a serving step beside their kind, operator and rows, by HARNESS_UID, operator, pass
and position; the layer that an operator works on in a pass; and the pool index of an operator of attention: firmware's, from the model
(R239, R271; notes/assumptions/102.md). -/
opaque stepRecord : Nat → Nat → Nat → Nat → BitVec 1024
opaque opLayer : Nat → Nat → Nat → Nat
opaque opPool : Nat → Nat → Nat → Option Nat

end Sys2Proof
end

