-- ==== Sys2Proof/Machine/Bits.lean ====
section
/-!
DEFINITION. Bit fields, byte order, saturation and the CRC-32 that the formats share.
-/
namespace Sys2Proof.Machine

/-- The little-endian bytes of `v`, `n` of them (R12). -/
def leBytes : Nat → Nat → Bytes
  | 0, _ => []
  | n + 1, v => BitVec.ofNat 8 v :: leBytes n (v / 256)

/-- The number that little-endian bytes spell (R12). -/
def leNat : Bytes → Nat
  | [] => 0
  | b :: bs => b.toNat + 256 * leNat bs

/-- Bytes `off` to `off + n − 1`. -/
def slice (bs : Bytes) (off n : Nat) : Bytes := (bs.drop off).take n

/-- The little-endian number in bytes `off` to `off + n − 1`. -/
def fld (bs : Bytes) (off n : Nat) : Nat := leNat (slice bs off n)

/-- Byte `off` as a number. -/
def byteAt (bs : Bytes) (off : Nat) : Nat := fld bs off 1

/-- True where bytes `off` to `off + n − 1` are all zero. -/
def zeroAt (bs : Bytes) (off n : Nat) : Bool := (slice bs off n).all (· == 0)

/-- Bits [hi:lo] of a number (R13). -/
def bits (v hi lo : Nat) : Nat := v / 2 ^ lo % 2 ^ (hi + 1 - lo)

/-- Bit `i` of a number. -/
def bit (v i : Nat) : Bool := v / 2 ^ i % 2 == 1

/-- 1 for true, 0 for false. -/
def b2n (b : Bool) : Nat := if b then 1 else 0

/-- Replaces bits [hi:lo] of `v` by `x`. -/
def putBits (v hi lo x : Nat) : Nat :=
  v % 2 ^ lo + (x % 2 ^ (hi + 1 - lo)) * 2 ^ lo + v / 2 ^ (hi + 1) * 2 ^ (hi + 1)

/-- Overwrites the bytes of `bs` from `off` on with `xs`, keeping the length. -/
def putBytes (bs : Bytes) (off : Nat) (xs : Bytes) : Bytes :=
  (bs.take off ++ xs ++ bs.drop (off + xs.length)).take bs.length

/-- The low `n` bytes of `bs`, filled with zeros to `n`. -/
def padTo (n : Nat) (bs : Bytes) : Bytes := (bs ++ List.replicate (n - bs.length) 0).take n

/-- The two's-complement number of `w` bits. -/
def toInt (w v : Nat) : Int := if v % 2 ^ w < 2 ^ (w - 1) then (v % 2 ^ w : Nat) else (v % 2 ^ w : Nat) - (2 ^ w : Nat)

/-- The `w`-bit two's-complement code of an integer. -/
def ofInt (w : Nat) (x : Int) : Nat := (x % (2 ^ w : Nat)).toNat

/-- Adds and stops at `top`. -/
def satAdd (top a b : Nat) : Nat := min top (a + b)

/-- An integer held within `−lim` to `lim`. -/
def clampInt (lim : Nat) (x : Int) : Int := max (-(lim : Int)) (min lim x)

/-- `a / b`, rounded up. -/
def ceilDiv (a b : Nat) : Nat := (a + b - 1) / b

/-- One bit of the CRC-32 division, reflected form. -/
def crcStep (c : Nat) : Nat := if c % 2 = 1 then (c / 2) ^^^ 0xEDB88320 else c / 2

/-- One byte of the CRC-32. -/
def crcByte (c : Nat) (b : Byte) : Nat :=
  crcStep (crcStep (crcStep (crcStep (crcStep (crcStep (crcStep (crcStep (c ^^^ b.toNat))))))))

/-- CRC-32 with the IEEE 802.3 polynomial (R506). -/
def crc32 (bs : Bytes) : Nat := (bs.foldl crcByte 0xFFFFFFFF) ^^^ 0xFFFFFFFF

end Sys2Proof.Machine
end

