-- ==== Sys2Proof/Machine/Flags.lean ====
section
/-!
DEFINITION. The flags of the step flag word (02 R65, R590): bit 0 INEXACT_WIN, bit 1 INVALID, bit 2 OVERFLOW, bit 3
ROUNDED.
-/
namespace Sys2Proof.Machine

/-- The flag of an accumulator whose window lost bits (R59, R65). -/
def flInexact : Nat := 1
/-- INVALID: a NaN made from numbers, or a bank in the NaN state (Table 2-8, R590). -/
def flInvalid : Nat := 2
/-- OVERFLOW: a finite result beyond the format's largest (Table 2-8, R590). -/
def flOverflow : Nat := 4
/-- ROUNDED: an inexact rounding (R65, R590). -/
def flRounded : Nat := 8

/-- Joins flags: each unit ORs its own into the word (R65). -/
def orFlags (a b : Nat) : Nat := a ||| b

end Sys2Proof.Machine
end

