-- ==== Sys2Proof/Machine/Float.lean ====
section
/-!
DEFINITION. Number formats, rounding and FP arithmetic (02 Tables 2-2, 2-3, R43, R72, R74, R589, R590). Every value is
held exactly until it is rounded once.
-/
namespace Sys2Proof.Machine

/-- A number as a format holds it: NaN, an infinity, or a finite value `±m × 2^e` with its sign kept for zero. -/
inductive FVal where
  | nan
  | inf (neg : Bool)
  | fin (neg : Bool) (m : Nat) (e : Int)
  deriving DecidableEq, Repr

/-- A format of Table 2-3: its width, the bits of its significand, the weight of its least bit, its largest finite
value `maxN × 2^maxE`, and its special values. -/
structure Fmt where
  width  : Nat
  p      : Nat
  emin   : Int
  maxN   : Nat
  maxE   : Int
  hasInf : Bool
  hasNan : Bool
  isInt  : Bool
  deriving DecidableEq, Repr

/-- FP32. -/
def fp32 : Fmt :=
  { width := 32, p := 24, emin := -149, maxN := 2 ^ 24 - 1, maxE := 104, hasInf := true, hasNan := true,
    isInt := false }

/-- The format of a code of Table 2-2; the MX codes name their element types (R589). -/
def fmtOf (c : Nat) : Fmt :=
  match c with
  | 0 => { width := 8, p := 64, emin := 0, maxN := 127, maxE := 0, hasInf := false, hasNan := false, isInt := true }
  | 1 | 3 => { width := 8, p := 4, emin := -9, maxN := 14, maxE := 5, hasInf := false, hasNan := true, isInt := false }
  | 2 | 4 => { width := 8, p := 3, emin := -16, maxN := 7, maxE := 13, hasInf := true, hasNan := true, isInt := false }
  | 5 => { width := 6, p := 3, emin := -4, maxN := 7, maxE := 2, hasInf := false, hasNan := false, isInt := false }
  | 6 => { width := 6, p := 4, emin := -3, maxN := 15, maxE := -1, hasInf := false, hasNan := false, isInt := false }
  | 7 | 8 => { width := 4, p := 2, emin := -1, maxN := 3, maxE := 1, hasInf := false, hasNan := false, isInt := false }
  | 9 => { width := 16, p := 8, emin := -133, maxN := 255, maxE := 120, hasInf := true, hasNan := true, isInt := false }
  | 11 => { width := 32, p := 64, emin := 0, maxN := 2 ^ 31 - 1, maxE := 0, hasInf := false, hasNan := false,
            isInt := true }
  | _ => fp32

/-- True for the MX codes (Table 2-2). -/
def isMx (c : Nat) : Bool := c == 3 || c == 4 || c == 5 || c == 6 || c == 8

/-- The code of +Inf of a format that has infinities. -/
def Fmt.infCode (f : Fmt) : Nat := 2 ^ (f.width - 1) - 2 ^ (f.p - 1)

/-- The canonical NaN (Table 2-8). -/
def Fmt.nanCode (f : Fmt) : Nat :=
  if f.hasInf then f.infCode + 2 ^ (f.p - 2) else if f.hasNan then 2 ^ (f.width - 1) - 1 else 0

/-- The value of a code (Table 2-3). -/
def Fmt.decode (f : Fmt) (code : Nat) : FVal :=
  if f.isInt then
    let x := toInt f.width code
    .fin (decide (x < 0)) x.natAbs 0
  else
    let neg := bit code (f.width - 1)
    let mag := code % 2 ^ (f.width - 1)
    if f.hasInf ∧ f.infCode ≤ mag then if mag = f.infCode then .inf neg else .nan
    else if f.hasNan ∧ !f.hasInf ∧ mag = f.nanCode then .nan
    else
      let x := mag / 2 ^ (f.p - 1)
      let n := mag % 2 ^ (f.p - 1)
      if x = 0 then .fin neg n f.emin else .fin neg (n + 2 ^ (f.p - 1)) (f.emin + x - 1)

/-- Shifts right with round-to-nearest, ties to even, and says whether a 1 was lost. -/
def rneShift (m sh : Nat) : Nat × Bool :=
  let q := m / 2 ^ sh
  let r := m % 2 ^ sh
  if sh = 0 then (m, false)
  else if 2 ^ sh < 2 * r ∨ (2 * r = 2 ^ sh ∧ q % 2 = 1) then (q + 1, true) else (q, decide (r ≠ 0))

/-- Rounds a magnitude to a format's grid: the significand, its weight, and whether it was inexact. -/
def Fmt.round (f : Fmt) (m : Nat) (e : Int) : Nat × Int × Bool :=
  if m = 0 then (0, f.emin, false)
  else
    let q := max (e + (Nat.log2 m : Int) - ((f.p : Int) - 1)) f.emin
    if q ≤ e then (m * 2 ^ (e - q).toNat, q, false)
    else
      let r := rneShift m (q - e).toNat
      (r.1, q, r.2)

/-- True where `n × 2^q` is above the largest finite value. -/
def Fmt.above (f : Fmt) (n : Nat) (q : Int) : Bool :=
  let lo := min q f.maxE
  decide (f.maxN * 2 ^ (f.maxE - lo).toNat < n * 2 ^ (q - lo).toNat)

/-- The code of a magnitude on the grid. -/
def Fmt.magCode (f : Fmt) (n : Nat) (q : Int) : Nat :=
  if f.isInt then n * 2 ^ q.toNat else if n = 0 then 0 else (q - f.emin).toNat * 2 ^ (f.p - 1) + n

/-- Gives a magnitude code its sign. -/
def Fmt.signed (f : Fmt) (neg : Bool) (c : Nat) : Nat :=
  if f.isInt then ofInt f.width (if neg then -(c : Int) else c) else if neg then c + 2 ^ (f.width - 1) else c

/-- The code of the largest finite value. -/
def Fmt.maxCode (f : Fmt) : Nat := f.magCode f.maxN (if f.isInt then 0 else f.maxE)

/-- Rounds a value into a format with its flags. `sat` says that a finite value beyond the largest finite value becomes
that value; otherwise it becomes an infinity where the format has one. -/
def Fmt.encode (f : Fmt) (sat : Bool) (v : FVal) : Nat × Nat :=
  match v with
  | .nan => if f.hasNan then (f.nanCode, 0) else (0, flInvalid)
  | .inf neg => (f.signed neg (if f.hasInf then f.infCode else f.maxCode), 0)
  | .fin neg m e =>
    let r := f.round m e
    if f.above r.1 r.2.1 then
      (f.signed neg (if f.hasInf && !sat then f.infCode else f.maxCode), flOverflow + flRounded)
    else (f.signed neg (f.magCode r.1 r.2.1), if r.2.2 then flRounded else 0)

/-- A conversion of the vector unit (R589). -/
def convert (f : Fmt) (v : FVal) : Nat × Nat := f.encode true v

/-- A value as the KV write path stores it: a NaN becomes +0 in every format and sets INVALID, the rest converts (R265, R589, R590). -/
def kvConvert (f : Fmt) (v : FVal) : Nat × Nat :=
  match v with
  | .nan => (0, flInvalid)
  | x => convert f x

/-- The result of an arithmetic operation, in its format. -/
def arith (f : Fmt) (v : FVal) : Nat × Nat := f.encode false v

/-- A signed integer times `2^e` as a value; zero is +0. -/
def ofScaled (x : Int) (e : Int) : FVal := .fin (decide (x < 0)) x.natAbs e

/-- The negated value. -/
def FVal.neg : FVal → FVal
  | .nan => .nan
  | .inf n => .inf (!n)
  | .fin n m e => .fin (!n) m e

/-- The sum, exact (R72); opposite infinities give NaN; an exact zero sum of unlike signs is +0. -/
def FVal.add : FVal → FVal → FVal
  | .nan, _ => .nan
  | _, .nan => .nan
  | .inf a, .inf b => if a = b then .inf a else .nan
  | .inf a, _ => .inf a
  | _, .inf b => .inf b
  | .fin a m e, .fin b n g =>
    let lo := min e g
    let x : Int := m * 2 ^ (e - lo).toNat
    let y : Int := n * 2 ^ (g - lo).toNat
    let z := (if a then -x else x) + (if b then -y else y)
    if z = 0 then .fin (a && b) 0 lo else ofScaled z lo

/-- The product, exact; zero times infinity gives NaN. -/
def FVal.mul : FVal → FVal → FVal
  | .nan, _ => .nan
  | _, .nan => .nan
  | .inf a, .inf b => .inf (a != b)
  | .inf a, .fin b n _ => if n = 0 then .nan else .inf (a != b)
  | .fin a m _, .inf b => if m = 0 then .nan else .inf (a != b)
  | .fin a m e, .fin b n g => .fin (a != b) (m * n) (e + g)

/-- The quotient to 64 bits beyond the divisor's with a sticky last bit, which one rounding turns into the correctly
rounded one. -/
def FVal.div : FVal → FVal → FVal
  | .nan, _ => .nan
  | _, .nan => .nan
  | .inf _, .inf _ => .nan
  | .inf a, .fin b _ _ => .inf (a != b)
  | .fin a _ e, .inf b => .fin (a != b) 0 e
  | .fin a m e, .fin b n g =>
    if n = 0 then if m = 0 then .nan else .inf (a != b)
    else
      let k := 64 + Nat.log2 n
      let q := m * 2 ^ k / n
      .fin (a != b) (2 * q + b2n (decide (m * 2 ^ k % n ≠ 0))) (e - g - k - 1)

/-- The square root, with a sticky last bit. -/
def FVal.sqrt : FVal → FVal
  | .nan => .nan
  | .inf neg => if neg then .nan else .inf false
  | .fin neg m e =>
    if m = 0 then .fin neg 0 e
    else if neg then .nan
    else
      let odd := (e % 2).toNat
      let x := m * 2 ^ (odd + 64)
      let r := Nat.sqrt x
      .fin false (2 * r + b2n (decide (r * r ≠ x))) ((e - odd - 64) / 2 - 1)

/-- True for NaN. -/
def FVal.isNan : FVal → Bool
  | .nan => true
  | _ => false

/-- The order of R74 as an integer comparison key: −Inf, negatives, −0, +0, positives, +Inf; `x` is below `y`. -/
def FVal.below : FVal → FVal → Bool
  | .nan, _ => false
  | _, .nan => false
  | .inf a, .inf b => a && !b
  | .inf a, _ => a
  | _, .inf b => !b
  | .fin a m e, .fin b n g =>
    let lo := min e g
    let x : Int := m * 2 ^ (e - lo).toNat
    let y : Int := n * 2 ^ (g - lo).toNat
    let x := if a then -x else x
    let y := if b then -y else y
    decide (x < y) || (x == y && a && !b)

/-- IEEE equality: −0 equals +0, NaN equals nothing. -/
def FVal.ieeeEq : FVal → FVal → Bool
  | .fin a m e, .fin b n g =>
    let lo := min e g
    decide (m * 2 ^ (e - lo).toNat = n * 2 ^ (g - lo).toNat) && (a == b || m == 0)
  | .inf a, .inf b => a == b
  | _, _ => false

/-- IEEE less-than. -/
def FVal.ieeeLt (x y : FVal) : Bool := x.below y && !x.ieeeEq y

/-- INVALID where a NaN results from operands none of which is NaN (R590). -/
def nanFlag (r : FVal) (ops : List FVal) : Nat := if r.isNan && ops.all (!·.isNan) then flInvalid else 0

/-- The vector and scalar MIN and MAX (R74). -/
def FVal.pick (wantLow : Bool) (x y : FVal) : FVal :=
  if x.isNan || y.isNan then .nan else if (if wantLow then y.below x else x.below y) then y else x

/-- FP32 addition of codes with its flags. -/
def fadd (a b : Nat) : Nat × Nat :=
  let x := fp32.decode a
  let y := fp32.decode b
  let r := x.add y
  let c := arith fp32 r
  (c.1, orFlags c.2 (nanFlag r [x, y]))

/-- FP32 multiplication of codes with its flags. -/
def fmul (a b : Nat) : Nat × Nat :=
  let x := fp32.decode a
  let y := fp32.decode b
  let r := x.mul y
  let c := arith fp32 r
  (c.1, orFlags c.2 (nanFlag r [x, y]))

/-- The sum of FP32 codes in the canonical order's leaf: from +0, in rising index (R75). -/
def leafSum (xs : List Nat) : Nat × Nat :=
  xs.foldl (fun acc x => let r := fadd acc.1 x; (r.1, orFlags acc.2 r.2)) (0, 0)

/-- One level of the tree of R75; each element carries the flags of its additions. -/
def treeLevel : List (Nat × Nat) → List (Nat × Nat)
  | a :: b :: rest => (let r := fadd a.1 b.1; (r.1, orFlags r.2 (orFlags a.2 b.2))) :: treeLevel rest
  | xs => xs

/-- The top of the tree after `n` levels. -/
def treeTop : Nat → List (Nat × Nat) → Nat × Nat
  | 0, xs => xs.headD (0, 0)
  | n + 1, xs => if xs.length ≤ 1 then xs.headD (0, 0) else treeTop n (treeLevel xs)

/-- Cuts a list into leaves of 64; `n` bounds their number. -/
def leaves : Nat → List Nat → List (List Nat)
  | 0, _ => []
  | n + 1, xs => if xs.isEmpty then [] else xs.take 64 :: leaves n (xs.drop 64)

/-- The FP32 sum of a logical range in the canonical order, with its flags (R75). -/
def canonFlags (xs : List Nat) : Nat × Nat :=
  let ls := (leaves xs.length xs).map leafSum
  treeTop ls.length ls

/-- The FP32 sum of a logical range in the canonical order (R75). -/
def canonSum (xs : List Nat) : Nat := (canonFlags xs).1

/-- The FP32 code of a natural number (R72). -/
def f32OfNat (n : Nat) : Nat := (arith fp32 (.fin false n 0)).1

end Sys2Proof.Machine
end

