-- ==== Sys2Proof/Machine/Vector.lean ====
section
/-!
DEFINITION. The vector unit on 256-byte operands (03 R592, Tables 3-16, 3-17; 02 R72 to R76, R589, R590, Table 2-11).
Operands and results are numbers of 2,048 bits; a lane of width w at index i is bits [w·i + w − 1 : w·i].
-/
namespace Sys2Proof.Machine

/-- Lane `i` of width `w`. -/
def laneAt (v w i : Nat) : Nat := v / 2 ^ (w * i) % 2 ^ w

/-- Packs lanes of width `w` from bit 0. -/
def packLanes (w : Nat) : List Nat → Nat
  | [] => 0
  | x :: xs => x % 2 ^ w + 2 ^ w * packLanes w xs

/-- Lanes of an operand of a format: 256 for the 8-bit and 6-bit codes, 512 for 4-bit, 128 for BF16, 64 otherwise. -/
def laneCount (c : Nat) : Nat :=
  let w := (fmtOf c).width
  if w = 6 then 256 else 2048 / w

/-- The lanes of an operand. -/
def lanesOf (c v : Nat) : List Nat := (List.range (laneCount c)).map (laneAt v (fmtOf c).width)

/-- The operands of a VOP: function, formats, integer width, sources, immediate. -/
structure VArgs where
  fn  : Nat
  fs  : Nat
  fd  : Nat
  iw  : Nat
  a   : Nat
  b   : Nat
  c   : Nat
  deriving DecidableEq, Repr

/-- All ones in a lane of width `w` where true. -/
def laneMask (w : Nat) (p : Bool) : Nat := if p then 2 ^ w - 1 else 0

/-- Adds up a list of lane results and their flags. -/
def gatherLanes (w : Nat) (rs : List (Nat × Nat)) : Nat × Nat :=
  (packLanes w (rs.map (·.1)), (rs.map (·.2)).foldl orFlags 0)

/-- Rounds a lane result into the format and adds INVALID for a NaN made from numbers (R590). -/
def laneRes (f : Fmt) (r : FVal) (ops : List FVal) : Nat × Nat :=
  let c := arith f r
  (c.1, orFlags c.2 (nanFlag r ops))

/-- Copies lane `x` unchanged, but for a NaN, which becomes the canonical one (R72, R74). -/
def lanePick (f : Fmt) (wantLow : Bool) (x y : Nat) : Nat :=
  match (f.decode x).pick wantLow (f.decode y) with
  | .nan => f.nanCode
  | r => if r = f.decode x then x else y

/-- ADD, SUB, MUL, FMA, MIN, MAX, comparisons, SELECT, DIV, SQRT of one lane. SELECT takes a lane of C as zero where its code is 0, so
that −0 counts as not zero: Table 3-17 does not say (DESIGN CHOICE, notes/assumptions/85.md). A NaN that it copies becomes the canonical
one (R72). -/
def laneArith (fn : Nat) (f : Fmt) (a b c : Nat) : Nat × Nat :=
  let x := f.decode a
  let y := f.decode b
  match fn with
  | 0 => laneRes f (x.add y) [x, y]
  | 1 => laneRes f (x.add y.neg) [x, y]
  | 2 => laneRes f (x.mul y) [x, y]
  | 3 => laneRes f ((x.mul y).add (f.decode c)) [x, y, f.decode c]
  | 4 => (lanePick f true a b, 0)
  | 5 => (lanePick f false a b, 0)
  | 6 => (laneMask f.width (x.ieeeEq y), 0)
  | 7 => (laneMask f.width (x.ieeeLt y), 0)
  | 8 => (laneMask f.width (x.ieeeLt y || x.ieeeEq y), 0)
  | 9 => (if (f.decode (if c = 0 then b else a)).isNan then f.nanCode else if c = 0 then b else a, 0)
  | 0x10 => laneRes f (x.div y) [x, y]
  | _ => laneRes f x.sqrt [x]

/-- The functions of 2-ulp accuracy on one lane: a NaN gives the canonical NaN; a logarithm or a reciprocal square root of a negative
number gives it too and sets INVALID (R590). Every other result is a fixed pattern that the manual does not give (R72;
notes/assumptions/12.md), and so are its flags. `k` is 64 times the format plus the function. -/
def laneApprox (k : Nat) (f : Fmt) (a : Nat) : Nat × Nat :=
  let x := f.decode a
  if x.isNan then (f.nanCode, 0)
  else if (k % 64 = 0x19 ∨ k % 64 = 0x1B) ∧ x.ieeeLt (.fin false 0 0) then (f.nanCode, flInvalid)
  else
    let r := (approxFn k (BitVec.ofNat 32 a)).toNat % 2 ^ f.width
    let g := (approxFn (k + 1024) (BitVec.ofNat 32 a)).toNat
    if (f.decode r).isNan then (f.nanCode, flInvalid) else (r, b2n (bit g 0) * flRounded + b2n (bit g 1) * flOverflow)

/-- log2 e and ln 2 as FP32 (R72). -/
def log2e : Nat := 0x3FB8AA3B
def ln2 : Nat := 0x3F317218

/-- EXP and LOG as exp2(x × log2 e) and log2(x) × ln 2 with the FP32 constants, each step rounded in the lanes' format (R72). -/
def laneExpLog (isExp : Bool) (k : Nat) (f : Fmt) (a : Nat) : Nat × Nat :=
  let times (x : Nat) (c : Nat) := laneRes f ((f.decode x).mul (fp32.decode c)) [f.decode x]
  if isExp then
    let m := times a log2e
    let r := laneApprox (k + 0x18) f m.1
    (r.1, orFlags m.2 r.2)
  else
    let m := laneApprox (k + 0x19) f a
    let r := times m.1 ln2
    (r.1, orFlags m.2 r.2)

/-- CVT: the first lanes of the source to the first lanes of the result, the rest zero (R589, R592). -/
def vCvt (fs fd a : Nat) : Nat × Nat :=
  let n := min (laneCount fs) (laneCount fd)
  gatherLanes (fmtOf fd).width ((List.range n).map fun i =>
    convert (fmtOf fd) ((fmtOf fs).decode (laneAt a (fmtOf fs).width i)))

/-- The largest magnitude of a block; none where it holds a NaN or an infinity. -/
def blockMax (xs : List FVal) : Option FVal :=
  xs.foldl (fun b x =>
    match b, x with
    | some m, .fin _ n e => if m.below (.fin false n e) then some (.fin false n e) else some m
    | _, _ => none) (some (.fin false 0 0))

/-- emax of an MX element type (R73). -/
def mxEmax (c : Nat) : Int :=
  match c with
  | 4 => 15
  | 3 => 8
  | 5 => 4
  | _ => 2

/-- MX quantisation of one block: its scale, its element codes and its flags (R73, R590). -/
def mxBlock (fd : Nat) (xs : List FVal) : Nat × List (Nat × Nat) :=
  match blockMax xs with
  | none => (255, xs.map fun _ => (0, if xs.any (·.isNan) then flInvalid else 0))
  | some (.fin _ m e) =>
    if m = 0 then (0, xs.map (convert (fmtOf fd)))
    else
      let k := max (-127) (min 127 (e + (Nat.log2 m : Int) - mxEmax fd))
      ((k + 127).toNat, xs.map fun x => convert (fmtOf fd) (x.mul (.fin false 1 (-k))))
  | some _ => (255, xs.map fun _ => (0, 0))

/-- MXQ: the elements of two blocks and their two scales, with the flags (R73, Table 3-17). -/
def vMxq (fs fd a : Nat) : Nat × Nat × Nat :=
  let xs := (List.range 64).map fun i => (fmtOf fs).decode (laneAt a (fmtOf fs).width i)
  let b0 := mxBlock fd (xs.take 32)
  let b1 := mxBlock fd (xs.drop 32)
  let e := gatherLanes (fmtOf fd).width (b0.2 ++ b1.2)
  (e.1, b0.1 + 256 * b1.1, e.2)

/-- RSUM: FP32 lanes as one leaf, BF16 lanes widened as two leaves and one addition (R75, R592). Lanes of any other format are converted
to FP32 under R589 and summed in the same order: R592 states the two cases only (DESIGN CHOICE, notes/assumptions/86.md). -/
def vRsum (fs a : Nat) : Nat × Nat :=
  let xs := (lanesOf fs a).map fun x => convert fp32 ((fmtOf fs).decode x)
  let r := canonFlags (xs.map (·.1))
  (r.1, (xs.map (·.2)).foldl orFlags r.2)

/-- RMAX and RMIN (R74). -/
def vExtreme (wantLow : Bool) (fs a : Nat) : Nat :=
  match lanesOf fs a with
  | [] => 0
  | x :: xs => xs.foldl (fun b y => lanePick (fmtOf fs) wantLow b y)
      (if ((fmtOf fs).decode x).isNan then (fmtOf fs).nanCode else x)

/-- RARGMAX and RARGMIN: the lowest lane that holds the extreme value, or the lowest NaN lane (R74). -/
def vArg (wantLow : Bool) (fs a : Nat) : Nat :=
  let xs := (lanesOf fs a).map (fmtOf fs).decode
  match (List.range xs.length).find? fun i => (xs.getD i .nan).isNan with
  | some i => i
  | none => (List.range xs.length).foldl (fun b i =>
      let x := xs.getD i .nan
      let y := xs.getD b .nan
      if (if wantLow then x.below y else y.below x) then i else b) 0

/-- The width of an integer lane (Table 3-16, IW). -/
def intWidth (iw : Nat) : Nat := if iw = 0 then 8 else if iw = 1 then 16 else 32

/-- The integer functions of one lane of width `w` (R592). -/
def laneInt (fn w a b : Nat) : Nat :=
  match fn with
  | 0x38 => (a + b) % 2 ^ w
  | 0x39 => (a + 2 ^ w - b) % 2 ^ w
  | 0x3A => if w ≤ b then 0 else a * 2 ^ b % 2 ^ w
  | 0x3B => if w ≤ b then 0 else a / 2 ^ b
  | 0x3C => a &&& b
  | 0x3D => a ||| b
  | 0x3E => a ^^^ b
  | _ => laneMask w (decide (toInt w a < toInt w b))

/-- PACK and UNPACK: a result that the manual does not give, free, from the whole operand (notes/assumptions/12.md). -/
def unstated (fn fs iw v : Nat) : Nat := (packFn (64 * fn + 4 * fs + iw) (BitVec.ofNat 2048 v)).toNat

/-- A vector function: DST, what SRC_C receives (MXQ only), and the flags (Table 3-17). -/
def vopRun (g : VArgs) : Nat × Option Nat × Nat :=
  let f := fmtOf g.fs
  let w := f.width
  let three := List.zip (lanesOf g.fs g.a) (List.zip (lanesOf g.fs g.b) (lanesOf g.fs g.c))
  let one := lanesOf g.fs g.a
  let k := 64 * g.fs
  let pair (r : Nat × Nat) : Nat × Option Nat × Nat := (r.1, none, r.2)
  if g.fn ≤ 9 ∨ g.fn = 0x10 ∨ g.fn = 0x11 then
    pair (gatherLanes w (three.map fun x => laneArith g.fn f x.1 x.2.1 x.2.2))
  else if 0x18 ≤ g.fn ∧ g.fn ≤ 0x1E then pair (gatherLanes w (one.map (laneApprox (k + g.fn) f)))
  else if g.fn = 0x1F ∨ g.fn = 0x20 then pair (gatherLanes w (one.map (laneExpLog (g.fn == 0x1F) k f)))
  else if g.fn = 0x28 then pair (vCvt g.fs g.fd g.a)
  else if g.fn = 0x29 then let r := vMxq g.fs g.fd g.a; (r.1, some r.2.1, r.2.2)
  else if g.fn = 0x30 then pair (vRsum g.fs g.a)
  else if g.fn = 0x31 ∨ g.fn = 0x32 then (vExtreme (g.fn == 0x32) g.fs g.a, none, 0)
  else if g.fn = 0x33 ∨ g.fn = 0x34 then (vArg (g.fn == 0x34) g.fs g.a, none, 0)
  else if 0x38 ≤ g.fn ∧ g.fn ≤ 0x3F then
    let iw := intWidth g.iw
    (packLanes iw ((List.range (2048 / iw)).map fun i => laneInt g.fn iw (laneAt g.a iw i) (laneAt g.b iw i)), none, 0)
  else if g.fn = 0x40 then
    (packLanes w (one.zipIdx.map fun x =>
      let j := laneAt g.b w x.2
      if laneCount g.fs ≤ j then 0 else laneAt g.a w j), none, 0)
  else if g.fn = 0x41 then
    (packLanes w (one.map fun _ => if laneCount g.fs ≤ g.c then 0 else laneAt g.a w g.c), none, 0)
  else (unstated g.fn g.fs g.iw g.a, none, 0)

/-- IMM broadcast to every lane in place of SRC_B (R592): converted under R589 to FMT_S, with the flags of the conversion, or the low IW
bits. -/
def broadcastImm (fn fs iw imm : Nat) : Nat × Nat :=
  if 0x38 ≤ fn ∧ fn ≤ 0x3F then (packLanes (intWidth iw) (List.replicate (2048 / intWidth iw) (imm % 2 ^ intWidth iw)), 0)
  else
    let c := convert (fmtOf fs) (fp32.decode imm)
    (packLanes (fmtOf fs).width (List.replicate (laneCount fs) c.1), c.2)

/-- Sources that a vector function reads: A, B, C (Table 3-17, R592). -/
def vReads (fn : Nat) : Bool × Bool × Bool :=
  if fn = 3 ∨ fn = 9 then (true, true, true)
  else if fn ≤ 8 ∨ fn = 0x10 ∨ (0x38 ≤ fn ∧ fn ≤ 0x40) then (true, true, false)
  else if fn = 0x29 then (true, false, true)
  else (true, false, false)

/-- The clk that a vector function needs, by Table 2-11's lanes per clk. -/
def vClk (fn fs fd : Nat) : Nat :=
  let n := laneCount fs
  if fn = 0x10 ∨ fn = 0x11 ∨ (0x1C ≤ fn ∧ fn ≤ 0x1E) then (n + 7) / 8
  else if 0x18 ≤ fn ∧ fn ≤ 0x20 then (n + 15) / 16
  else if fn = 0x28 then (min n (laneCount fd) + 63) / 64
  else if fn ≤ 9 then (n + (if fs = 9 then 127 else 63)) / (if fs = 9 then 128 else 64)
  else 1

/-- The functions of Table 3-17. -/
def vKnown (fn : Nat) : Bool :=
  decide (fn ≤ 9 ∨ fn = 0x10 ∨ fn = 0x11 ∨ (0x18 ≤ fn ∧ fn ≤ 0x20) ∨ fn = 0x28 ∨ fn = 0x29 ∨
    (0x30 ≤ fn ∧ fn ≤ 0x34) ∨ (0x38 ≤ fn ∧ fn ≤ 0x43))

end Sys2Proof.Machine
end

