-- ==== Sys2Proof/Machine/Sampler.lean ====
section
/-!
DEFINITION. The sampler: penalties, temperature, the kept tokens, Philox (10 R335 to R338), and the walk over a tree
(R334).
-/
namespace Sys2Proof.Machine

/-! ### Philox-4×32-10 (R336) -/

/-- One round: counter words and key words. -/
def philoxRound (c : List Nat) (k0 k1 : Nat) : List Nat :=
  let p0 := 0xD2511F53 * c.getD 0 0
  let p1 := 0xCD9E8D57 * c.getD 2 0
  [p1 / 2 ^ 32 ^^^ c.getD 1 0 ^^^ k0, p1 % 2 ^ 32, p0 / 2 ^ 32 ^^^ c.getD 3 0 ^^^ k1, p0 % 2 ^ 32]

/-- `n` rounds, the key bumped between them. -/
def philoxRounds : Nat → List Nat → Nat → Nat → List Nat
  | 0, c, _, _ => c
  | n + 1, c, k0, k1 =>
    philoxRounds n (philoxRound c k0 k1) ((k0 + 0x9E3779B9) % 2 ^ 32) ((k1 + 0xBB67AE85) % 2 ^ 32)

/-- The first output word for a key and a position. -/
def philox (seed position : Nat) : Nat :=
  (philoxRounds 10 [position % 2 ^ 32, position / 2 ^ 32 % 2 ^ 32, 0, 0] (seed % 2 ^ 32) (seed / 2 ^ 32 % 2 ^ 32)).getD 0 0

/-- u, as a value: (x0 >> 8) × 2^−24. -/
def uniform (seed position : Nat) : FVal := .fin false (philox seed position / 256) (-24)

/-! ### FP32 on codes (R72) -/

/-- An FP32 operation of values, rounded once. -/
def f32 (v : FVal) : Nat := (arith fp32 v).1

/-- exp on an FP32 code. -/
def f32Exp (a : Nat) : Nat := (laneExpLog true 640 fp32 a).1

/-- The order of selection: larger values first, equal values by lower index; a NaN ranks last (R74, R291). −0 ranks below +0 and is no tie with
it: R74 says so for the operations it lists, and R291 speaks of equal keys (DESIGN CHOICE, notes/assumptions/96.md). -/
def ranksBefore (x y : Nat × Nat) : Bool :=
  let u := fp32.decode x.2
  let v := fp32.decode y.2
  if u.isNan then v.isNan && decide (x.1 ≤ y.1)
  else if v.isNan then true
  else v.below u || (!u.below v && decide (x.1 ≤ y.1))

/-- Sampling parameters (Table 13-12). -/
structure SampleArgs where
  seed : Nat
  temp : Nat
  topk : Nat
  topp : Nat
  rep  : Nat
  pres : Nat
  freq : Nat
  deriving DecidableEq, Repr

/-- Penalties on one logit of a token with count `c` (R337). -/
def penalise (g : SampleArgs) (z c : Nat) : Nat :=
  if c = 0 then z
  else
    let v := fp32.decode z
    let r := fp32.decode g.rep
    let z := f32 (if (FVal.fin false 0 0).ieeeLt v then v.div r else v.mul r)
    let d := fp32.decode (f32 ((fp32.decode z).add (fp32.decode g.pres).neg))
    f32 (((fp32.decode g.freq).neg.mul (fp32.decode (f32OfNat c))).add d)

/-- The running sums s[i] of R337, each in the canonical order. -/
def runningSums (ps : List Nat) : List Nat := (List.range ps.length).map fun i => canonSum (ps.take (i + 1))

/-- The token sampled from the logits of the whole vocabulary, with the counts at its position (R337). -/
def sampleToken (g : SampleArgs) (counts : AMap Nat) (position : Nat) (logits : List W32) : Nat :=
  let z := logits.zipIdx.map fun x => (x.2, penalise g x.1.toNat (mgetD counts x.2 0))
  let t := fp32.decode g.temp
  if t.ieeeEq (.fin false 0 0) then ((z.mergeSort ranksBefore).headD (0, 0)).1
  else
    let z := z.map fun x => (x.1, f32 ((fp32.decode x.2).div t))
    let sorted := z.mergeSort ranksBefore
    let kept := if g.topk = 0 then sorted else sorted.take g.topk
    let top := fp32.decode ((kept.headD (0, 0)).2)
    let p := (kept.map fun x => (x.1, f32Exp (f32 ((fp32.decode x.2).add top.neg)))).mergeSort ranksBefore
    let s := runningSums (p.map (·.2))
    let want := fp32.decode (f32 ((fp32.decode g.topp).mul (fp32.decode (s.getLastD 0))))
    let n := (s.findIdx? fun x => !(fp32.decode x).ieeeLt want).getD (s.length - 1)
    let u := fp32.decode (f32 ((uniform g.seed position).mul (fp32.decode (s.getD n 0))))
    let i := ((s.take (n + 1)).findIdx? fun x => u.ieeeLt (fp32.decode x)).getD n
    (p.getD i (0, 0)).1

/-- Adds one to the count of each token of a list (R338). -/
def addCounts (counts : AMap Nat) (ts : List Nat) : AMap Nat := ts.foldl (fun c t => mupd c t 0 (· + 1)) counts

/-- The accepted walk over a tree (R334): from node `n` at depth `d`, the nodes of the path and the tokens sampled along
it. The counts at a node are those of the request with the drafts on its path settled (R335). -/
def walkTree (g : SampleArgs) (nodes : List (Nat × Nat)) (carried : List Nat) (logits : List (List W32)) (len : Nat) :
    Nat → AMap Nat → Nat → Nat → List Nat × List Nat
  | 0, _, _, _ => ([], [])
  | fuel + 1, counts, n, d =>
    let t := sampleToken g counts (len + d + 1) (logits.getD n [])
    match (List.range nodes.length).find? fun m => (nodes.getD m (0xFF, 0)).1 == n && decide (n < m) && carried.getD m 0 == t with
    | none => ([n], [t])
    | some m =>
      let r := walkTree g nodes carried logits len fuel (addCounts counts [t]) m (d + 1)
      (n :: r.1, t :: r.2)

end Sys2Proof.Machine
end

