-- ==== Sys2Proof/Machine/Experts.lean ====
section
/-!
DEFINITION. Routing: which experts a token selects, ties, gate weights, capacity and drops, the route table and its digests, the combine (09
R288 to R301, R307, Tables 9-1 and 9-2).
-/
namespace Sys2Proof.Machine

/-- A ROUTE region's header (Table 9-1). -/
structure RouteHead where
  layers  : Nat
  first   : Nat
  count   : Nat
  experts : Nat
  k       : Nat
  gate    : Nat
  shared  : Nat
  mode    : Nat
  bias    : Bool
  cap     : Nat
  scale   : Nat
  deriving DecidableEq, Repr

/-- Reads a header. -/
def routeHead (b : Bytes) : RouteHead :=
  { layers := fld b 2 2, first := fld b 4 2, count := fld b 6 2, experts := fld b 8 2, k := byteAt b 10,
    gate := byteAt b 11, shared := byteAt b 12, mode := byteAt b 13, bias := bit (byteAt b 14) 0, cap := fld b 16 2,
    scale := fld b 0x14 4 }

/-- Bytes of one layer's part. -/
def RouteHead.layerBytes (h : RouteHead) : Nat := ceilDiv (h.experts * (if h.bias then 6 else 2)) 64 * 64

/-- The part of layer `l` of a region. -/
def RouteHead.layer (h : RouteHead) (b : Bytes) (l : Nat) : Bytes := slice b (64 + (l - h.first) * h.layerBytes) h.layerBytes

/-- Fields in range and reserved fields zero (R288). -/
def routeOk (b : Bytes) : Bool :=
  let h := routeHead b
  fld b 0 2 == 1 && decide (1 ≤ h.layers ∧ h.layers ≤ 256) && decide (h.first < h.layers) &&
    decide (1 ≤ h.count ∧ h.count ≤ h.layers - h.first) && decide (1 ≤ h.experts ∧ h.experts ≤ 256) &&
    decide (1 ≤ h.k ∧ h.k ≤ 8 ∧ h.k ≤ h.experts) && decide (h.gate ≤ 2 ∧ h.shared ≤ 4 ∧ h.mode ≤ 1) &&
    byteAt b 14 / 2 == 0 && zeroAt b 15 1 && decide (1 ≤ h.cap ∧ h.cap ≤ 2048) && zeroAt b 18 2 && zeroAt b 0x18 40 &&
    decide (64 + h.count * h.layerBytes ≤ b.length)

/-- Headers agree but for the run of layers that each region holds (R288). -/
def sameRoute (a b : Bytes) : Bool := putBytes (slice a 0 64) 4 [0, 0, 0, 0] == putBytes (slice b 0 64) 4 [0, 0, 0, 0]

/-- The set of expert `e` in a layer's part, and its bias. -/
def setOf (part : Bytes) (e : Nat) : Nat := fld part (2 * e) 2
def biasOf (h : RouteHead) (part : Bytes) (e : Nat) : Nat := fld part (2 * h.experts + 4 * e) 4

/-- The checks of R288 on the regions of one module. -/
def routesAgree (rs : List Bytes) : Bool :=
  match rs with
  | [] => true
  | r0 :: _ =>
    let n := (routeHead r0).layers
    let held (l : Nat) := rs.filter fun r => let h := routeHead r; decide (h.first ≤ l ∧ l < h.first + h.count)
    (rs.all fun r => routeOk r && sameRoute r0 r) &&
      (List.range n).all fun l =>
        match held l with
        | [] => false
        | x :: xs => xs.all fun y => (routeHead y).layer y l == (routeHead x).layer x l

/-- The region that holds a layer. -/
def routeFor (rs : List Bytes) (l : Nat) : Option Bytes :=
  rs.find? fun r => let h := routeHead r; decide (h.first ≤ l ∧ l < h.first + h.count)

/-- The eligible experts of a token with their selection keys (R290). -/
def selectionKeys (h : RouteHead) (part : Bytes) (set : Nat) (logits : List W32) : List (Nat × Nat) :=
  ((List.range h.experts).filter fun e => setOf part e == 0 || setOf part e == set).map fun e =>
    let l := ((logits[e]?).getD 0).toNat
    (e, if h.bias then (fadd l (biasOf h part e)).1 else l)

/-- The selected experts, in decreasing key order, and whether a tie counts at the last place (R291); −0 and +0 are no tie (DESIGN CHOICE,
notes/assumptions/96.md). -/
def selectExperts (h : RouteHead) (part : Bytes) (set : Nat) (logits : List W32) : List Nat × Bool :=
  let ks := (selectionKeys h part set logits).mergeSort ranksBefore
  let sel := ks.take h.k
  let tie := match sel.getLast?, (ks.drop h.k).head? with
    | some a, some b =>
      let x := fp32.decode a.2
      let y := fp32.decode b.2
      !x.isNan && !y.isNan && !x.below y && !y.below x
    | _, _ => false
  (sel.map (·.1), tie)

/-! ### Gate weights (R292) -/

/-- The largest of some FP32 codes; a NaN among them gives NaN (R74). -/
def largest32 (ls : List Nat) : Nat := ls.tail.foldl (lanePick fp32 false) (ls.headD 0)

/-- The term of one expert in a gate: exp(l − m), or σ(l), with its flags. -/
def gateTerm (gate m l : Nat) : Nat × Nat :=
  if gate = 2 then laneApprox (640 + 0x1D) fp32 l
  else
    let x := fp32.decode l
    let y := fp32.decode m
    let d := laneRes fp32 (x.add y.neg) [x, y]
    let e := laneExpLog true 640 fp32 d.1
    (e.1, orFlags d.2 e.2)

/-- The weight of one selected expert: its term over the sum, correctly rounded, times ROUTE_SCALE with one rounding; +0 with INVALID where
its logit is NaN. -/
def gateWeight (h : RouteHead) (m : Nat) (sum : Nat) (l : Nat) : Nat × Nat :=
  if (fp32.decode l).isNan then (0, flInvalid)
  else
    let t := gateTerm h.gate m l
    let q := laneRes fp32 ((fp32.decode t.1).div (fp32.decode sum)) [fp32.decode t.1, fp32.decode sum]
    let w := laneRes fp32 ((fp32.decode q.1).mul (fp32.decode h.scale)) [fp32.decode q.1, fp32.decode h.scale]
    (w.1, orFlags t.2 (orFlags q.2 w.2))

/-- The gate weights of the selected experts, in the order of the selection, and the flags: the sum runs over the selected experts, or over
every eligible one for SOFTMAX_ALL, in the canonical order over rising index (R75, R292). The bias plays no part (R290). -/
def gateWeights (h : RouteHead) (part : Bytes) (set : Nat) (logits : List W32) (sel : List Nat) : List Nat × Nat :=
  let l (e : Nat) : Nat := ((logits[e]?).getD 0).toNat
  let summed := if h.gate = 1 then (selectionKeys h part set logits).map (·.1) else sel.mergeSort fun a b => decide (a ≤ b)
  let m := largest32 (summed.map l)
  let ts := summed.map fun e => gateTerm h.gate m (l e)
  let sum := canonFlags (ts.map (·.1))
  let ws := sel.map fun e => gateWeight h m sum.1 (l e)
  (ws.map (·.1), (ts ++ ws).foldl (fun f x => orFlags f x.2) sum.2)

/-! ### The route table (Table 9-2) -/

/-- An entry of a layer's route table: the selected experts in decreasing key order, the mask of those dropped, whether a tie counted, the
gate weights. -/
structure RouteEntry where
  slot    : Nat
  experts : List Nat
  drops   : Nat
  tie     : Bool
  weights : List Nat
  deriving DecidableEq, Repr

/-- The 48 bytes of an entry (Table 9-2). -/
def RouteEntry.bytes (e : RouteEntry) : Bytes :=
  leBytes 2 e.slot ++ leBytes 1 e.experts.length ++ leBytes 1 e.drops ++ leBytes 1 (b2n e.tie) ++ leBytes 3 0 ++
    (List.range 8).flatMap (fun i => leBytes 1 (e.experts.getD i 0xFF)) ++
    (List.range 8).flatMap fun i => leBytes 4 (e.weights.getD i 0)

/-- True where an entry keeps a row for an expert. -/
def RouteEntry.keeps (e : RouteEntry) (x : Nat) : Bool := e.experts.zipIdx.any fun y => y.1 == x && !bit e.drops y.2

/-- The slot at which a step of `n` tokens is cut into its two halves (R301). -/
def halfSlot (n : Nat) : Nat := 32 * ceilDiv n 64

/-- The entries of one half. -/
def routeHalf (es : List RouteEntry) (half : Nat) : List RouteEntry :=
  es.filter fun e => decide (halfSlot es.length ≤ e.slot) == (half == 1)

/-- The route digest of a half (R298). -/
def routeDigest (es : List RouteEntry) (half : Nat) : Nat := crc32 ((routeHalf es half).flatMap RouteEntry.bytes)

/-- The rows that a half keeps for an expert (R299). -/
def keptRows (es : List RouteEntry) (half x : Nat) : Nat := ((routeHalf es half).filter (·.keeps x)).length

/-- Blocks of 32 rows that hold a real row, which alone get MXE operations (R245, R259, R299). -/
def realBlocks (rows : Nat) : Nat := ceilDiv rows 32

/-- A token's expert output, element by element: the shared experts with weight 1.0 in rising index, then the kept routed experts in rising
index, one FMA each on a sum from +0; a dropped expert adds no element (R300). `shared` and `out` give the experts' FP32 elements. -/
def combine (e : RouteEntry) (shared : List Nat) (out : Nat → Nat) : Nat × Nat :=
  let kept := (e.experts.zipIdx.filter fun x => !bit e.drops x.2).mergeSort fun a b => decide (a.1 ≤ b.1)
  let terms := shared.map (fun y => (f32OfNat 1, y)) ++ kept.map fun x => (e.weights.getD x.2 0, out x.1)
  terms.foldl (fun acc t =>
    let w := fp32.decode t.1
    let y := fp32.decode t.2
    let a := fp32.decode acc.1
    let r := laneRes fp32 ((w.mul y).add a) [w, y, a]
    (r.1, orFlags acc.2 r.2)) (0, 0)

/-- An adapter's part of a projection: the down result in the image's FMT, by MX quantisation of each block of 32, scale and codes, for MXFP8,
and by conversion for BF16 (R307 step 2); and the up result added to the shared projection's output, shared first (R307 step 4). -/
def adapterRow (fmt : Nat) (xs : List Nat) : List (Nat × List (Nat × Nat)) :=
  if fmt = 9 then [(0, xs.map fun x => convert (fmtOf 9) (fp32.decode x))]
  else (List.range (ceilDiv xs.length 32)).map fun i => mxBlock fmt (((xs.drop (32 * i)).take 32).map fp32.decode)
def adapterAdd (shared up : Nat) : Nat × Nat := fadd shared up

/-- What the routing of one layer comes to: drops by token slot, rows kept, rows dropped, ties, idle rows, and the route table. -/
structure LayerRoute where
  drops   : List Nat
  kept    : Nat
  lost    : Nat
  ties    : Nat
  idle    : Nat
  entries : List RouteEntry
  deriving DecidableEq, Repr

/-- The drops of one token's selections, as a mask, when `acc` gives the rows that each expert has been asked for before: the first CAP are
kept (R294). -/
def dropMask (cap : Nat) (acc : AMap Nat) (sel : List Nat) : AMap Nat × Nat :=
  sel.zipIdx.foldl (fun (a : AMap Nat × Nat) e =>
    let n := mgetD a.1 e.1 0
    (mset a.1 e.1 (n + 1), a.2 + b2n (decide (cap ≤ n)) * 2 ^ e.2)) (acc, 0)

/-- The entry of a token: a dropped expert's weight is +0, and the others keep theirs (R34, R294). -/
def routeEntry (h : RouteHead) (part : Bytes) (set slot : Nat) (logits : List W32) (sel : List Nat × Bool) (mask : Nat) : RouteEntry :=
  { slot := slot, experts := sel.1, drops := mask, tie := sel.2,
    weights := (gateWeights h part set logits sel.1).1.zipIdx.map fun w => if bit mask w.2 then 0 else w.1 }

/-- Routes the tokens of a step through one layer in slot order: the first CAP rows of an expert are kept (R294, R295,
R297). `sets` gives the expert set of each slot. -/
def routeLayer (h : RouteHead) (part : Bytes) (sets : List Nat) (rows : List (List W32)) : LayerRoute :=
  let sel := (List.zip sets rows).map fun x => selectExperts h part x.1 x.2
  let run := sel.foldl (fun (acc : AMap Nat × List Nat) x =>
    let a := dropMask h.cap acc.1 x.1
    (a.1, acc.2 ++ [a.2])) ([], [])
  let kept := (run.1.map fun e => min e.2 h.cap).sum
  { drops := run.2.map fun m => ((List.range 8).filter (bit m)).length, kept := kept,
    lost := (run.1.map fun e => e.2 - min e.2 h.cap).sum, ties := (sel.filter (·.2)).length, idle := h.experts * h.cap - kept,
    entries := (List.zip (List.zip sets rows) (List.zip sel run.2)).zipIdx.map fun x =>
      routeEntry h part x.1.1.1 x.2 x.1.1.2 x.1.2.1 x.1.2.2 }

/-- True where an expert set may be opened (R293): some layer holds an expert of it, and every layer K eligible ones. -/
def setAllowed (rs : List Bytes) (set : Nat) : Bool :=
  match rs with
  | [] => set == 0
  | r0 :: _ =>
    let h0 := routeHead r0
    let parts := (List.range h0.layers).filterMap fun l => (routeFor rs l).map fun r => (routeHead r).layer r l
    let eligible (p : Bytes) := (List.range h0.experts).filter fun e => setOf p e == 0 || setOf p e == set
    (set == 0 || parts.any fun p => (List.range h0.experts).any fun e => setOf p e == set) &&
      parts.all fun p => decide (h0.k ≤ (eligible p).length)

end Sys2Proof.Machine
end

