-- ==== Sys2Proof/Machine/Mem.lean ====
section
/-!
DEFINITION. A memory: a list of address and byte pairs with rising addresses and no zero byte; an unlisted address
reads 0 (notes/assumptions/4.md).
-/
namespace Sys2Proof.Machine

/-- The byte that an unlisted address reads as. -/
def emptyByte : Byte := 0

/-- The byte at address `a`. -/
def readByte (m : List Host.Cell) (a : Nat) : Byte := mgetD m a emptyByte

/-- Writes one byte; writing what an unlisted address reads as removes the entry. -/
def writeByte (m : List Host.Cell) (a : Nat) (b : Byte) : List Host.Cell :=
  if b = emptyByte then merase m a else mset m a b

/-- The `n` bytes from address `a`. -/
def readBytes (m : List Host.Cell) (a : Nat) : Nat → Bytes
  | 0 => []
  | n + 1 => readByte m a :: readBytes m (a + 1) n

/-- Writes bytes from address `a`. -/
def writeBytes (m : List Host.Cell) (a : Nat) : Bytes → List Host.Cell
  | [] => m
  | b :: bs => writeBytes (writeByte m a b) (a + 1) bs

/-- Fills `n` bytes from address `a` with zeros. -/
def zeroBytes (m : List Host.Cell) (a n : Nat) : List Host.Cell := m.filter fun c => !(a ≤ c.1 && c.1 < a + n)

/-- Writes the listed cells one by one. -/
def writeCells (m : List Host.Cell) : List Host.Cell → List Host.Cell
  | [] => m
  | c :: cs => writeCells (writeByte m c.1 c.2) cs

/-- The canonical form: rising addresses, no entry equal to what an unlisted address reads as. -/
def memWf : List Host.Cell → Bool
  | [] => true
  | [c] => c.2 != emptyByte
  | c :: d :: m => c.2 != emptyByte && c.1 < d.1 && memWf (d :: m)

end Sys2Proof.Machine
end

