-- ==== Sys2Proof/Machine/State.lean ====
section
/-!
DEFINITION. The state of one DM24: every piece of state that spec/ gives the module, and the queue of waiting
commands. INVENTORY.md lists each field with its rule and its value at reset.
-/
namespace Sys2Proof.Machine

/-! ### Fuses and the record store (14, 16) -/

/-- Order codes (Table 0-1). -/
inductive Order where
  | lx | ls
  deriving DecidableEq, Repr

/-- Life-cycle states (Table 14-4). -/
inductive LcState where
  | blank | manufacture | provisioned | deployed | returned | scrapped
  deriving DecidableEq, Repr

/-- A fused log entry (Table 14-8). -/
structure FusedEntry where
  kind    : Nat
  value   : Nat
  tread   : Nat
  subject : BitVec 64
  deriving DecidableEq, Repr

/-- What is fused (R451, R457, Table 14-10, Table 15-5). -/
structure Fuses where
  order      : Order
  lc         : LcState
  uds        : Digest
  ownerUsed  : Nat
  svnUsed    : Nat
  repairUsed : Nat
  debugUsed  : Nat
  log        : List FusedEntry
  voltMv     : List Nat
  deriving DecidableEq, Repr

/-- An event-log or force-log record (Table 16-5); the CRC is `crc32` of its first 28 bytes. -/
structure LogRec where
  tread   : Nat
  kind    : Nat
  flags   : Nat
  context : Nat
  detail  : Bytes
  deriving DecidableEq, Repr

/-- A self-test result record (Table 16-11). -/
structure ResultRec where
  tread   : Nat
  target  : Nat
  verdict : Nat
  program : Nat
  unit    : Nat
  address : Nat
  bit     : Nat
  margin  : Int
  errors  : Nat
  deriving DecidableEq, Repr

/-- A target of a repair (Table 6-13). -/
structure Repair where
  kind    : Nat
  unit    : Nat
  address : Nat
  deriving DecidableEq, Repr

/-- The lifetime record (Table 16-7). -/
structure LifeRec where
  powerOnS    : Nat
  a0S         : Nat
  a1S         : Nat
  a2S         : Nat
  coldBoots   : Nat
  uncleanOffs : Nat
  cycles      : Nat
  tmaxC       : Int
  cleanOff    : Bool
  wearUs      : Nat
  energyJ     : Nat
  firstOnUtcS : Nat
  repairUtcS  : Nat
  repairTread : Nat
  limits      : BitVec 32
  seq         : Nat
  deriving DecidableEq, Repr

/-- The record store (R506, Table 16-4); lists hold the newest record first. `stackRows` are the T3 rows that hard post-package repair
has replaced in the stacks (R232). -/
structure Store where
  cert       : Option Bytes
  owner      : Option Digest
  repairMap  : List Repair
  stackRows  : List Repair
  life       : LifeRec
  lifeWrites : Nat
  eventLog   : List LogRec
  forceLog   : List LogRec
  resultLog  : List ResultRec
  limitTiles : List Nat
  identity   : Option (Nat × Nat)
  deriving DecidableEq, Repr

/-! ### Supply, pins, sensors (19) -/

/-- Why the converter was turned off (R573, R587). -/
inductive OffCause where
  | none | undervoltage | overvoltage | thermal
  deriving DecidableEq, Repr

/-- Supply, pins and sensors (R572, R573, R580, R586, R587). -/
structure Supply where
  on          : Bool
  pwrgood     : Bool
  off         : OffCause
  inputFell   : Bool
  perst       : Bool
  coldBoot    : Bool
  booted      : Bool
  dieC        : Int
  hbmC        : Int
  coolantFail : Bool
  brakePin    : Bool
  deriving DecidableEq, Repr

/-! ### Time base (15) -/

/-- The latest beacon of a link (R408). -/
structure Beacon where
  offset   : Int
  pulseOk  : Bool
  holdover : Bool
  loaded   : Bool
  deriving DecidableEq, Repr

/-- A TREAD_LOAD that waits for its wide pulse (R474, R596). -/
structure LoadWait where
  flight : Nat
  treads : Nat
  deriving DecidableEq, Repr

/-- The time base (Table 15-1, R472 to R479, R596, R597). -/
structure TimeBase where
  tread       : Nat
  ticks       : Nat
  loaded      : Bool
  pulseOk     : Bool
  holdover    : Bool
  mismatch    : Bool
  source      : Nat
  offset      : Int
  holdTreads  : Nat
  everLocked  : Bool
  firstEdge   : Bool
  goodEdges   : Nat
  edgeSeen    : Bool
  edgeEarly   : Bool
  pulseTread  : Option Nat
  relock      : Option Int
  slewPpm     : Int
  load        : Option LoadWait
  beaconFor   : Option Nat
  anchorTread : Nat
  anchorUtc   : Nat
  anchorWord0 : Nat
  beacons     : AMap Beacon
  deriving DecidableEq, Repr

/-! ### Operating points, caps, power (15) -/

/-- A floor request held (Table 15-4, R484, R485). -/
structure Floor where
  member  : Nat
  subject : Nat
  op      : Nat
  cause   : Nat
  seq     : Nat
  adopt   : Nat
  deriving DecidableEq, Repr

/-- A cap received (R489, R491). -/
structure CapRx where
  tread : Nat
  watts : Nat
  deriving DecidableEq, Repr

/-- Operating points, caps and power (Table 15-5, R480 to R498). -/
structure Power where
  now          : Nat
  volt         : Nat
  sliceOp      : Nat
  capW         : Nat
  capOp        : Nat
  capSeq       : Nat
  capRx        : Nat
  capRecent    : List CapRx
  capDeadlines : List Nat
  overrun      : Bool
  holdEnd      : Nat
  holdOp       : Nat
  failsafe     : Bool
  brake        : Bool
  coolantStop  : Bool
  avgLimited   : Bool
  thermal      : Bool
  pulled       : Bool
  tripOn       : Bool
  warnOn       : Bool
  warnOp       : Nat
  warnFlights  : Nat
  avgOp        : Nat
  avgChange    : Nat
  floors       : List Floor
  pending      : List Floor
  seq          : Nat
  supplyMv     : Nat
  rampTo       : Option Nat
  pwrLimit     : Nat
  windowS      : Nat
  floorLead    : Nat
  rampEn       : Bool
  rampDown     : Nat
  rampUp       : Nat
  ballastEn    : Bool
  burnW        : Nat
  envelope     : Int
  drawW        : Nat
  energyUj     : Nat
  flightEnergy : List Nat
  lastLower    : Option Nat
  pulls        : List Floor
  pullAt       : AMap Nat
  coolOk       : Nat
  coolResume   : Option Nat
  restartHold  : Bool
  deriving DecidableEq, Repr

/-! ### Lifetime and self-test (16) -/

/-- Lifetime accumulation in Newel SRAM (R511 to R514). -/
structure Life where
  cur       : LifeRec
  high      : Bool
  ext       : Option Int
  flightT   : Option Int
  flightMv  : Nat
  lastUj    : Nat
  lastTread : Nat
  sinceUs   : Nat
  deriving DecidableEq, Repr

/-- The self-test engine (Tables 16-12, 16-13, 16-15, R517 to R524). -/
structure SelfTest where
  en         : Bool
  period     : Nat
  slot       : Nat
  slotValid  : Bool
  nextSlice  : Nat
  running    : Bool
  sliceTread : Nat
  fail       : Bool
  marginal   : Bool
  passes     : Nat
  ctlProgram : Nat
  ctlBusy    : Bool
  ctlQueued  : Bool
  ctlResult  : Nat
  ctlUnit    : Nat
  deriving DecidableEq, Repr

/-! ### Trust (14) -/

/-- One key slot of a context (Table 14-15). -/
structure KeySlot where
  kind : Nat
  key  : Digest
  deriving DecidableEq, Repr

/-- One context (R419, R445, R459 to R461, R348). -/
structure Ctx where
  t2Alloc  : Nat
  t3Alloc  : Nat
  ek       : Option Digest
  slots    : AMap KeySlot
  isSealed : Bool
  vids     : AMap (Nat × Nat × Nat)
  deriving DecidableEq, Repr

/-- One object that an admission created: object, entry, kind, digest (R465). -/
structure PkgObj where
  obj    : Nat
  entry  : Nat
  kind   : Nat
  digest : Digest
  deriving DecidableEq, Repr

/-- An admitted package (R464, R465). -/
structure Pkg where
  ctx      : Nat
  manifest : Digest
  objs     : List PkgObj
  deriving DecidableEq, Repr

/-- The security mailbox (Table 14-11). -/
structure Mailbox where
  cmd    : Nat
  status : Nat
  len    : Nat
  addr   : Nat
  arg    : Nat
  result : Nat
  deriving DecidableEq, Repr

/-- Firmware, debug unlock, challenge, keys, attestation load (Tables 14-1, 14-9, 17-13). -/
structure Trust where
  fwRunning     : Bool
  fwSvn         : Nat
  measurement   : Digest
  newelDigest   : Digest
  debugUnlocked : Bool
  challenge     : Option Digest
  t3Key         : Option Digest
  loadPm        : List Nat
  deriving DecidableEq, Repr

/-! ### Host ports (13) -/

/-- A token record (Table 13-17) without its PHASE, which its slot gives. -/
structure TokRec where
  rid      : Nat
  token    : Nat
  position : Nat
  status   : Nat
  flags    : Nat
  step     : Nat
  deriving DecidableEq, Repr

/-- A host port (Table 13-8) with its event ring. -/
structure PortSt where
  present  : Bool
  up       : Bool
  cacheEn  : Bool
  eqEn     : Bool
  width    : Nat
  speed    : Nat
  eqVector : Nat
  eqIrq    : Bool
  evMask   : BitVec 8
  dbErr    : Nat
  eqLog2   : Nat
  eqAddr   : Nat
  eqHead   : Nat
  eqTail   : Nat
  eqPhase  : Bool
  eqLost   : Bool
  deriving DecidableEq, Repr

/-- A queue pair (Table 13-9, R426 to R438). -/
structure QpSt where
  sqAddr   : Nat
  sqLog2   : Nat
  en       : Bool
  sqHead   : Nat
  sqTail   : Nat
  cqAddr   : Nat
  cqLog2   : Nat
  cqHead   : Nat
  cqTail   : Nat
  cqPhase  : Bool
  cqUnsig  : Nat
  tqAddr   : Nat
  tqLog2   : Nat
  tqHead   : Nat
  tqTail   : Nat
  tqPhase  : Bool
  tqUnsig  : Nat
  cqVector : Nat
  cqIrq    : Bool
  tqVector : Nat
  tqIrq    : Bool
  count    : Nat
  delayUs  : Nat
  enable   : Nat
  held     : List TokRec
  deriving DecidableEq, Repr

/-- A memory window (Table 13-4). -/
structure HdmSt where
  en        : Bool
  write     : Bool
  cache     : Bool
  context   : Nat
  target    : Nat
  size      : Nat
  committed : Bool
  deriving DecidableEq, Repr

/-- How far a taken descriptor has come (R428, R435): still to start, started, sent on to the module that executes it
(R179); a SYNC_WAIT that is satisfied holds its value (R354). -/
inductive Stage where
  | taken | waiting
  | sent (m : Nat)
  | satisfied (value : Nat)
  deriving DecidableEq, Repr

/-- A descriptor taken and not completed (R428); `origin` names the module that took it, when that is another one
(R179). -/
structure Taken where
  origin : Option Nat
  port   : Nat
  qp     : Nat
  ctx    : Nat
  enable : Nat
  tread  : Nat
  bytes  : Bytes
  stage  : Stage
  deriving DecidableEq, Repr

/-- An answer to a CXL.mem access (Table 13-5). State holds those given since the last access was made, in order. -/
inductive CxlResp where
  | data (bs : Bytes) (poison : List Nat)
  | poison
  | written
  | dropped
  | waiting (w : Nat)
  deriving DecidableEq, Repr

/-- What waits for a Back-Invalidate response or for a MOVE (R181, R425). -/
inductive Wait where
  | cxlRead (port n offset len : Nat)
  | cxlWrite (port n offset : Nat) (data : Bytes)
  | biWrite (port n offset : Nat) (data : Bytes)
  | biRange (obj off n : Nat)
  | biClear (obj off n : Nat)
  | biMove (d : Nat)
  | biKey (d : Nat) (blob : Bytes)
  | biEvict (d : Nat)
  deriving DecidableEq, Repr

/-! ### Memory, directory, protection (05, 06) -/

/-- A memory in canonical form: addresses rising, no entry equal to zero. -/
abbrev Mem := List Host.Cell

/-- A directory entry (Table 5-4). -/
structure DirEntry where
  ctx        : Nat
  moving     : Bool
  absent     : Bool
  isSealed   : Bool
  epoch      : Nat
  modIx      : Nat
  tier       : Nat
  bound      : Nat
  stripeSize : Nat
  size       : Nat
  base       : Nat
  stripes    : Nat
  tileStep   : Nat
  moveTread  : Nat
  deriving DecidableEq, Repr

/-- A MOVE in progress (R181): its kind, descriptor, destination entry, and whether the data of a RELOCATE to another member is on its way.
Kind 5 is such a RELOCATE at its destination, whose range it reserves. -/
structure Moving where
  kind : Nat
  desc : Nat
  dest : DirEntry
  sent : Bool
  deriving DecidableEq, Repr

/-- Partner data of a forwarded MOVE, at the module that took it and at the module that executes it: the descriptor there, its bytes, how many
are to come and have come, and the places of the poisoned words (R179, Table 12-21 BUFFER; notes/assumptions/7.md). -/
structure Staging where
  desc   : Nat
  data   : Bytes
  size   : Nat
  got    : Nat
  bad    : List Nat
  status : Nat
  result : Nat
  deriving DecidableEq, Repr

/-- A leaky bucket (R221 to R225). -/
structure Bucket where
  level     : Nat
  lastWord  : Option (Nat × Nat)
  lastEvent : Option Nat
  deriving DecidableEq, Repr

/-- A poison record (Table 6-5). -/
structure PoisonRec where
  tread   : Nat
  addr    : Nat
  cause   : Nat
  words   : Nat
  unit    : Nat
  context : Nat
  deriving DecidableEq, Repr

/-- How many bits of a stored word are wrong: one, or more than the word code corrects (R212, R214). -/
inductive BadWord where
  | single | multi
  deriving DecidableEq, Repr

/-- A page rebuild in progress (R214). -/
structure Rebuild where
  tier   : Tier
  page   : Nat
  words  : List Nat
  scrub  : Bool
  deriving DecidableEq, Repr

/-- The memories, the directory and their protection. `check2` and `check3` hold the wrong words of the pages' check areas, by 2 × page +
word, and `skew2` and `skew3` the pages whose check symbols do not fit their words (R211, Table 6-2); `sramBad` and `sramPoison` the wrong
and the poisoned words of the program stores, the control SRAM and Newel SRAM (Table 6-1), by 2^20 × store + word, where stores 0 to 2,047
are the tiles' program stores; `leaked2` and `leaked3` the flights of the latest leaks (R224). -/
structure Memory where
  t1        : Mem
  t2        : Mem
  t3        : Mem
  t2Ready   : Bool
  t3Ready   : Bool
  stacksOk  : Nat
  initGib   : Nat
  poison1   : List Nat
  poison2   : List Nat
  poison3   : List Nat
  bad1      : AMap BadWord
  bad2      : AMap BadWord
  bad3      : AMap BadWord
  check2    : AMap BadWord
  check3    : AMap BadWord
  skew2     : List Nat
  skew3     : List Nat
  sramBad   : AMap BadWord
  sramPoison : List Nat
  leaked2   : Option Nat
  leaked3   : Option Nat
  dir       : AMap DirEntry
  moving    : AMap Moving
  staging   : AMap Staging
  partner   : AMap (Nat × Staging)
  buckets2  : AMap Bucket
  buckets3  : AMap Bucket
  poisonLog : List PoisonRec
  poisonLost : Bool
  t2Size    : Nat
  t3Size    : Nat
  t2Leak    : Nat
  t3Leak    : Nat
  t2Scrub   : Bool
  t3Scrub   : Bool
  t2Pass    : Nat
  t3Pass    : Nat
  scrub2    : AMap Nat
  scrub3    : AMap Nat
  rebuilds  : List Rebuild
  repKind   : Nat
  repBusy   : Bool
  repCommit : Bool
  repResult : Nat
  repUnit   : Nat
  repAddr   : Nat
  soft      : List Repair
  deriving DecidableEq, Repr

/-- A fetch descriptor in a move engine's queue (Table 5-8) and how far it has come (R193); `first` is the number in its
stream of its first unit, `asked` says that the wait of its DEP is under way at another module, and `far` is the module that
its READs have gone to. -/
structure Fetch where
  kind     : Nat
  fence    : Bool
  dep      : Option (Nat × Nat)
  asked    : Bool
  last     : Bool
  stream   : Nat
  east     : Bool
  ctx      : Nat
  obj      : Nat
  offset   : Nat
  epoch    : Nat
  tile     : Nat
  dstT2    : Bool
  bufAddr  : Nat
  length   : Nat
  first    : Nat
  issued   : Bool
  landed   : Nat
  done     : Bool
  reissued : Bool
  far      : Option Nat
  deriving DecidableEq, Repr

/-- Where a stream of units leads (R302). -/
structure StreamTo where
  member : Nat
  tile   : Nat
  num    : Nat
  east   : Bool
  deriving DecidableEq, Repr

/-- An open stream of an end port (R195, R196): its key is 128 × row + 64 × end + stream. `given` counts the units that
issued descriptors carry, `landed` those that have landed in stream order, `taken` those that the tile has taken;
`early` are units landed out of order, `out` the units that a GAL_PUT has handed to it, `due` is the clk at which its consumer's buffer
runs dry at its rate (R114), and `ahead` says that it was opened for a step not yet started (R206). A stream toward a link engine, or to
another tile of the module, names in `feeds` the member, tile, stream number and end that its units go to; `exch` says that exchange messages
arrive by it (R302). -/
structure Stream where
  rate      : Nat
  tile      : Nat
  inT2      : Bool
  base      : Nat
  slots     : Nat
  unitBytes : Nat
  given     : Nat
  landed    : Nat
  taken     : Nat
  early     : List Nat
  source    : Nat
  out       : List Bytes
  due       : Nat
  ahead     : Bool
  feeds     : Option StreamTo
  exch      : Bool
  deriving DecidableEq, Repr

/-! ### Synchronisation (11) -/

/-- Who waits on a sync object, or asked for an operation (Table 11-5). -/
inductive Who where
  | tile (t : Nat)
  | desc (d : Nat)
  | remote (src msg : Nat)
  | child (obj : Nat)
  | fetch (engine index : Nat)
  | group (key : Nat)
  | firmware
  deriving DecidableEq, Repr

/-- What a wait is for: a counter value, a generation, a semaphore count that is then taken, or room in the arrival
window for a member, which may then wait for its generation (R352 to R356). -/
inductive WaitFor where
  | value (n : Nat)
  | gen (n : Nat)
  | count (n : Nat)
  | window (member : Nat) (hold : Bool)
  deriving DecidableEq, Repr

/-- A wait in force, with the tread at which a SYNC_WAIT gives up (R354). -/
structure Waiter where
  who    : Who
  want   : WaitFor
  expiry : Option Nat
  deriving DecidableEq, Repr

/-- A member of a barrier (Table 11-3) and how many times it has arrived (R356). -/
structure BMember where
  kind     : Nat
  id       : Nat
  floor    : Bool
  modIx    : Nat
  arrivals : Nat
  deriving DecidableEq, Repr

/-- One open generation of a barrier (R356 to R358). -/
structure BGen where
  arrived  : AMap Nat
  due      : Option Nat
  released : Option Nat
  byTimer  : Bool
  timeout  : Bool
  forced   : Bool
  late     : List Nat
  lateMax  : Nat
  opened   : Option Nat
  sentUp   : Bool
  deriving DecidableEq, Repr

/-- The barrier that a barrier is a member of: its home's slice index, its physical object there, and the member
(R356, R359). -/
structure Parent where
  home   : Nat
  phys   : Nat
  member : Nat
  deriving DecidableEq, Repr

/-- An operation sent to the sync engine of member `dst` that has a result to come (R385, Table 12-5); a TAKE names its
result register. -/
structure SyncOut where
  dst : Nat
  who : Who
  gen : Nat
  reg : Option Nat
  obj : Nat := 0
  deriving DecidableEq, Repr

/-- Tiles of one wave whose wait ends when the stagger's delay has passed (R367). -/
structure Wave where
  obj   : Nat
  gen   : Nat
  wave  : Nat
  tiles : List Nat
  due   : Nat
  deriving DecidableEq, Repr

/-- A physical sync object in use (Table 11-1, R346, R352, R356, R362). -/
structure SyncObj where
  kind      : Nat
  domain    : Nat
  ctx       : Nat
  vid       : Nat
  users     : List Nat
  decl      : Bytes
  value     : Nat
  limit     : Nat
  curGen    : Nat
  baseGen   : Nat
  finished  : List Nat
  members   : List BMember
  timed     : Bool
  riser     : Bool
  waves     : Nat
  span      : Nat
  lead      : Nat
  period    : Nat
  timeout   : Nat
  skewLimit : Nat
  base      : Option Nat
  oldest    : Nat
  gens      : AMap BGen
  waiters   : List Waiter
  parent    : Option Parent
  deriving DecidableEq, Repr

/-- A release record (Table 11-8). -/
structure RelRec where
  tread   : Nat
  context : Nat
  vid     : Nat
  gen     : Nat
  late    : List Nat
  skew    : Nat
  maxLate : Nat
  flags   : Nat
  slowest : Nat
  deriving DecidableEq, Repr

/-- `SYNC_FORCE` (Table 11-9). -/
structure SyncForce where
  object : Nat
  action : Nat
  result : Nat
  value  : Nat
  deriving DecidableEq, Repr

/-! ### Links and the slice (12) -/

/-- A GT packet (Tables 12-4 and 12-6). -/
structure Packet where
  ty       : Nat
  first    : Bool
  last     : Bool
  ackv     : Bool
  detoured : Bool
  ece      : Bool
  vck      : Nat
  cls      : Nat
  hops     : Nat
  dst      : Nat
  src      : Nat
  ctx      : Nat
  lsn      : Nat
  ack      : Nat
  msgId    : Nat
  pkt      : Nat
  crVc     : Nat
  credits  : Nat
  target   : Bytes
  poison   : List Nat
  payload  : Bytes
  /-- The model's own mark, which no frame carries: the packet has been counted in DETOUR_WAIT (R411). -/
  waited   : Bool := false
  deriving DecidableEq, Repr

/-- A frame in the retry buffer (R383). -/
structure TxFrame where
  lsn   : Nat
  pkt   : Packet
  sends : Nat
  deriving DecidableEq, Repr

/-- The attested hello of one link (R393 to R396). -/
structure Hello where
  nonce     : Digest
  ekSeed    : Digest
  txNs      : Nat
  rxNs      : Nat
  peerA     : Option Bytes
  shared    : Option Digest
  nonces    : Bytes
  sentTread : Nat
  deriving DecidableEq, Repr

/-- One network link (Tables 12-9 to 12-14, R376, R377, R382, R383, R390, R375). `owed` are credits to be returned by
virtual channel, `downAt` the tread of the last entry to DOWN. -/
structure LinkSt where
  en         : Bool
  mode       : Nat
  degradeEn  : Bool
  vlanEn     : Bool
  vlanId     : Nat
  pcp        : Nat
  ecnEn      : Bool
  retryUs    : Nat
  retryLimit : Nat
  role       : Nat
  face       : Nat
  state      : Nat
  lanes      : Nat
  cause      : Nat
  peerIndex  : Nat
  peerLink   : Nat
  delay      : Nat
  downs      : Nat
  udpPort    : Nat
  srcBase    : Nat
  msEn       : Bool
  an         : Nat
  replayWin  : Nat
  keyN       : Nat
  sak        : Option Digest
  pn         : Nat
  rxAn       : Nat
  txLsn      : Nat
  rxLsn      : Nat
  nakSent    : Bool
  unacked    : Nat
  retry      : List TxFrame
  credits    : List Nat
  owed       : List Nat
  downAt     : Nat
  sendEce    : Bool
  rate64     : Nat
  hello      : Option Hello
  sentHello  : List Bytes
  sentAck    : Option Nat
  sentBeacon : Option Bytes
  deriving DecidableEq, Repr

/-- A member entry of the slice record (Table 12-15). -/
structure SliceMember where
  identity : Digest
  role     : Nat
  x        : Nat
  y        : Nat
  z        : Nat
  hall     : Bool
  deriving DecidableEq, Repr

/-- The slice record held (Table 12-15). -/
structure SliceRec where
  digest      : Digest
  plain       : Bool
  sliceId     : Nat
  epoch       : Nat
  dx          : Nat
  dy          : Nat
  dz          : Nat
  hallPrefix  : Nat
  measurement : Digest
  members     : List SliceMember
  deriving DecidableEq, Repr

/-- One link as a member reports it (Table 12-22). -/
structure PeerLink where
  state     : Nat
  lanes     : Nat
  full      : Bool
  peerIndex : Nat
  peerLink  : Nat
  deriving DecidableEq, Repr

/-- The latest LINK_STATE of a member (R410). -/
structure PeerState where
  seq   : Nat
  links : List PeerLink
  deriving DecidableEq, Repr

/-- Why a message was sent, and so who is told of its end (Table 17-9). -/
inductive MsgWhy where
  | firmware
  | tile (t : Nat)
  | desc (d : Nat)
  | fetch (engine index : Nat)
  | cxl (w : Nat)
  deriving DecidableEq, Repr

/-- A message sent and not yet delivered (R385, R388, R389), with what it carries, which a REDIRECT sends again (R176); `bad` are the places
of its poisoned words. -/
structure Msg where
  dst    : Nat
  ctx    : Nat
  ty     : Nat
  left   : List Nat
  sent   : Nat
  why    : MsgWhy
  target : Bytes
  body   : Bytes
  bad    : List Nat
  deriving DecidableEq, Repr

/-- An answer record held for a DONE frame (Table 12-5). -/
structure DoneRec where
  msg    : Nat
  pkt    : Nat
  status : Nat
  deriving DecidableEq, Repr

/-- A packet accepted from link `link` that waits for its row. -/
structure RxPacket where
  link : Nat
  pkt  : Packet
  deriving DecidableEq, Repr

/-- A BIND received from another member (Table 12-21): what it says of a group and instance of a context. -/
structure BindRx where
  ctx   : Nat
  group : Nat
  inst  : Nat
  uid   : Nat
  table : Digest
  deriving DecidableEq, Repr

/-- The network and the slice. `gone` are the unreachable members, `detours` the destinations that detours lead to (R411),
`stopRx` the slice stop that waits for its tread: cause, member, earlier fault, and `recovery` the tread of the first
fault of a recovery (R549). -/
structure Net where
  links     : AMap LinkSt
  index     : Nat
  record    : Option SliceRec
  rx        : AMap RxPacket
  rxNext    : Nat
  out       : List Packet
  msgs      : AMap Msg
  msgNext   : Nat
  seen      : AMap (List Nat)
  doneHeld  : AMap (List DoneRec)
  peers     : AMap PeerState
  stateSeq  : Nat
  gone      : List Nat
  detours   : List Nat
  closing   : Bool
  stopTread : Option Nat
  stopRx    : Option (Nat × Nat × Nat)
  recovery  : Option Nat
  binds     : List BindRx
  deriving DecidableEq, Repr

/-! ### I3C, power state, faults, debug, telemetry (17, 18, 19) -/

/-- The I3C target (R583 to R585); `answer` is what the last read returned. -/
structure I3c where
  dynAddr   : Option Nat
  ibiEn     : Bool
  remove    : Bool
  removeOk  : Bool
  removeNot : Bool
  index     : Nat
  answer    : Bytes
  notes     : List Nat
  sent      : List Nat
  deriving DecidableEq, Repr

/-- `PSTATE_CTL` (Table 17-5) and the idle count of R529; `busy` says that a lane fired, a step started or a scan ran in the
present tread. -/
structure Pstate where
  target     : Nat
  autoA1     : Bool
  state      : Nat
  result     : Nat
  idleTreads : Nat
  idle       : Nat
  deriving DecidableEq, Repr

/-- Resets and faults (Tables 17-3, 17-14, R553, R554): `restarting` while Newel restarts, `restarted` the tick at which its last
restart began, `holdOp0` that OP0 is held until a warm reset. -/
structure Faults where
  lastReset    : Nat
  sliceStopped : Bool
  faulted      : Bool
  newelWdog    : Bool
  warmReq      : Bool
  secondFault  : Bool
  cause        : Nat
  stopTread    : Nat
  restarting   : Bool
  restarted    : Option Nat
  holdOp0      : Bool
  deriving DecidableEq, Repr

/-- `SCAN_CTL`, `STALL_WIN`, `QDEPTH_SAMPLE_CFG`, `LOG_CTL` (Tables 18-10 to 18-12, 16-6); `qdLast` is the tick of the last
queue-depth sample. -/
structure Debug where
  scanCmd    : Nat
  scanBusy   : Bool
  scanResult : Nat
  scanBay    : Bool
  scanTile   : Nat
  scanBayIx  : Nat
  scanAddr   : Nat
  stallTile  : Nat
  qdEn       : Bool
  qdAll      : Bool
  qdPeriod   : Nat
  qdTile     : Nat
  qdLog2     : Nat
  qdAddr     : Nat
  qdHead     : Nat
  qdTail     : Nat
  qdLast     : Option Nat
  logSel     : Nat
  logIndex   : Nat
  deriving DecidableEq, Repr

/-- A hardware-extended counter with firmware's two values (Table 16-2, R501). -/
structure HwCtr where
  count    : Nat
  epoch    : Nat
  half     : Bool
  wrapped  : Bool
  ext      : Nat
  extEpoch : Nat
  deriving DecidableEq, Repr

/-! ### Tiles (02, 03) -/

/-- A queue entry with its sideband (R86); `fresh` marks one that arrived in this clk (R90), `poison` its poisoned words, one bit for
each 8 bytes (R219). -/
structure Entry where
  val    : Nat
  side   : Nat
  fresh  : Bool
  poison : Nat
  deriving DecidableEq, Repr

/-- One queue of a tile (R80, R83, R100 to R104). The ring's entries rest in T1; `returns` holds the entries on their
way back with the clk they still need; `taken` the destinations that have taken the head. -/
structure Queue where
  hw       : List Entry
  ringBase : Nat
  ringSize : Nat
  ringHead : Nat
  ringCnt  : Nat
  returns  : List (Entry × Nat)
  taken    : List Nat
  owed     : Bool
  deriving DecidableEq, Repr

/-- One accumulator (R56, R66, R70): `v` is V, or the FP32 code for a BF16 pair. -/
structure Acc where
  v       : Int
  eb      : Int
  smax    : Int
  inexact : Bool
  nan     : Bool
  posInf  : Bool
  negInf  : Bool
  empty   : Bool
  count   : Nat
  deriving DecidableEq, Repr

/-- An accumulator bank (R51): its format pair and its accumulators by 32 × row + column. -/
structure Bank where
  fmtA : Nat
  fmtB : Nat
  accs : AMap Acc
  deriving DecidableEq, Repr

/-- An operation in progress (R52, R97, R124): its instruction word, its addresses resolved, and how much of it is done: K elements of
an MXE_OP, 32-byte beats of a T2 path move, T1 beats of a gallery transfer. `clk` are the clk that it waits before its next step. -/
structure OpSt where
  word : InstrWord
  done : Nat
  clk  : Nat
  deriving DecidableEq, Repr

/-- A lane of the local sequencer (R89, R91, R99); `op` is its operation in progress, and `syncing` says that the lane waits for it,
a SYNC. `busy` are the clk that its unit still needs for an operation of several clk, and `served` what the T1 banks have served of the
instruction at its program counter (R38): 65,536 × whole accesses + the banks of the next. `waits` is what kept the lane from firing in
this clk: causes of Table 3-9, and 16 + l for a wait on what lane l owns; `cause` is the one that it counted last (R117, R118). -/
structure LaneSt where
  pc        : Nat
  halted    : Bool
  trapped   : Bool
  evaluated : Bool
  op        : Option OpSt
  syncing   : Bool
  cause     : Option Nat
  busy      : Nat
  served    : Nat
  waits     : List Nat
  deriving DecidableEq, Repr

/-- What a scan image holds of a tile (Table 3-12), its counters apart, and the drain in progress: the operation that drains and the clk
left (R52, R53). -/
structure TileCore where
  lanes     : List LaneSt
  lc        : List Nat
  lc0       : List Nat
  flags     : W32
  flags0    : W32
  s         : AMap W64
  v         : AMap V2048
  queues    : AMap Queue
  bank0     : Bank
  bank1     : Bank
  drain     : Option OpSt
  stepFlags : Nat
  epoch     : Nat
  wdog      : Nat
  freeze    : Nat
  deriving DecidableEq, Repr

/-- What a harness sets in a tile: program store, lane segments, sources of output queues, initial counters and flags
(R82, R88, R93). -/
structure TileCfg where
  prog   : AMap InstrWord
  segs   : List (Nat × Nat)
  outSrc : AMap Nat
  toLane : List Nat
  lcInit : List Nat
  fInit  : W32
  sInit  : List W64
  deriving DecidableEq, Repr

/-- One tile. `pre` holds its queues as they were at the start of the clk, once one of them has changed in it (R90), and `used` the T1
banks that this clk's accesses have taken, by requester of R38. -/
structure TileSt where
  core     : TileCore
  cfg      : TileCfg
  inst     : Option Nat
  rel      : Nat
  frozen   : Bool
  config   : Bool
  progress : Bool
  stalled  : Bool
  seq      : Nat
  pre      : Option (AMap Queue)
  used     : List (Nat × Nat)
  park     : Option TileCore
  capture  : Option TileCore
  deriving DecidableEq, Repr

/-! ### Harnesses, overlays, instances (04) -/

/-- A registered harness and its copy in the image store (R134 to R137); `pkg` names the package it came from. -/
structure Harness where
  ctx   : Nat
  uid   : Nat
  image : Bytes
  pkg   : Option Nat
  deriving DecidableEq, Repr

/-- A registered overlay (R146). -/
structure Overlay where
  ctx   : Nat
  base  : Nat
  uid   : Nat
  image : Bytes
  pkg   : Option Nat
  deriving DecidableEq, Repr

/-- Switch states in which a step of the table ends (Table 4-11); IDLE is no switch, and CLEARING passes at once. -/
inductive SwState where
  | staging | armed | draining | freezing | parking | applying
  deriving DecidableEq, Repr

/-- A switch in progress (Tables 4-10, 4-11): its descriptor, the mode in use, the tread at which draining began, the
bays applied, and STALE_EPOCH and DISCARDED of the instance when the command began (R149). -/
structure Switch where
  state    : SwState
  overlay  : Nat
  mode     : Nat
  fallback : Nat
  limit    : Nat
  commit   : Nat
  desc     : Nat
  since    : Nat
  applied  : Nat
  stale    : Nat
  discard  : Nat
  deriving DecidableEq, Repr

/-- An unbind that waits for its region to drain (R144). -/
structure Unbind where
  desc    : Nat
  stale   : Nat
  discard : Nat
  deriving DecidableEq, Repr

/-- A VALID page table entry (Table 8-3); `dest` is the frame in the other tier while MOVING. -/
structure KvPage where
  frame : Nat
  inT3  : Bool
  dest  : Option Nat
  prov  : Bool
  deriving DecidableEq, Repr

/-- An entry of a step's lengths table (Table 8-4, Table 12-23); `nodes` are PARENT and DEPTH of a tree, `toks` the
tokens of a chunk or the pending token, and `ends` says that the chunk ends its prompt. -/
structure PEntry where
  inst  : Nat
  req   : Nat
  chunk : Bool
  nodes : List (Nat × Nat)
  first : Nat
  len   : Nat
  pages : List KvPage
  toks  : List Nat
  ends  : Bool
  set   : Nat
  deriving DecidableEq, Repr

/-- The plan of a step (R316, R323, Table 12-23); `msgs` are its messages that no member has answered yet. -/
structure Plan where
  stepNo  : Nat
  gen     : Nat
  entries : List PEntry
  msgs    : List Nat
  reached : Option Nat
  deriving DecidableEq, Repr

/-- What of an instance's step is still to start: layer-group passes, and by relative tile of the first stage its micro-batches
(R132, R205). -/
structure Work where
  passes : Nat
  micro  : AMap Nat
  deriving DecidableEq, Repr

/-- A harness instance (R138). `overlay` is 0 where none is in force; `failed` holds the status of a step that ended
early; `bound` are the objects that its bind resolved (R185); `roles` the role, object and offset of each entry of its
binding table (R140), `parkRun` its part of a step that a SAVE switch parked (Table 4-11), and `table` the digest of its
binding table (Table 12-21). -/
structure Inst where
  ctx     : Nat
  uid     : Nat
  group   : Nat
  first   : Nat
  bays    : Nat
  wdog    : Nat
  overlay : Nat
  parked  : Option Nat
  stalled : Bool
  sw      : Option Switch
  unbind  : Option Unbind
  bound   : List Nat
  stepGen : Nat
  stepNo  : Nat
  running : Bool
  failed  : Option Nat
  startAt : Nat
  roles   : List (Nat × Nat × Nat)
  parkRun : Option Plan
  work     : Work
  parkWork : Work
  table   : Digest
  deriving DecidableEq, Repr

/-- A CTX_SAVE in progress (R157 to R159): `msgs` are the messages of its send fence, `base` STALE_EPOCH and DISCARDED by
instance when it began, `cc` CC_SIZE by instance, `lost` that a message ended with E_UNREACHABLE, `writing` that the
save area is on its way to its home. -/
structure Save where
  ctx     : Nat
  obj     : Nat
  off     : Nat
  freeze  : Nat
  unbind  : Bool
  frozen  : Bool
  writing : Bool
  lost    : Bool
  poison  : Bool
  msgs    : List Nat
  base    : AMap (Nat × Nat)
  cc      : AMap Nat
  deriving DecidableEq, Repr

/-- A CTX_RESTORE whose freeze is held until its tread (R160). -/
structure Restore where
  ctx    : Nat
  insts  : List Nat
  resume : Nat
  deriving DecidableEq, Repr

/-! ### The serving loop (07 to 10) -/

/-- Request states (Table 10-3). -/
inductive ReqState where
  | prefill | decode | held | ended
  deriving DecidableEq, Repr

/-- What a sealed request holds (R468 to R470): its key RK, session, turn, trailer address, and the turn's ciphertext. -/
structure SealSt where
  key     : Digest
  sid     : Bytes
  turn    : Nat
  trailer : Nat
  cipher  : Bytes
  deriving DecidableEq, Repr

/-- A request as its admitting module holds it (R316): the queue pair that its records go to and the position of the
next one; none before the first record of a turn. Records of positions below `seen` have been written before (R344). -/
structure Admit where
  port    : Nat
  qp      : Nat
  next    : Option Nat
  seen    : Nat
  sealing : Option SealSt
  deriving DecidableEq, Repr

/-- A request as its lead holds it (R315 to R343, Table 13-12). `left` are the prompt tokens not yet in a step, `toks`
what the request buffer holds (R317, R546), `share` its bytes there, `got` the prompt tokens that have reached it, `kept` the
tokens kept in this turn. -/
structure Req where
  state   : ReqState
  params  : Bytes
  admitter   : Nat
  inst    : Nat
  left    : List Nat
  toks    : List Nat
  share   : Nat
  len     : Nat
  pend    : Option Nat
  counts  : AMap Nat
  maxNew  : Nat
  kept    : Nat
  ttftAt  : Option Nat
  tbtAt   : Option Nat
  tokened : Bool
  admitAt : Nat
  openAt  : Nat
  adapter : Option Nat
  pages   : List KvPage
  drops   : Nat
  status  : Nat
  cancels : List Nat
  closer  : Option Nat
  lastIn  : Nat
  lost    : Bool
  got     : Nat
  deriving DecidableEq, Repr

/-- What a group counts in one flight for its role evaluation (R329). -/
structure FlightCnt where
  tbtMiss : Nat
  settles : Nat
  chunked : Nat
  deriving DecidableEq, Repr

/-- A page stream whose fetches were posted while the step before was running: instance, pool index, pass, request, tile-group member,
tile, stream number, end, buffer and the fetches posted (R206, R275). -/
structure PageStream where
  inst   : Nat
  idx    : Nat
  max_   : Bool
  req    : Nat
  member : Nat
  at_    : Nat × Nat × Nat
  fs     : List (Nat × Nat × Nat)
  deriving DecidableEq, Repr

/-- A serving group (R314 to R330): its key is 256 × context + number. `kv` are the bytes of the KV layout object,
`pools` the pool objects by 65,536 × tier + pool index, `bar` its step barrier at the lead, `early` START_LEAD,
`release` a released generation whose step has not started, `freed` the frames freed since the last plan, `owed` that its arrival waits for
firmware's writes (R203), `pre` the page streams posted ahead (R206). -/
structure Group where
  ctx      : Nat
  num      : Nat
  model    : Nat
  kv       : Bytes
  layout   : Nat
  pools    : AMap Nat
  chunkMax : Nat
  lead     : Nat
  early    : Nat
  hold     : Nat
  base     : Nat
  perToken : Nat
  decOv    : Nat
  preOv    : Nat
  bar      : Nat
  reqs     : AMap Req
  stepNo   : Nat
  gen      : Nat
  chunk    : Nat
  plan     : Option Plan
  run      : Option Plan
  startAt  : Nat
  release  : Option Nat
  bare     : Option Nat
  perSum   : Nat
  perCnt   : Nat
  flights  : AMap FlightCnt
  movedAt  : Nat
  freed    : List (Nat × Nat × KvPage)
  owed     : Bool
  pre      : List PageStream
  deriving DecidableEq, Repr

/-- An adapter version (R309 to R312): its state 0 LOADING, 1 READY, 2 RETIRING; its homes by member; `wait` the
members whose share is still to be placed, `desc` the ADAPTER_LOAD, `head` its image's header (Table 9-5). -/
structure AdVer where
  ctx     : Nat
  id      : Nat
  version : Nat
  owner   : Nat
  state   : Nat
  refs    : Nat
  homes   : List (Nat × Nat)
  wait    : List Nat
  desc    : Nat
  failed  : Nat
  head    : Bytes
  deriving DecidableEq, Repr

/-- A RUN_GRAPH taken and not completed (Table 13-11, R255): its instance, start tread, operation records, and whether
its work has been handed out, or is parked with its instance's state. -/
structure Graph where
  inst    : Nat
  start   : Nat
  records : Bytes
  tables  : AMap Bytes
  running : Bool
  parked  : Bool
  deriving DecidableEq, Repr

/-- What an admitting module waits for: the owner's answer to a binding, the lead's answer, the delivery of the prompt,
the lead's answer to a sealed REQ_APPEND, or the owner's answer to a retirement (R310, R312, R316, R317, R468). -/
inductive FwdStage where
  | binding | asked
  | prompt (rid : Nat)
  | append (rid : Nat)
  | retiring
  deriving DecidableEq, Repr

/-- A request that an admitting module has forwarded, by FWD_ID (R316, Table 12-21). -/
structure Fwd where
  desc    : Nat
  stage   : FwdStage
  group   : Nat
  params  : Bytes
  prompt  : Bytes
  sealing : Option SealSt
  deriving DecidableEq, Repr

/-- The number, and the request, adapter and sync state of one saved instance (Table 4-14), which the save area's control-core part
stands for; its tiles' streams and the fetches not yet issued, by engine; and the DIGEST of its save area. -/
structure CcState where
  num      : Nat
  inst     : Inst
  group    : Option Group
  admits   : AMap Admit
  adapters : AMap AdVer
  objs     : AMap SyncObj
  vids     : AMap (Nat × Nat × Nat)
  waves    : List Wave
  graphs   : AMap Graph
  streams  : AMap Stream
  fetches  : List (Nat × Fetch)
  digest   : Digest
  deriving DecidableEq, Repr

/-- What a module's firmware reads from the control-core part of a save area that another module's firmware wrote: the layout is firmware's
(Table 4-14, R160; notes/assumptions/14.md). -/
opaque ccRead : Bytes → Option CcState

/-! ### The whole module -/

/-- The state of the module and the commands that wait, first in first out. `snaps` holds, by TELEMETRY_SNAP descriptor, the tick
of the tread at which its sets are latched (R440). -/
structure State where
  fuses   : Fuses
  store   : Store
  sup     : Supply
  time    : TimeBase
  pw      : Power
  life    : Life
  st      : SelfTest
  tr      : Trust
  mb      : Mailbox
  ctxs    : AMap Ctx
  pkgs    : AMap Pkg
  qpOwner : AMap Nat
  winOwn  : AMap Nat
  split   : Nat
  splitOn : Nat
  ports   : AMap PortSt
  qps     : AMap QpSt
  hdm     : AMap HdmSt
  taken   : AMap Taken
  takes   : Nat
  msix    : List (Nat × Nat)
  cxlResp : List CxlResp
  waits   : AMap Wait
  pmem    : AMap Mem
  pmemBad : AMap (List Nat)
  mem     : Memory
  movers  : AMap (List Fetch)
  streams : AMap Stream
  tiles   : AMap TileSt
  harn    : AMap Harness
  overs    : AMap Overlay
  insts   : AMap Inst
  saves   : AMap Save
  rests   : AMap Restore
  ccs     : AMap CcState
  /-- Credits of exchange senders that differ from the schedule's (R303). -/
  credits : AMap Nat
  groups  : AMap Group
  admits  : AMap Admit
  adapters : AMap AdVer
  everLoaded : List (Nat × Nat)
  graphs  : AMap Graph
  fwds    : AMap Fwd
  fwdNext : Nat
  objs    : AMap SyncObj
  syncOut : AMap SyncOut
  waves   : List Wave
  relRecs : List RelRec
  sf      : SyncForce
  net     : Net
  i3c     : I3c
  ps      : Pstate
  flt     : Faults
  dbg     : Debug
  snaps   : AMap Nat
  hwc     : AMap HwCtr
  fwc     : AMap Nat
  evPend  : List LogRec
  clk     : Nat
  clks    : Nat
  /-- W1C bits that hardware has set in the present clk (R21): 0 LOST, 1 MISMATCH, 2 FAIL, 3 MARGINAL, 4 NEWEL_WDOG, 5 SECOND_FAULT. -/
  w1c     : List Nat
  /-- A step has started, or a lane has fired, in the present tread: the module is not idle in it (the model's own note). -/
  busy    : Bool
  fv      : Nat
  pending : List Instr
  deriving DecidableEq, Repr

/-! ### Reset -/

/-- Voltages of Table 15-2, mV by operating point. -/
def tableVolt : List Nat := [620, 630, 640, 650, 665, 680, 695, 710, 725, 745, 765, 785, 805, 830, 845, 860]

/-- A lifetime record that nothing has been added to. -/
def LifeRec.zero : LifeRec :=
  { powerOnS := 0, a0S := 0, a1S := 0, a2S := 0, coldBoots := 0, uncleanOffs := 0, cycles := 0, tmaxC := 0,
    cleanOff := false, wearUs := 0, energyJ := 0, firstOnUtcS := 0, repairUtcS := 0, repairTread := 0,
    limits := 0, seq := 0 }

/-- Fuses of a module that has never been given a life-cycle state (notes/assumptions/2.md). -/
def Fuses.reset : Fuses :=
  { order := .lx, lc := .blank, uds := 0, ownerUsed := 0, svnUsed := 0, repairUsed := 0, debugUsed := 0, log := [],
    voltMv := tableVolt }

/-- An empty record store (notes/assumptions/2.md). -/
def Store.reset : Store :=
  { cert := none, owner := none, repairMap := [], stackRows := [], life := .zero, lifeWrites := 0, eventLog := [], forceLog := [],
    resultLog := [], limitTiles := [], identity := none }

/-- Powered, with PWRGOOD asserted and PERST_N held by the tray (Table 17-7 step 3). -/
def Supply.reset : Supply :=
  { on := true, pwrgood := true, off := .none, inputFell := false, perst := true, coldBoot := true, booted := false,
    dieC := 25, hbmC := 25, coolantFail := false, brakePin := false }

/-- Table 15-1. -/
def TimeBase.reset : TimeBase :=
  { tread := 0, ticks := 0, loaded := false, pulseOk := false, holdover := false, mismatch := false, source := 0,
    offset := 0, holdTreads := 0, everLocked := false, firstEdge := false, goodEdges := 0, edgeSeen := false,
    edgeEarly := false, pulseTread := none, relock := none, slewPpm := 0, load := none, beaconFor := none, anchorTread := 0,
    anchorUtc := 0, anchorWord0 := 0, beacons := [] }

/-- Table 15-5. -/
def Power.reset : Power :=
  { now := 0, volt := 0, sliceOp := 0, capW := 0xA8C, capOp := 0xF, capSeq := 0, capRx := 0, capRecent := [],
    capDeadlines := [], overrun := false, holdEnd := 0, holdOp := 15, failsafe := false, brake := false,
    coolantStop := false, avgLimited := false, thermal := false, pulled := false, tripOn := false, warnOn := false,
    warnOp := 15, warnFlights := 0, avgOp := 15, avgChange := 0, floors := [], pending := [], seq := 0,
    supplyMv := 620, rampTo := none, pwrLimit := 0x960, windowS := 5, floorLead := 8, rampEn := true,
    rampDown := 0x1F4, rampUp := 0x3E8, ballastEn := true, burnW := 0, envelope := 0, drawW := 0, energyUj := 0,
    flightEnergy := [], lastLower := none, pulls := [], pullAt := [], coolOk := 0, coolResume := none,
    restartHold := false }

/-- R513. -/
def Life.reset : Life :=
  { cur := .zero, high := false, ext := none, flightT := none, flightMv := 0, lastUj := 0, lastTread := 0,
    sinceUs := 0 }

/-- Tables 16-12, 16-13, 16-15. -/
def SelfTest.reset : SelfTest :=
  { en := true, period := 0x40, slot := 0, slotValid := false, nextSlice := 0, running := false, sliceTread := 0,
    fail := false, marginal := false, passes := 0, ctlProgram := 0, ctlBusy := false, ctlQueued := false,
    ctlResult := 0, ctlUnit := 0 }

/-- Table 14-9. -/
def Trust.reset : Trust :=
  { fwRunning := false, fwSvn := 0, measurement := 0, newelDigest := 0, debugUnlocked := false, challenge := none,
    t3Key := none, loadPm := [0, 0, 0, 0] }

/-- Table 14-11. -/
def Mailbox.reset : Mailbox := { cmd := 0, status := 0, len := 0, addr := 0, arg := 0, result := 0 }

/-- Table 13-8. -/
def PortSt.reset : PortSt :=
  { present := false, up := false, cacheEn := false, eqEn := false, width := 0, speed := 0, eqVector := 0,
    eqIrq := false, evMask := 0xFE, dbErr := 0, eqLog2 := 0, eqAddr := 0, eqHead := 0, eqTail := 0, eqPhase := true,
    eqLost := false }

/-- Table 13-9. -/
def QpSt.reset : QpSt :=
  { sqAddr := 0, sqLog2 := 0, en := false, sqHead := 0, sqTail := 0, cqAddr := 0, cqLog2 := 0, cqHead := 0,
    cqTail := 0, cqPhase := true, cqUnsig := 0, tqAddr := 0, tqLog2 := 0, tqHead := 0, tqTail := 0, tqPhase := true,
    tqUnsig := 0, cqVector := 0, cqIrq := false, tqVector := 0, tqIrq := false, count := 1, delayUs := 0,
    enable := 0, held := [] }

/-- Table 13-4. -/
def HdmSt.reset : HdmSt :=
  { en := false, write := false, cache := false, context := 0, target := 0, size := 0, committed := false }

/-- A leaky bucket at cold power-on (R221). -/
def Bucket.reset : Bucket := { level := 0, lastWord := none, lastEvent := none }

/-- Tables 6-6, 6-7, 6-8, 6-10, 6-13, 18-8, 18-9; memory with nothing listed (notes/assumptions/4.md). -/
def Memory.reset : Memory :=
  { t1 := [], t2 := [], t3 := [], t2Ready := false, t3Ready := false, stacksOk := 0, initGib := 0, poison1 := [],
    poison2 := [], poison3 := [], bad1 := [], bad2 := [], bad3 := [], check2 := [], check3 := [], skew2 := [], skew3 := [],
    sramBad := [], sramPoison := [], leaked2 := none, leaked3 := none, dir := [], moving := [], staging := [], partner := [], buckets2 := [],
    buckets3 := [], poisonLog := [], poisonLost := false, t2Size := 0x10, t3Size := 0x40, t2Leak := 0x100,
    t3Leak := 0x10, t2Scrub := true, t3Scrub := true, t2Pass := 0xE10, t3Pass := 0x15180, scrub2 := [], scrub3 := [],
    rebuilds := [], repKind := 0, repBusy := false, repCommit := false, repResult := 0, repUnit := 0, repAddr := 0,
    soft := [] }

/-- A link at reset: DISABLED, role FACE, face link ÷ 4 (Tables 12-10 to 12-14). -/
def LinkSt.reset (k : Nat) : LinkSt :=
  { en := false, mode := 0, degradeEn := true, vlanEn := false, vlanId := 0, pcp := 0, ecnEn := true, retryUs := 4,
    retryLimit := 8, role := 1, face := k / 4, state := 0, lanes := 0, cause := 0, peerIndex := 0, peerLink := 0,
    delay := 0, downs := 0, udpPort := 0xD24D, srcBase := 0xC000, msEn := true, an := 0, replayWin := 0, keyN := 0,
    sak := none, pn := 0, rxAn := 0, txLsn := 0, rxLsn := 0, nakSent := false, unacked := 0,
    retry := [], credits := [832, 64, 64, 64, 832, 64, 64, 64],
    owed := List.replicate 8 0, downAt := 0, sendEce := false, rate64 := 64, hello := none,
    sentHello := [], sentAck := none, sentBeacon := none }

/-- A module without a slice record has index 0x1FFF (R170). -/
def Net.reset : Net :=
  { links := [], index := 0x1FFF, record := none, rx := [], rxNext := 0, out := [], msgs := [], msgNext := 0,
    seen := [], doneHeld := [], peers := [], stateSeq := 0, gone := [], detours := [], closing := false,
    stopTread := none, stopRx := none, recovery := none, binds := [] }

/-- In-band interrupts are enabled when the interface comes up (R583). -/
def I3c.reset : I3c :=
  { dynAddr := none, ibiEn := true, remove := false, removeOk := false, removeNot := false, index := 0, answer := [],
    notes := [], sent := [] }

/-- Table 17-5. -/
def Pstate.reset : Pstate := { target := 0, autoA1 := true, state := 0, result := 0, idleTreads := 0x40, idle := 0 }

/-- Tables 17-3 and 17-14. -/
def Faults.reset : Faults :=
  { lastReset := 0, sliceStopped := false, faulted := false, newelWdog := false, warmReq := false,
    secondFault := false, cause := 0, stopTread := 0, restarting := false, restarted := none, holdOp0 := false }

/-- Tables 18-10 to 18-12 and 16-6. -/
def Debug.reset : Debug :=
  { scanCmd := 0, scanBusy := false, scanResult := 0, scanBay := false, scanTile := 0, scanBayIx := 0, scanAddr := 0,
    stallTile := 0, qdEn := false, qdAll := false, qdPeriod := 0x10, qdTile := 0, qdLog2 := 4,
    qdAddr := 0, qdHead := 0, qdTail := 0, qdLast := none, logSel := 0, logIndex := 0 }

/-- A hardware-extended counter at 0. -/
def HwCtr.zero : HwCtr := { count := 0, epoch := 0, half := false, wrapped := false, ext := 0, extEpoch := 0 }

/-- The module right after cold power-on, with PERST_N held (Table 17-7 step 3, R561). -/
def State.reset : State :=
  { fuses := .reset, store := .reset, sup := .reset, time := .reset, pw := .reset, life := .reset, st := .reset,
    tr := .reset, mb := .reset, ctxs := [], pkgs := [], qpOwner := [], winOwn := [], split := 0, splitOn := 0,
    ports := [], qps := [], hdm := [], taken := [], takes := 0, msix := [], cxlResp := [], waits := [], pmem := [], pmemBad := [],
    mem := .reset, movers := [], streams := [], tiles := [], harn := [], overs := [], insts := [],
    saves := [], rests := [], ccs := [], credits := [], groups := [], admits := [], adapters := [], everLoaded := [], graphs := [], fwds := [],
    fwdNext := 0, objs := [], syncOut := [], waves := [], relRecs := [],
    sf := { object := 0, action := 0, result := 0, value := 0 }, net := .reset, i3c := .reset, ps := .reset,
    flt := .reset, dbg := .reset, snaps := [], hwc := [], fwc := [], evPend := [], clk := 0, clks := 0, w1c := [], busy := false, fv := 0,
    pending := [] }

/-! ### How a step can stop -/

/-- Why the machine stops with a fault. No meaning raises one: the spec describes what the module does in every
state that a command finds it in, or the command waits for its event (notes/assumptions/6.md). Safe. -/
inductive Fault where
  /-- Raised by no meaning; a step that would reach a state outside the manual would carry it. Safe. -/
  | outsideManual
  deriving DecidableEq, Repr

/-- Why a command is refused. -/
inductive Refusal where
  /-- A command that has no meaning yet, by its mnemonic. Safe. -/
  | notModelled (mnemonic : String)
  deriving DecidableEq, Repr

end Sys2Proof.Machine
end

