-- ==== Sys2Proof/Machine/Mxe.lean ====
section
/-!
DEFINITION. The matrix engine: engine-ready tiles, exact accumulation, drains, wide partials (02 R42 to R71, R591).
-/
namespace Sys2Proof.Machine

/-! ### Engine-ready tiles (R46 to R49) -/

/-- Bytes of an engine-ready tile and of its element section (Table 2-5). -/
def tileBytes (c : Nat) : Nat × Nat :=
  match c with
  | 3 | 4 => (4224, 4096)
  | 5 | 6 => (3200, 3072)
  | 7 => (2048, 2048)
  | 8 => (2176, 2048)
  | _ => (4096, 4096)

/-- Rows of an engine-ready tile: 32 for BF16, 64 otherwise. -/
def tileRows (c : Nat) : Nat := if c = 9 then 32 else 64

/-- The element code at a row and K position of an operand that starts at byte 0 of `rd`. -/
def elemAt (rd : Nat → Byte) (c row k : Nat) : Nat :=
  let w := (fmtOf c).width
  let b := (row * 64 + k % 64) * w
  let a := k / 64 * (tileBytes c).1 + b / 8
  ((rd a).toNat + 256 * (rd (a + 1)).toNat) / 2 ^ (b % 8) % 2 ^ w

/-- The block scale at a row and K position (R47). -/
def scaleAt (rd : Nat → Byte) (c row k : Nat) : Nat :=
  (rd (k / 64 * (tileBytes c).1 + (tileBytes c).2 + 2 * row + k % 64 / 32)).toNat

/-- Bytes that an operand of K elements takes. -/
def operandBytes (c k : Nat) : Nat := ceilDiv k 64 * (tileBytes c).1

/-- True where two codes form a pair (R44). -/
def pairOk (a b : Nat) : Bool :=
  (a == 0 && b == 0) || (a == 9 && b == 9) ||
    (decide (1 ≤ a ∧ a ≤ 8 ∧ 1 ≤ b ∧ b ≤ 8) && isMx a == isMx b)

/-- The width w of an element's magnitude (Table 2-3). -/
def fmtW (c : Nat) : Nat :=
  match c with
  | 1 | 3 => 18
  | 2 | 4 => 32
  | 5 => 9
  | 6 => 6
  | 7 | 8 => 4
  | _ => 8

/-- The unit exponent u (Table 2-3). -/
def fmtU (c : Nat) : Int := (fmtOf c).emin

/-- The spread D of a pair (R57). -/
def spread (a b : Nat) : Int := 128 - 24 - ((fmtW a + fmtW b : Nat) : Int)

/-! ### Exact accumulation (R56 to R62) -/

/-- An empty accumulator. -/
def Acc.zero : Acc :=
  { v := 0, eb := 0, smax := 0, inexact := false, nan := false, posInf := false, negInf := false, empty := true,
    count := 0 }

/-- Shifts right with round-to-odd (R59), and says whether a 1 was discarded. -/
def rtoShift (v : Int) (n : Nat) : Int × Bool :=
  let q := v / (2 ^ n : Nat)
  if v % (2 ^ n : Nat) = 0 then (q, false) else (if q % 2 = 0 then q + 1 else q, true)

/-- Adds a block of value `p × 2^at` whose scale is `s` to an accumulator of unit exponent `u` and spread `d` (R58). -/
def addBlock (a : Acc) (u d p at0 s : Int) : Acc :=
  if p = 0 then a
  else
    let a :=
      if a.empty then { a with smax := s, eb := s + u - d, empty := false }
      else if a.smax < s then
        let r := rtoShift a.v (s - a.smax).toNat
        { a with v := r.1, inexact := a.inexact || r.2, eb := a.eb + (s - a.smax), smax := s }
      else a
    let sh := a.eb - at0
    if 0 < sh then
      let r := rtoShift p sh.toNat
      { a with v := a.v + r.1, inexact := a.inexact || r.2 }
    else { a with v := a.v + p * (2 ^ (-sh).toNat : Nat) }

/-- Counts products; past 2^24 the accumulator is NaN (R62). -/
def addCount (a : Acc) (n : Nat) : Acc :=
  if 2 ^ 24 < a.count + n then { a with nan := true, count := 2 ^ 24 } else { a with count := a.count + n }

/-- What one block of products gives: its exact sum and the special values met. -/
structure BlockSum where
  p    : Int
  nan  : Bool
  pos  : Bool
  neg  : Bool
  deriving DecidableEq, Repr

/-- Adds one product to a block's sum; `ua` and `ub` are the unit exponents. -/
def addProduct (ua ub : Int) (b : BlockSum) (x y : FVal) : BlockSum :=
  match x.mul y with
  | .nan => { b with nan := true }
  | .inf n => if n then { b with neg := true } else { b with pos := true }
  | .fin n m e => { b with p := b.p + (if n then -1 else 1) * ((m * 2 ^ (e - ua - ub).toNat : Nat) : Int) }

/-- The products of K positions `k0` to `k0 + n − 1` of one output element. -/
def blockSum (ra rb : Nat → Byte) (ca cb row col k0 n : Nat) : BlockSum :=
  (List.range n).foldl (fun b i =>
    addProduct (fmtU ca) (fmtU cb) b ((fmtOf ca).decode (elemAt ra ca row (k0 + i)))
      ((fmtOf cb).decode (elemAt rb cb col (k0 + i))))
    { p := 0, nan := false, pos := false, neg := false }

/-- One block into a narrow accumulator (R58, Table 2-8). -/
def accBlock (ra rb : Nat → Byte) (ca cb row col k0 n : Nat) (a : Acc) : Acc :=
  let xa := if isMx ca then scaleAt ra ca row k0 else 127
  let xb := if isMx cb then scaleAt rb cb col k0 else 127
  let b := blockSum ra rb ca cb row col k0 n
  let a := addCount a n
  if xa = 255 ∨ xb = 255 ∨ b.nan then { a with nan := true }
  else
    let a := { a with posInf := a.posInf || b.pos, negInf := a.negInf || b.neg }
    let u := fmtU ca + fmtU cb
    let sc := (xa : Int) - 127 + ((xb : Int) - 127)
    addBlock a u (spread ca cb) b.p (sc + u) sc

/-- K positions `lo` to `hi − 1` of a BF16 pair: each exact product is added to the FP32 accumulator with one rounding, in increasing K
(R70). -/
def accBf16 (ra rb : Nat → Byte) (row col lo hi : Nat) (a : Acc) : Acc :=
  let f := (List.range (hi - lo)).foldl (fun acc i =>
    (arith fp32 ((fp32.decode acc).add (((fmtOf 9).decode (elemAt ra 9 row (lo + i))).mul
      ((fmtOf 9).decode (elemAt rb 9 col (lo + i)))))).1) (ofInt 32 a.v)
  addCount { a with v := f, empty := a.empty && decide (hi ≤ lo) } (hi - lo)

/-- K positions `lo` to `hi − 1` of one output element; `lo` starts a block of a narrow pair. -/
def accRun (ra rb : Nat → Byte) (ca cb row col lo hi : Nat) (a : Acc) : Acc :=
  if ca = 9 then accBf16 ra rb row col lo hi a
  else (List.range (ceilDiv (hi - lo) 32)).foldl (fun a j =>
    accBlock ra rb ca cb row col (lo + 32 * j) (min 32 (hi - lo - 32 * j)) a) a

/-! ### Drain (R63 to R65) -/

/-- The accumulator's value before scale and bias. -/
def Acc.value (a : Acc) (bf : Bool) : FVal :=
  if a.nan || (a.posInf && a.negInf) then .nan
  else if bf then fp32.decode (ofInt 32 a.v)
  else if a.posInf then .inf false
  else if a.negInf then .inf true
  else ofScaled a.v a.eb

/-- The drain code of the NaN state (Table 2-8): canonical NaN, 0 for INT32. -/
def drainNan (f : Fmt) : Nat := if f.isInt then 0 else f.nanCode

/-- Rounds a drained value (Table 2-8). INT32 has no −2^31. A value beyond the largest finite one sets OVERFLOW, and ROUNDED where its
rounding on the format's grid was inexact as well: R65 says no more of the two together (DESIGN CHOICE, notes/assumptions/84.md). -/
def drainCode (f : Fmt) (sat : Bool) (v : FVal) : Nat × Nat :=
  let overs (neg : Bool) : Nat :=
    if f.isInt ∨ sat = true then f.signed neg f.maxCode
    else if f.hasInf then f.signed neg f.infCode else f.nanCode
  match v with
  | .nan => (drainNan f, flInvalid)
  | .inf neg => (if f.hasInf then f.signed neg f.infCode else overs neg, 0)
  | .fin neg m e =>
    let r := f.round m e
    if m = 0 then (0, 0)
    else if f.above r.1 r.2.1 then (overs neg, flOverflow + b2n r.2.2 * flRounded)
    else (f.signed neg (f.magCode r.1 r.2.1), b2n r.2.2 * flRounded)

/-- The format of OUT_FMT (Table 3-5). -/
def outFmt (o : Nat) : Fmt :=
  match o with
  | 0 => fp32
  | 1 => fmtOf 9
  | 2 => fmtOf 1
  | 3 => fmtOf 2
  | _ => fmtOf 11

/-- FINAL drain of one accumulator: RNE(scale × (value + bias)), rounded once, with its flags (R63, R65). -/
def drainOne (a : Acc) (bf : Bool) (out : Nat) (sat : Bool) (scale bias : FVal) : Nat × Nat :=
  let r := drainCode (outFmt out) sat (scale.mul ((a.value bf).add bias))
  (r.1, orFlags r.2 (b2n a.inexact))

/-! ### Wide partials (R66, R67, R591) -/

/-- FINAL and PARTIAL drains report an accumulator's INEXACT_WIN, and INVALID for its NaN state (R65, Table 2-8). -/
def Acc.flags (b : Bank) (a : Acc) : Nat :=
  orFlags (b2n a.inexact) (b2n (a.value (b.fmtA == 9)).isNan * flInvalid)

/-- A wide partial of 24 bytes (Table 2-9); a BF16 accumulator in the NaN state is carried as the canonical NaN (R591). -/
def partialBytes (b : Bank) (a : Acc) : Bytes :=
  let fm := leBytes 1 (b.fmtA % 16 + 16 * (b.fmtB % 16))
  if b.fmtA = 9 then
    leBytes 4 (if a.nan then fp32.nanCode else ofInt 32 a.v) ++ leBytes 12 0 ++ leBytes 1 (32 * b2n a.empty) ++ fm ++ leBytes 2 0 ++ leBytes 4 a.count
  else
    let v := ofInt 129 a.v
    leBytes 16 (v % 2 ^ 128) ++ leBytes 1 (v / 2 ^ 128 + 2 * b2n a.inexact + 4 * b2n a.nan + 8 * b2n a.posInf +
      16 * b2n a.negInf + 32 * b2n a.empty) ++ fm ++ leBytes 2 (ofInt 16 a.eb) ++ leBytes 4 a.count

/-- Reads a wide partial: its format codes and its accumulator. -/
def partialOf (bs : Bytes) : Nat × Nat × Acc :=
  let fl := byteAt bs 16
  let fa := byteAt bs 17 % 16
  let fb := byteAt bs 17 / 16
  let eb := toInt 16 (fld bs 18 2)
  let v := if fa = 9 then (fld bs 0 4 : Int) else toInt 129 (fld bs 0 16 + (fl % 2) * 2 ^ 128)
  (fa, fb, { v := v, eb := eb, smax := eb - fmtU fa - fmtU fb + spread fa fb, inexact := bit fl 1, nan := bit fl 2,
             posInf := bit fl 3, negInf := bit fl 4, empty := bit fl 5, count := fld bs 20 4 })

/-- Adds a partial to an accumulator of a bank (R67, R591). -/
def mergeOne (b : Bank) (a : Acc) (q : Nat × Nat × Acc) : Acc :=
  let x := q.2.2
  if q.1 ≠ b.fmtA ∨ q.2.1 ≠ b.fmtB then { a with nan := true }
  else if b.fmtA = 9 then
    if x.empty then a else addCount { a with v := (fadd (ofInt 32 a.v) (ofInt 32 x.v)).1, empty := false } x.count
  else
    let a := addCount { a with inexact := a.inexact || x.inexact, nan := a.nan || x.nan,
                               posInf := a.posInf || x.posInf, negInf := a.negInf || x.negInf } x.count
    if x.empty then a
    else addBlock a (fmtU b.fmtA + fmtU b.fmtB) (spread b.fmtA b.fmtB) x.v x.eb x.smax

/-- The accumulator that a LOAD_PARTIAL starts from (R51, R67, R591). -/
def loadOne (b : Bank) (q : Nat × Nat × Acc) : Acc :=
  if q.1 ≠ b.fmtA ∨ q.2.1 ≠ b.fmtB then { Acc.zero with nan := true } else addCount q.2.2 0

/-- INVALID of a partial that is added to an accumulator: a pair that is not the bank's, or a count past 2^24 (R62, R67). -/
def partialFlag (b : Bank) (a : Acc) (q : Nat × Nat × Acc) : Nat :=
  b2n (q.1 != b.fmtA || q.2.1 != b.fmtB || decide (2 ^ 24 < a.count + q.2.2.count)) * flInvalid

/-- The accumulator at an index of a bank. -/
def Bank.acc (b : Bank) (i : Nat) : Acc := mgetD b.accs i .zero

/-- Applies `f` to the accumulators of a list of indices. -/
def Bank.overs (b : Bank) (ix : List Nat) (f : Nat → Acc → Acc) : Bank :=
  { b with accs := ix.foldl (fun m i => mset m i (f i (b.acc i))) b.accs }

/-- The indices of a block, or of the half block that P_ROWS selects (R54). -/
def blockIx (half : Option Nat) : List Nat :=
  match half with
  | none => List.range 1024
  | some h => (List.range 512).map (512 * h + ·)

/-- A bank of no pair, with every accumulator empty. -/
def Bank.empty : Bank := { fmtA := 0, fmtB := 0, accs := [] }

/-- A bank of a pair, empty in the rows that the operation works on; half a block leaves the other rows (R51, R54). -/
def Bank.start (fa fb : Nat) (half : Option Nat) (old : Bank) : Bank :=
  { fmtA := fa, fmtB := fb, accs := match half with | none => [] | some h => mkeep old.accs fun i _ => i / 512 != h }

/-- The whole bank goes to the NaN state (R51). -/
def Bank.spoil (b : Bank) : Bank := b.overs (List.range 1024) fun _ a => { a with nan := true }

/-- The partial of an accumulator in `rd`, which holds 24 bytes for each in the order of `ix`. -/
def partialIn (ix : List Nat) (rd : Nat → Byte) (i : Nat) : Nat × Nat × Acc :=
  partialOf ((List.range 24).map fun j => rd (24 * (i - ix.headD 0) + j))

/-- Starts the accumulators of `ix` from the partials in `rd`, with the flags (R51, R67). -/
def Bank.load (b : Bank) (ix : List Nat) (rd : Nat → Byte) : Bank × Nat :=
  (b.overs ix fun i _ => loadOne b (partialIn ix rd i),
   ix.foldl (fun f i => orFlags f (partialFlag b .zero (partialIn ix rd i))) 0)

/-- Adds the partials in `rd`, with the flags (R67). -/
def Bank.merge (b : Bank) (ix : List Nat) (rd : Nat → Byte) : Bank × Nat :=
  (b.overs ix fun i a => mergeOne b a (partialIn ix rd i),
   ix.foldl (fun f i => orFlags f (partialFlag b (b.acc i) (partialIn ix rd i))) 0)

end Sys2Proof.Machine
end

