-- ==== Sys2Proof/Machine/Ops.lean ====
section
/-!
DEFINITION. The operations that every family shares: free values, counters, logs, events, interrupts, completions and
token records.
-/
namespace Sys2Proof.Machine

/-! ### What no command writes -/

/-- The outcome of a command: the queue of waiting commands is no command's to change. -/
def queued (s t : State) : State := { t with pending := s.pending }

/-- The outcome of a command that fuses nothing. Only tokens, SVN_COMMIT, the end of a repair commit, and a register write that
commands one of them write fuses (R232, R451, R455): every other meaning leaves them as they were. -/
def unfused (s t : State) : State := { t with fuses := s.fuses, pending := s.pending }

/-- The next free value and the state that has used it (notes/assumptions/10.md). -/
def useFree (s : State) : Nat × State := (freeValue s.fv, { s with fv := s.fv + 1 })

/-! ### Counters (R500 to R505) -/

/-- Keys of the hardware-extended counters: tile counters of Table 3-10. -/
def kTile (t k : Nat) : Nat := t * 256 + k
/-- Table 5-10. -/
def kMem (k : Nat) : Nat := 600000 + k
/-- Table 6-14. -/
def kProt (k : Nat) : Nat := 601000 + k
/-- Table 13-22: 0 DESC_TAKEN, 1 COMPLETIONS, 2 TOKEN_RECORDS, 3 TQ_WAIT, 4 EQ_LOST, 5 HDM_REFUSED, 6 HDM_SEALED,
7 BI_SNOOPS. -/
def kPort (p k : Nat) : Nat := 602000 + p * 16 + k
/-- Table 12-20, per link: 0 FRAMES_TX, 1 FRAMES_RX, 2 PAYLOAD_TX, 3 PAYLOAD_RX, 4 RESENT, 5 NAKS, 6 FCS_ERR,
7 ICV_ERR, 8 FOREIGN, 9 FEC_CORR, 10 FEC_UNCORR, 11 CREDIT_WAIT, 12 ECE_SEEN. -/
def kLink (l k : Nat) : Nat := 603000 + l * 16 + k
/-- Table 12-20, per module: 0 DUP_PKT, 1 HOP_LIMIT, 2 DETOURED, 3 DETOUR_WAIT, 4 UNREACHABLE. -/
def kNet (k : Nat) : Nat := 604000 + k
/-- Table 15-8 in its order: 0 CAPS_RECEIVED, 1 CAPS_CLAMPED, 2 CAP_OVERRUNS, 3 FAILSAFES, 4 BRAKES, 5 COOLANT_STOPS,
6 THERMAL_TRIPS, 7 FLOOR_SENT, 8 FLOOR_SLIP, 9 PULLS, 10 OP_CHANGES, 11 RAMP_GATED, 12 BALLAST_ENERGY, 13 HOLDOVERS,
14 HOLDOVER_TREADS, 15 TREAD_MISMATCH, 16 TREAD_WIDTH_ERR. -/
def kPow (k : Nat) : Nat := 605000 + k
/-- Firmware-kept counters: Table 8-6. -/
def kKv (k : Nat) : Nat := 1000 + k
/-- Hardware sets W1C bit `k` in the present clk where `b` holds (R21). -/
def noteW1c (s : State) (k : Nat) (b : Bool) : State := if b then { s with w1c := s.w1c ++ [k] } else s

/-- A W1C bit after a write of `one` to it: cleared, but for an occurrence of the present clk (R20, R21). -/
def w1cKept (s : State) (k : Nat) (now one : Bool) : Bool := now && (!one || s.w1c.contains k)

/-- Table 9-9. -/
def kExp (k : Nat) : Nat := 2000 + k
/-- Table 10-10, by instance number. -/
def kSrv (i k : Nat) : Nat := 3000 + i * 64 + k
/-- Table 11-11: 0 SYNC_OPS, 1 RELEASES, 2 TIMED_RELEASES, 3 LATE_MEMBERS, 4 ABSENT_MEMBERS, 5 SKEW_TREADS,
6 RELEASE_SLIP, 7 STALE_COMPLETE, 8 DUP_COMPLETE, 9 SEM_OVER, 10 SYNC_FORCED, 11 REL_REC_LOST. -/
def kSync (k : Nat) : Nat := 4000 + k
/-- Table 16-17: 0 CTR_LATE, 1 RS_CRC_ERR, 2 SLICES_RUN, 3 SLICES_DEFERRED, 4 SLICES_LATE, 5 RESULTS_PASS,
6 RESULTS_MARGINAL, 7 RESULTS_FAIL, 8 RESULTS_SKIPPED, 9 PADS_UNTESTED; then R556: 10 WATCHDOG_RESTARTS,
11 SLICE_STOPS, 12 TELEMETRY_DROPS, 13 A1_ENTRIES; then R584: 14 I3C_ERR. -/
def kLife (k : Nat) : Nat := 5000 + k

/-- Adds `n` to a hardware-extended counter: COUNT wraps at 2^40 into EPOCH, HALF is set when bit 39 rises, WRAPPED
when COUNT wraps while HALF is set (Table 16-2, R501). -/
def HwCtr.add (c : HwCtr) (n : Nat) : HwCtr :=
  let v := c.count + n
  let wraps := v / 2 ^ 40
  let rose := decide (c.count < 2 ^ 39 ∧ 2 ^ 39 ≤ v) || decide (2 ^ 40 + 2 ^ 39 ≤ v)
  let late := decide (1 ≤ wraps) && (c.half || decide (c.count < 2 ^ 39)) || decide (2 ≤ wraps)
  { c with count := v % 2 ^ 40, epoch := (c.epoch + wraps) % 256, half := c.half || rose,
           wrapped := c.wrapped || late }

/-- The architected value (R502). -/
def HwCtr.value (c : HwCtr) : Nat :=
  ((c.ext + (c.epoch + 256 - c.extEpoch) % 256) % 2 ^ 24) * 2 ^ 40 + c.count

/-- The raw word (Table 16-2). -/
def HwCtr.raw (c : HwCtr) : Nat := c.count + c.epoch * 2 ^ 40 + b2n c.half * 2 ^ 48 + b2n c.wrapped * 2 ^ 49

/-- Firmware's service of one counter (R501). -/
def HwCtr.service (c : HwCtr) : HwCtr :=
  { c with ext := (c.ext + (c.epoch + 256 - c.extEpoch) % 256) % 2 ^ 24, extEpoch := c.epoch,
           half := false, wrapped := false }

/-- Counts `n` in hardware-extended counter `k`; counting nothing leaves the state as it is. -/
def hwBump (s : State) (k n : Nat) : State :=
  if n = 0 then s else { s with hwc := mupd s.hwc k .zero (·.add n) }

/-- Counts `n` in firmware-kept counter `k`, modulo 2^64 (R500). -/
def fwBump (s : State) (k n : Nat) : State :=
  if n = 0 then s else { s with fwc := mupd s.fwc k 0 fun v => (v + n) % 2 ^ 64 }

/-! ### Time -/

/-- The flight of the present tread (R473). -/
def flight (s : State) : Nat := s.time.tread / 4096

/-- The tread that records carry: 0 before LOADED (Table 16-5, R474). -/
def nowTread (s : State) : Nat := if s.time.loaded then s.time.tread else 0

/-- The calendar time of the present tread in ns, when an anchor is in force (R479, R515). -/
def utcNow (s : State) : Option Nat :=
  if s.time.anchorUtc = 0 ∧ s.time.anchorTread = 0 then none
  else some ((s.time.anchorUtc + 1000 * s.time.tread) - 1000 * s.time.anchorTread)

/-- ACLK of an operating point, MHz (Table 15-2). -/
def freqMhz (op : Nat) : Nat :=
  [600, 650, 700, 750, 800, 850, 900, 950, 1000, 1050, 1100, 1150, 1200, 1250, 1275, 1300].getD op 1300

/-- Rated power of an operating point, W (Table 15-2). -/
def ratedW (op : Nat) : Nat :=
  [900, 980, 1060, 1140, 1230, 1320, 1420, 1520, 1620, 1740, 1860, 1990, 2130, 2290, 2400, 2700].getD op 2700

/-- Supply voltage of an operating point, mV (Table 15-5). -/
def voltMv (s : State) (op : Nat) : Nat := s.fuses.voltMv.getD op 0

/-! ### Event log and events (R439, R508) -/

/-- Hands a record to Newel for the event log; EVENT_LOG_WRITE writes it (R508). -/
def logEvent (s : State) (kind ctx : Nat) (detail : Bytes) : State :=
  { s with evPend := s.evPend ++ [{ tread := nowTread s, kind := kind, flags := 0, context := ctx,
                                    detail := padTo 16 detail }] }

/-- An event record of 32 bytes (Table 13-18). -/
def eventBytes (tread code ctx : Nat) (detail : Bytes) (phase lost : Bool) : Bytes :=
  leBytes 8 tread ++ leBytes 1 code ++ leBytes 1 (b2n phase + 2 * b2n lost) ++ leBytes 2 ctx ++ padTo 20 detail

/-- Partner memory of a port as the module has written it. -/
def pmemOf (s : State) (p : Nat) : Mem := mgetD s.pmem p []

/-- Writes bytes to partner memory; `bad` are the places of poisoned words among them (R219). -/
def pmLand (s : State) (p a : Nat) (bs : Bytes) (bad : List Nat) : State :=
  let old := (mgetD s.pmemBad p []).filter fun w => !decide (a ≤ w ∧ w < a + bs.length)
  { s with pmem := mset s.pmem p (writeBytes (pmemOf s p) a bs),
           pmemBad := if old.isEmpty && bad.isEmpty then merase s.pmemBad p else mset s.pmemBad p (old ++ bad.map (a + ·)) }

/-- Writes bytes to partner memory. -/
def pmWrite (s : State) (p a : Nat) (bs : Bytes) : State := pmLand s p a bs []

/-- Port `p`'s registers. -/
def portOf (s : State) (p : Nat) : PortSt := mgetD s.ports p .reset

/-- Queue pair `q` of port `p`. -/
def qpKey (p q : Nat) : Nat := p * 64 + q

/-- The registers of queue pair `q` of port `p`. -/
def qpOf (s : State) (p q : Nat) : QpSt := mgetD s.qps (qpKey p q) .reset

/-- Sets queue pair `q` of port `p`. -/
def setQp (s : State) (p q : Nat) (v : QpSt) : State := { s with qps := mset s.qps (qpKey p q) v }

/-- Sets port `p`. -/
def setPort (s : State) (p : Nat) (v : PortSt) : State := { s with ports := mset s.ports p v }

/-- Fires an MSI-X vector of a port (R432). -/
def fireMsix (s : State) (p v : Nat) : State := { s with msix := s.msix ++ [(p, v)] }

/-- Writes one event into the event ring of port `p`, or drops it when the ring is full (R439). -/
def eventToPort (code ctx : Nat) (detail : Bytes) (s : State) (p : Nat) : State :=
  let po := portOf s p
  let slots := 2 ^ po.eqLog2
  if (po.eqTail + 1) % slots = po.eqHead then
    hwBump (setPort s p { po with eqLost := true }) (kPort p 4) 1
  else
    let s := pmWrite s p (po.eqAddr + 32 * po.eqTail)
      (eventBytes s.time.tread code ctx detail po.eqPhase po.eqLost)
    let next := (po.eqTail + 1) % slots
    let s := setPort s p { po with eqTail := next, eqPhase := if next = 0 then !po.eqPhase else po.eqPhase,
                                   eqLost := false }
    if po.eqIrq then fireMsix s p po.eqVector else s

/-- Raises a module event: to every port with EQ_EN and its EV_MASK bit set, and to the event log (R439). -/
def raiseModule (s : State) (code : Nat) (detail : Bytes) : State :=
  let go := [0, 1, 2, 3].filter fun p => (portOf s p).eqEn && (portOf s p).evMask.getLsbD code
  logEvent (go.foldl (eventToPort code 0xFFFF detail) s) 1 0xFFFF (detail.take 16)

/-- True where context `c` holds a queue pair of port `p` (R422). -/
def ctxOnPort (s : State) (c p : Nat) : Bool := s.qpOwner.any fun e => e.2 == c && e.1 / 64 == p

/-- Raises an event that names a context: to the ports where it holds a queue pair (R422, R439). -/
def raiseCtx (s : State) (code ctx : Nat) (detail : Bytes) : State :=
  let go := [0, 1, 2, 3].filter fun p => (portOf s p).eqEn && ctxOnPort s ctx p
  logEvent (go.foldl (eventToPort code ctx detail) s) 1 ctx (detail.take 16)

/-- True in the life-cycle states in which the record store takes lifetime, event and self-test records (Table
16-4). -/
def storeOpen (s : State) : Bool := s.fuses.lc != .blank && s.fuses.lc != .scrapped

/-- Sets the LIMITS_RAISED bit of a code of 0x0010 or more (Table 16-7). -/
def markLimit (s : State) (code : Nat) : State :=
  if code < 0x10 then s else { s with life.cur.limits := s.life.cur.limits ||| (1 <<< (code - 0x10)) }

/-- Raises EV_LIFE_LIMIT with a limit code and the value reached (Table 13-19, R516). -/
def raiseLimit (s : State) (code value : Nat) : State :=
  markLimit (raiseModule s 7 (leBytes 2 code ++ [0, 0] ++ leBytes 8 value)) code

/-- Commits the lifetime record to the next of the 64 sectors (R511); a sector's 80,000th erase raises STORE_WEAR once
(Table 16-8). -/
def commitLife (s : State) (clean : Bool) : State :=
  if !storeOpen s then s else
    let r := { s.life.cur with cleanOff := clean, seq := (s.life.cur.seq + 1) % 2 ^ 32 }
    let n := s.store.lifeWrites + 1
    let s := { s with life.cur := r, store.life := r, store.lifeWrites := n }
    if n = 64 * 80000 then raiseLimit s 0x15 0x30 else s

/-- EV_LIFE_LIMIT and the commit that it brings (R511). -/
def lifeLimit (s : State) (code value : Nat) : State := commitLife (raiseLimit s code value) false

/-! ### Completions and token records (R427 to R432, R436, R438) -/

/-- Status codes (Table 13-16). -/
def stOk : Nat := 0x00
def stOkPartial : Nat := 0x01
def stDeferred : Nat := 0x02
def ePoison : Nat := 0x10
def eUnreachable : Nat := 0x11
def eShape : Nat := 0x12
def eLength : Nat := 0x13
def eSlo : Nat := 0x14
def eSkew : Nat := 0x15
def eAuth : Nat := 0x16
def eCancelled : Nat := 0x17
def eBusy : Nat := 0x18
def ePerm : Nat := 0x19
def eLifecycle : Nat := 0x1A
def eCapacity : Nat := 0x1B

/-- A completion of 32 bytes (Table 13-14). -/
def completionBytes (t : Taken) (sqHead status r0 r1 tread : Nat) (phase : Bool) : Bytes :=
  slice t.bytes 4 4 ++ leBytes 2 sqHead ++ leBytes 1 (byteAt t.bytes 0) ++ leBytes 1 status ++ leBytes 8 r0 ++
    leBytes 8 r1 ++ leBytes 1 t.qp ++ leBytes 1 (b2n phase) ++ [0, 0] ++ leBytes 4 tread

/-- Counts one more unsignalled completion record and fires the interrupt at COUNT (R432). -/
def signalCq (s : State) (p q : Nat) : State :=
  let v := qpOf s p q
  if v.cqIrq && decide (v.count ≤ v.cqUnsig + 1) then fireMsix (setQp s p q { v with cqUnsig := 0 }) p v.cqVector
  else setQp s p q { v with cqUnsig := v.cqUnsig + 1 }

/-- As `signalCq`, for the token ring. -/
def signalTq (s : State) (p q : Nat) : State :=
  let v := qpOf s p q
  if v.tqIrq && decide (v.count ≤ v.tqUnsig + 1) then fireMsix (setQp s p q { v with tqUnsig := 0 }) p v.tqVector
  else setQp s p q { v with tqUnsig := v.tqUnsig + 1 }

/-- Writes the completion record of descriptor `t` into its completion ring (R427, R428, R431). -/
def writeCompletion (s : State) (t : Taken) (status r0 r1 : Nat) : State :=
  let v := qpOf s t.port t.qp
  let s := pmWrite s t.port (v.cqAddr + 32 * v.cqTail)
    (completionBytes t v.sqHead status r0 r1 s.time.tread v.cqPhase)
  let next := (v.cqTail + 1) % 2 ^ v.cqLog2
  let s := setQp s t.port t.qp { v with cqTail := next, cqPhase := if next = 0 then !v.cqPhase else v.cqPhase }
  hwBump (signalCq s t.port t.qp) (kPort t.port 1) 1

/-- A token record of 16 bytes (Table 13-17). -/
def tokenBytes (r : TokRec) (phase : Bool) : Bytes :=
  leBytes 4 r.rid ++ leBytes 4 r.token ++ leBytes 4 r.position ++ leBytes 1 r.status ++
    leBytes 1 (r.flags / 2 * 2 + b2n phase) ++ leBytes 2 r.step

/-- True where the token ring has no room (R426). -/
def tqFull (v : QpSt) : Bool := (v.tqTail + 1) % 2 ^ v.tqLog2 == v.tqHead

/-- Writes one token record into the ring, which has room. -/
def putToken (s : State) (p q : Nat) (r : TokRec) : State :=
  let v := qpOf s p q
  let s := pmWrite s p (v.tqAddr * 4096 + 16 * v.tqTail) (tokenBytes r v.tqPhase)
  let next := (v.tqTail + 1) % 2 ^ v.tqLog2
  let s := setQp s p q { v with tqTail := next, tqPhase := if next = 0 then !v.tqPhase else v.tqPhase }
  hwBump (signalTq s p q) (kPort p 2) 1

/-- Hands a token record to its queue pair: into the ring, or held in module-owned T3 behind records already held
(R438). -/
def sendToken (s : State) (p q : Nat) (r : TokRec) : State :=
  let v := qpOf s p q
  if tqFull v || !v.held.isEmpty then setQp s p q { v with held := v.held ++ [r] } else putToken s p q r

/-- Writes held token records while the ring has room, at most `n` of them (R438). -/
def drainHeld (s : State) (p q : Nat) : Nat → State
  | 0 => s
  | n + 1 =>
    let v := qpOf s p q
    match v.held with
    | [] => s
    | r :: rs => if tqFull v then s else drainHeld (putToken (setQp s p q { v with held := rs }) p q r) p q n

end Sys2Proof.Machine
end

