-- ==== Sys2Proof/Machine/Scalar.lean ====
section
/-!
DEFINITION. The scalar unit (03 Table 3-18, R593; 02 R72, R74, R589, R590).
-/
namespace Sys2Proof.Machine

/-- The width of a TYPE: 64-bit integer, or 32 bits; an integer function with TYPE 2 acts on 32 bits, and a result of 32 bits is
zero-extended in its register: R593 says neither (DESIGN CHOICE, notes/assumptions/87.md). -/
def sopWidth (ty : Nat) : Nat := if ty = 0 then 64 else 32

/-- The functions of Table 3-18. -/
def sopKnown (fn : Nat) : Bool :=
  decide (fn ≤ 0x0D ∨ (0x10 ≤ fn ∧ fn ≤ 0x16) ∨ fn = 0x18 ∨ fn = 0x19 ∨ fn = 0x20 ∨ fn = 0x21)

/-- The functions that read SRC_A only. -/
def sopUnary (fn : Nat) : Bool := fn == 0x0D || fn == 0x18 || fn == 0x19 || fn == 0x20

/-- Integer functions on values of width `w`; `n` is the whole SRC_B operand, which shifts take as their count
(R593). -/
def sopInt (fn w a n : Nat) : Nat :=
  let b := n % 2 ^ w
  let lt := decide (toInt w a < toInt w b)
  match fn with
  | 0x00 => (a + b) % 2 ^ w
  | 0x01 => (a + 2 ^ w - b) % 2 ^ w
  | 0x02 => a * b % 2 ^ w
  | 0x03 => a &&& b
  | 0x04 => a ||| b
  | 0x05 => a ^^^ b
  | 0x06 => if w ≤ n then 0 else a * 2 ^ n % 2 ^ w
  | 0x07 => if w ≤ n then 0 else a / 2 ^ n
  | 0x08 => if w ≤ n then (if toInt w a < 0 then 2 ^ w - 1 else 0) else ofInt w (toInt w a / (2 ^ n : Nat))
  | 0x09 => if lt then a else b
  | 0x0A => if lt then b else a
  | 0x0B => b2n lt
  | 0x0C => b2n (a == b)
  | _ => a

/-- The code of the FP value `r` and its flags, from FP32 operands. -/
def sopRes (r : FVal) (ops : List FVal) : Nat × Nat :=
  let c := arith fp32 r
  (c.1, orFlags c.2 (nanFlag r ops))

/-- FMIN and FMAX (R74): a NaN gives the canonical NaN. -/
def sopPick (wantLow : Bool) (a b : Nat) : Nat :=
  match (fp32.decode a).pick wantLow (fp32.decode b) with
  | .nan => fp32.nanCode
  | r => if r = fp32.decode a then a else b

/-- CVT_F2I of an FP32 code to `w` bits: to nearest even, saturating as R589 does; a NaN gives 0 and INVALID. -/
def f2i (w a : Nat) : Nat × Nat :=
  let g : Fmt := { width := w, p := 128, emin := 0, maxN := 2 ^ (w - 1) - 1, maxE := 0, hasInf := false, hasNan := false,
                   isInt := true }
  convert g (fp32.decode a)

/-- A scalar function without LOAD and STORE: its result of the TYPE's width and its flags (R593, R590). -/
def sopRun (fn ty a b : Nat) : Nat × Nat :=
  let w := sopWidth ty
  let x := fp32.decode (a % 2 ^ 32)
  let y := fp32.decode (b % 2 ^ 32)
  match fn with
  | 0x10 => sopRes (x.add y) [x, y]
  | 0x11 => sopRes (x.add y.neg) [x, y]
  | 0x12 => sopRes (x.mul y) [x, y]
  | 0x13 => sopRes (x.div y) [x, y]
  | 0x14 => (sopPick true (a % 2 ^ 32) (b % 2 ^ 32), 0)
  | 0x15 => (sopPick false (a % 2 ^ 32) (b % 2 ^ 32), 0)
  | 0x16 => (b2n (x.ieeeLt y), 0)
  | 0x18 => arith fp32 (ofScaled (toInt w a) 0)
  | 0x19 => f2i w (a % 2 ^ 32)
  | _ => (sopInt fn w (a % 2 ^ w) b, 0)

end Sys2Proof.Machine
end

