-- ==== Sys2Proof/Machine/Shape.lean ====
section
/-!
DEFINITION. The shape plan of a harness and its checks (07 R237, R240 to R244, Table 7-2).
-/
namespace Sys2Proof.Machine

/-- An operator record of the plan. -/
structure ShapeOp where
  kind      : Nat
  fmtA      : Nat
  fmtB      : Nat
  outFmt    : Nat
  biasOk    : Bool
  sat       : Bool
  maxM      : Nat
  maxN      : Nat
  maxK      : Nat
  maxBatch  : Nat
  maxGroups : Nat
  candFirst : Nat
  candNum   : Nat
  tileFirst : Nat
  g         : Nat
  own       : Nat
  paramT1   : Nat
  paramSize : Nat
  deriving DecidableEq, Repr

/-- A candidate record of the plan. -/
structure Cand where
  tm     : Nat
  tn     : Nat
  ksplit : Nat
  stream : Bool
  mcast  : Bool
  units  : Nat
  mmin   : Nat
  mmax   : Nat
  t1     : Nat
  region : Nat
  deriving DecidableEq, Repr

/-- A shape plan. -/
structure Shape where
  micro    : Nat
  slots    : Nat
  maxSeq   : Nat
  maxPages : Nat
  ops      : List ShapeOp
  cands    : List Cand
  tiles    : List Nat
  deriving DecidableEq, Repr

/-- Where the candidate records and the tile list start; each part starts on a 64-byte boundary (R240). -/
def candOff (p : Bytes) : Nat := 64 + 64 * fld p 2 2
def tileOff (p : Bytes) : Nat := ceilDiv (candOff p + 32 * fld p 4 2) 64 * 64

/-- Reads an operator record. -/
def shapeOpOf (b : Bytes) : ShapeOp :=
  { kind := byteAt b 0, fmtA := byteAt b 1 % 16, fmtB := byteAt b 1 / 16, outFmt := byteAt b 2 % 8,
    biasOk := bit (byteAt b 2) 3, sat := bit (byteAt b 2) 4, maxM := fld b 4 4, maxN := fld b 8 4, maxK := fld b 12 4,
    maxBatch := fld b 16 4, maxGroups := fld b 20 4, candFirst := fld b 24 2, candNum := byteAt b 26,
    tileFirst := fld b 28 4, g := fld b 32 2, own := fld b 34 2, paramT1 := 64 * fld b 36 4, paramSize := fld b 40 4 }

/-- Reads a candidate record. -/
def candOf (b : Bytes) : Cand :=
  { tm := fld b 0 2, tn := fld b 2 2, ksplit := byteAt b 4, stream := bit (byteAt b 5) 0, mcast := bit (byteAt b 5) 1,
    units := fld b 6 2, mmin := fld b 8 4, mmax := fld b 12 4, t1 := fld b 16 4, region := fld b 20 4 }

/-- Reads a plan. -/
def shapeOf (p : Bytes) : Shape :=
  { micro := byteAt p 6, slots := fld p 8 2, maxSeq := fld p 12 4, maxPages := fld p 16 4,
    ops := (List.range (fld p 2 2)).map fun i => shapeOpOf (slice p (64 + 64 * i) 64),
    cands := (List.range (fld p 4 2)).map fun i => candOf (slice p (candOff p + 32 * i) 32),
    tiles := (List.range (fld p 20 4)).map fun i => fld p (tileOff p + 2 * i) 2 }

/-- The candidates of an operator. -/
def ShapeOp.cands (o : ShapeOp) (p : Shape) : List Cand := (p.cands.drop o.candFirst).take o.candNum

/-- The tile group of an operator. -/
def ShapeOp.group (o : ShapeOp) (p : Shape) : List Nat := (p.tiles.drop o.tileFirst).take o.g

/-- The bytes of a plan: its ranges and reserved fields (R241 point 1). -/
def shapeBytesOk (b : Bytes) : Bool :=
  let p := shapeOf b
  decide (tileOff b + 2 * fld b 20 4 ≤ b.length) && fld b 0 2 == 1 && decide (1 ≤ fld b 2 2 ∧ fld b 2 2 ≤ 256) &&
    decide (1 ≤ fld b 4 2 ∧ fld b 4 2 ≤ 1024) && decide (1 ≤ p.micro ∧ p.micro ≤ 8) && zeroAt b 7 1 &&
    decide (64 ≤ p.slots ∧ p.slots ≤ 2048) && p.slots % 64 == 0 && zeroAt b 10 2 &&
    decide (1 ≤ p.maxSeq ∧ p.maxSeq ≤ 1048576) && zeroAt b 0x18 40 &&
    ((List.range (fld b 2 2)).all fun i =>
      let r := slice b (64 + 64 * i) 64
      byteAt r 2 / 32 == 0 && zeroAt r 3 1 && zeroAt r 27 1 && zeroAt r 44 20) &&
    (List.range (fld b 4 2)).all fun i =>
      let r := slice b (candOff b + 32 * i) 32
      byteAt r 5 / 4 == 0 && zeroAt r 24 8

/-- The ranges of an operator (Table 7-2). -/
def ShapeOp.inRange (o : ShapeOp) (p : Shape) : Bool :=
  decide (o.kind = 1 ∨ o.kind = 2) && pairOk o.fmtA o.fmtB && decide (o.outFmt ≤ 4) &&
    (if o.kind = 2 then o.maxBatch == 1 && decide (1 ≤ o.maxGroups ∧ o.maxGroups ≤ 4096) else o.maxGroups == 0) &&
    decide (1 ≤ o.candNum ∧ o.candNum ≤ 8) && decide (o.candFirst + o.candNum ≤ p.cands.length) &&
    decide (1 ≤ o.g ∧ o.g ≤ 2048) && decide (o.tileFirst + o.g ≤ p.tiles.length) &&
    ((o.cands p).any (·.stream) || o.own == 0) && decide (o.paramT1 + o.paramSize ≤ 2 ^ 19)

/-- The ranges of a candidate (Table 7-2). -/
def Cand.inRange (c : Cand) : Bool :=
  decide (32 ≤ c.tm ∧ c.tm ≤ 1024) && c.tm % 32 == 0 && decide (64 ≤ c.tn ∧ c.tn ≤ 1024) && c.tn % 64 == 0 &&
    decide (1 ≤ c.ksplit ∧ c.ksplit ≤ 16) && decide (2 ≤ c.units ∧ c.units ≤ 256)

/-- The first row count from `m` on that a run of candidates, in record order, leaves uncovered; rows beyond `top` need no cover. -/
def coverFrom (top m : Nat) : List Cand → Nat
  | [] => m
  | c :: cs => if m ≤ top ∧ m < c.mmin then m else coverFrom top (max m (c.mmax + 1)) cs

/-- Work items of one batch entry or group for a candidate at the planned maxima, and those that one tile gets of them on a STREAM
candidate (R243, R244). -/
def candItems (o : ShapeOp) (c : Cand) : Nat := ceilDiv (min o.maxM c.mmax) c.tm * ceilDiv o.maxN c.tn * c.ksplit
def streamItems (o : ShapeOp) (c : Cand) : Nat := ceilDiv (min o.maxM c.mmax) c.tm * ceilDiv (ceilDiv o.maxN c.tn) (max 1 o.own)

/-- Work items that a tile can receive of `n` groups on FETCH candidates of `f` items each, when groups on STREAM candidates may stand between
them, each of which takes the place of one group but the tile's own: runs of whole groups go round the tiles, each from any tile on. -/
def fetchItems (f g n : Nat) : Nat :=
  ((List.range ((n + 1) / 2 + 1)).map fun r => r * ceilDiv f g + ceilDiv ((n - (r - 1) - r) * f) g).foldl max 0

/-- The largest number of work items that one tile of the group can receive at the planned maxima (R241 point 7, R244): a batch takes one
candidate, each group its own. -/
def maxItems (o : ShapeOp) (cs : List Cand) : Nat :=
  let st := ((cs.filter (·.stream)).map (streamItems o)).foldl max 0
  let fe := ((cs.filter fun c => !c.stream).map (candItems o)).foldl max 0
  if o.kind = 1 then max (o.maxBatch * st) (ceilDiv (o.maxBatch * fe) o.g)
  else if st = 0 ∨ fe = 0 then max st (ceilDiv (o.maxGroups * fe) o.g)
  else max (st + fetchItems fe o.g (o.maxGroups - 1)) (ceilDiv (o.maxGroups * fe) o.g)

/-- Points 2 to 7 of R241 for one operator; `region` gives the size of a T1_MAP region of a tile. -/
def opOk (p : Shape) (region : Nat → Nat → Nat) (o : ShapeOp) : Bool :=
  let cs := o.cands p
  let bf := o.fmtA == 9 || o.fmtB == 9
  decide (o.maxM < coverFrom o.maxM 1 cs) &&
    (!bf || cs.all fun c => c.ksplit == (cs.headD ⟨0, 0, 0, false, false, 0, 0, 0, 0, 0⟩).ksplit) &&
    (cs.all fun c => !c.stream || (c.ksplit == 1 && decide (ceilDiv o.maxN c.tn ≤ o.own) &&
      decide ((if o.kind = 1 then o.own else o.maxGroups * o.own) ≤ o.g))) &&
    (cs.all fun c => (o.group p).all fun t => decide (c.t1 ≤ region t c.region)) &&
    decide (64 + 32 * maxItems o cs ≤ o.paramSize)

/-- The loader's checks of a shape plan (R241) for a harness of `tiles` tiles. -/
def shapeOk (b : Bytes) (tiles : Nat) (region : Nat → Nat → Nat) : Bool :=
  let p := shapeOf b
  shapeBytesOk b && p.cands.all Cand.inRange && (p.ops.all fun o => o.inRange p) &&
    (p.tiles.all fun t => decide (t < tiles)) && p.ops.all (opOk p region)

end Sys2Proof.Machine
end

