-- ==== Sys2Proof/Machine/Image.lean ====
section
/-!
DEFINITION. Harness and overlay images: their layout and the checks of HARNESS_LOAD (04 R129 to R136, R145, R146, Tables
4-1 to 4-8; 07 R241; 03 R80 to R107, Tables 3-3 to 3-19, R592).
-/
namespace Sys2Proof.Machine

/-! ### Instruction words (Table 3-3) -/

/-- Bits [hi:lo] of an instruction word. -/
def iw (w : InstrWord) (hi lo : Nat) : Nat := bits w.toNat hi lo

/-- The opcode. -/
def opcodeOf (w : InstrWord) : Nat := iw w 7 0

/-- Input queue index, output queue index, network of a queue index (R80). -/
def isInQ (q : Nat) : Bool := decide (q < 24) && q / 4 % 2 == 0
def isOutQ (q : Nat) : Bool := decide (q < 24) && q / 4 % 2 == 1
def netOf (q : Nat) : Nat := q / 8

/-- Hardware depth of a network's queues (Table 3-1). -/
def depthOf (net : Nat) : Nat := if net = 0 then 32 else if net = 1 then 16 else 64

/-- True where a condition's reserved bits are zero and its KIND is defined (Table 3-4). -/
def condReserved (c : Nat) : Bool :=
  match c / 2 ^ 13 with
  | 0 => c == 0
  | 1 | 2 => bits c 7 6 == 0
  | 3 => true
  | 4 => bits c 12 6 == 0
  | 5 => bits c 12 4 == 0
  | _ => false

/-- True where a condition names a queue of the right network, direction and depth (R92). -/
def condRules (c : Nat) : Bool :=
  let q := bits c 12 8
  let n := bits c 5 0
  match c / 2 ^ 13 with
  | 1 => isInQ q && decide (1 ≤ n ∧ n ≤ depthOf (netOf q))
  | 2 => isOutQ q && decide (1 ≤ n ∧ n ≤ depthOf (netOf q))
  | 3 => isInQ q && netOf q == 2
  | _ => true

/-- Lanes that an opcode is for (Table 3-6): 0 MX to 4 GX; none for a reserved opcode. -/
def laneFor (op lane : Nat) : Bool :=
  if op ≤ 7 then true
  else if op = 8 ∨ op = 0x30 then lane == 2
  else if op = 0x10 ∨ op = 0x11 then lane == 0
  else if op = 0x20 then lane == 1
  else if op = 0x40 ∨ op = 0x41 then lane == 3
  else if op = 0x50 ∨ op = 0x51 then lane == 4
  else false

/-- True where an operand reference of Table 3-14 has its reserved bits zero. -/
def refReserved (r : Nat) : Bool :=
  match r / 2 ^ 14 with
  | 0 => bits r 13 6 == 0
  | 1 => true
  | 2 => bits r 13 5 == 0
  | _ => bits r 13 13 == 0

/-- True where bits [hi:lo] are zero for each pair listed. -/
def zeroBits (w : InstrWord) (rs : List (Nat × Nat)) : Bool := rs.all fun r => iw w r.1 r.2 == 0

/-- True where an MXE_OP works on half a block: partials through the vector registers (R54). -/
def mxeHalf (w : InstrWord) : Bool := (iw w 104 103 == 2 && iw w 110 110 == 0) || (iw w 102 101 == 2 && iw w 224 224 == 1)

/-- Check 5 of Table 4-5 on the OPERANDS of an instruction: reserved fields and values. -/
def operandReserved (w : InstrWord) : Bool :=
  match opcodeOf w with
  | 0 | 4 | 5 => zeroBits w [(255, 64)]
  | 1 => zeroBits w [(95, 73), (255, 128)]
  | 2 | 3 => zeroBits w [(255, 69)]
  | 6 => zeroBits w [(95, 75), (255, 128)] && (netOf (iw w 68 64) != 2 || iw w 127 104 == 0)
  | 7 => zeroBits w [(255, 68)]
  | 8 => decide (iw w 83 80 ≤ 9) && zeroBits w [(255, 128)]
  | 0x10 => decide (iw w 73 72 ≤ 1 ∧ iw w 75 74 ≤ 1 ∧ iw w 102 101 ≤ 2 ∧ iw w 104 103 ≤ 2 ∧ iw w 107 105 ≤ 4 ∧
      iw w 67 64 ≤ 11 ∧ iw w 71 68 ≤ 11) && zeroBits w [(126, 122), (255, 226)] && (mxeHalf w || iw w 225 225 == 0)
  | 0x11 => zeroBits w [(99, 72), (207, 101), (255, 226)] && (iw w 224 224 == 1 || iw w 225 225 == 0)
  | 0x20 => decide (iw w 75 72 ≤ 11 ∧ iw w 79 76 ≤ 11 ∧ iw w 86 85 ≤ 2) &&
      (decide (0x38 ≤ iw w 71 64 ∧ iw w 71 64 ≤ 0x3F) || iw w 86 85 == 0) && vKnown (iw w 71 64) &&
      zeroBits w [(95, 87), (191, 160), (255, 224)] &&
      [(111, 96), (127, 112), (143, 128), (159, 144)].all fun r => refReserved (iw w r.1 r.2)
  | 0x30 => sopKnown (iw w 71 64) && decide (iw w 73 72 ≤ 2) && zeroBits w [(80, 79), (88, 87), (127, 98), (255, 192)] &&
      (iw w 97 90 == 0xFF || iw w 96 95 == 0)
  | 0x40 | 0x41 => zeroBits w [(95, 87), (255, 134)] && refReserved (iw w 111 96) && decide (1 ≤ iw w 127 112)
  | 0x50 | 0x51 => decide (iw w 65 64 ≤ 1) && zeroBits w [(255, 133)] &&
      (if iw w 65 64 = 0 then iw w 127 96 == 0 && (opcodeOf w == 0x51 || iw w 95 79 == 0)
       else decide (64 ≤ iw w 127 96 ∧ iw w 127 96 ≤ 16777216) && iw w 127 96 % 64 == 0)
  | _ => false

/-- Check 5 on a whole instruction in a lane. -/
def instrReserved (w : InstrWord) : Bool :=
  iw w 15 15 == 0 && iw w 63 58 == 0 && condReserved (iw w 31 16) && condReserved (iw w 47 32) && operandReserved w

/-- A vector operand in a queue of the vector network, input for a source and output for a destination (R92). -/
def refQueueOk (r : Nat) (src : Bool) : Bool :=
  r / 2 ^ 14 != 2 || ((if src then isInQ (r % 32) else isOutQ (r % 32)) && netOf (r % 32) == 1)

/-- A T1 operand without an index fits T1 (R99). -/
def refT1Ok (r n : Nat) : Bool := r / 2 ^ 14 != 1 || bit r 13 || decide (r % 2 ^ 13 * 64 + n ≤ 2 ^ 19)

/-- The source rules of R592 for one source: read ones name something, unread ones are KIND 3 with ADDR zero. -/
def sourceOk (r : Nat) (reads isB : Bool) : Bool :=
  if reads then r / 2 ^ 14 != 3 || isB else r == 3 * 2 ^ 14

/-- Check 6 of Table 4-5 on the operands of an instruction (R54, R87, R92, R96, R98, R99, R592). -/
def operandRules (w : InstrWord) : Bool :=
  match opcodeOf w with
  | 6 => isOutQ (iw w 68 64) && netOf (iw w 68 64) != 1 &&
      (iw w 69 69 == 1 || netOf (iw w 68 64) != 2 || decide (iw w 103 96 ≤ 0xEF))
  | 0x10 =>
    pairOk (iw w 67 64) (iw w 71 68) && (!mxeHalf w || decide (iw w 213 208 ≤ 16))
  | 0x11 => pairOk (iw w 67 64) (iw w 71 68) && (iw w 224 224 == 0 || decide (iw w 213 208 ≤ 16))
  | 0x20 =>
    let fn := iw w 71 64
    let rd := vReads fn
    let a := iw w 111 96
    let b := iw w 127 112
    let c := iw w 143 128
    let d := iw w 159 144
    sourceOk a rd.1 false && sourceOk b rd.2.1 true && sourceOk c rd.2.2 false &&
      refQueueOk a true && refQueueOk b true && refQueueOk c (fn != 0x29) && refQueueOk d false &&
      [a, b, c, d].all fun r => refT1Ok r 256
  | 0x30 =>
    (iw w 81 81 == 0 || (isOutQ (iw w 78 74) && netOf (iw w 78 74) == 0)) &&
      (iw w 89 89 == 0 || (isInQ (iw w 86 82) && netOf (iw w 86 82) == 0)) &&
      (iw w 97 90 == 0xFF || iw w 97 97 == 0 || (isInQ (iw w 94 90) && netOf (iw w 94 90) == 0))
  | 0x40 | 0x41 =>
    let r := iw w 111 96
    let n := iw w 127 112
    decide (r / 2 ^ 14 ≤ 1) && refT1Ok r (64 * n) && (r / 2 ^ 14 != 0 || decide (n ≤ 4 * (64 - r % 64))) &&
      (iw w 81 81 == 1 || decide (iw w 80 64 * 64 + 64 * n ≤ 0x7C0000))
  | _ => true

/-- Check 6 on an instruction of a lane with a segment of `len` instructions (R92). -/
def instrRules (w : InstrWord) (lane len : Nat) : Bool :=
  laneFor (opcodeOf w) lane && condRules (iw w 31 16) && condRules (iw w 47 32) && decide (iw w 57 48 < len) &&
    (iw w 13 13 == 0 || iw w 31 29 == 3) && (iw w 14 14 == 0 || iw w 47 45 == 3) && operandRules w

/-- Input queues that an instruction takes entries from (R91, R92). -/
def takesOf (w : InstrWord) : List Nat :=
  let c0 := if iw w 13 13 = 1 then [iw w 28 24] else []
  let c1 := if iw w 14 14 = 1 then [iw w 44 40] else []
  let vq (r : Nat) : List Nat := if r / 2 ^ 14 = 2 then [r % 32] else []
  let ops :=
    match opcodeOf w with
    | 0x20 => vq (iw w 111 96) ++ vq (iw w 127 112) ++ (if iw w 71 64 = 0x29 then [] else vq (iw w 143 128))
    | 0x30 => (if iw w 89 89 = 1 then [iw w 86 82] else []) ++
        (if iw w 97 90 ≠ 0xFF ∧ iw w 97 97 = 1 then [iw w 94 90] else [])
    | _ => []
  c0 ++ c1 ++ ops

/-- Output queues that an instruction writes. -/
def putsOf (w : InstrWord) : List Nat :=
  let vq (r : Nat) : List Nat := if r / 2 ^ 14 = 2 then [r % 32] else []
  match opcodeOf w with
  | 6 => [iw w 68 64]
  | 7 => [0, 1, 2, 3].filterMap fun d => if iw w (64 + d) (64 + d) = 1 then some (20 + d) else none
  | 0x20 => vq (iw w 159 144) ++ (if iw w 71 64 = 0x29 then vq (iw w 143 128) else [])
  | 0x30 => if iw w 81 81 = 1 then [iw w 78 74] else []
  | _ => []

/-- Loop counters that an instruction decrements or sets. -/
def countersOf (w : InstrWord) : List Nat :=
  (if iw w 11 11 = 1 then [iw w 10 8] else []) ++ (if opcodeOf w = 1 then [iw w 66 64] else [])

/-- Flags that an instruction sets or clears. -/
def flagsOf (w : InstrWord) : List Nat :=
  match opcodeOf w with
  | 2 | 3 => [iw w 68 64]
  | 0x40 | 0x41 => if iw w 133 133 = 1 then [iw w 132 128] else []
  | 0x50 | 0x51 => [iw w 132 128]
  | _ => []

/-! ### The image as data -/

/-- A spill ring (R100): input queue, T1 base in bytes, slots. -/
structure RingDecl where
  queue : Nat
  base  : Nat
  slots : Nat
  deriving DecidableEq, Repr

/-- A declared T1 region: kind, base in bytes, size. -/
structure Region where
  kind : Nat
  base : Nat
  size : Nat
  deriving DecidableEq, Repr

/-- Initial T1 contents: address in bytes and data. -/
structure InitData where
  addr : Nat
  data : Bytes
  deriving DecidableEq, Repr

/-- A BINDINGS record. -/
structure BindRec where
  kind : Nat
  tile : Nat
  off  : Nat
  size : Nat
  role : Nat
  deriving DecidableEq, Repr

/-- One hop of a RECONV record: tile, input queue, output queue. -/
structure Hop where
  tile : Nat
  inQ  : Nat
  outQ : Nat
  deriving DecidableEq, Repr

/-- A RECONV record (Table 4-4). -/
structure Reconv where
  pair  : Nat
  prod  : Nat
  prodL : Nat
  consL : Nat
  cons  : Nat
  skew  : Nat
  short : List Hop
  long  : List Hop
  deriving DecidableEq, Repr

/-- One tile as an image configures it (Table 4-3). -/
structure TileImg where
  prog   : List InstrWord
  segs   : List (Nat × Nat)
  outSrc : List Nat
  lcInit : List Nat
  fInit  : Nat
  sInit  : List W64
  rings  : List RingDecl
  maps   : List Region
  inits  : List InitData
  deriving DecidableEq, Repr

/-- A harness as its image, or its image and an overlay, configures it. -/
structure HImg where
  bays   : Nat
  wdog   : Nat
  red    : Nat
  tiles  : List TileImg
  reconv : List Reconv
  binds  : List BindRec
  plan   : Bytes
  deriving DecidableEq, Repr

/-- A section: offset, size, COUNT (Table 4-1). -/
def tableAt (img : Bytes) (ty : Nat) : Option (Nat × Nat × Nat) :=
  ((List.range (fld img 0x12 2)).find? fun i => fld img (0x80 + 16 * i) 2 == ty).map fun i =>
    (fld img (0x84 + 16 * i) 4, fld img (0x88 + 16 * i) 4, fld img (0x8C + 16 * i) 4)

/-- The bytes and COUNT of a section; nothing when absent. -/
def sectionOf (img : Bytes) (ty : Nat) : Bytes × Nat :=
  match tableAt img ty with
  | some (off, size, n) => (slice img off size, n)
  | none => ([], 0)

/-- Instruction words of 32 bytes. -/
def wordsOf (bs : Bytes) (n : Nat) : List InstrWord := (List.range n).map fun i => BitVec.ofNat 256 (fld bs (32 * i) 32)

/-- The program blocks, `n` of them, with their header's reserved bytes. -/
def blocksOf (bs : Bytes) : Nat → List (Bytes × List InstrWord)
  | 0 => []
  | n + 1 =>
    let c := fld bs 0 4
    (slice bs 0 32, wordsOf (bs.drop 32) c) :: blocksOf (bs.drop (32 + 32 * c)) n

/-- Twelve 4-bit sources (Table 4-3, OUT_SRC). -/
def outSrcOf (bs : Bytes) : List Nat := (List.range 12).map fun i => byteAt bs (i / 2) / 16 ^ (i % 2) % 16

/-- The records `first` to `first + n − 1` of a section. -/
def recsOf (bs : Bytes) (size first n : Nat) : List Bytes := (List.range n).map fun i => slice bs (size * (first + i)) size

/-- The tile of a TILES record. -/
def tileImg (img : Bytes) (blocks : List (Bytes × List InstrWord)) (r : Bytes) : TileImg :=
  let sc := (sectionOf img 3).1
  let rg := (sectionOf img 4).1
  let tm := (sectionOf img 5).1
  let ti := (sectionOf img 6).1
  let ref := fld r 72 4
  { prog := ((blocks[fld r 4 4]?).map (·.2)).getD [],
    segs := (List.range 5).map fun l => (fld r (8 + 4 * l) 2, fld r (10 + 4 * l) 2),
    outSrc := outSrcOf (slice r 28 6), lcInit := (List.range 8).map fun i => fld r (36 + 4 * i) 4, fInit := fld r 68 4,
    sInit := if ref = 0xFFFFFFFF then List.replicate 32 0
      else (List.range 32).map fun i => BitVec.ofNat 64 (fld sc (256 * ref + 8 * i) 8),
    rings := (recsOf rg 16 (fld r 76 4) (fld r 80 2)).map fun x =>
      { queue := byteAt x 2, base := 64 * fld x 4 4, slots := fld x 8 2 },
    maps := (recsOf tm 16 (fld r 84 4) (fld r 82 2)).map fun x =>
      { kind := fld x 2 2, base := 64 * fld x 4 4, size := fld x 8 4 },
    inits := (recsOf ti 16 (fld r 88 4) (fld r 92 2)).map fun x =>
      { addr := 64 * fld x 4 4, data := slice ti (fld x 12 4) (fld x 8 4) } }

/-- One hop. -/
def hopOf (bs : Bytes) : Hop := { tile := fld bs 0 2, inQ := byteAt bs 2, outQ := byteAt bs 3 }

/-- One RECONV record from its bytes. -/
def reconvOf (bs : Bytes) : Reconv :=
  let n := fld bs 12 2
  let m := fld bs 14 2
  { pair := fld bs 0 2, prod := fld bs 2 2, prodL := byteAt bs 4, consL := byteAt bs 5, cons := fld bs 6 2,
    skew := fld bs 8 4, short := (recsOf (bs.drop 32) 4 0 n).map hopOf, long := (recsOf (bs.drop 32) 4 n m).map hopOf }

/-- The RECONV records, `n` of them. -/
def reconvsOf (bs : Bytes) : Nat → List (Bytes × Reconv)
  | 0 => []
  | n + 1 =>
    let r := reconvOf bs
    (slice bs 0 32, r) :: reconvsOf (bs.drop (32 + 4 * (r.short.length + r.long.length))) n

/-- The harness of an image. -/
def himgOf (img : Bytes) : HImg :=
  let ts := sectionOf img 1
  let pr := sectionOf img 2
  let blocks := blocksOf pr.1 pr.2
  let rc := sectionOf img 7
  let bd := sectionOf img 8
  { bays := byteAt img 0x10, wdog := fld img 0xE 2, red := byteAt img 0xD,
    tiles := (recsOf ts.1 128 0 ts.2).map (tileImg img blocks), reconv := (reconvsOf rc.1 rc.2).map (·.2),
    binds := (recsOf bd.1 32 0 bd.2).map fun x =>
      { kind := byteAt x 2, tile := fld x 4 2, off := fld x 8 4, size := fld x 12 8, role := fld x 20 4 },
    plan := (sectionOf img 9).1 }

/-! ### Checks of HARNESS_LOAD (Table 4-5) -/

/-- `STEPPING` of A1. -/
def steppingA1 : Nat := 0x11

/-- Check 1. -/
def check1 (img : Bytes) : Bool :=
  decide (512 ≤ img.length) && fld img 0 4 == 0x4E485944 && fld img 4 2 == 1 && fld img 6 2 == 0x200 &&
    fld img 0x1FC 4 == crc32 (putBytes (slice img 0 512) 0x1FC [0, 0, 0, 0]) && decide (byteAt img 0xC ≤ steppingA1)

/-- Check 2. -/
def check2 (img : Bytes) : Bool :=
  fld img 0x40 32 == (sha3 (slice img 0x200 (fld img 8 4 - 0x200))).toNat

/-- Check 3: ranges. -/
def check3 (img : Bytes) : Bool :=
  let size := fld img 8 4
  let n := fld img 0x12 2
  let mi := byteAt img 0x11
  decide (512 ≤ size ∧ size ≤ 33554432 ∧ size ≤ img.length) && decide (1 ≤ byteAt img 0x10 ∧ byteAt img 0x10 ≤ 8) &&
    decide (mi % 16 ≤ 3 ∧ 1 ≤ mi / 16 ∧ mi / 16 ≤ 4) && decide (16 ≤ fld img 0xE 2) && decide (1 ≤ n ∧ n ≤ 16) &&
    (List.range n).all fun i =>
      let o := fld img (0x84 + 16 * i) 4
      let ty := fld img (0x80 + 16 * i) 2
      decide (1 ≤ ty ∧ ty ≤ 10) && o % 64 == 0 && decide (512 ≤ o) && decide (o + fld img (0x88 + 16 * i) 4 ≤ size)

/-- Bytes of a section's fixed records, by type. -/
def recSize (ty : Nat) : Nat :=
  match ty with
  | 1 => 128 | 3 => 256 | 4 => 16 | 5 => 16 | 6 => 16 | 8 => 32 | _ => 0

/-- Check 4. -/
def check4 (img : Bytes) : Bool :=
  let ts := sectionOf img 1
  [1, 2, 9].all (fun t => (tableAt img t).isSome) &&
    ((tableAt img 10).isSome == (byteAt img 0xD == 1)) && ts.2 == 256 * byteAt img 0x10 &&
    [1, 3, 4, 5, 6, 8].all fun t => decide ((sectionOf img t).2 * recSize t ≤ (sectionOf img t).1.length)

/-- Check 5 on a tile: reserved source codes; instructions are checked block by block. -/
def tileReserved (t : TileImg) : Bool := t.outSrc.all fun c => decide (c ≤ 4) || c == 15

/-- Check 5 on the bytes of an image. -/
def check5 (img : Bytes) : Bool :=
  let n := fld img 0x12 2
  let rz (ty size : Nat) (fs : List (Nat × Nat)) : Bool :=
    let s := sectionOf img ty
    (recsOf s.1 size 0 s.2).all fun r => fs.all fun f => zeroAt r f.1 f.2
  let pr := sectionOf img 2
  let ts := sectionOf img 1
  decide (byteAt img 0xD ≤ 1) && zeroAt img 0x14 12 && zeroAt img 0x60 32 && zeroAt img 0x180 124 &&
    (List.range n).all (fun i => zeroAt img (0x82 + 16 * i) 2) && zeroAt img (0x80 + 16 * n) (16 * (16 - n)) &&
    rz 1 128 [(2, 2), (34, 2), (94, 34)] && rz 4 16 [(3, 1), (10, 6)] && rz 5 16 [(12, 4)] && rz 6 16 [(2, 2)] &&
    rz 8 32 [(3, 1), (6, 2), (24, 8)] &&
    (reconvsOf (sectionOf img 7).1 (sectionOf img 7).2).all (fun r => zeroAt r.1 16 16) &&
    (blocksOf pr.1 pr.2).all (fun b => zeroAt b.1 4 28 && decide (1 ≤ b.2.length ∧ b.2.length ≤ 1024) &&
      b.2.all instrReserved) &&
    (recsOf ts.1 128 0 ts.2).all fun r => (outSrcOf (slice r 28 6)).all fun c => decide (c ≤ 4) || c == 15

/-- True where the records that a TILES record names exist and name its tile, `i`, whose position its TILE must equal; blocks and data lie
inside their sections (Tables 4-2 and 4-3). -/
def refsOk (img : Bytes) (i : Nat) (r : Bytes) : Bool :=
  let own (ty first n : Nat) : Bool :=
    let sc := sectionOf img ty
    decide (first + n ≤ sc.2) && (recsOf sc.1 16 first n).all fun x => fld x 0 2 == i
  let ti := sectionOf img 6
  fld r 0 2 == i && decide (fld r 4 4 < (sectionOf img 2).2) &&
    (fld r 72 4 == 0xFFFFFFFF || decide (fld r 72 4 < (sectionOf img 3).2)) &&
    decide (fld r 80 2 ≤ 12) && own 4 (fld r 76 4) (fld r 80 2) && own 5 (fld r 84 4) (fld r 82 2) && own 6 (fld r 88 4) (fld r 92 2) &&
    (recsOf ti.1 16 (fld r 88 4) (fld r 92 2)).all fun x => decide (fld x 12 4 + fld x 8 4 ≤ ti.1.length)

/-- The TILES records and the program blocks of an image: every reference is good, and every block and pair is whole. -/
def imgLayoutOk (img : Bytes) : Bool :=
  let ts := sectionOf img 1
  let pr := sectionOf img 2
  let rc := sectionOf img 7
  ((recsOf ts.1 128 0 ts.2).zipIdx.all fun x => refsOk img x.2 x.1) &&
    decide (((blocksOf pr.1 pr.2).map fun b => 32 + 32 * b.2.length).sum ≤ pr.1.length) &&
    decide (((reconvsOf rc.1 rc.2).map fun x => 32 + 4 * (x.2.short.length + x.2.long.length)).sum ≤ rc.1.length)

/-- The instructions of a lane of a tile. -/
def laneWords (t : TileImg) (l : Nat) : List InstrWord :=
  let g := t.segs.getD l (0, 0)
  (t.prog.drop g.1).take g.2

/-- True where no two lanes share an element of `f` (R92). -/
def lanesDisjoint (t : TileImg) (f : InstrWord → List Nat) : Bool :=
  let sets := (List.range 5).map fun l => ((laneWords t l).flatMap f).eraseDups
  (List.range 5).all fun i => (List.range 5).all fun j =>
    i == j || (sets.getD i []).all fun x => !(sets.getD j []).contains x

/-- The queue index that an OUT_SRC position stands for. -/
def outIx (i : Nat) : Nat := 8 * (i / 4) + 4 + i % 4

/-- True where a direction of a tile leads out of its region (R131): N, E, S, W. -/
def atEdge (bays r dir : Nat) : Bool :=
  let c := r % (8 * bays)
  let row := r / (8 * bays)
  if dir = 0 then row == 0 else if dir = 1 then c + 1 == 8 * bays else if dir = 2 then row == 31 else c == 0

/-- Input queues that a tile's lanes take from. -/
def laneTakes (t : TileImg) : List Nat := ((List.range 5).flatMap fun l => (laneWords t l).flatMap takesOf).eraseDups

/-- Output queues that a tile's lanes write. -/
def lanePuts (t : TileImg) : List Nat := ((List.range 5).flatMap fun l => (laneWords t l).flatMap putsOf).eraseDups

/-- The routes of a tile stay in its region, an input queue feeds at most three output queues, and lanes write only
queues that are theirs (R82, R83, R131). -/
def routesOk (bays r : Nat) (t : TileImg) : Bool :=
  (t.outSrc.zipIdx.all fun x =>
    x.1 == 15 || (!atEdge bays r (x.2 % 4) && (x.1 == 0 || !atEdge bays r (x.1 - 1)))) &&
    ((List.range 12).all fun i =>
      decide (((List.range 4).filter fun d => t.outSrc.getD (i / 4 * 4 + d) 15 == i % 4 + 1).length ≤ 3)) &&
    ((laneTakes t).all fun q => !atEdge bays r (q % 4)) &&
    (lanePuts t).all fun q => t.outSrc.getD (q / 8 * 4 + q % 4) 15 == 0

/-- Segments lie in the tile's block and do not overlap (R88). -/
def segsOk (t : TileImg) : Bool :=
  (t.segs.all fun g => decide (g.1 < 1024 ∧ g.2 ≤ 1024 ∧ g.1 + g.2 ≤ t.prog.length)) &&
    (List.range 5).all fun i => (List.range 5).all fun j =>
      let a := t.segs.getD i (0, 0)
      let b := t.segs.getD j (0, 0)
      i == j || a.2 == 0 || b.2 == 0 || decide (a.1 + a.2 ≤ b.1 ∨ b.1 + b.2 ≤ a.1)

/-- Check 6 on one tile. -/
def check6 (bays r : Nat) (t : TileImg) : Bool :=
  segsOk t && ((List.range 5).all fun l => (laneWords t l).all fun w => instrRules w l (t.segs.getD l (0, 0)).2) &&
    lanesDisjoint t takesOf && lanesDisjoint t putsOf && lanesDisjoint t countersOf && lanesDisjoint t flagsOf &&
    routesOk bays r t

/-- The T1 bytes of a spill ring (Table 3-7). -/
def ringBytes (g : RingDecl) : Nat :=
  if netOf g.queue = 0 then 8 * g.slots
  else if netOf g.queue = 1 then 64 * g.slots + ceilDiv g.slots 64 * 64
  else 2 * g.slots

/-- True where no two runs of a list share a byte. -/
def runsApart : List (Nat × Nat) → Bool
  | [] => true
  | x :: xs => (xs.all fun y => decide (x.1 + x.2 ≤ y.1 ∨ y.1 + y.2 ≤ x.1)) && runsApart xs

/-- Check 7 on one tile (R100, R101). -/
def check7 (t : TileImg) : Bool :=
  let rs := t.rings.map fun g => (g.base, ringBytes g)
  (t.rings.all fun g => isInQ g.queue && decide (16 ≤ g.slots ∧ g.slots ≤ 4096) && g.slots % 16 == 0 &&
    decide (g.base + ringBytes g ≤ 2 ^ 19)) &&
    (t.rings.map (·.queue)).eraseDups.length == t.rings.length &&
    (t.maps.all fun m => decide (m.base + m.size ≤ 2 ^ 19)) && runsApart rs &&
    (rs.all fun x => t.maps.all fun m => decide (x.1 + x.2 ≤ m.base ∨ m.base + m.size ≤ x.1)) &&
    t.inits.all fun d => t.maps.any fun m => decide (m.base ≤ d.addr ∧ d.addr + d.data.length ≤ m.base + m.size)

/-- The instructions that may follow instruction `i` of a lane (R91, Table 3-6). -/
def followers (ws : List InstrWord) (i : Nat) : List Nat :=
  let w := ws.getD i 0
  let jump := opcodeOf w == 4
  let jumps := if jump || iw w 12 12 == 1 then [iw w 57 48] else []
  (jumps ++ if jump || opcodeOf w == 5 then [] else [i + 1]).filter (· < ws.length)

/-- True for an instruction that works on an accumulator bank. -/
def onBank (w : InstrWord) (k : Nat) : Bool := (opcodeOf w == 0x10 || opcodeOf w == 0x11) && iw w 100 100 == k

/-- The instructions that may be the next on bank `k`, from the ones in `seen`: `n` rounds pass over those that leave the bank alone. -/
def nextOnBank (ws : List InstrWord) (k : Nat) : Nat → List Nat → List Nat
  | 0, seen => seen.filter fun i => onBank (ws.getD i 0) k
  | n + 1, seen => nextOnBank ws k n
      (seen ++ ((seen.filter fun i => !onBank (ws.getD i 0) k).flatMap (followers ws))).eraseDups

/-- Check 8 on one tile (R68): no reduction of a narrow pair is drained FINAL before its last part, as far as the program of the matrix lane
shows it: no instruction that goes on with the bank, a CONTINUE or a MERGE, follows a FINAL drain (DEDUCED, notes/assumptions/18.md). -/
def check8 (t : TileImg) : Bool :=
  let ws := laneWords t 0
  ws.zipIdx.all fun x =>
    !(opcodeOf x.1 == 0x10 && iw x.1 104 103 == 1 && iw x.1 67 64 != 9) ||
      (nextOnBank ws (iw x.1 100 100) ws.length (followers ws x.2)).all fun i =>
        let w := ws.getD i 0
        !(opcodeOf w == 0x11 || iw w 102 101 == 1)

/-- Check 9. -/
def check9 (h : HImg) : Bool :=
  h.binds.all fun b => decide (b.kind ≤ 3) && (decide (2 ≤ b.kind) || decide (b.off + b.size ≤ 0x7C0000)) &&
    (b.tile == 0xFFFF || decide (b.tile < 256 * h.bays))

/-- The neighbour of a relative tile in a direction. -/
def neighbourTile (bays r dir : Nat) : Nat :=
  if dir = 0 then r - 8 * bays else if dir = 1 then r + 1 else if dir = 2 then r + 8 * bays else r - 1

/-- A run of hops follows the routes: the tile before feeds the input queue named, and its output queue has that source
(check 10). -/
def hopsFollow (h : HImg) (cons : Nat) : Nat → Nat → List Hop → Bool
  | _, _, [] => false
  | tile, out, x :: xs =>
    x.tile == neighbourTile h.bays tile (out % 4) && x.inQ == 8 * (out / 8) + (out % 4 + 2) % 4 &&
      if xs.isEmpty then x.tile == cons && x.outQ == 0xFF
      else isOutQ x.outQ && netOf x.outQ == netOf x.inQ &&
        ((h.tiles[x.tile]?).any fun t => t.outSrc.getD (x.outQ / 8 * 4 + x.outQ % 4) 15 == x.inQ % 4 + 1) &&
        hopsFollow h cons x.tile x.outQ xs

/-- A route starts at an output queue of the producer that its lanes feed. -/
def routeFrom (h : HImg) (c : Reconv) (hops : List Hop) : Bool :=
  match hops with
  | [] => false
  | x :: _ =>
    let dir := (x.inQ % 4 + 2) % 4
    let out := 8 * (x.inQ / 8) + 4 + dir
    ((h.tiles[c.prod]?).any fun t => t.outSrc.getD (out / 8 * 4 + dir) 15 == 0) && hopsFollow h c.cons c.prod out hops

/-- Check 10. -/
def check10 (h : HImg) : Bool :=
  h.reconv.all fun c => decide (c.prodL ≤ 4 ∧ c.consL ≤ 4) && routeFrom h c c.short && routeFrom h c c.long

/-- The capacity of a shorter route: the producer's output queue, and each input queue with its ring (R106). -/
def capacityOf (h : HImg) (hops : List Hop) : Nat :=
  match hops with
  | [] => 0
  | x :: _ => depthOf (netOf x.inQ) + (hops.map fun y => depthOf (netOf y.inQ) +
      (((h.tiles[y.tile]?).bind fun t => t.rings.find? fun g => g.queue == y.inQ).elim 0 (·.slots))).sum

/-- Check 11 (R107). -/
def check11 (h : HImg) : Bool := h.reconv.all fun c => decide (c.skew ≤ capacityOf h c.short)

/-- What T1_INIT puts into a region; zeros elsewhere. -/
def TileImg.region (t : TileImg) (m : Region) : Bytes :=
  readBytes (t.inits.foldl (fun b d => writeBytes b d.addr d.data) []) m.base m.size

/-- The contents of every region of a kind, tile by tile. -/
def HImg.regions (h : HImg) (kind : Nat) : List (Nat × Bytes) :=
  h.tiles.zipIdx.flatMap fun x => (x.1.maps.filter fun m => m.kind == kind).map fun m => (x.2, x.1.region m)

/-- The size of a T1_MAP region of a tile; 0 where it has none. -/
def HImg.region (h : HImg) (t i : Nat) : Nat := ((h.tiles[t]?).bind fun x => x.maps[i]?).elim 0 (·.size)

/-- The shape plan's part of check 3 (R241). -/
def planOk (h : HImg) : Bool := shapeOk h.plan (256 * h.bays) h.region

/-- Checks 6 to 10 on a harness; check 8 binds the canonical order. -/
def checks6to10 (h : HImg) : Bool :=
  (h.tiles.zipIdx.all fun x => check6 h.bays x.2 x.1 && check7 x.1 && (h.red != 0 || check8 x.1)) && check9 h && check10 h

/-- The first check of 1 to 11 that fails gives the status (R134); `manifest` is the digest that a package's manifest
states. -/
def imageStatus (img : Bytes) (manifest : Option Bool) : Nat :=
  if !check1 img then ePerm
  else if !check2 img ∨ manifest = some false then eAuth
  else if !check3 img ∨ !check4 img ∨ !check5 img ∨ !imgLayoutOk img ∨ !planOk (himgOf img) then ePerm
  else if !checks6to10 (himgOf img) then ePerm
  else if !check11 (himgOf img) then eSkew
  else stOk

/-! ### Overlays (R145, R146) -/

/-- One patch record (Table 4-8). -/
structure Patch where
  tile   : Nat
  kind   : Nat
  target : Nat
  data   : Bytes
  deriving DecidableEq, Repr

/-- The patch records of an overlay, `n` of them, with their header bytes. -/
def patchesOf (bs : Bytes) : Nat → List (Bytes × Patch)
  | 0 => []
  | n + 1 =>
    let len := fld bs 8 4
    (slice bs 0 16, { tile := fld bs 0 2, kind := byteAt bs 2, target := fld bs 4 4, data := slice bs 16 len }) ::
      patchesOf (bs.drop (16 + ceilDiv len 16 * 16)) n

/-- The records of an overlay image, which end with its IMAGE_SIZE. -/
def overlayPatches (img : Bytes) : List (Bytes × Patch) := patchesOf (slice img 0x80 (fld img 8 4 - 0x80)) (fld img 0xC 4)

/-- Replaces the elements of a list from a position on. -/
def replaceFrom {A : Type} (xs : List A) (i : Nat) (ys : List A) : List A :=
  (xs.take i ++ ys ++ xs.drop (i + ys.length))

/-- Replaces instructions from TARGET; a store that was written less far is filled up with zero words, NOPs (Table 4-8;
notes/assumptions/18.md). -/
def replaceProg (ws : List InstrWord) (i : Nat) (ys : List InstrWord) : List InstrWord :=
  replaceFrom (ws ++ List.replicate (i - ws.length) 0) i ys

/-- Applies a record to its tile. -/
def patchTile (p : Patch) (t : TileImg) : TileImg :=
  match p.kind with
  | 1 => { t with prog := replaceProg t.prog p.target (wordsOf p.data (p.data.length / 32)) }
  | 2 => { t with segs := (List.range 5).map fun l => (fld p.data (4 * l) 2, fld p.data (4 * l + 2) 2) }
  | 3 => { t with outSrc := outSrcOf p.data }
  | 4 => { t with lcInit := (List.range 8).map fun i => fld p.data (4 * i) 4 }
  | 5 => { t with fInit := fld p.data 0 4 }
  | 6 => { t with sInit := (List.range 32).map fun i => BitVec.ofNat 64 (fld p.data (8 * i) 8) }
  | 7 => { t with rings := (recsOf p.data 16 0 (p.data.length / 16)).map fun x =>
      { queue := byteAt x 2, base := 64 * fld x 4 4, slots := fld x 8 2 } }
  | 9 => { t with inits := t.inits ++ [{ addr := 64 * p.target, data := p.data }] }
  | _ => t

/-- Applies a record to a harness; a T1_INIT record's data is written when the bay applies. -/
def patchHImg (h : HImg) (p : Patch) : HImg :=
  match p.kind with
  | 8 => { h with reconv := h.reconv.map fun c => if c.pair = p.target then reconvOf p.data else c }
  | 10 => { h with plan := p.data }
  | _ => { h with tiles := h.tiles.modify p.tile (patchTile p) }

/-- A harness as patched by an overlay (R146). -/
def patched (h : HImg) (img : Bytes) : HImg := ((overlayPatches img).map (·.2)).foldl patchHImg h

/-- MAGIC, FORMAT and HDR_CRC of an overlay. -/
def overlayHead (img : Bytes) : Bool :=
  decide (128 ≤ img.length) && fld img 0 4 == 0x564F5944 && fld img 4 2 == 1 &&
    fld img 0x7C 4 == crc32 (putBytes (slice img 0 128) 0x7C [0, 0, 0, 0])

/-- The digest of an overlay. -/
def overlayDigest (img : Bytes) : Bool :=
  fld img 0x40 32 == (sha3 (slice img 0x80 (fld img 8 4 - 0x80))).toNat

/-- BAY_ORDER: the relative bays in application order. -/
def bayOrder (img : Bytes) (bays : Nat) : List Nat := (List.range bays).map fun i => byteAt img (0x30 + i)

/-- BAY_ORDER covers the region exactly: each bay once, then 0xFF. -/
def bayOrderOk (img : Bytes) (bays : Nat) : Bool :=
  ((List.range bays).all fun b => (bayOrder img bays).contains b) &&
    (List.range (8 - bays)).all fun i => byteAt img (0x30 + bays + i) == 0xFF

/-- Reserved fields and ranges of an overlay's header and records (R145, checks 3 and 5). -/
def overlayReserved (img : Bytes) (h : HImg) : Bool :=
  let ps := overlayPatches img
  let mode := byteAt img 6
  decide ((1 ≤ mode ∧ mode ≤ 5) ∨ (0x80 ≤ mode ∧ mode ≤ 0xFE)) && byteAt img 7 == 0 && zeroAt img 0x38 8 &&
    zeroAt img 0x60 28 && decide (128 ≤ fld img 8 4 ∧ fld img 8 4 ≤ 8388608 ∧ fld img 8 4 ≤ img.length) &&
    (ps.all fun x =>
      let p := x.2
      byteAt x.1 3 == 0 && zeroAt x.1 12 4 && decide (1 ≤ p.kind ∧ p.kind ≤ 10) &&
        x.1.length == 16 && (if p.kind = 10 then p.tile == 0xFFFF else decide (p.tile < 256 * h.bays)) &&
        ([1, 8, 9].contains p.kind || p.target == 0) && fld x.1 8 4 == p.data.length &&
        match p.kind with
        | 1 => p.data.length % 32 == 0 && decide (p.target + p.data.length / 32 ≤ 1024) && (wordsOf p.data (p.data.length / 32)).all instrReserved
        | 2 => p.data.length == 20
        | 3 => p.data.length == 6 && (outSrcOf p.data).all fun c => decide (c ≤ 4) || c == 15
        | 4 => p.data.length == 32
        | 5 => p.data.length == 4
        | 6 => p.data.length == 256
        | 7 => p.data.length % 16 == 0 && (recsOf p.data 16 0 (p.data.length / 16)).all fun r =>
            byteAt r 3 == 0 && zeroAt r 10 6
        | 8 => (h.reconv.any fun c => c.pair == p.target) && decide (32 ≤ p.data.length) && zeroAt p.data 16 16
        | _ => true) &&
    (List.range h.tiles.length).all fun t =>
      decide (((ps.filter fun x => x.2.tile == t).map fun x => 16 + ceilDiv x.2.data.length 16 * 16).sum ≤ 65536)

/-- The status of an overlay image against its base harness (R146); `base` is none when BASE_UID names no harness of the
context. -/
def overlayStatus (img : Bytes) (base : Option HImg) (manifest : Option Bool) : Nat :=
  if !overlayHead img then ePerm
  else if !overlayDigest img ∨ manifest = some false then eAuth
  else match base with
    | none => ePerm
    | some h =>
      if !bayOrderOk img h.bays ∨ !overlayReserved img h ∨ !planOk (patched h img) ∨ !checks6to10 (patched h img) then ePerm
      else if !check11 (patched h img) then eSkew
      else stOk

end Sys2Proof.Machine
end

