-- ==== Sys2Proof/Machine/Regions.lean ====
section
/-!
DEFINITION. The T1 regions of a harness that firmware reads, and their checks at bind and at the registering of an overlay
(09 R288, R306, Tables 9-1 and 9-10; 10 R331, Table 10-7; 08 R272).
-/
namespace Sys2Proof.Machine

/-- R272 on PARENT and DEPTH. -/
def treeRules (t : List (Nat × Nat)) : Bool :=
  let top := (t.map (·.2)).foldl max 0
  (t.headD (0, 1) == (0xFF, 0)) &&
    (t.zipIdx.all fun x => x.2 == 0 || (decide (x.1.1 < x.2) && x.1.2 == (t.getD x.1.1 (0, 0)).2 + 1)) &&
    (List.range (top + 1)).all fun d => (t.getD d (0, 99)).2 == d && (d == 0 || (t.getD d (99, 0)).1 + 1 == d)

/-- A TREE region's checks (R331, Table 10-7). -/
def treeRegionOk (b : Bytes) (maxTree : Nat) : Bool :=
  let n := byteAt b 2
  let t := (List.range n).map fun i => (byteAt b (64 + 4 * i), byteAt b (64 + 4 * i + 1), byteAt b (64 + 4 * i + 2))
  fld b 0 2 == 1 && decide (1 ≤ n ∧ n ≤ maxTree) && decide (byteAt b 3 ≤ 4) && zeroAt b 4 60 &&
    decide (64 + 4 * n ≤ b.length) && treeRules (t.map fun x => (x.1, x.2.1)) &&
    ((List.range n).all fun i => zeroAt b (64 + 4 * i + 3) 1) &&
    (t.zipIdx.all fun x => decide (x.1.2.1 ≤ byteAt b 3 ∧ x.1.2.2 ≤ 15) && (x.2 != 0 || x.1.2.2 == 0)) &&
    t.zipIdx.all fun x => t.zipIdx.all fun y => x.2 == y.2 || x.1.1 != y.1.1 || x.1.2.2 != y.1.2.2 || x.2 == 0 || y.2 == 0

/-- An ADAPT region's checks against a shape plan (R306, Table 9-10). -/
def adaptOk (p : Shape) (b : Bytes) : Bool :=
  let n := fld b 2 2
  let grouped (k : Nat) : Bool := (p.ops[k]?).any (·.kind == 2)
  fld b 0 2 == 1 && decide (1 ≤ n ∧ n ≤ 32) && zeroAt b 4 60 && decide (64 + 32 * n ≤ b.length) &&
    (List.range n).all fun i =>
      let e := slice b (64 + 32 * i) 32
      fld e 0 4 % 64 == 0 && decide (1 ≤ fld e 0 4) && fld e 4 4 % 64 == 0 && decide (1 ≤ fld e 4 4) &&
        grouped (fld e 8 2) && grouped (fld e 10 2) && (p.ops[fld e 12 2]?).isSome &&
        decide (1 ≤ fld e 16 2 ∧ fld e 16 2 ≤ 256) && zeroAt e 18 14

/-- The operators that adapters use. -/
def adaptOps (h : HImg) : List Nat :=
  (h.regions 0x0104).flatMap fun r => (List.range (fld r.2 2 2)).flatMap fun i =>
    [fld r.2 (64 + 32 * i + 8) 2, fld r.2 (64 + 32 * i + 10) 2]

/-- MAX_M of every expert operator, a GROUPED operator that no adapter uses, is at least CAP in MODE EXPANDED (R288). -/
def capsOk (h : HImg) : Bool :=
  let ops := (shapeOf h.plan).ops.zipIdx.filter fun o => o.1.kind == 2 && !(adaptOps h).contains o.2
  (h.regions 0x0101).all fun r => (routeHead r.2).mode == 1 || ops.all fun o => decide ((routeHead r.2).cap ≤ o.1.maxM)

/-- The ROUTE, ADAPT and TREE regions of a harness (R288, R306, R331). -/
def routeRegionsOk (h : HImg) : Bool := routesAgree ((h.regions 0x0101).map (·.2)) && capsOk h
def adaptRegionsOk (h : HImg) : Bool := (h.regions 0x0104).all fun r => adaptOk (shapeOf h.plan) r.2
def treeRegionsOk (h : HImg) (maxTree : Nat) : Bool := (h.regions 0x0102).all fun r => treeRegionOk r.2 maxTree

/-- The checks at the registering of an overlay: of the ROUTE and ADAPT regions that it changes, and of the template
(R288, R306, R331, Table 9-8). -/
def overlayRegionsOk (base : HImg) (h : HImg) : Bool :=
  (h.regions 0x0101 == base.regions 0x0101 || routeRegionsOk h) &&
    (h.regions 0x0104 == base.regions 0x0104 || adaptRegionsOk h) && treeRegionsOk h 64

end Sys2Proof.Machine
end

