-- ==== Sys2Proof/Machine/Objects.lean ====
section
/-!
DEFINITION. Global addresses, tiers, homes and the object directory (05 R162 to R186), and poison as it rests in the
memories (06 R217 to R219).
-/
namespace Sys2Proof.Machine

/-- GiB of T3 of the order code (Table 0-1). -/
def t3Gib (s : State) : Nat := match s.fuses.order with | .lx => 1152 | .ls => 768

/-- T3 capacity in bytes (R5). -/
def t3Bytes (s : State) : Nat := t3Gib s * 2 ^ 30

/-- Module index of a global address (R168). -/
def gaModule (g : Nat) : Nat := bits g 63 51
/-- Tier code of a global address. -/
def gaTier (g : Nat) : Nat := bits g 50 48
/-- Offset of a global address. -/
def gaOff (g : Nat) : Nat := bits g 47 0
/-- The global address of an offset in a tier of this module. -/
def mkGa (s : State) (tier off : Nat) : Nat := s.net.index * 2 ^ 51 + tier * 2 ^ 48 + off

/-- First byte of the configuration reserve in a T2 slice (R139, R163). -/
def reserveOff : Nat := 0x7C0000

/-- The extent of a tier in bytes (Table 5-3); T1, T2, T3. -/
def tierExtent (s : State) (tier : Nat) : Nat :=
  if tier = 0 then 2 ^ 30 else if tier = 1 then 2 ^ 34 else if tier = 2 then t3Bytes s else 0

/-- True where a run of bytes in T2 stays out of every configuration reserve. -/
def outsideReserve (off n : Nat) : Bool := off % 2 ^ 23 + n ≤ reserveOff

/-- The memory of a tier: 0 T1, 1 T2, 2 T3. -/
def tierMem (s : State) (tier : Nat) : Mem :=
  if tier = 0 then s.mem.t1 else if tier = 1 then s.mem.t2 else s.mem.t3

/-- Replaces the memory of a tier. -/
def setTierMem (s : State) (tier : Nat) (m : Mem) : State :=
  if tier = 0 then { s with mem.t1 := m } else if tier = 1 then { s with mem.t2 := m } else { s with mem.t3 := m }

/-- The poisoned words of a tier, by offset ÷ 8. -/
def tierPoison (s : State) (tier : Nat) : List Nat :=
  if tier = 0 then s.mem.poison1 else if tier = 1 then s.mem.poison2 else s.mem.poison3

/-- Replaces the poisoned words of a tier. -/
def setTierPoison (s : State) (tier : Nat) (w : List Nat) : State :=
  if tier = 0 then { s with mem.poison1 := w } else if tier = 1 then { s with mem.poison2 := w }
  else { s with mem.poison3 := w }

/-- Adds a word to a list of words, once. -/
def addWord (ws : List Nat) (w : Nat) : List Nat := if ws.contains w then ws else ws ++ [w]

/-- The first word of the control SRAM among the words of the SRAM stores; the 2,048 program stores come before it (Table 6-1). -/
def sramKey : Nat := 2048 * 2 ^ 20

/-- Drops the wrong bits of the stored words of a run that is overwritten whole. -/
def dropBad (s : State) (tier lo hi : Nat) : State :=
  let keep : Nat → BadWord → Bool := fun w _ => !(lo ≤ w && w < hi)
  if tier = 0 then { s with mem.bad1 := mkeep s.mem.bad1 keep }
  else if tier = 1 then { s with mem.bad2 := mkeep s.mem.bad2 keep }
  else { s with mem.bad3 := mkeep s.mem.bad3 keep }

/-- The words that a write of `n` bytes from `off` overwrites whole lose their poison (R218): those wholly inside it in T1; in T2 and T3,
which are written in beats, every word that it touches (R216). -/
def clearPoison (s : State) (tier off n : Nat) : State :=
  let lo := if tier = 0 then (off + 7) / 8 else off / 8
  let hi := if tier = 0 then (off + n) / 8 else if n = 0 then off / 8 else (off + n + 7) / 8
  dropBad (setTierPoison s tier ((tierPoison s tier).filter fun w => !(lo ≤ w && w < hi))) tier lo hi

/-- Poisons the words that `n` bytes from `off` touch. -/
def poisonRange (s : State) (tier off n : Nat) : State :=
  if n = 0 then s else
    setTierPoison s tier (((List.range ((off + n - 1) / 8 - off / 8 + 1)).map (off / 8 + ·)).foldl addWord
      (tierPoison s tier))

/-- True where `n` bytes from `off` touch a poisoned word. -/
def poisoned (s : State) (tier off n : Nat) : Bool :=
  (tierPoison s tier).any fun w => decide (0 < n) && off / 8 ≤ w && w ≤ (off + n - 1) / 8

/-- The bytes of a tier. -/
def readTier (s : State) (tier off n : Nat) : Bytes := readBytes (tierMem s tier) off n

/-- Writes bytes into a tier; whole words overwritten lose their poison. -/
def writeTier (s : State) (tier off : Nat) (bs : Bytes) : State :=
  clearPoison (setTierMem s tier (writeBytes (tierMem s tier) off bs)) tier off bs.length

/-- Fills a run of a tier with zeros. -/
def zeroTier (s : State) (tier off n : Nat) : State :=
  clearPoison (setTierMem s tier (zeroBytes (tierMem s tier) off n)) tier off n

/-! ### The directory (R174) -/

/-- The entry of an object, if the directory holds one. -/
def dirGet (s : State) (obj : Nat) : Option DirEntry := mget s.mem.dir obj

/-- Sets the entry of an object. -/
def dirSet (s : State) (obj : Nat) (e : DirEntry) : State := { s with mem.dir := mset s.mem.dir obj e }

/-- Removes the entry of an object; an object of the same ID is no longer the one that a package created (R466). -/
def dirDel (s : State) (obj : Nat) : State :=
  { s with mem.dir := merase s.mem.dir obj,
           pkgs := mmap s.pkgs fun _ p => { p with objs := p.objs.filter fun o => o.obj != obj } }

/-- The directory holds 4,194,304 entries (R174). -/
def dirFull (s : State) : Bool := decide (4194304 ≤ s.mem.dir.length)

/-- The tier offset of byte `b` of an object (R172). -/
def homeAt (e : DirEntry) (b : Nat) : Nat :=
  if e.stripes ≤ 1 then e.base + b
  else e.base + b / e.stripeSize * e.tileStep * 2 ^ 23 + b % e.stripeSize

/-- The byte of the object that rests at a tier offset, if one does. -/
def homeByte (e : DirEntry) (a : Nat) : Option Nat :=
  if e.stripes ≤ 1 then if e.base ≤ a ∧ a < e.base + e.size then some (a - e.base) else none
  else
    let k := (a - e.base) / (e.tileStep * 2 ^ 23)
    let r := (a - e.base) % (e.tileStep * 2 ^ 23)
    if e.base ≤ a ∧ k < e.stripes ∧ r < e.stripeSize ∧ k * e.stripeSize + r < e.size then
      some (k * e.stripeSize + r) else none

/-- The runs of a home: start offset and bytes. -/
def homeRuns (e : DirEntry) : List (Nat × Nat) :=
  if e.stripes ≤ 1 then [(e.base, e.size)]
  else (List.range e.stripes).map fun k =>
    (e.base + k * e.tileStep * 2 ^ 23, min e.stripeSize (e.size - k * e.stripeSize))

/-- True where two homes share a byte (R183); a striped home takes its whole stripes. -/
def overlap (a b : DirEntry) : Bool :=
  a.modIx == b.modIx && a.tier == b.tier &&
    (homeRuns a).any fun x => (homeRuns b).any fun y => decide (x.1 < y.1 + y.2 ∧ y.1 < x.1 + x.2)

/-- The destinations that RELOCATEs in progress hold on this module, by object (R181). -/
def reserved (s : State) : List (Nat × DirEntry) :=
  (s.mem.moving.filter fun m => (m.2.kind == 0 || m.2.kind == 5) && m.2.dest.modIx == s.net.index).map fun m => (m.1, m.2.dest)

/-- True where a home overlaps the home of another object than `obj`, or a destination held for one (R183). -/
def overlapsOther (s : State) (obj : Nat) (e : DirEntry) : Bool :=
  (s.mem.dir ++ reserved s).any fun d => d.1 != obj && overlap d.2 e

/-- True where a MOVE in progress holds an access to an object up (R181). -/
def moveHolds (s : State) (obj : Nat) (write : Bool) : Bool :=
  (mget s.mem.moving obj).any fun m => m.kind != 5 && (write || (m.kind != 0 && m.kind != 2))

/-- The layout rules of R172 and the extents of R169, but for the T3 capacity. -/
def layoutOk (e : DirEntry) : Bool :=
  e.base % 4096 == 0 && decide (1 ≤ e.size) && decide (e.size ≤ 2 ^ 40) &&
    if e.stripes ≤ 1 then
      e.stripes == 1 && e.tileStep == 0 && e.stripeSize == e.size % 2 ^ 32 &&
        (if e.tier = 1 then outsideReserve e.base e.size && decide (e.base + e.size ≤ 2 ^ 34)
         else e.tier == 2)
    else
      e.tier == 1 && decide (e.stripes ≤ 2048) && decide (1 ≤ e.tileStep) && decide (e.tileStep ≤ 2047) &&
        e.stripeSize % 64 == 0 && decide (1 ≤ e.stripeSize) && outsideReserve e.base e.stripeSize &&
        decide (e.base / 2 ^ 23 + (e.stripes - 1) * e.tileStep ≤ 2047) &&
        decide ((e.stripes - 1) * e.stripeSize < e.size) && decide (e.size ≤ e.stripes * e.stripeSize)

/-- Bytes of the request buffers that the lead holds for a context (R317). -/
def bufferBytes (s : State) (ctx : Nat) : Nat :=
  ((s.groups.filter fun g => g.2.ctx == ctx && g.2.lead == s.net.index).map fun g => (g.2.reqs.map (·.2.share)).sum).sum

/-- Bytes that RELOCATEs in progress bring a context's homes to in a tier, from elsewhere. -/
def comingBytes (s : State) (ctx tier : Nat) : Nat :=
  ((reserved s).filter fun d => d.2.ctx == ctx && d.2.tier == tier &&
    !(mget s.mem.dir d.1).any fun e => e.modIx == s.net.index && e.tier == tier).foldl (fun n d => n + d.2.size) 0

/-- Bytes of the homes that a context holds in a tier of this module (R184); in T3 the image store's copies of its
harnesses and its request buffers count too (R135, R317). -/
def ctxBytes (s : State) (ctx tier : Nat) : Nat :=
  comingBytes s ctx tier +
  ((s.mem.dir.filter fun d => d.2.ctx == ctx && d.2.tier == tier && d.2.modIx == s.net.index).map (·.2.size)).sum +
    if tier = 2 then ((s.harn.filter fun h => h.2.ctx == ctx).map (·.2.image.length)).sum + bufferBytes s ctx else 0

/-- A context. -/
def ctxOf (s : State) (c : Nat) : Ctx :=
  (mget s.ctxs c).getD { t2Alloc := 0, t3Alloc := 0, ek := none, slots := [], isSealed := false, vids := [] }

/-- A context ends when it holds no queue pair, no object, no registered harness and no admitted package: its slots and EK
are destroyed (R461). -/
def endContexts (s : State) : State :=
  let lives (c : Nat) : Bool := s.qpOwner.any (·.2 == c) || s.mem.dir.any (·.2.ctx == c) || s.harn.any (·.2.ctx == c) ||
    s.pkgs.any (·.2.ctx == c)
  { s with ctxs := mkeep s.ctxs fun c _ => lives c }

/-- True where a home of `size` more bytes fits the context's allocation; `back` bytes of it are given up (R184). -/
def allocFits (s : State) (ctx tier size back : Nat) : Bool :=
  decide (ctxBytes s ctx tier + size - back ≤ (if tier = 1 then (ctxOf s ctx).t2Alloc else (ctxOf s ctx).t3Alloc))

/-- The bytes of an object from byte `off`. -/
def objRead (s : State) (e : DirEntry) (off n : Nat) : Bytes :=
  (List.range n).map fun i => readByte (tierMem s e.tier) (homeAt e (off + i))

/-- Fills an object's home with zeros (R182). -/
def objZero (s : State) (e : DirEntry) : State :=
  (homeRuns e).foldl (fun s r => zeroTier s e.tier r.1 r.2) s

/-- The object's bytes that are not zero, by byte of the object. -/
def objCells (s : State) (e : DirEntry) : List Host.Cell :=
  (tierMem s e.tier).filterMap fun c => (homeByte e c.1).map fun b => (b, c.2)

/-- The object's poisoned words, by byte of the object. -/
def objPoison (s : State) (e : DirEntry) : List Nat :=
  (tierPoison s e.tier).filterMap fun w => homeByte e (w * 8)

/-- Fills a home with the given bytes of an object, zeros elsewhere, and poisons the given words (R182, R219). -/
def objFill (s : State) (e : DirEntry) (cells : List Host.Cell) (bad : List Nat) : State :=
  let s := objZero s e
  let s := setTierMem s e.tier (writeCells (tierMem s e.tier) (cells.map fun c => (homeAt e c.1, c.2)))
  setTierPoison s e.tier ((bad.map fun b => homeAt e b / 8).foldl addWord (tierPoison s e.tier))

/-- The cells of a byte string laid from byte 0. -/
def cellsOf (bs : Bytes) : List Host.Cell := (List.zip (List.range bs.length) bs)

/-- The object whose home holds an offset of a tier of module `m`. -/
def objAt (s : State) (m tier a : Nat) : Option (Nat × DirEntry) :=
  s.mem.dir.find? fun d => d.2.modIx == m && d.2.tier == tier && (homeByte d.2 a).isSome

/-- A directory entry of 64 bytes (Table 5-4). -/
def entryBytes (obj : Nat) (e : DirEntry) : Bytes :=
  leBytes 4 obj ++ leBytes 2 e.ctx ++
    leBytes 2 (1 + 2 * b2n e.moving + 4 * b2n e.absent + 8 * b2n e.isSealed) ++ leBytes 8 e.epoch ++
    leBytes 2 (e.modIx + e.tier * 2 ^ 13) ++ leBytes 2 e.bound ++ leBytes 4 e.stripeSize ++ leBytes 8 e.size ++
    leBytes 8 e.base ++ leBytes 2 e.stripes ++ leBytes 2 e.tileStep ++ leBytes 4 0 ++ leBytes 8 e.moveTread ++
    leBytes 8 0

/-- The entry that 64 bytes hold, when VALID is set (Table 5-4). -/
def entryOf (bs : Bytes) : Option (Nat × DirEntry) :=
  let f := fld bs 6 2
  if bit f 0 then
    some (fld bs 0 4,
      { ctx := fld bs 4 2, moving := bit f 1, absent := bit f 2, isSealed := bit f 3, epoch := fld bs 8 8,
        modIx := bits (fld bs 16 2) 12 0, tier := bits (fld bs 16 2) 15 13, bound := fld bs 18 2,
        stripeSize := fld bs 20 4, size := fld bs 24 8, base := bits (fld bs 32 8) 47 0, stripes := fld bs 40 2,
        tileStep := fld bs 42 2, moveTread := fld bs 48 8 })
  else none

/-- A member of the slice record, by index. -/
def memberOf (s : State) (ix : Nat) : Option SliceMember := s.net.record.bind fun r => r.members[ix]?

/-- The slice's ACTIVE members in index order, this module alone without a record (R309). -/
def activeMembers (s : State) : List Nat :=
  match s.net.record with
  | none => [s.net.index]
  | some r => (List.range r.members.length).filter fun i => (r.members[i]?).any (·.role == 0)

/-- Status that a module index gives: OK for the module's own and for a reachable ACTIVE member, E_UNREACHABLE for a
SPARE, REMOVED or unreachable member, E_PERM for any other index (R170, R414). -/
def moduleStatus (s : State) (ix : Nat) : Nat :=
  if ix = s.net.index then stOk
  else match memberOf s ix with
    | none => ePerm
    | some m => if m.role ≠ 0 || s.net.gone.contains ix then eUnreachable else stOk

/-- The unit that holds a tier offset: the tile of T1 and T2, 64 × stack + pseudo-channel of T3 (R188). -/
def unitOf (tier off : Nat) : Nat :=
  if tier ≤ 1 then off / (if tier = 0 then 2 ^ 19 else 2 ^ 23)
  else
    let l := off / 256
    let q := l / 24
    let fold := (q / 64 % 64) ^^^ (q / 4096 % 64) ^^^ (q / 2 ^ 18 % 64) ^^^ (q / 2 ^ 24 % 64) ^^^ (q / 2 ^ 30 % 64)
    64 * ((l + q) % 24) + ((q % 64) ^^^ fold)

end Sys2Proof.Machine
end

