-- ==== Sys2Proof/Machine/Rings.lean ====
section
/-!
DEFINITION. Doorbells, queue pairs, descriptors taken, interrupts and port links (13 R416 to R438).
-/
namespace Sys2Proof.Machine

/-- Counts an ignored doorbell write, saturating (R430). -/
def dbErr (s : State) (p : Nat) : State :=
  let po := portOf s p
  setPort s p { po with dbErr := satAdd 65535 po.dbErr 1 }

/-- True where a doorbell write of queue pair `q` is well formed: 4 bytes, a value below the slots, the queue pair
enabled, and a page that a queue pair has (R418, R430). -/
def doorbellOk (s : State) (p page size value log2 : Nat) : Bool :=
  size == 4 && decide (page < 64) && (qpOf s p page).en && decide (value < 2 ^ log2)

/-- Records of a ring between head and tail. -/
def ringUsed (log2 head tail : Nat) : Nat := (tail + 2 ^ log2 - head) % 2 ^ log2

/-- DOORBELL_SQ_TAIL: the new submission tail, taken as written (R430). -/
def execDoorbellSqTail (port : Port) (page : Fin 256) (size value : Nat) (s : State) :
    Host.Outcome State Fault Refusal :=
  let v := qpOf s port page
  .next <| unfused s <| if doorbellOk s port page size value v.sqLog2 then setQp s port page { v with sqTail := value }
    else dbErr s port

/-- DOORBELL_CQ_HEAD: the new completion head; records it has passed are no longer unsignalled (R430, R432). -/
def execDoorbellCqHead (port : Port) (page : Fin 256) (size value : Nat) (s : State) :
    Host.Outcome State Fault Refusal :=
  let v := qpOf s port page
  .next <| unfused s <| if doorbellOk s port page size value v.cqLog2 then
      setQp s port page { v with cqHead := value, cqUnsig := min v.cqUnsig (ringUsed v.cqLog2 value v.cqTail) }
    else dbErr s port

/-- DOORBELL_TQ_HEAD: the new token head; records held in T3 are written while the ring has room (R430, R432,
R438). -/
def execDoorbellTqHead (port : Port) (page : Fin 256) (size value : Nat) (s : State) :
    Host.Outcome State Fault Refusal :=
  let v := qpOf s port page
  .next <| unfused s <| if doorbellOk s port page size value v.tqLog2 then
      drainHeld (setQp s port page
        { v with tqHead := value, tqUnsig := min v.tqUnsig (ringUsed v.tqLog2 value v.tqTail) })
        port page v.held.length
    else dbErr s port

/-- DOORBELL_EQ_HEAD: the new event head, in page 0 and while EQ_EN is set only (R430). -/
def execDoorbellEqHead (port : Port) (page : Fin 256) (size value : Nat) (s : State) :
    Host.Outcome State Fault Refusal :=
  let po := portOf s port
  .next <| unfused s <| if size = 4 ∧ page.val = 0 ∧ po.eqEn ∧ value < 2 ^ po.eqLog2 then setPort s port { po with eqHead := value }
    else dbErr s port

/-- Descriptors of a queue pair taken and not completed. -/
def outstanding (s : State) (p q : Nat) : Nat := (s.taken.filter fun t => t.2.port == p && t.2.qp == q).length

/-- True where a control core may take descriptors: firmware runs, A0 or A1, no coolant stop, not FAULTED (R428,
R497, R530, R555). -/
def coresRun (s : State) : Bool :=
  s.tr.fwRunning && s.ps.state != 2 && !s.pw.coolantStop && !s.flt.faulted

/-- True where the next descriptor of a queue pair can be taken: the ring holds one and a completion slot can be
reserved for it (R428, R429). -/
def canTake (s : State) (p q : Nat) : Bool :=
  let v := qpOf s p q
  coresRun s && v.en && v.sqHead != v.sqTail &&
    decide (ringUsed v.cqLog2 v.cqHead v.cqTail + outstanding s p q + 1 ≤ 2 ^ v.cqLog2 - 1)

/-- True where QP_EN may be set: a context holds the queue pair, every LOG2 is in range, and the life-cycle state
allows queue pairs (R431, Table 14-4). -/
def mayEnable (s : State) (p q : Nat) : Bool :=
  let v := qpOf s p q
  mhas s.qpOwner (qpKey p q) && decide (4 ≤ v.sqLog2 ∧ v.sqLog2 ≤ 16) && decide (4 ≤ v.cqLog2 ∧ v.cqLog2 ≤ 16) &&
    decide (4 ≤ v.tqLog2 ∧ v.tqLog2 ≤ 20) && s.fuses.lc != .blank && s.fuses.lc != .scrapped && !s.flt.faulted

/-- A queue pair that has just been enabled: every head and tail 0, PHASE 1, a new enable (R427, R431). -/
def QpSt.enabled (v : QpSt) : QpSt :=
  { v with en := true, sqHead := 0, sqTail := 0, cqHead := 0, cqTail := 0, cqPhase := true, cqUnsig := 0,
           tqHead := 0, tqTail := 0, tqPhase := true, tqUnsig := 0, enable := v.enable + 1 }

/-- Sets QP_EN; a queue pair that may not be enabled, or is enabled already, keeps its state (R431). Token records
held from before are written into the new ring (R438). -/
def enableQp (s : State) (p q : Nat) : State :=
  let v := qpOf s p q
  if !v.en && mayEnable s p q then drainHeld (setQp s p q v.enabled) p q v.held.length else s

/-- Clears QP_EN (R431). -/
def disableQp (s : State) (p q : Nat) : State := setQp s p q { qpOf s p q with en := false }

/-- QP_ENABLE (R431). -/
def execQpEnable (port : Port) (qp : Qp) (s : State) : Host.Outcome State Fault Refusal := .next <| unfused s (enableQp s port qp)

/-- QP_DISABLE: no further descriptor is taken; those taken still complete (R431). -/
def execQpDisable (port : Port) (qp : Qp) (s : State) : Host.Outcome State Fault Refusal :=
  .next <| unfused s (disableQp s port qp)

/-- RING_INTERRUPT_DELAY: DELAY µs have passed since the first unsignalled record; the interrupt fires (R432). -/
def execRingInterruptDelay (port : Port) (qp : Qp) (token : Bool) (s : State) : Host.Outcome State Fault Refusal :=
  let v := qpOf s port qp
  .next <| unfused s <| if v.delayUs = 0 then s
    else if token then
      if v.tqIrq && decide (0 < v.tqUnsig) then fireMsix (setQp s port qp { v with tqUnsig := 0 }) port v.tqVector else s
    else
      if v.cqIrq && decide (0 < v.cqUnsig) then fireMsix (setQp s port qp { v with cqUnsig := 0 }) port v.cqVector else s

/-- Lanes of a port under the split in force; 0 where the port is not present (Table 13-1). -/
def portLanes (s : State) (p : Nat) : Nat :=
  if s.splitOn = 0 then (if p = 0 then 16 else 0)
  else if s.splitOn = 1 then (if p < 2 then 8 else 0)
  else if s.splitOn = 2 then (if p < 4 then 4 else 0) else 0

/-- PORT_LINK_TRAINED: the port's link is up at a width of Table 13-2 and a speed of 1 (32 GT/s) or 2 (64 GT/s)
(R416, Table 13-8). Ports outside the split stay idle (R417). -/
def execPortLinkTrained (port : Port) (width speed : Nat) (s : State) : Host.Outcome State Fault Refusal :=
  .next <| unfused s <| if s.sup.booted ∧ (width = 4 ∨ width = 8 ∨ width = 16) ∧ width ≤ portLanes s port ∧
      (speed = 1 ∨ speed = 2) then
      setPort s port { portOf s port with present := true, up := true, width := width, speed := speed }
    else s

/-- True where every queue pair of every port is disabled (R451, R524). -/
def allQpsOff (s : State) : Bool := s.qps.all fun e => !e.2.en

end Sys2Proof.Machine
end

