-- ==== Sys2Proof/Machine/Route.lean ====
section
/-!
DEFINITION. Sending GT packets: frames, credits, routes over the torus, messages (12 R372 to R375, R379 to R390, R402
to R411).
-/
namespace Sys2Proof.Machine

/-- Link `k`. -/
def linkOf (s : State) (k : Nat) : LinkSt := mgetD s.net.links k (.reset k)

/-- Sets link `k`. -/
def setLink (s : State) (k : Nat) (l : LinkSt) : State := { s with net.links := mset s.net.links k l }

/-- True where the link carries GT traffic (Table 12-9). -/
def LinkSt.isUp (l : LinkSt) : Bool := l.state == 3

/-- True where frames of a link are protected (R378): EN decides in MANUFACTURE and RETURN, the record's PLAIN flag in
every other state. -/
def macsecOn (s : State) (l : LinkSt) : Bool :=
  if s.fuses.lc = .manufacture ∨ s.fuses.lc = .returned then l.msEn
  else match s.net.record with | some r => !r.plain | none => true

/-- True where a packet type carries a target block (Table 12-2). -/
def hasTarget (ty : Nat) : Bool := [1, 2, 3, 4, 5, 7, 8].contains ty

/-- The link MAC of link `k` of the module with slice index `m` (R373). -/
def macOf (s : State) (m k : Nat) : Nat :=
  0x024B * 2 ^ 32 + (s.net.record.elim 0 (·.sliceId)) % 256 * 2 ^ 24 + m * 2 ^ 8 + k

/-- The link MAC of the module's own link `k` (R373). -/
def linkMac (s : State) (k : Nat) : Nat := macOf s s.net.index k

/-- The source address of a frame of link `k` of member `m`, as 128 bits: fe80::/64 on a face link, HALL_PREFIX of the slice record on a hall
port, with the interface identifier (R373). -/
def linkAddr (s : State) (role m k : Nat) : Nat :=
  (if role = 2 then s.net.record.elim 0 (·.hallPrefix) else 0xFE80000000000000) * 2 ^ 64 + (m * 2 ^ 8 + k)

/-- The UDP source port of a frame: SRC_BASE, and on a hall port that of peer connection `c` (R373). -/
def srcPort (l : LinkSt) (c : Nat) : Nat := if l.role = 2 then (l.srcBase + c) % 2 ^ 16 else l.srcBase

/-- Bytes of a frame at the MAC, from destination address to FCS (Table 12-2). -/
def frameBytes (s : State) (l : LinkSt) (p : Packet) : Nat :=
  12 + (if l.vlanEn then 4 else 0) + (if macsecOn s l then 32 else 0) + 2 + 40 + 8 + 32 +
    (if hasTarget p.ty then 32 else 0) + (if p.poison.isEmpty then 0 else 64) + p.payload.length + 4

/-- Credits that a frame takes, 256 B each (R390). -/
def frameCredits (s : State) (l : LinkSt) (p : Packet) : Nat := ceilDiv (frameBytes s l p) 256

/-- The credits of a virtual channel (R390). -/
def LinkSt.credit (l : LinkSt) (vc : Nat) : Nat := l.credits.getD vc 0

/-- Adds to or takes from the credits of a virtual channel. -/
def LinkSt.setCredit (l : LinkSt) (vc n : Nat) : LinkSt := { l with credits := l.credits.set vc n }

/-- Bytes held in the retry buffer of a link (R383). -/
def retryBytes (s : State) (l : LinkSt) : Nat := (l.retry.map fun f => frameBytes s l f.pkt).sum

/-- SAK_n of the hello that the link has passed (Table 14-1). -/
def LinkSt.sakN (l : LinkSt) (n : Nat) : Option Digest :=
  l.hello.bind fun h => h.shared.map fun k => kdf k "DYSK" (leBytes 4 n ++ h.nonces)

/-- The transmit packet number moves on by one; at 0xC000_0000 the sender moves to the next SAK on the next AN
(R377). -/
def LinkSt.nextPn (l : LinkSt) (secured : Bool) : LinkSt :=
  if !secured then l
  else if 0xC0000000 ≤ l.pn + 1 then
    { l with pn := 0, keyN := l.keyN + 1, an := (l.keyN + 1) % 4, sak := l.sakN (l.keyN + 1) }
  else { l with pn := l.pn + 1 }

/-- Puts a packet on link `k` with virtual channel kind `vck`: it takes an LSN, carries the acknowledgement and the
ECN echo and credits that are owed, and rests in the retry buffer (R375, R382, R383, R390). -/
def launch (s : State) (k vck : Nat) (p : Packet) : State :=
  let l := linkOf s k
  let back := (l.owed.findIdx? (0 < ·)).getD 0
  let give := l.owed.getD back 0
  let p := { p with waited := false, vck := vck, lsn := l.txLsn, ackv := decide (0 < l.rxLsn), ack := l.rxLsn - 1,
                    ece := l.sendEce, crVc := if give = 0 then 0 else back, credits := give }
  let vc := 4 * p.cls + vck
  let need := frameCredits s l p
  let l := (l.setCredit vc (l.credit vc - need)).nextPn (macsecOn s l)
  let l := { l with txLsn := (l.txLsn + 1) % 2 ^ 32, unacked := 0, sendEce := false, owed := l.owed.set back 0,
                    retry := l.retry ++ [{ lsn := p.lsn, pkt := p, sends := 1 }] }
  hwBump (hwBump (setLink s k l) (kLink k 0) 1) (kLink k 2) p.payload.length

/-- True where link `k` can take the packet on a virtual channel kind. -/
def linkTakes (s : State) (k vck : Nat) (p : Packet) : Bool :=
  let l := linkOf s k
  l.isUp && decide (frameCredits s l p ≤ l.credit (4 * p.cls + vck)) &&
    decide (retryBytes s l + frameBytes s l p ≤ 262144)

/-- The links of a face that are UP (R409). -/
def faceLinks (s : State) (face : Nat) : List Nat :=
  (List.range 24).filter fun k => (linkOf s k).isUp && (linkOf s k).role == 1 && (linkOf s k).face == face

/-- Hall ports that are UP. -/
def hallLinks (s : State) : List Nat := (List.range 24).filter fun k => (linkOf s k).isUp && (linkOf s k).role == 2

/-- A member's coordinate in a dimension. -/
def SliceMember.coord (m : SliceMember) (dim : Nat) : Nat := if dim = 0 then m.x else if dim = 1 then m.y else m.z

/-- The ring extent of a dimension. -/
def SliceRec.extent (r : SliceRec) (dim : Nat) : Nat := if dim = 0 then r.dx else if dim = 1 then r.dy else r.dz

/-- True where a member stands on the torus (Table 12-15). -/
def SliceMember.onTorus (m : SliceMember) : Bool := m.x != 255 || m.y != 255 || m.z != 255

/-- The productive faces of a packet: the dimensions whose coordinates differ, with their direction (R403). -/
def productive (r : SliceRec) (me dst : SliceMember) : List Nat :=
  [0, 1, 2].filterMap fun d =>
    let c := me.coord d
    let t := dst.coord d
    let n := r.extent d
    if c = t then none
    else if (t + n - c) % n ≤ n / 2 then some (2 * d) else some (2 * d + 1)

/-- The link with the most credits among those that can take the packet; equal credits go to the lower number
(R404). -/
def bestLink (s : State) (ks : List Nat) (p : Packet) : Option Nat :=
  (ks.filter fun k => linkTakes s k 0 p).foldl (fun b k =>
    match b with
    | none => some k
    | some j => if (linkOf s j).credit (4 * p.cls) < (linkOf s k).credit (4 * p.cls) then some k else b) none

/-- The neighbour of a member in a face: the next present coordinate along the ring (R400). -/
def neighbour (r : SliceRec) (me : SliceMember) (face : Nat) : Option Nat :=
  let d := face / 2
  let n := r.extent d
  let line := (List.zip (List.range r.members.length) r.members).filter fun m =>
    m.2.role == 0 && m.2.onTorus && [0, 1, 2].all fun e => e == d || m.2.coord e == me.coord e
  ((List.range n).map fun i => if face % 2 = 0 then (me.coord d + i + 1) % n else (me.coord d + n - (i + 1)) % n).findSome?
    fun c => (line.find? fun m => m.2.coord d == c).map (·.1)

/-- True where a hop in a face crosses the dateline of its dimension (R405). -/
def crosses (r : SliceRec) (me : SliceMember) (face : Nat) : Bool :=
  match (neighbour r me face).bind fun i => r.members[i]? with
  | some nb => if face % 2 = 0 then decide (nb.coord (face / 2) < me.coord (face / 2))
               else decide (me.coord (face / 2) < nb.coord (face / 2))
  | none => false

/-- The virtual channel kind of an escape hop: ESC_HI from the dateline on, ESC_LO again in a new dimension (R405);
`same` says that the packet came in along the same dimension. -/
def escapeVc (r : SliceRec) (me : SliceMember) (face : Nat) (p : Packet) (same : Bool) : Nat :=
  if crosses r me face || (same && p.vck == 2) then 2 else 1

/-- One round of distances to the members from `dst` over the links that members report UP (R410, R411). -/
def relax (s : State) (dist : AMap Nat) : AMap Nat :=
  s.net.peers.foldl (fun dist m =>
    let best := (m.2.links.filter fun l => l.state == 3).foldl (fun b l =>
      match mget dist l.peerIndex, b with
      | some x, none => some (x + 1)
      | some x, some y => some (min (x + 1) y)
      | none, _ => b) (mget dist m.1)
    match best with
    | some x => mset dist m.1 x
    | none => dist) dist

/-- Distances to `dst` after `n` rounds. -/
def distances (s : State) (dst : Nat) : Nat → AMap Nat
  | 0 => [(dst, 0)]
  | n + 1 => relax s (distances s dst n)

/-- The link of a detour: the UP face link whose peer is nearest to the destination (R411). -/
def detourLink (s : State) (dst : Nat) (p : Packet) : Option Nat :=
  let dist := distances s dst (s.net.peers.length + 1)
  (((List.range 24).filter fun k => (linkOf s k).role == 1 && linkTakes s k 3 p).foldl (fun b k =>
    match mget dist (linkOf s k).peerIndex, b with
    | some x, none => some (x, k)
    | some x, some (y, j) => if x < y then some (x, k) else some (y, j)
    | none, _ => b) (none : Option (Nat × Nat))).map (·.2)

/-- The member that a packet is routed to: its destination, or for one off the torus, where this module has no UP hall
port, the lowest-indexed member with one (R406). -/
def routeTarget (s : State) (r : SliceRec) (dst : Nat) : Option Nat :=
  match r.members[dst]? with
  | none => none
  | some m =>
    if m.onTorus then some dst
    else ((List.zip (List.range r.members.length) r.members).find? fun e =>
      e.2.hall && e.2.role == 0 && e.2.onTorus && e.1 != s.net.index && !s.net.gone.contains e.1).map (·.1)

/-- Where a packet leaves: the link and its virtual channel kind, when one can take it now. `face` is the face it came
in through, if any (R403 to R406, R411). -/
def chooseLink (s : State) (p : Packet) (face : Option Nat) : Option (Nat × Nat) :=
  match s.net.record with
  | none => none
  | some r =>
    match r.members[s.net.index]?, r.members[p.dst]? with
    | some me, some m =>
      if !m.onTorus && !(hallLinks s).isEmpty then ((hallLinks s).find? fun k => linkTakes s k 0 p).map (·, 0)
      else match (routeTarget s r p.dst).bind fun i => r.members[i]? with
        | none => none
        | some t =>
          if p.detoured || s.net.detours.contains p.dst then (detourLink s p.dst p).map (·, 3)
          else
            let fs := productive r me t
            let adapt := if p.vck = 0 then bestLink s (fs.flatMap (faceLinks s)) p else none
            match adapt, fs with
            | some k, _ => some (k, 0)
            | none, [] => none
            | none, f :: _ =>
              let same := match face with | some g => g / 2 == f / 2 | none => false
              let vc := escapeVc r me f p same
              ((faceLinks s f).find? fun k => linkTakes s k vc p).map (·, vc)
    | _, _ => none

/-- Types whose second copy is not idempotent (R384). -/
def oneShot (ty : Nat) : Bool := !(ty == 1 || ty == 2 || ty == 3)

/-- A message still to be answered of the same context that a SYNC message must wait for (R387). -/
def syncHeld (s : State) (p : Packet) : Bool :=
  p.ty == 5 && p.src == s.net.index && s.net.msgs.any fun m => m.2.ctx == p.ctx && (m.2.ty == 1 || m.2.ty == 4) && decide (m.1 < p.msgId)

/-- Answers outstanding from one destination for packets of types other than WRITE, READ and DATA, those that have not
left yet apart (R384). -/
def oneShotOut (s : State) (dst : Nat) : Nat :=
  ((s.net.msgs.filter fun m => m.2.dst == dst && oneShot m.2.ty).map (·.2.left.length)).sum -
    (s.net.out.filter fun p => p.dst == dst && p.src == s.net.index && p.cls == 0 && oneShot p.ty).length

/-- True where a packet of this module would make more than 256 such packets outstanding (R384). -/
def windowFull (s : State) (p : Packet) : Bool :=
  p.src == s.net.index && p.cls == 0 && oneShot p.ty && decide (256 ≤ oneShotOut s p.dst)

/-- What orders a forwarded descriptor: its queue pair with the RID, or the object, that it names (R435, Table 12-21). -/
def fwdKey (b : Bytes) : Option (Bytes × Bool × Nat) :=
  if byteAt b 0 ≠ 3 then none
  else if [0x31, 0x32, 0x33].contains (byteAt b 64) then some (slice b 1 2, true, fld b 72 4)
  else if byteAt b 64 = 0x70 then some (slice b 1 2, false, fld b 76 4)
  else none

/-- A descriptor for a RID, or an object, that follows one for the same on its way to the executing module (R435). -/
def fwdHeld (s : State) (p : Packet) : Bool :=
  p.ty == 7 && p.src == s.net.index && (fwdKey p.payload).isSome && s.net.msgs.any fun m =>
    m.2.ty == 7 && m.2.ctx == p.ctx && m.2.dst == p.dst && decide (m.1 < p.msgId) && fwdKey m.2.body == fwdKey p.payload

/-- The data of a RELOCATE, which follow the entry that its destination holds the range by (R180). -/
def moveHeld (s : State) (p : Packet) : Bool :=
  p.ty == 1 && p.src == s.net.index && p.ctx == 0xFFFF && s.net.msgs.any fun m =>
    m.2.ty == 8 && m.2.dst == p.dst && decide (m.1 < p.msgId) && fld m.2.body 0 4 == fld p.target 0 4

/-- True where a packet's escape hop needs a face that has no UP link, and no detour is installed for it (R411). -/
def waitsForDetour (s : State) (p : Packet) : Bool :=
  !p.detoured && !s.net.detours.contains p.dst &&
    match s.net.record.bind fun r => (r.members[s.net.index]?).bind fun me => (r.members[p.dst]?).bind fun d =>
        (productive r me d).head? with
    | some f => (faceLinks s f).isEmpty
    | none => false

/-- Counts a packet that waits for a detour, once (R411). -/
def countWait (s : State) (p : Packet) : State × Packet :=
  if !p.waited && waitsForDetour s p then (hwBump s (kNet 3) 1, { p with waited := true }) else (s, p)

/-- Sends one packet when a link can take it; none where it must wait (R384, R387, R390, R435). A packet that leaves the escape
order is counted (R411). -/
def trySend (s : State) (p : Packet) (face : Option Nat) : Option State :=
  if syncHeld s p || windowFull s p || fwdHeld s p || moveHeld s p then none
  else (chooseLink s p face).map fun kv =>
    let off := !p.detoured && kv.2 == 3
    hwBump (launch s kv.1 kv.2 { p with detoured := p.detoured || kv.2 == 3 }) (kNet 2) (b2n off)

/-- Sends a list of packets in order as far as they can leave; those that cannot join the ones that wait. -/
def flushFrom (s : State) : List Packet → State
  | [] => s
  | p :: ps =>
    match trySend { s with net.out := s.net.out ++ p :: ps } p none with
    | some t => flushFrom { t with net.out := s.net.out } ps
    | none => let x := countWait s p; flushFrom { x.1 with net.out := x.1.net.out ++ [x.2] } ps

/-- Sends what waits and can leave, in order; the rest keeps waiting (R390). -/
def flushOut (s : State) : State := flushFrom { s with net.out := [] } s.net.out

/-- Queues a packet and sends what can leave. -/
def sendPacket (s : State) (p : Packet) : State := flushOut { s with net.out := s.net.out ++ [p] }

/-- A packet of this module with nothing set but what is given. -/
def mkPacket (s : State) (ty cls dst ctx msg pkt n : Nat) (target payload : Bytes) (poison : List Nat) : Packet :=
  { ty := ty, first := pkt == 0, last := pkt + 1 == n, ackv := false, detoured := false, ece := false, vck := 0,
    cls := cls, hops := 0, dst := dst, src := s.net.index, ctx := ctx, lsn := 0, ack := 0, msgId := msg, pkt := pkt,
    crVc := 0, credits := 0, target := target, poison := poison, payload := payload }

/-- The class of a message type: 1 for responses (Table 12-5). -/
def classOf (ty : Nat) : Nat := if ty = 3 ∨ ty = 6 ∨ ty = 9 ∨ ty = 10 then 1 else 0

/-- Packets of a message of `n` bytes: one for every 4,096 (R380). -/
def packetCount (n : Nat) : Nat := max 1 (ceilDiv n 4096)

/-- The poisoned words of packet `i` of a payload whose poisoned words stand at places `bad` (Table 12-5, R386). -/
def packetPoison (bad : List Nat) (i : Nat) : List Nat :=
  (bad.filter fun j => j / 4096 == i).map fun j => j % 4096 / 8

/-- Starts a message: its packets are queued, and its answers are awaited, for a READ the DATA packets of the length in its
return target (R380, R385, R389). `bad` are the places of the payload's poisoned words (R219). -/
def newMsgP (s : State) (ty dst ctx : Nat) (why : MsgWhy) (target payload : Bytes) (bad : List Nat) : State :=
  let n := packetCount payload.length
  let id := s.net.msgNext
  let ps := (List.range n).map fun i =>
    mkPacket s ty (classOf ty) dst ctx id i n (padTo 32 target) (slice payload (4096 * i) 4096) (packetPoison bad i)
  let answers := if ty = 2 then packetCount (fld payload 12 4) else n
  let m : Msg := { dst := dst, ctx := ctx, ty := ty, left := List.range answers, sent := s.time.tread, why := why,
                   target := padTo 32 target, body := payload, bad := bad }
  flushOut { s with net.msgNext := (id + 1) % 2 ^ 32, net.msgs := mset s.net.msgs id m, net.out := s.net.out ++ ps }

/-- Starts a message without a poisoned word. -/
def newMsg (s : State) (ty dst ctx : Nat) (why : MsgWhy) (target payload : Bytes) : State := newMsgP s ty dst ctx why target payload []

/-- Sends a response, which nothing answers. -/
def sendReply (s : State) (ty dst ctx msg pkt : Nat) (target payload : Bytes) (poison : List Nat) : State :=
  sendPacket s (mkPacket s ty 1 dst ctx msg pkt 1 (padTo 32 target) payload poison)

/-- Target block of an object handle (Table 12-6). -/
def handleTarget (obj off len epoch : Nat) : Bytes :=
  leBytes 4 obj ++ leBytes 8 off ++ leBytes 4 len ++ leBytes 8 epoch ++ leBytes 8 0

/-- The places of `bad` that lie in `n` bytes from place `lo`, counted from there. -/
def placesIn (bad : List Nat) (lo n : Nat) : List Nat := (bad.filter fun j => decide (lo ≤ j ∧ j < lo + n)).map (· - lo)

/-- Sends bytes to a home of another member, in WRITE messages of up to 1 MiB, their poison with them (R219). -/
def writeFar (s : State) (dst ctx : Nat) (why : MsgWhy) (obj off epoch : Nat) (data : Bytes) (bad : List Nat) : State :=
  (List.range (ceilDiv data.length 1048576)).foldl (fun s i =>
    let part := slice data (i * 1048576) 1048576
    newMsgP s 1 dst ctx why (handleTarget obj (off + i * 1048576) part.length epoch) part (placesIn bad (i * 1048576) 1048576)) s

/-- Sends a CTRL message to one member (R381). -/
def sendCtrl (s : State) (dst ctx : Nat) (why : MsgWhy) (body : Bytes) : State :=
  newMsg s 7 dst ctx why (leBytes 12 0 ++ leBytes 4 body.length) body

/-- The other members that a message to every member goes to: those that are ACTIVE and reachable. -/
def otherMembers (s : State) : List Nat :=
  match s.net.record with
  | none => []
  | some r => (List.range r.members.length).filter fun i => i != s.net.index && moduleStatus s i == stOk

/-- Sends a CTRL message to every other member. -/
def broadcast (s : State) (body : Bytes) : State :=
  (otherMembers s).foldl (fun s i => sendCtrl s i 0xFFFF .firmware body) s

/-- Sends a changed directory entry to every member (R177). -/
def announceEntry (s : State) (obj : Nat) (e : DirEntry) : State :=
  (otherMembers s).foldl (fun s i =>
    newMsg s 8 i 0xFFFF .firmware (leBytes 12 0 ++ leBytes 4 64) (entryBytes obj e)) s

end Sys2Proof.Machine
end

