-- ==== Sys2Proof/Machine/Desc.lean ====
section
/-!
DEFINITION. What every descriptor shares: taking it, its order in its queue pair, the checks of its header and body,
its completion (13 R428, R433 to R437; 14 Table 14-13; 12 Table 12-21 DESC_FWD and DESC_DONE).
-/
namespace Sys2Proof.Machine

/-- The body of a DESC_DONE message (Table 12-21). -/
def descDoneBody (t : Taken) (status r0 r1 tread : Nat) : Bytes :=
  [4] ++ leBytes 1 t.port ++ leBytes 1 t.qp ++ leBytes 5 0 ++ completionBytes t 0 status r0 r1 tread false

/-- Completes descriptor `d`: it is taken no longer; its completion is written unless its queue pair has been enabled
again since (R431, R436); one that another module took is answered with DESC_DONE (R179). -/
def complete (s : State) (d status r0 r1 : Nat) : State :=
  match mget s.taken d with
  | none => s
  | some t =>
    let s := { s with taken := merase s.taken d }
    match t.origin with
    | some m => sendCtrl s m t.ctx .firmware (descDoneBody t status r0 r1 s.time.tread)
    | none => if t.enable = (qpOf s t.port t.qp).enable then writeCompletion s t status r0 r1 else s

/-- Completes descriptor `d` with a status and no result. -/
def finish (s : State) (d status : Nat) : State := complete s d status 0 0

/-- Marks a descriptor as started and still to complete. -/
def holdDesc (s : State) (d : Nat) : State := { s with taken := madj s.taken d ({ · with stage := .waiting }) }

/-- The opcode of a descriptor. -/
def Taken.op (t : Taken) : Nat := byteAt t.bytes 0

/-- The SEALED flag of a descriptor (Table 13-10). -/
def Taken.sealedFlag (t : Taken) : Bool := bit (byteAt t.bytes 1) 0

/-- True where a row of Table 13-11 has the descriptor's opcode and, where it has them, its action, operation or kind;
any other is reserved (R15, R433). -/
def knownOp (t : Taken) : Bool :=
  let op := t.op
  if op = 0x21 then decide (byteAt t.bytes 8 ≤ 1)
  else if op = 0x60 then [0, 1, 6, 7].contains (byteAt t.bytes 10)
  else if op = 0x61 then [2, 5].contains (byteAt t.bytes 10)
  else if op = 0x70 then decide (byteAt t.bytes 8 ≤ 4)
  else [0x01, 0x02, 0x10, 0x11, 0x12, 0x20, 0x22, 0x30, 0x31, 0x32, 0x33, 0x40, 0x41, 0x50, 0x80, 0x81, 0x90, 0x91,
        0xA0].contains op

/-- Opcodes by life-cycle state (R437, Table 14-13, R471); KEY_IMPORT makes the check of a debug unlock in the order of R460. -/
def opAllowed (s : State) (t : Taken) : Bool :=
  let op := t.op
  let lc := s.fuses.lc
  if [0x01, 0x02, 0xA0, 0x80].contains op then true
  else if op = 0x81 then lc == .deployed
  else if op = 0x11 ∨ ((op = 0x30 ∨ op = 0x31) ∧ t.sealedFlag) then
    lc == .deployed && !s.tr.debugUnlocked
  else lc == .manufacture || lc == .deployed || lc == .returned

/-- True where every byte of the body outside the named fields is zero and the header's reserved bits are (R15,
R433). -/
def reservedOk (t : Taken) (named : List (Nat × Nat)) : Bool :=
  zeroAt t.bytes 2 2 && byteAt t.bytes 1 / 2 == 0 && (!t.sealedFlag || t.op == 0x30 || t.op == 0x31) &&
    (List.range 56).all fun i =>
      named.any (fun f => decide (f.1 ≤ i + 8 ∧ i + 8 < f.1 + f.2)) || zeroAt t.bytes (i + 8) 1

/-- True where a descriptor may start: the earlier ones of its queue pair have started, or are of a reserved opcode, which completes as soon as
it comes up; no earlier FENCE is left, and for a FENCE none is left at all (R15, R433, R435). -/
def mayStart (s : State) (d : Nat) (t : Taken) : Bool :=
  t.stage == .taken && s.taken.all fun e =>
    !(decide (e.1 < d) && e.2.origin == t.origin && e.2.port == t.port && e.2.qp == t.qp) ||
      ((e.2.stage != .taken || !knownOp e.2) && e.2.op != 2 && t.op != 2)

/-- The status of the checks that come before an opcode's own: reserved opcode, life-cycle state, reserved bits. -/
def headStatus (s : State) (t : Taken) (named : List (Nat × Nat)) : Nat :=
  if !knownOp t then ePerm else if !opAllowed s t then eLifecycle else if !reservedOk t named then ePerm else stOk

/-- Executes descriptor `d` when it is one that the row stands for and may start: a failed check completes it, and
otherwise `act` gives its effect. Any other `d` changes nothing (notes/assumptions/6.md). -/
def withDesc (s : State) (d : Nat) (isRow : Taken → Bool) (named : List (Nat × Nat)) (act : Taken → State) : State :=
  match mget s.taken d with
  | none => s
  | some t =>
    if isRow t && mayStart s d t && coresRun s then
      if headStatus s t named = stOk then act t else finish s d (headStatus s t named)
    else s

/-- Completes every descriptor of a reserved opcode that may start with E_PERM (R433). -/
def rejectReserved (s : State) : State :=
  s.taken.foldl (fun s e => if !knownOp e.2 && mayStart s e.1 e.2 then finish s e.1 ePerm else s) s

/-- DESCRIPTOR_TAKE: copies the descriptor `slot` at the submission head; its slot is free from then on (R428, R429).
A reserved opcode completes with E_PERM (R433). -/
def execDescriptorTake (port : Port) (qp : Qp) (slot : Bytes) (s : State) : Host.Outcome State Fault Refusal :=
  .next <| unfused s <| if canTake s port qp then
      let v := qpOf s port qp
      let s := setQp s port qp { v with sqHead := (v.sqHead + 1) % 2 ^ v.sqLog2 }
      let t : Taken := { origin := none, port := port, qp := qp, ctx := mgetD s.qpOwner (qpKey port qp) 0,
                         enable := v.enable, tread := s.time.tread, bytes := padTo 64 slot, stage := .taken }
      rejectReserved (hwBump { s with taken := mset s.taken s.takes t, takes := s.takes + 1 } (kPort port 0) 1)
    else s

/-- NOP (Table 13-11). -/
def execNop (d : Nat) (s : State) : Host.Outcome State Fault Refusal :=
  .next <| unfused s (withDesc s d (·.op == 1) [] fun _ => finish s d stOk)

/-- FENCE: completes when every earlier descriptor of its queue pair has completed (R435). -/
def execFence (d : Nat) (s : State) : Host.Outcome State Fault Refusal :=
  .next <| unfused s (withDesc s d (·.op == 2) [] fun _ => rejectReserved (finish s d stOk))

/-- A handle of 12 bytes: object and offset (R171). -/
def handleAt (bs : Bytes) (off : Nat) : Nat × Nat := (fld bs off 4, fld bs (off + 4) 8)

end Sys2Proof.Machine
end

