-- ==== Sys2Proof/Machine/Protect.lean ====
section
/-!
DEFINITION. Protection of stored data: corrections, page rebuilds, poison records, leaky buckets, patrol scrub and
repair (06 R208 to R236).
-/
namespace Sys2Proof.Machine

/-- The tier code of a tier. -/
def tierCode : Tier → Nat
  | .t1 => 0
  | .t2 => 1
  | .t3 => 2

/-- The byte of the pseudo-channel that a T3 offset maps to (R188). -/
def pcByte (off : Nat) : Nat := off / 256 / 24 / 64 * 256 + off % 256

/-- The page of a word: 2 KiB of one slice, or of one pseudo-channel (R210); pages are numbered within the tier. -/
def pageOf (tier word : Nat) : Nat :=
  if tier = 1 then word * 8 / 2048 else unitOf 2 (word * 8) * 2 ^ 20 + pcByte (word * 8) / 2048

/-- The wrong words of a tier. -/
def tierBad (s : State) (tier : Nat) : AMap BadWord :=
  if tier = 0 then s.mem.bad1 else if tier = 1 then s.mem.bad2 else s.mem.bad3

/-- Replaces the wrong words of a tier. -/
def setTierBad (s : State) (tier : Nat) (b : AMap BadWord) : State :=
  if tier = 0 then { s with mem.bad1 := b } else if tier = 1 then { s with mem.bad2 := b }
  else { s with mem.bad3 := b }

/-- The context that a poison record names: the owner of the object hit, 0xFFFF when none (Table 6-5). -/
def ownerAt (s : State) (tier off : Nat) : Nat :=
  match objAt s s.net.index tier off with
  | some (_, e) => e.ctx
  | none => 0xFFFF

/-- Writes one poison record, or sets LOST when the log holds 256 (R220). -/
def poisonRecord (s : State) (tier word cause words : Nat) : State :=
  if 256 ≤ s.mem.poisonLog.length then noteW1c { s with mem.poisonLost := true } 0 true
  else { s with mem.poisonLog := s.mem.poisonLog ++ [{
    tread := s.time.tread, addr := mkGa s tier (word * 8), cause := cause, words := min words 255,
    unit := unitOf tier (word * 8), context := ownerAt s tier (word * 8) }] }

/-- Poisons words and counts them (R218, Table 6-14). -/
def poisonWords (s : State) (tier : Nat) (ws : List Nat) : State :=
  let s := setTierPoison s tier (ws.foldl addWord (tierPoison s tier))
  hwBump (setTierBad s tier (mkeep (tierBad s tier) fun w _ => !ws.contains w)) (kProt (12 + tier)) ws.length

/-- The bucket of a unit of T2 or T3. -/
def bucketOf (s : State) (tier unit : Nat) : Bucket :=
  mgetD (if tier = 1 then s.mem.buckets2 else s.mem.buckets3) unit .reset

/-- Sets the bucket of a unit. -/
def setBucket (s : State) (tier unit : Nat) (b : Bucket) : State :=
  if tier = 1 then { s with mem.buckets2 := mset s.mem.buckets2 unit b }
  else { s with mem.buckets3 := mset s.mem.buckets3 unit b }

/-- The leak setting of a tier, in flights (Table 6-8). -/
def leakOf (s : State) (tier : Nat) : Nat := if tier = 1 then s.mem.t2Leak else s.mem.t3Leak

/-- The flight of the latest leak of a tier. -/
def leakedAt (s : State) (tier : Nat) : Option Nat := if tier = 1 then s.mem.leaked2 else s.mem.leaked3

/-- True where the leak of a tier falls in the present clk and has not acted yet: the first clk of the first tread of a flight whose
number is a multiple of the leak setting (R224). -/
def leakDue (s : State) (tier : Nat) : Bool :=
  s.time.loaded && s.time.tread % 4096 == 0 && s.clk == 0 && flight s % leakOf s tier == 0 &&
    leakedAt s tier != some (flight s)

/-- Adds `n` to the bucket of the unit of word `word`; a bucket above its size returns to 0, counts, and raises EV_CE_BURST at
most once a flight. A leak of the same clk applies before the overflow test (R222, R224, R225). -/
def addBucket (s : State) (tier word n : Nat) : State :=
  let u := unitOf tier (word * 8)
  let b := bucketOf s tier u
  let f := flight s
  let size := if tier = 1 then s.mem.t2Size else s.mem.t3Size
  let leak := b2n (leakDue s tier)
  let b := { b with lastWord := some (word, f) }
  if b.level + n - leak ≤ size then setBucket s tier u { b with level := b.level + n }
  else
    let s := hwBump (setBucket s tier u { b with level := 0, lastEvent := some f }) (kProt (16 + tier)) 1
    if b.lastEvent = some f then s
    else raiseModule s 1 (leBytes 1 tier ++ [0] ++ leBytes 2 u ++ leBytes 8 (mkGa s tier (word * 8)))

/-- A word correction adds 1, unless the bucket last counted that word in this flight (R222, R223). -/
def bucketCorrection (s : State) (tier word : Nat) : State :=
  if (bucketOf s tier (unitOf tier (word * 8))).lastWord = some (word, flight s) then s
  else addBucket s tier word 1

/-- Corrects one word and counts it (R212, R221, Table 6-14). -/
def correctWord (s : State) (tier word : Nat) : State :=
  let s := setTierBad s tier (merase (tierBad s tier) word)
  if tier = 0 then hwBump s (kProt (word * 8 / 2 ^ 19 % 64 / 8)) 1
  else bucketCorrection (hwBump s (kProt (7 + tier)) 1) tier word

/-! ### The check areas and the pages' symbols (R211, Table 6-2) -/

/-- The wrong words of the check areas of a tier. -/
def checkBad (s : State) (tier : Nat) : AMap BadWord := if tier = 1 then s.mem.check2 else s.mem.check3

/-- Replaces them. -/
def setCheckBad (s : State) (tier : Nat) (b : AMap BadWord) : State :=
  if tier = 1 then { s with mem.check2 := b } else { s with mem.check3 := b }

/-- The pages whose symbols do not fit their words. -/
def skewed (s : State) (tier : Nat) : List Nat := if tier = 1 then s.mem.skew2 else s.mem.skew3

/-- A page's symbols fit its words again: they are computed from the page as it is stored. -/
def unskew (s : State) (tier page : Nat) : State :=
  if tier = 1 then { s with mem.skew2 := s.mem.skew2.filter (· != page) } else { s with mem.skew3 := s.mem.skew3.filter (· != page) }

/-- Line `r` of pseudo-channel `unit`: lines are numbered in T3 offset, 1,536 for each `r`, one of each pseudo-channel (R188). -/
def lineOf (unit r : Nat) : Nat :=
  ((List.range 1536).find? fun i => unitOf 2 ((1536 * r + i) * 256) == unit).getD 0 + 1536 * r

/-- The runs of a page in its tier: 2 KiB of a slice, or eight lines of a pseudo-channel (R210). -/
def pageRuns (tier page : Nat) : List (Nat × Nat) :=
  if tier = 1 then [(page * 2048, 2048)]
  else (List.range 8).map fun i => (lineOf (page / 2 ^ 20) (page % 2 ^ 20 * 8 + i) * 256, 256)

/-- The words of a page, in the order of their addresses. -/
def pageWords (tier page : Nat) : List Nat :=
  (pageRuns tier page).flatMap fun r => (List.range (r.2 / 8)).map (r.1 / 8 + ·)

/-- The number of a word within its page; its parity names the codewords that hold it (R211). -/
def wordInPage (tier w : Nat) : Nat := if tier = 1 then w % 256 else pcByte (w * 8) % 2048 / 8

/-- Corrects word `i` of a page's check area, and counts it like a word of data (R211, R222). -/
def correctCheck (s : State) (tier page i : Nat) : State :=
  let s := setCheckBad s tier (merase (checkBad s tier) (2 * page + i))
  addBucket (hwBump s (kProt (7 + tier)) 1) tier ((pageWords tier page).headD 0) 1

/-- A page whose symbols do not fit once every word has decoded: the whole page is poisoned, with one record of cause 5 (Table 6-2,
R220, Table 6-14). -/
def checkPage (s : State) (tier page : Nat) : State :=
  if (skewed s tier).contains page then
    let s := hwBump (poisonWords (unskew s tier page) tier (pageWords tier page)) (kProt 16) 1
    poisonRecord s tier ((pageWords tier page).headD 0) 5 256
  else s

/-- The words that a rebuild of a page treats as erasures: those reported, and every other word of the page that
the word code cannot correct, since the rebuild reads every word of the page (R211, R214). -/
def erasures (s : State) (tier : Nat) (reported : List Nat) : List Nat :=
  mkeys (reported.foldl (fun m w => mset m w .multi) (tierBad s tier)) fun w b =>
    b == .multi && pageOf tier w == pageOf tier (reported.headD 0)

/-- Rebuilds the page of T2 or T3 that holds the uncorrectable words `reported` (R211, R214, R594, Table 6-2, Table 6-11):
another word of the page, or of its check area, in need of a correction escalates it; otherwise one uncorrectable word of each parity,
poisoned words and the check area's word of that parity counted, is restored, and the others are poisoned. At its end the symbols must
fit the page; after words have been lost they are computed from the page as it is stored. -/
def rebuildPage (s : State) (tier : Nat) (reported : List Nat) (cause : Nat) : State :=
  match reported with
  | [] => s
  | r0 :: _ =>
    let ws := erasures s tier reported
    let w0 := ws.headD r0
    let page := pageOf tier w0
    let singles := mkeys (tierBad s tier) fun w b => b == .single && pageOf tier w == page && !ws.contains w
    let checks := [0, 1].filter fun i => mget (checkBad s tier) (2 * page + i) == some .single
    if !(singles.isEmpty && checks.isEmpty) then
      let s := hwBump (poisonWords s tier ws) (kProt 15) 1
      let s := singles.foldl (fun s w => correctWord s tier w) s
      poisonRecord (checks.foldl (fun s i => correctCheck s tier page i) s) tier w0 4 ws.length
    else
      let old := (tierPoison s tier).filter fun w => pageOf tier w == page && !ws.contains w
      let gone (i : Nat) : Nat := b2n (mhas (checkBad s tier) (2 * page + i))
      let lost := ws.filter fun w => decide (1 < ((ws ++ old).filter fun v => wordInPage tier v % 2 == wordInPage tier w % 2).length +
        gone (wordInPage tier w % 2))
      let s := setTierBad s tier (mkeep (tierBad s tier) fun w _ => !ws.contains w)
      let s := setCheckBad s tier (mkeep (checkBad s tier) fun k _ => k / 2 != page)
      let s := hwBump s (kProt (9 + tier)) 1
      match lost with
      | [] => checkPage (addBucket s tier w0 8) tier page
      | l0 :: _ => unskew (poisonRecord (poisonWords s tier lost) tier l0 cause lost.length) tier page

/-- Ends a rebuild under way with its outcome. -/
def endRebuild (s : State) (r : Rebuild) : State :=
  let s := { s with mem.rebuilds := s.mem.rebuilds.filter fun x => !(x.tier == r.tier && x.page == r.page) }
  rebuildPage s (tierCode r.tier) r.words (if r.scrub then 2 else 1)

/-- True where `n` bytes from `off` of a tier touch a page. -/
def touchesPage (tier page off n : Nat) : Bool :=
  decide (0 < n) && (pageRuns tier page).any fun r => decide (r.1 < off + n ∧ off < r.1 + r.2)

/-- The rebuilds under way of the pages that `n` bytes from `off` touch. -/
def rebuildsIn (s : State) (tier off n : Nat) : List Rebuild :=
  s.mem.rebuilds.filter fun r => tierCode r.tier == tier && touchesPage tier r.page off n

/-- The wrong words of the single or the multi kind among those from `lo` to `hi`. -/
def badIn (s : State) (tier lo hi : Nat) (k : BadWord) : List Nat :=
  mkeys (tierBad s tier) fun w b => b == k && decide (lo ≤ w ∧ w ≤ hi)

/-- Reads words `lo` to `hi` of a tier: the word code corrects those with one wrong bit; those beyond it are poisoned at once in T1, and
lead to a rebuild of their page in T2 and T3 (R212, R214, R218). `cause` is that of Table 6-5. -/
def readWords (s : State) (tier lo hi cause : Nat) : State :=
  let multi := badIn s tier lo hi .multi
  let s := if tier = 0 then multi.foldl (fun s w => poisonRecord (poisonWords s 0 [w]) 0 w cause 1) s
    else ((multi.map (pageOf tier)).eraseDups).foldl (fun s pg =>
      rebuildPage s tier (multi.filter fun w => pageOf tier w == pg) cause) s
  (badIn s tier lo hi .single).foldl (fun s w => correctWord s tier w) s

/-- A read of `n` bytes by a requester. One that meets a page under rebuild waits for the rebuild to end, and then reads (R214, Table 6-11;
notes/assumptions/88.md). -/
def demand (s : State) (tier off n cause : Nat) : State :=
  if n = 0 then s else
    readWords ((rebuildsIn s tier off n).foldl endRebuild s) tier (off / 8) ((off + n - 1) / 8) cause

/-- True where `n` bytes from `off` cover a page whole. -/
def coversPage (tier page off n : Nat) : Bool := (pageRuns tier page).all fun r => decide (off ≤ r.1 ∧ r.1 + r.2 ≤ off + n)

/-- What a write of `n` bytes of T2 or T3 reads back first: of the beats that it touches in pages that it covers in part, the words that
are wrong. A page covered whole has its symbols computed from the new data (R216, R217). -/
def readBack (s : State) (tier off n : Nat) : State :=
  let s := (rebuildsIn s tier off n).foldl endRebuild s
  let lo := off / 64 * 8
  let hi := ceilDiv (off + n) 64 * 8 - 1
  let part := (mkeys (tierBad s tier) fun w _ => decide (lo ≤ w ∧ w ≤ hi)).filter fun w => !coversPage tier (pageOf tier w) off n
  let s := part.foldl (fun s w => readWords s tier w w 3) s
  ((skewed s tier).filter fun pg => coversPage tier pg off n).foldl (fun s pg => unskew s tier pg) s

/-- A requester's write: in the pages that it covers in part, the beats that it overwrites are read back first (R216, R217). -/
def storeTier (s : State) (tier off : Nat) (bs : Bytes) : State :=
  writeTier (if tier = 0 || bs.isEmpty then s else readBack s tier off bs.length) tier off bs

/-- The words among `n` bytes from `off` that are poisoned, by their byte's place. -/
def poisonedAt (s : State) (tier off n : Nat) : List Nat :=
  ((List.range (ceilDiv n 8)).map (8 * ·)).filter fun j => poisoned s tier (off + j) (min 8 (n - j))

/-- Poisons the words at those places from `off`: poison travels with data (R219). -/
def carryPoison (s : State) (tier off : Nat) (js : List Nat) : State := js.foldl (fun s j => poisonRange s tier (off + j) 8) s

/-- Counts the bytes that a requester reads from or writes to T2 and T3 (Table 5-10, R207). -/
def countTier (s : State) (tier off n : Nat) (write : Bool) : State :=
  if tier = 1 then hwBump s (kMem (if write then 2 else 1)) n
  else if tier = 2 then
    (List.range ((off + n + 255) / 256 - off / 256)).foldl (fun s i =>
      let lo := max off ((off / 256 + i) * 256)
      let hi := min (off + n) ((off / 256 + i) * 256 + 256)
      hwBump s (kMem ((if write then 27 else 3) + unitOf 2 lo / 64)) (hi - lo)) s
  else s

/-- Copies `n` bytes from one place of the tiers to another, their poison with them (R219). -/
def copyTier (s : State) (a b : Nat × Nat) (n : Nat) : State :=
  let s := demand s a.1 a.2 n 1
  carryPoison (storeTier s b.1 b.2 (readTier s a.1 a.2 n)) b.1 b.2 (poisonedAt s a.1 a.2 n)

/-- Where bytes `off` to `off + n − 1` of an object rest, run by run: the tier offset, the first byte's place among the `n`, and
the run's bytes. -/
def objPieces (e : DirEntry) (off n : Nat) : List (Nat × Nat × Nat) :=
  if e.stripes ≤ 1 then [(homeAt e off, 0, n)]
  else (List.range e.stripes).filterMap fun k =>
    let lo := max off (k * e.stripeSize)
    let hi := min (off + n) ((k + 1) * e.stripeSize)
    if lo < hi then some (homeAt e lo, lo - off, hi - lo) else none

/-- Writes bytes into an object from byte `off`, as a requester does. -/
def objWrite (s : State) (e : DirEntry) (off : Nat) (bs : Bytes) : State :=
  (objPieces e off bs.length).foldl (fun s p => storeTier s e.tier p.1 (slice bs p.2.1 p.2.2)) s

/-- Reads bytes of an object as a requester does. -/
def objDemand (s : State) (e : DirEntry) (off n : Nat) : State :=
  (objPieces e off n).foldl (fun s p => demand s e.tier p.1 p.2.2 1) s

/-- Counts a requester's access to bytes of an object (R207). -/
def countObj (s : State) (e : DirEntry) (off n : Nat) (write : Bool) : State :=
  (objPieces e off n).foldl (fun s p => countTier s e.tier p.1 p.2.2 write) s

/-- The poisoned words among `n` bytes of an object from byte `off`, by their place. -/
def objPoisonAt (s : State) (e : DirEntry) (off n : Nat) : List Nat :=
  (objPieces e off n).flatMap fun p => (poisonedAt s e.tier p.1 p.2.2).map (p.2.1 + ·)

/-- Writes bytes into an object with the places of the poisoned words among them (R219). -/
def objLand (s : State) (e : DirEntry) (off : Nat) (bs : Bytes) (bad : List Nat) : State :=
  bad.foldl (fun s j => poisonRange s e.tier (homeAt e (off + j)) 8) (objWrite s e off bs)

/-- Reads bytes of a tier or object for a requester: corrected or reported first, then the bytes and the places of the poisoned words among
them (R212, R218). -/
def takeTier (s : State) (tier off n : Nat) : Bytes × List Nat × State :=
  let s := demand s tier off n 1
  (readTier s tier off n, poisonedAt s tier off n, s)
def takeObj (s : State) (e : DirEntry) (off n : Nat) : Bytes × List Nat × State :=
  let s := objDemand s e off n
  (objRead s e off n, objPoisonAt s e off n, s)

/-- Reads bytes of an object for a descriptor of a context: an object that the context has, at this module. -/
def demandOwn (s : State) (ctx : Nat) (h : Nat × Nat) (n : Nat) : State :=
  match dirGet s h.1 with
  | none => s
  | some e => if e.ctx = ctx ∧ h.2 + n ≤ e.size ∧ !e.absent ∧ e.modIx = s.net.index then objDemand s e h.2 n else s

/-- Reads a whole home as a requester does. -/
def demandHome (s : State) (e : DirEntry) : State :=
  (homeRuns e).foldl (fun s r => demand s e.tier r.1 r.2 1) s

/-- True where a home holds a poisoned word. -/
def homePoisoned (s : State) (e : DirEntry) : Bool := (homeRuns e).any fun r => poisoned s e.tier r.1 r.2

/-! ### Rows -/

/-- PAGE_REBUILD: the word code reports `word` as uncorrectable; its page is under rebuild until PAGE_REBUILD_DONE. A
word already poisoned starts none (R214, R218); a second report joins the rebuild (Table 6-11). -/
def execPageRebuild (tier : Tier) (word : Nat) (s : State) : Host.Outcome State Fault Refusal :=
  let c := tierCode tier
  .next <| unfused s <|
    if (tierPoison s c).contains word ∨ tierExtent s c ≤ word * 8 then s
    else if c = 0 then poisonRecord (poisonWords s 0 [word]) 0 word 1 1
    else
      let page := pageOf c word
      if s.mem.rebuilds.any fun r => r.tier == tier && r.page == page then
        { s with mem.rebuilds := s.mem.rebuilds.map fun r =>
            if r.tier = tier ∧ r.page = page then { r with words := addWord r.words word } else r }
      else { s with mem.rebuilds := s.mem.rebuilds ++ [{ tier := tier, page := page, words := [word], scrub := false }] }

/-- PAGE_REBUILD_DONE: the rebuild of a page ends with the outcome of Table 6-2 and the page is released (R214). -/
def execPageRebuildDone (tier : Tier) (page : Nat) (s : State) : Host.Outcome State Fault Refusal :=
  .next <| unfused s <| match s.mem.rebuilds.find? fun r => r.tier == tier && r.page == page with
    | none => s
    | some r => endRebuild s r

/-- CE_BUCKET_LEAK: at the first tread of a flight whose number is a multiple of the leak setting, every bucket of the
tier above 0 loses 1, once (R224). T1 has no buckets. -/
def execCeBucketLeak (tier : Tier) (s : State) : Host.Outcome State Fault Refusal :=
  let c := tierCode tier
  .next <| unfused s <|
    if s.time.loaded ∧ s.time.tread % 4096 = 0 ∧ flight s % leakOf s c = 0 ∧ leakedAt s c ≠ some (flight s) then
      let down : AMap Bucket → AMap Bucket := fun m => mmap m fun _ b => { b with level := b.level - 1 }
      match tier with
      | .t1 => s
      | .t2 => { s with mem.buckets2 := down s.mem.buckets2, mem.leaked2 := some (flight s) }
      | .t3 => { s with mem.buckets3 := down s.mem.buckets3, mem.leaked3 := some (flight s) }
    else s

/-- Pages of a unit (R228). -/
def unitPages (s : State) (tier : Nat) : Nat :=
  if tier = 1 then 4096 else match s.fuses.order with | .lx => 393216 | .ls => 262144

/-- The scrub interval of a unit in treads (R228, Table 6-9). -/
def scrubInterval (s : State) (tier : Nat) : Nat :=
  (if tier = 1 then s.mem.t2Pass else s.mem.t3Pass) * 1000000 / unitPages s tier

/-- True where patrol scrub of a tier runs: enabled, A0 or A1, no coolant stop (R227, R229, Table 6-10). -/
def scrubRuns (s : State) (tier : Nat) : Bool :=
  (if tier = 1 then s.mem.t2Scrub else s.mem.t3Scrub) && s.ps.state != 2 && !s.pw.coolantStop

/-- The next page that a unit scrubs. -/
def scrubNext (s : State) (tier unit : Nat) : Nat := mgetD (if tier = 1 then s.mem.scrub2 else s.mem.scrub3) unit 0

/-- The tier-wide number of page `pg` of a unit. -/
def scrubPage (tier unit pg : Nat) : Nat := if tier = 1 then unit * 4096 + pg else unit * 2 ^ 20 + pg

/-- Moves a unit's scrub position on. -/
def scrubAdvance (s : State) (tier unit : Nat) : State :=
  let nx := (scrubNext s tier unit + 1) % unitPages s tier
  if tier = 1 then { s with mem.scrub2 := mset s.mem.scrub2 unit nx }
  else { s with mem.scrub3 := mset s.mem.scrub3 unit nx }

/-- A page as patrol scrub reads it: a demand read of every word and of the check area, and then of its symbols (R227). -/
def scrubOne (s : State) (tier page : Nat) : State :=
  let multi := mkeys (tierBad s tier) fun w b => b == .multi && pageOf tier w == page
  let s := rebuildPage s tier multi 2
  let s := (mkeys (tierBad s tier) fun w b => b == .single && pageOf tier w == page).foldl (fun s w => correctWord s tier w) s
  let s := ([0, 1].filter fun i => mget (checkBad s tier) (2 * page + i) == some .single).foldl (fun s i => correctCheck s tier page i) s
  checkPage (setCheckBad s tier (mkeep (checkBad s tier) fun k _ => k / 2 != page)) tier page

/-- PATROL_SCRUB_PAGE: at its tread a unit reads its next page as a demand read does; a page under rebuild is skipped
and counted (R227, R228, Table 6-11). -/
def execPatrolScrubPage (tier : Tier) (unit : Nat) (s : State) : Host.Outcome State Fault Refusal :=
  let c := tierCode tier
  .next <| unfused s <|
    if c ≠ 0 ∧ unit < (if c = 1 then 2048 else 1536) ∧ scrubRuns s c ∧ 0 < scrubInterval s c ∧
        (s.time.tread + unit * scrubInterval s c - unit) % scrubInterval s c = 0 then
      let page := scrubPage c unit (scrubNext s c unit)
      let s := hwBump (scrubAdvance s c unit) (kProt (18 + c)) 1
      if s.mem.rebuilds.any fun r => r.tier == tier && r.page == page then s else scrubOne s c page
    else s

/-! ### Repair (R230 to R234) -/

/-- Spares of a unit by repair kind (Table 6-12): 32 rows, 16 columns, 4 pads of a T2 slice; the stacks' spares as the
JEDEC standard defines them are taken as 64 (notes/assumptions/15.md). -/
def spares (kind : Nat) : Nat := if kind = 0 then 32 else if kind = 1 then 16 else if kind = 2 then 4 else 64

/-- Repairs of one kind and unit, committed and soft. -/
def repairsOf (s : State) (kind unit : Nat) : Nat :=
  ((s.store.repairMap ++ s.store.stackRows ++ s.mem.soft).filter fun r => r.kind == kind && r.unit == unit).length

/-- The range of UNIT and ADDRESS of a target (Tables 6-13, 16-11); the manual gives no count of rows or columns, so the
field's width bounds them. -/
def targetInRange (r : Repair) : Bool :=
  if r.kind ≤ 2 then decide (r.unit < 2048) && (r.kind != 2 || decide (r.address < 320))
  else if r.kind = 3 then decide (r.unit < 1536)
  else if r.kind = 4 then decide (r.unit % 64 < 32 ∧ r.unit < 1536 ∧ r.address < 80)
  else false

/-- The RESULT of a soft repair request (Table 6-13, R233). -/
def repairResult (s : State) (r : Repair) : Nat :=
  if s.fuses.lc = .blank ∨ s.fuses.lc = .scrapped then 4
  else if !targetInRange r then 3
  else if (s.store.repairMap ++ s.store.stackRows ++ s.mem.soft).contains r then 2
  else if spares r.kind ≤ repairsOf s r.kind r.unit then 1
  else if 64 ≤ s.mem.soft.length then 6
  else 0

/-- True where a T2 slice is low on spares: 4 spare rows or fewer, or no spare pad (Table 16-8 SPARES_LOW). -/
def sparesLow (s : State) (unit : Nat) : Bool :=
  decide (32 ≤ repairsOf s 0 unit + 4) || decide (4 ≤ repairsOf s 2 unit)

/-- Raises SPARES_LOW once for a tile (R516). -/
def raiseSparesLow (s : State) (unit : Nat) : State :=
  if sparesLow s unit && !s.store.limitTiles.contains unit then
    lifeLimit { s with store.limitTiles := s.store.limitTiles ++ [unit] } 0x14 unit
  else s

/-- The tier of a repair target. -/
def Repair.tier (r : Repair) : Nat := if r.kind ≤ 2 then 1 else 2

/-- The wrong words of a repair target; where a row, column, pad or lane lies among its unit's words the manual does not say
(notes/assumptions/15.md). -/
def targetBad (s : State) (r : Repair) : List Nat :=
  mkeys (tierBad s r.tier) fun w _ => repairCovers r.kind r.unit r.address w

/-- The copy of a target: its words are read through both codes, so that one with a wrong bit is corrected, and one beyond the word code
is rebuilt with its page or poisoned in the spare (R231, Table 6-11). -/
def copyTarget (s : State) (r : Repair) : State := (targetBad s r).foldl (fun s w => readWords s r.tier w w 1) s

/-- A soft repair: the target's contents are copied and it is remapped to a spare (R230, R231, Table 16-5). -/
def softRepair (s : State) (r : Repair) : State :=
  let s := copyTarget s r
  let s := logEvent { s with mem.soft := s.mem.soft ++ [r] } 6 0xFFFF
    (leBytes 2 r.kind ++ leBytes 2 r.unit ++ leBytes 4 r.address)
  if r.kind ≤ 2 then raiseSparesLow s r.unit else s

/-- Writes the argument fields of `REPAIR_CTL` (Table 6-13); the reserved bits are ignored. -/
def repairFields (s : State) (v : W64) : State :=
  { s with mem.repKind := bits v.toNat 2 0, mem.repUnit := bits v.toNat 26 16, mem.repAddr := bits v.toNat 47 27 }

/-- The target that `REPAIR_CTL` names. -/
def repairTarget (s : State) : Repair := { kind := s.mem.repKind, unit := s.mem.repUnit, address := s.mem.repAddr }

/-- GO of `REPAIR_CTL`: a refused request sets RESULT; an accepted one is busy until REPAIR_DONE (R230, R233). -/
def repairGo (s : State) : State :=
  let r := repairResult s (repairTarget s)
  if r = 0 then { s with mem.repBusy := true, mem.repCommit := false, mem.repResult := 0 }
  else { s with mem.repResult := r }

/-- True where `n` bytes from `off` of a tier lie in the target of a repair in progress, or of a commit; such an access waits (R231,
R234). -/
def underRepair (s : State) (tier off n : Nat) : Bool :=
  let ts := if s.mem.repCommit then s.mem.soft else [repairTarget s]
  s.mem.repBusy && ts.any fun r => r.tier == tier &&
    (List.range ((off + n + 7) / 8 - off / 8)).any fun i => repairCovers r.kind r.unit r.address (off / 8 + i)

/-- True where an access to `n` bytes from `off` of T2 or T3 must wait: a page under rebuild, a word that will lead to one, or a repair
(R214, R234, Table 6-11). -/
def mustWait (s : State) (tier off n : Nat) : Bool :=
  tier != 0 && decide (0 < n) && (!(rebuildsIn s tier off n).isEmpty || !(badIn s tier (off / 8) ((off + n - 1) / 8) .multi).isEmpty ||
    underRepair s tier off n)

/-- The rebuilds that a waiting access starts: one for each page with a word beyond the word code (R214). -/
def startRebuilds (s : State) (tier off n : Nat) : State :=
  if tier = 0 ∨ n = 0 then s
  else (badIn s tier (off / 8) ((off + n - 1) / 8) .multi).foldl (fun s w =>
    let pg := pageOf tier w
    if s.mem.rebuilds.any fun r => tierCode r.tier == tier && r.page == pg then
      { s with mem.rebuilds := s.mem.rebuilds.map fun r =>
          if tierCode r.tier = tier ∧ r.page = pg then { r with words := addWord r.words w } else r }
    else { s with mem.rebuilds := s.mem.rebuilds ++ [{ tier := if tier = 1 then .t2 else .t3, page := pg, words := [w], scrub := false }] }) s

/-- The two for bytes of an object (R214, R234). -/
def objMustWait (s : State) (e : DirEntry) (off n : Nat) : Bool := (objPieces e off n).any fun p => mustWait s e.tier p.1 p.2.2
def objRebuilds (s : State) (e : DirEntry) (off n : Nat) : State :=
  (objPieces e off n).foldl (fun s p => startRebuilds s e.tier p.1 p.2.2) s

/-- REPAIR_GO: a write of `REPAIR_CTL` with GO; ignored while BUSY is set. In SCRAPPED, where registers ignore what is written (R567), it
sets RESULT to 4 and changes nothing else (Table 6-13, R233). -/
def execRepairGo (value : W64) (s : State) : Host.Outcome State Fault Refusal :=
  .next <| unfused s <| if s.mem.repBusy then s
    else if s.fuses.lc = .scrapped then { s with mem.repResult := 4 }
    else repairGo (repairFields s value)

/-- COMMIT of `REPAIR_CTL`: RESULT 4, 7 or 5 where refused, consuming nothing; otherwise busy until REPAIR_DONE
(R232, R233, R455). -/
def repairCommit (s : State) : State :=
  if s.fuses.lc = .blank ∨ s.fuses.lc = .scrapped then { s with mem.repResult := 4 }
  else if s.mem.soft.isEmpty then { s with mem.repResult := 7 }
  else if 8 ≤ s.fuses.repairUsed then { s with mem.repResult := 5 }
  else { s with mem.repBusy := true, mem.repCommit := true, mem.repResult := 0 }

/-- REPAIR_COMMIT: a write of `REPAIR_CTL` with COMMIT; ignored while BUSY is set (R232, R233). -/
def execRepairCommit (value : W64) (s : State) : Host.Outcome State Fault Refusal :=
  .next <| unfused s <| if s.mem.repBusy then s
    else if s.fuses.lc = .scrapped then { s with mem.repResult := 4 }
    else repairCommit (repairFields s value)

end Sys2Proof.Machine
end

