-- ==== Sys2Proof/Machine/Windows.lean ====
section
/-!
DEFINITION. Memory windows: HDM decoders, CXL.mem accesses and Back-Invalidate (13 R423 to R425, Table 13-5; 05 R181).
-/
namespace Sys2Proof.Machine

/-- The registers of window `n` of port `p`. -/
def hdmOf (s : State) (p n : Nat) : HdmSt := mgetD s.hdm (p * 16 + n) .reset

/-- Sets window `n` of port `p`. -/
def setHdm (s : State) (p n : Nat) (v : HdmSt) : State := { s with hdm := mset s.hdm (p * 16 + n) v }

/-- The extent of the tier that a window's TARGET names; another module's T3 may be as large as the largest order
code's (R6, R423). -/
def windowExtent (s : State) (g : Nat) : Nat :=
  if gaTier g = 1 then 2 ^ 34
  else if gaTier g = 2 then (if gaModule g = s.net.index then t3Bytes s else 1152 * 2 ^ 30) else 0

/-- The checks made at commit (R423). -/
def windowOk (s : State) (v : HdmSt) : Bool :=
  v.size != 0 && v.size % 2 ^ 28 == 0 && v.target % 4096 == 0 && decide (gaOff v.target + v.size ≤ windowExtent s v.target)

/-- HDM_DECODER_COMMIT: the window is locked; one that breaks R423 has EN read 0. -/
def execHdmDecoderCommit (port : Port) (n : Fin 16) (s : State) : Host.Outcome State Fault Refusal :=
  let v := hdmOf s port n
  .next <| unfused s <| if v.committed then s else setHdm s port n { v with committed := true, en := v.en && windowOk s v }

/-- HDM_DECODER_UNCOMMIT: the window unlocks (R423). -/
def execHdmDecoderUncommit (port : Port) (n : Fin 16) (s : State) : Host.Outcome State Fault Refusal :=
  .next <| unfused s (setHdm s port n { hdmOf s port n with committed := false })

/-- How a CXL.mem access to a global address of a window comes out (Table 13-5). -/
inductive Verdict where
  | refused | sealedHome | moving | unreachable | remote (obj : Nat) (e : DirEntry) | serve (obj : Nat) (e : DirEntry)

/-- The verdict on `len` bytes at `off` of a window (R424, Table 13-5, R181). -/
def verdict (s : State) (p n off len : Nat) (write : Bool) : Verdict :=
  let v := hdmOf s p n
  let g := v.target + off
  if !v.en || decide (v.size < off + len) || mget s.winOwn (p * 16 + n) != some v.context ||
      !(gaTier g == 1 || gaTier g == 2) then .refused
  else match objAt s (gaModule g) (gaTier g) (gaOff g) with
    | none => .refused
    | some (obj, e) =>
      let first := homeByte e (gaOff g)
      if e.ctx != v.context || first.isNone || homeByte e (gaOff g + len - 1) != first.map (· + (len - 1)) then .refused
      else if write && !v.write then .refused
      else if e.isSealed then .sealedHome
      else if e.absent || moduleStatus s e.modIx == eUnreachable then .unreachable
      else if moveHolds s obj write then .moving
      else if e.modIx != s.net.index then .remote obj e else .serve obj e

/-- Lines of 64 B of a range that other ports may cache: those under a committed, enabled CACHE window (R425). -/
def cachedLines (s : State) (p g len : Nat) : List (Nat × Nat) :=
  s.hdm.filterMap fun h =>
    let q := h.1 / 16
    let lo := max g h.2.target
    let hi := min (g + len) (h.2.target + h.2.size)
    if h.2.committed && h.2.en && h.2.cache && q != p && decide (lo < hi) then some (q, (hi + 63) / 64 - lo / 64) else none

/-- Counts the Back-Invalidate snoops for a list of ports and lines (R425). -/
def snoop (s : State) (ls : List (Nat × Nat)) : State := ls.foldl (fun s x => hwBump s (kPort x.1 7) x.2) s

/-- Adds what waits, under the lowest free number. -/
def addWait (s : State) (w : Wait) : Nat × State :=
  let k := (s.waits.map (·.1 + 1)).foldl max 0
  (k, { s with waits := mset s.waits k w })

/-- The lines of a range of an object of this module that partners may hold (R425). -/
def rangeLines (s : State) (e : DirEntry) (off n : Nat) : List (Nat × Nat) :=
  (objPieces e off n).flatMap fun r => cachedLines s 4 (mkGa s e.tier r.1) r.2.2

/-- True where a write to a range of an object has to wait until the partners have given up its lines (R425). -/
def writeHeld (s : State) (obj : Nat) (e : DirEntry) (off n : Nat) : Bool :=
  !(rangeLines s e off n).isEmpty && !(s.waits.any fun w => w.2 == .biClear obj off n)

/-- Snoops the lines of a range before a write to it, once (R425). -/
def askLines (s : State) (obj : Nat) (e : DirEntry) (off n : Nat) : State :=
  if s.waits.any fun w => w.2 == .biRange obj off n then s else (addWait (snoop s (rangeLines s e off n)) (.biRange obj off n)).2

/-- A write that waited takes place: the partners' answer is used up. -/
def usedLines (s : State) (obj off n : Nat) : State := { s with waits := mkeep s.waits fun _ w => w != .biClear obj off n }

/-- Records the answer to a CXL.mem access. -/
def answer (s : State) (r : CxlResp) : State := { s with cxlResp := s.cxlResp ++ [r] }

/-- Serves a read of the home; one that meets a poisoned word is answered with poison (Tables 6-4, 13-5). -/
def serveRead (s : State) (e : DirEntry) (b len : Nat) : State :=
  let x := takeObj (countObj s e b len false) e b len
  answer x.2.2 (if x.2.1.isEmpty then .data x.1 [] else .poison)

/-- Serves a write to the home. -/
def serveWrite (s : State) (e : DirEntry) (b : Nat) (data : Bytes) : State :=
  answer (objWrite (countObj s e b data.length true) e b data) .written

/-- True where an earlier access of a port to the same bytes has not taken effect yet, and one of the two writes (R202). -/
def behind (s : State) (p g len : Nat) (write : Bool) : Bool :=
  let meets (n off l : Nat) : Bool := let h := (hdmOf s p n).target + off; decide (h < g + len ∧ g < h + l)
  s.waits.any fun w =>
    match w.2 with
    | .cxlWrite q n off data | .biWrite q n off data => q == p && meets n off data.length
    | .cxlRead q n off l => write && q == p && meets n off l
    | _ => false

/-- The global address of a window's offset. -/
def windowGa (s : State) (p n off : Nat) : Nat := (hdmOf s p n).target + off

/-- The byte of the object that a window's offset reaches. -/
def windowByte (s : State) (p n off : Nat) (e : DirEntry) : Nat :=
  (homeByte e (gaOff ((hdmOf s p n).target + off))).getD 0

/-- A CXL.mem read, which may have to wait for a MOVE (R181, R424). A home on another module is read over GT; its
answer comes with the message. -/
def cxlReadNow (s : State) (p n off len : Nat) : State :=
  match verdict s p n off len false with
  | .refused => answer (hwBump s (kPort p 5) 1) .poison
  | .sealedHome => answer (hwBump s (kPort p 6) 1) .poison
  | .unreachable => answer s .poison
  | .moving => let (w, s) := addWait s (.cxlRead p n off len); answer s (.waiting w)
  | .remote obj e =>
    let (w, s) := addWait s (.cxlRead p n off len)
    let b := windowByte s p n off e
    answer (newMsg s 2 e.modIx e.ctx (.cxl w) (handleTarget obj b len e.epoch) (handleTarget 0 0 len 0)) (.waiting w)
  | .serve _ e => serveRead s e (windowByte s p n off e) len

/-- A CXL.mem write, once no partner holds its lines. -/
def cxlWriteNow (s : State) (p n off : Nat) (data : Bytes) : State :=
  match verdict s p n off data.length true with
  | .refused => answer (hwBump s (kPort p 5) 1) .dropped
  | .sealedHome => answer (hwBump s (kPort p 6) 1) .dropped
  | .unreachable => answer s .dropped
  | .moving => let (w, s) := addWait s (.cxlWrite p n off data); answer s (.waiting w)
  | .remote obj e =>
    let (w, s) := addWait s (.cxlWrite p n off data)
    let b := windowByte s p n off e
    answer (newMsg s 1 e.modIx e.ctx (.cxl w) (handleTarget obj b data.length e.epoch) data) (.waiting w)
  | .serve _ e => serveWrite s e (windowByte s p n off e) data

/-- A CXL.mem read: it waits behind an earlier write of its port to the same bytes (R202). -/
def cxlRead (s : State) (p n off len : Nat) : State :=
  if behind s p (windowGa s p n off) len false then
    let (w, s) := addWait s (.cxlRead p n off len)
    answer s (.waiting w)
  else cxlReadNow s p n off len

/-- A CXL.mem write: where another partner may hold a line it writes, the module snoops and the write waits (R425); it waits, too, behind an
earlier access of its port to the same bytes (R202). -/
def cxlWrite (s : State) (p n off : Nat) (data : Bytes) : State :=
  let ls := match verdict s p n off data.length true with
    | .serve _ _ => cachedLines s p (windowGa s p n off) data.length
    | _ => []
  if !ls.isEmpty then
    let (w, s) := addWait (snoop s ls) (.biWrite p n off data)
    answer s (.waiting w)
  else if behind s p (windowGa s p n off) data.length true then
    let (w, s) := addWait s (.cxlWrite p n off data)
    answer s (.waiting w)
  else cxlWriteNow s p n off data

/-- CXL_MEM_READ through window `n` (R424). A decoder that is not committed claims no access. -/
def execCxlMemRead (port : Port) (n : Fin 16) (offset len : Nat) (s : State) : Host.Outcome State Fault Refusal :=
  .next <| unfused s <| if (hdmOf s port n).committed ∧ 0 < len then cxlRead { s with cxlResp := [] } port n offset len else s

/-- CXL_MEM_WRITE through window `n` (R424, R425). -/
def execCxlMemWrite (port : Port) (n : Fin 16) (offset : Nat) (data : Bytes) (s : State) :
    Host.Outcome State Fault Refusal :=
  .next <| unfused s <| if (hdmOf s port n).committed ∧ data ≠ [] then cxlWrite { s with cxlResp := [] } port n offset data else s

/-- True where a wait of a port at its window's bytes can go on: no MOVE holds it up, nothing of it is on its way over GT, and no earlier
access to the same bytes waits (R181, R202). -/
def waitOver (s : State) (w p n off len : Nat) (write : Bool) : Bool :=
  let t := { s with waits := mkeep s.waits fun k _ => decide (k < w) }
  !(s.net.msgs.any fun m => m.2.why == .cxl w) && !behind t p (windowGa s p n off) len write &&
    match verdict s p n off len write with | .moving => false | _ => true

/-- Serves the accesses that waited for a MOVE, or for an earlier access, that has ended, in the order in which they came (R181, R202). -/
def releaseWaits (s : State) : State :=
  s.waits.foldl (fun s w =>
    match w.2 with
    | .cxlRead p n off len =>
      if waitOver s w.1 p n off len false then cxlReadNow { s with waits := merase s.waits w.1 } p n off len else s
    | .cxlWrite p n off data =>
      if waitOver s w.1 p n off data.length true then cxlWriteNow { s with waits := merase s.waits w.1 } p n off data else s
    | _ => s) s

/-- The partners have given up the lines of a write that waited (R425): it goes on, behind earlier accesses of its port to the same bytes. -/
def biWriteEnd (s : State) (w p n off : Nat) (data : Bytes) : State :=
  releaseWaits { s with waits := mset s.waits w (.cxlWrite p n off data) }

end Sys2Proof.Machine
end

