-- ==== Sys2Proof/Machine/Move.lean ====
section
/-!
DEFINITION. MOVE: the one command that creates, relocates and frees homes (05 R179 to R186, Tables 5-5 to 5-7), and the
Back-Invalidate responses that it may wait for (13 R425).
-/
namespace Sys2Proof.Machine

/-- The parameters of a MOVE (Tables 5-6, 13-11). -/
structure MoveReq where
  kind       : Nat
  obj        : Nat
  dst        : Nat
  stripes    : Nat
  tileStep   : Nat
  stripeSize : Nat
  size       : Nat
  host       : Nat
  deriving DecidableEq, Repr

/-- Reads the parameters of a MOVE descriptor (Table 13-11). -/
def moveReq (b : Bytes) : MoveReq :=
  { kind := byteAt b 8, obj := fld b 12 4, dst := fld b 16 8, stripes := fld b 24 2, tileStep := fld b 26 2,
    stripeSize := fld b 28 4, size := fld b 32 8, host := fld b 40 8 }

/-- The named body fields of a MOVE descriptor. -/
def moveFields : List (Nat × Nat) := [(8, 1), (12, 36)]

/-- Counts the bytes of a whole home as read or written by the MOVE (R207). -/
def countHome (s : State) (e : DirEntry) (write : Bool) : State :=
  (homeRuns e).foldl (fun s r => countTier s e.tier r.1 r.2 write) s

/-- The destination of a MOVE as a directory entry (R172, R180). -/
def moveDest (s : State) (ctx : Nat) (r : MoveReq) (size epoch : Nat) : DirEntry :=
  { ctx := ctx, moving := false, absent := false, isSealed := false, epoch := epoch, modIx := gaModule r.dst,
    tier := gaTier r.dst, bound := 0, stripeSize := r.stripeSize, size := size, base := gaOff r.dst,
    stripes := r.stripes, tileStep := r.tileStep, moveTread := s.time.tread }

/-- True where a destination breaks R169, R172, R183 or names a module that R170 refuses. -/
def destBad (s : State) (obj : Nat) (e : DirEntry) : Bool :=
  !(e.tier == 1 || e.tier == 2) || moduleStatus s e.modIx == ePerm || (e.tier == 2 && decide (2 ^ 41 ≤ e.base)) ||
    !layoutOk e || overlapsOther s obj e

/-- Checks of a destination on this module that give E_CAPACITY (R6, R184); `back` bytes of the allocation are given up. Another member
checks its own (`offerStatus`). -/
def destRoom (s : State) (ctx : Nat) (e : DirEntry) (back : Nat) : Nat :=
  if e.modIx ≠ s.net.index then stOk
  else if e.tier = 2 ∧ t3Bytes s < e.base + e.size then eCapacity
  else if !allocFits s ctx e.tier e.size back then eCapacity
  else stOk

/-- True where a home in T3 lies beyond what has been initialised (R536). -/
def notReady (s : State) (e : DirEntry) : Bool :=
  e.modIx == s.net.index && e.tier == 2 && !s.mem.t3Ready && decide (s.mem.initGib * 2 ^ 30 < e.base + e.size)

/-- True where two homes are one range (Table 5-7). -/
def sameHome (a b : DirEntry) : Bool :=
  a.modIx == b.modIx && a.tier == b.tier && a.base == b.base && a.stripes == b.stripes && a.tileStep == b.tileStep &&
    a.stripeSize == b.stripeSize

/-- Status of an IMPORT or ALLOC, by the first row of Table 5-7 that applies. -/
def createStatus (s : State) (ctx : Nat) (r : MoveReq) : Nat :=
  let e := moveDest s ctx r r.size 0
  if r.obj = 0 ∨ r.obj = 0xFFFFFFFF ∨ (dirGet s r.obj).isSome ∨ destBad s r.obj e then ePerm
  else if destRoom s ctx e 0 ≠ stOk then destRoom s ctx e 0
  else if dirFull s then eCapacity
  else if notReady s e then eBusy
  else stOk

/-- Status of a RELOCATE, EXPORT or FREE of an entry, by the first row of Table 5-7 that applies. -/
def homeStatus (s : State) (r : MoveReq) (e : DirEntry) : Nat :=
  let n := moveDest s e.ctx r e.size (e.epoch + 1)
  if r.kind = 0 ∧ destBad s r.obj n then ePerm
  else if r.kind = 2 ∧ e.isSealed then ePerm
  else if r.kind = 0 ∧ destRoom s e.ctx n (if n.tier = e.tier ∧ n.modIx = e.modIx then e.size else 0) ≠ stOk then
    destRoom s e.ctx n (if n.tier = e.tier ∧ n.modIx = e.modIx then e.size else 0)
  else if e.moving ∨ (r.kind ≠ 2 ∧ e.bound ≠ 0) then eBusy
  else if r.kind = 0 ∧ notReady s n then eBusy
  else if r.kind = 0 ∧ moduleStatus s n.modIx ≠ stOk then eUnreachable
  else if r.kind ≠ 4 ∧ e.absent then eUnreachable
  else stOk

/-- A removed entry as it is sent to the members: VALID clear (R177). -/
def announceGone (s : State) (obj : Nat) (e : DirEntry) : State :=
  let b := entryBytes obj e
  let b := putBytes b 6 (leBytes 2 (fld b 6 2 / 2 * 2))
  (otherMembers s).foldl (fun s i => newMsg s 8 i 0xFFFF .firmware (leBytes 12 0 ++ leBytes 4 64) b) s

/-- Sets an entry and sends it to every member (R177). -/
def commitEntry (s : State) (obj : Nat) (e : DirEntry) : State := announceEntry (dirSet s obj e) obj e

/-- Counts a MOVE that ends with OK and the bytes it copied (Table 5-10). -/
def moveDone (s : State) (copied : Nat) : State := hwBump (hwBump s (kMem 182) 1) (kMem 183) copied

/-- IMPORT and ALLOC: the range takes the partner's bytes, or zeros, and the entry is created with EPOCH 0 (Table 5-5,
R182), SEALED in a sealed context (R461). -/
def moveCreate (s : State) (d : Nat) (t : Taken) (r : MoveReq) (data : Bytes) : State :=
  let e := { moveDest s t.ctx r r.size 0 with isSealed := (ctxOf s t.ctx).isSealed }
  let s := countHome (objFill s e (if r.kind = 1 then cellsOf (data.take r.size) else []) []) e true
  complete (moveDone (commitEntry s r.obj e) (if r.kind = 1 then r.size else 0)) d stOk 0 0

/-- The staging object of a forwarded descriptor, at the module that executes it. -/
def stagingOf (s : State) (d : Nat) : Option (Nat × Staging) := s.mem.staging.find? fun x => x.2.desc == d

/-- The partner's bytes for a descriptor that this module executes: those of its own port are `data`; those of a forwarded one come to the
staging object, none before all are there. A read that fails, or meets poison, gives the bytes up to there (R179, Table 12-21). -/
def partnerData (s : State) (d : Nat) (data : Bytes) : Option (Bytes × State) :=
  match stagingOf s d with
  | none => some (data, s)
  | some (k, g) =>
    if g.got < g.size then none
    else some (g.data.take (g.bad.foldl min g.size), { s with mem.staging := merase s.mem.staging k })

/-- EXPORT: the home's bytes are written to partner memory; a poisoned word ends it with E_POISON, every unit written
all the same, with its poison (R181, R219, Table 5-7). Those of a forwarded descriptor go to the staging object, where the module that took it
reads them (Table 12-21). -/
def moveExport (s : State) (d : Nat) (t : Taken) (r : MoveReq) (e : DirEntry) : State :=
  let s := countHome (demandHome s e) e false
  let bad := objPoison s e
  let s := match t.origin, stagingOf s d with
    | none, _ =>
      let old := (mgetD s.pmemBad t.port []).filter fun w => !decide (r.host ≤ w ∧ w < r.host + e.size)
      { s with pmem := mset s.pmem t.port (writeCells (zeroBytes (pmemOf s t.port) r.host e.size)
                 ((objCells s e).map fun c => (r.host + c.1, c.2))),
               pmemBad := if old.isEmpty && bad.isEmpty then merase s.pmemBad t.port
                 else mset s.pmemBad t.port (old ++ bad.map (r.host + ·)) }
    | some _, some (k, g) => { s with mem.staging := mset s.mem.staging k { g with data := objRead s e 0 e.size, size := e.size, bad := bad } }
    | _, none => s
  if !bad.isEmpty then complete s d ePoison 0 0 else complete (moveDone s e.size) d stOk e.epoch 0

/-- Zero-fills a destination where it does not overlap the home that stays (Table 5-7). -/
def zeroDest (s : State) (n e : DirEntry) : State :=
  let cells := objCells s e
  let bad := objPoison s e
  if n.modIx = s.net.index then objFill (objZero s n) e cells bad else s

/-- The end of a RELOCATE within the module: data, entry and source change together (R180, R182). -/
def relocateHere (s : State) (d obj : Nat) (e n : DirEntry) : State :=
  let s := countHome (demandHome s e) e false
  if homePoisoned s e then
    releaseWaits (complete (dirSet (zeroDest s n e) obj { e with moving := false }) d ePoison 0 0)
  else
    let cells := objCells s e
    let s := countHome (countHome (objFill (objZero s e) n cells []) e true) n true
    let n := { n with isSealed := e.isSealed, moveTread := s.time.tread }
    releaseWaits (complete (moveDone (commitEntry s obj n) e.size) d stOk n.epoch 0)

/-- The start of a RELOCATE to another member: the destination is offered the entry, which it checks and whose range it then holds; the data
follow in WRITE messages, and the commit when every packet has been answered (R180; notes/assumptions/16.md). -/
def relocateAway (s : State) (d obj : Nat) (e n : DirEntry) : State :=
  let n := { n with isSealed := e.isSealed }
  let s := dirSet s obj { e with moving := true }
  let s := { s with mem.moving := mset s.mem.moving obj { kind := 0, desc := d, dest := n, sent := false } }
  newMsg s 8 n.modIx 0xFFFF (.desc d) (leBytes 12 0 ++ leBytes 4 64) (entryBytes obj { n with moving := true })

/-- A RELOCATE to another member ends without its commit: home, epoch and data are as they were, and the destination, which takes the home's
entry again, fills its range with zeros and holds it no longer (Table 5-7). -/
def relocateOff (s : State) (d obj : Nat) (e : DirEntry) (status : Nat) : State :=
  let s := { s with mem.moving := merase s.mem.moving obj }
  releaseWaits (complete (commitEntry s obj { e with moving := false }) d status 0 0)

/-- The destination has taken the offer: the data are read and sent (R180 step 2). -/
def relocateSend (s : State) (d obj : Nat) (m : Moving) (e : DirEntry) : State :=
  let s := countHome (demandHome s e) e false
  if homePoisoned s e then relocateOff s d obj e ePoison
  else writeFar { s with mem.moving := mset s.mem.moving obj { m with sent := true } } m.dest.modIx 0xFFFF (.desc d) obj 0 m.dest.epoch
    (objRead s e 0 e.size) []

/-- A message of a RELOCATE to another member has ended, `more` of them not: the offer's answer, a refusal among them, decides first; the
commit follows the last of the data; a lost destination leaves the home as it was (R180, R186, Table 5-7). -/
def relocateAwayDone (s : State) (d obj : Nat) (status : Nat) (more : Bool) : State :=
  match mget s.mem.moving obj, dirGet s obj with
  | some m, some e =>
    if status ≠ stOk then
      relocateOff s d obj e (if !m.sent && (status == eCapacity || status == eBusy || status == ePerm) then status else eUnreachable)
    else if more then s
    else if !m.sent then relocateSend s d obj m e
    else
      let s := { s with mem.moving := merase s.mem.moving obj }
      let s := countHome (objZero s e) e true
      let n := { m.dest with bound := e.bound, moveTread := s.time.tread }
      releaseWaits (complete (moveDone (commitEntry s obj n) e.size) d stOk n.epoch 0)
  | _, _ => s

/-- The status that a destination gives to an entry offered by a RELOCATE (R6, R169, R183, R184, R536). -/
def offerStatus (s : State) (obj : Nat) (n : DirEntry) : Nat :=
  if destBad s obj n then ePerm
  else if destRoom s n.ctx n 0 ≠ stOk then destRoom s n.ctx n 0
  else if notReady s n then eBusy else stOk

/-- A range held for a RELOCATE that does not commit is filled with zeros and held no longer (Table 5-7). -/
def dropOffer (s : State) (obj : Nat) : State :=
  match mget s.mem.moving obj with
  | some m => if m.kind = 5 then { objZero s m.dest with mem.moving := merase s.mem.moving obj } else s
  | none => s

/-- The end of a FREE: the home is zero-filled and the entry removed (R182, R542). -/
def moveFreeEnd (s : State) (d obj : Nat) (e : DirEntry) : State :=
  let s := if e.absent then s else countHome (objZero s e) e true
  releaseWaits (complete (moveDone (endContexts (announceGone (dirDel s obj) obj e)) 0) d stOk 0 0)

/-- What a RELOCATE or FREE does once no partner holds its lines. -/
def moveAct (s : State) (d obj : Nat) (r : MoveReq) (e : DirEntry) : State :=
  if r.kind = 4 then moveFreeEnd s d obj e
  else
    let n := { moveDest s e.ctx r e.size (e.epoch + 1) with bound := e.bound }
    if n.modIx = s.net.index then relocateHere s d obj e n else relocateAway s d obj e n

/-- Lines of a home that partners may cache, by port (R425). -/
def homeLines (s : State) (e : DirEntry) : List (Nat × Nat) :=
  if e.modIx = s.net.index then (homeRuns e).flatMap fun r => cachedLines s 4 (mkGa s e.tier r.1) r.2 else []

/-- RELOCATE and FREE of an entry whose home this module holds: cached lines are snooped first and the MOVE waits for
the response (R425). -/
def moveHome (s : State) (d : Nat) (r : MoveReq) (e : DirEntry) : State :=
  let ls := homeLines s e
  if ls.isEmpty || e.absent then moveAct s d r.obj r e
  else
    let s := dirSet s r.obj { e with moving := true }
    let n := if r.kind = 0 then moveDest s e.ctx r e.size (e.epoch + 1) else e
    let m : Moving := { kind := r.kind, desc := d, dest := n, sent := false }
    let s := { s with mem.moving := mset s.mem.moving r.obj m }
    (addWait (snoop (holdDesc s d) ls) (.biMove d)).2

/-- Bytes of partner memory that a descriptor's data take, and whether the module reads them: an IMPORT's, a PKG_STAGE's, an EXPORT's
(none known before). -/
def partnerPart (t : Taken) : Option (Nat × Bool) :=
  if t.op = 0x10 then some (fld t.bytes 16 8, true)
  else if t.op = 0x70 ∧ byteAt t.bytes 8 = 1 then some (fld t.bytes 32 8, true)
  else if t.op = 0x70 ∧ byteAt t.bytes 8 = 2 then some (0, false)
  else none

/-- The descriptor goes to the module that executes it (R179, Table 12-21 DESC_FWD). One with partner data names a staging object there,
whose number is free; `data` are the partner's bytes that the module reads. -/
def forwardDesc (s : State) (d m : Nat) (t : Taken) (data : Bytes) : State :=
  let k := 1 + freeValue s.fv % 0xFFFFFFFE
  let part := partnerPart t
  let s := match part with
    | some (n, _) =>
      let g : Staging := { desc := d, data := padTo n data, size := n, got := 0, status := 0, result := 0,
                           bad := if data.length < n then [data.length / 8 * 8] else [] }
      { s with fv := s.fv + 1, mem.partner := mset s.mem.partner d (k, g) }
    | none => s
  sendCtrl { s with taken := madj s.taken d ({ · with stage := .sent m }) } m t.ctx (.desc d)
    ([3] ++ leBytes 1 t.port ++ leBytes 1 t.qp ++ leBytes 5 0 ++ leBytes 4 (if part.isSome then k else 0) ++ leBytes 8 0 ++ leBytes 44 0 ++ t.bytes)

/-- The DESC_FWD of a descriptor with partner data has been taken: the bytes that the module reads follow it to the staging object (Table
12-21). -/
def forwardData (s : State) (d m : Nat) (ctx : Nat) : State :=
  match mget s.mem.partner d, mget s.taken d with
  | some (k, g), some t =>
    if (partnerPart t).any (·.2) then
      writeFar { s with mem.partner := merase s.mem.partner d } m ctx (.desc d) k 0 0 g.data g.bad
    else s
  | _, _ => s

/-- The DESC_DONE of a forwarded EXPORT: the bytes are read from the staging object before it completes. -/
def exportRead (s : State) (d m status r0 r1 : Nat) : Option State :=
  match mget s.mem.partner d, mget s.taken d with
  | some (k, g), some t =>
    let n := ((dirGet s (moveReq t.bytes).obj).elim 0 (·.size))
    if (partnerPart t).any (!·.2) ∧ (status = stOk ∨ status = ePoison) ∧ n ≠ 0 then
      let s := { s with mem.partner := mset s.mem.partner d (k, { g with size := n, status := status, result := r0 + r1 * 2 ^ 64 }) }
      some ((List.range (ceilDiv n 1048576)).foldl (fun s i =>
        let len := min 1048576 (n - i * 1048576)
        newMsg s 2 m t.ctx (.desc d) (handleTarget k (i * 1048576) len 0) (handleTarget 0 (i * 1048576) len 0)) s)
    else none
  | _, _ => none

/-- The last of a forwarded EXPORT's bytes has come: it completes as the executing module said. -/
def exportEnd (s : State) (d status : Nat) : State :=
  match mget s.mem.partner d with
  | none => s
  | some (_, g) =>
    let s := { s with mem.partner := merase s.mem.partner d }
    if status ≠ stOk then finish s d status else complete s d g.status (g.result % 2 ^ 64) (g.result / 2 ^ 64)

/-- Passes a descriptor on to module `m` when another one executes it, or runs `act` here (R170, R179). -/
def atModule (s : State) (d m : Nat) (t : Taken) (data : Bytes) (act : State) : State :=
  if m = s.net.index then act
  else if moduleStatus s m = stOk then forwardDesc s d m t data
  else finish s d (moduleStatus s m)

/-- A MOVE of an object that has a home: RELOCATE, EXPORT, FREE (R179). -/
def moveExisting (s : State) (d : Nat) (t : Taken) : State :=
  let r := moveReq t.bytes
  match dirGet s r.obj with
  | none => finish s d ePerm
  | some e =>
    if e.ctx ≠ t.ctx then finish s d ePerm
    else
      let run :=
        if homeStatus s r e ≠ stOk then finish s d (homeStatus s r e)
        else if r.kind = 0 ∧ sameHome (moveDest s e.ctx r e.size 0) e then complete s d stOk e.epoch 0
        else if r.kind = 2 then moveExport s d t r e
        else moveHome s d r e
      if e.absent then run else atModule s d e.modIx t [] run

/-- A MOVE that creates an object: IMPORT, ALLOC (R179). -/
def moveNew (s : State) (d : Nat) (t : Taken) (data : Bytes) : State :=
  let r := moveReq t.bytes
  let m := gaModule r.dst
  let run :=
    if createStatus s t.ctx r ≠ stOk then finish s d (createStatus s t.ctx r)
    else if r.kind = 1 ∧ data.length < r.size then finish s d ePoison
    else moveCreate s d t r data
  if m ≠ s.net.index ∧ moduleStatus s m = stOk ∧ (r.obj = 0 ∨ (dirGet s r.obj).isSome) then finish s d ePerm
  else atModule s d m t data run

/-- True where a taken descriptor is a MOVE of a kind. -/
def isMove (kind : Nat) (t : Taken) : Bool := t.op == 0x70 && byteAt t.bytes 8 == kind

/-- MOVE RELOCATE (Table 5-5). -/
def execMoveRelocate (d : Nat) (s : State) : Host.Outcome State Fault Refusal :=
  .next <| unfused s (withDesc s d (isMove 0) moveFields (moveExisting s d))

/-- MOVE IMPORT of the partner's bytes `data`, fewer than SIZE where a read fails or meets poison (Tables 5-5, 5-7). -/
def execMoveImport (d : Nat) (data : Bytes) (s : State) : Host.Outcome State Fault Refusal :=
  .next <| unfused s (withDesc s d (isMove 1) moveFields fun t =>
    match partnerData s d data with
    | some x => moveNew x.2 d t x.1
    | none => s)

/-- MOVE EXPORT (Table 5-5). -/
def execMoveExport (d : Nat) (s : State) : Host.Outcome State Fault Refusal :=
  .next <| unfused s (withDesc s d (isMove 2) moveFields (moveExisting s d))

/-- MOVE ALLOC (Table 5-5). -/
def execMoveAlloc (d : Nat) (s : State) : Host.Outcome State Fault Refusal :=
  .next <| unfused s (withDesc s d (isMove 3) moveFields fun t => moveNew s d t [])

/-- MOVE FREE (Table 5-5). -/
def execMoveFree (d : Nat) (s : State) : Host.Outcome State Fault Refusal :=
  .next <| unfused s (withDesc s d (isMove 4) moveFields (moveExisting s d))

/-- The object whose MOVE a descriptor is. -/
def movingOf (s : State) (d : Nat) : Option Nat := (s.mem.moving.find? fun m => m.2.desc == d).map (·.1)

/-- A RELOCATE or FREE goes on when its partners have answered (R425). -/
def moveResume (s : State) (d : Nat) : State :=
  match mget s.taken d, (movingOf s d).bind (dirGet s) with
  | some t, some e =>
    let r := moveReq t.bytes
    moveAct (dirSet { s with mem.moving := merase s.mem.moving r.obj } r.obj { e with moving := false }) d r.obj r
      { e with moving := false }
  | _, _ => s

end Sys2Proof.Machine
end

