-- ==== Sys2Proof/Machine/Harness.lean ====
section
/-!
DEFINITION. Registering harnesses and overlays (04 R134 to R137, R146; Table 13-11).
-/
namespace Sys2Proof.Machine

/-- Body fields of HARNESS_LOAD and of OVERLAY_LOAD REGISTER (Table 13-11). -/
def loadFields : List (Nat × Nat) := [(8, 2), (12, 44)]
def registerFields : List (Nat × Nat) := [(8, 2), (12, 28)]

/-- DIGEST of an entry's plaintext: the digest of the digests of its 4 KiB units, the last filled with zeros (R462). -/
def unitDigest (b : Bytes) : Digest :=
  sha3 ((List.range (ceilDiv b.length 4096)).flatMap fun i => leBytes 32 (sha3 (padTo 4096 (slice b (4096 * i) 4096))).toNat)

/-- Where an image comes from: its status, its bytes, its package, and for SRC 2 whether its object is one of the package's
entry KIND `kind` with the digest that the manifest states (R465). `given` are the bytes that reach the module from a
partner or from a home on another module (notes/assumptions/7.md). -/
def imageSource (s : State) (t : Taken) (kind : Nat) (given : Bytes) : Nat × Bytes × Option Nat × Option Bool :=
  let src := byteAt t.bytes 9
  let len := fld t.bytes 36 4
  let h := handleAt t.bytes 16
  if src = 0 then (stOk, given.take len, none, none)
  else if 2 < src then (ePerm, [], none, none)
  else
    let pkg := fld t.bytes 12 4
    let entry := (mget s.pkgs pkg).bind fun p => if p.ctx = t.ctx then p.objs.find? fun o => o.obj == h.1 else none
    match dirGet s h.1 with
      | none => (ePerm, [], none, none)
      | some e =>
        if e.ctx ≠ t.ctx ∨ e.size < h.2 + len then (ePerm, [], none, none)
        else if e.absent ∨ moduleStatus s e.modIx ≠ stOk then (eUnreachable, [], none, none)
        else
          let p := if src = 2 then some pkg else none
          let whole := if e.modIx = s.net.index then objRead s e 0 e.size else given
          let g := if src = 2 then some (entry.any fun o => o.kind == kind && unitDigest whole == o.digest) else none
          if e.modIx ≠ s.net.index then (stOk, given.take len, p, g)
          else if (List.range len).any fun i => poisoned s e.tier (homeAt e (h.2 + i)) 1 then (ePoison, [], none, none)
          else (stOk, objRead s e h.2 len, p, g)

/-- Reads the object that holds an image: the image, or the whole of an entry whose digest is checked. -/
def demandImage (s : State) (t : Taken) : State :=
  let h := handleAt t.bytes 16
  if byteAt t.bytes 9 = 1 then demandOwn s t.ctx h (fld t.bytes 36 4)
  else if byteAt t.bytes 9 = 2 then demandOwn s t.ctx (h.1, 0) (((dirGet s h.1).map (·.size)).getD 0)
  else s

/-- The harness of a context with a UID, and its number. -/
def harnessOf (s : State) (ctx uid : Nat) : Option (Nat × Harness) :=
  s.harn.find? fun h => h.2.ctx == ctx && h.2.uid == uid

/-- The overlay of a context with a UID, and its number. -/
def overlayOf (s : State) (ctx uid : Nat) : Option (Nat × Overlay) :=
  s.overs.find? fun o => o.2.ctx == ctx && o.2.uid == uid

/-- HARNESS_LOAD without RELEASE: the checks of Table 4-5, then R136, then check 12 (R134). -/
def loadHarness (s : State) (d : Nat) (t : Taken) (given : Bytes) : State :=
  if byteAt t.bytes 8 ≠ 0 ∨ !zeroAt t.bytes 40 16 then finish s d ePerm
  else
    let s := demandImage s t
    let src := imageSource s t 2 given
    let img := src.2.1
    let uid := fld img 0x20 16
    let size := fld img 8 4
    if src.1 ≠ stOk then finish s d src.1
    else if imageStatus img src.2.2.2 ≠ stOk then finish s d (imageStatus img src.2.2.2)
    else match harnessOf s t.ctx uid with
    | some (_, h) => finish s d (if fld h.image 0x40 32 = fld img 0x40 32 then stOk else ePerm)
    | none =>
      match mfresh s.harn 512 with
      | none => finish s d eCapacity
      | some k =>
        if !allocFits s t.ctx 2 size 0 then finish s d eCapacity
        else finish { s with harn := mset s.harn k { ctx := t.ctx, uid := uid, image := img.take size, pkg := src.2.2.1 } }
          d stOk

/-- HARNESS_LOAD (R134). -/
def execHarnessLoad (d : Nat) (image : Bytes) (s : State) : Host.Outcome State Fault Refusal :=
  .next <| unfused s (withDesc s d (fun t => t.op == 0x20 && byteAt t.bytes 8 % 2 == 0) loadFields fun t => loadHarness s d t image)

/-- True where an instance of a harness is bound, or an overlay of it is being staged (R137). -/
def harnessBusy (s : State) (ctx uid : Nat) : Bool := s.insts.any fun i => i.2.ctx == ctx && i.2.uid == uid

/-- Unregisters a harness and its overlays (R137). -/
def dropHarness (s : State) (k : Nat) : State :=
  match mget s.harn k with
  | none => s
  | some h => { s with harn := merase s.harn k,
                       overs := mkeep s.overs fun _ o => !(o.ctx == h.ctx && o.base == h.uid) }

/-- HARNESS_LOAD with RELEASE (R137). -/
def execHarnessRelease (d : Nat) (s : State) : Host.Outcome State Fault Refusal :=
  .next <| unfused s (withDesc s d (fun t => t.op == 0x20 && byteAt t.bytes 8 % 2 == 1) loadFields fun t =>
    if byteAt t.bytes 8 ≠ 1 ∨ !zeroAt t.bytes 9 31 then finish s d ePerm
    else match harnessOf s t.ctx (fld t.bytes 40 16) with
      | none => finish s d ePerm
      | some (k, h) => if harnessBusy s t.ctx h.uid then finish s d eBusy else finish (endContexts (dropHarness s k)) d stOk)

/-- OVERLAY_LOAD with the register action (R146). A UID that the context has registered already completes as R136
gives for a harness (notes/assumptions/19.md). -/
def execOverlayRegister (d : Nat) (image : Bytes) (s : State) : Host.Outcome State Fault Refusal :=
  .next <| unfused s (withDesc s d (fun t => t.op == 0x21 && byteAt t.bytes 8 == 0) registerFields fun t =>
    let s := demandImage s t
    let src := imageSource s t 3 image
    let img := src.2.1
    let uid := fld img 0x20 16
    let base := (harnessOf s t.ctx (fld img 0x10 16)).map fun h => himgOf h.2.image
    if src.1 ≠ stOk then finish s d src.1
    else if overlayStatus img base src.2.2.2 ≠ stOk then finish s d (overlayStatus img base src.2.2.2)
    else if !(base.any fun h => overlayRegionsOk h (patched h img)) then finish s d ePerm
    else match overlayOf s t.ctx uid with
      | some (_, o) => finish s d (if fld o.image 0x40 32 = fld img 0x40 32 then stOk else ePerm)
      | none =>
        match mfresh s.overs 4096 with
        | none => finish s d eCapacity
        | some k => finish { s with overs := mset s.overs k { ctx := t.ctx, base := fld img 0x10 16, uid := uid,
                                                              image := img.take (fld img 8 4), pkg := src.2.2.1 } } d stOk)

end Sys2Proof.Machine
end

