-- ==== Sys2Proof/Machine/Kv.lean ====
section
/-!
DEFINITION. The key-value cache: layout, frames, pages, copies, and what an instance's harness gives the serving loop (08
R258 to R287; 10 R331).
-/
namespace Sys2Proof.Machine

/-- The harness of an instance as the overlay in force patches it (R240). -/
def instImg (s : State) (i : Inst) : HImg :=
  let h := (harnessOf s i.ctx i.uid).elim (himgOf []) fun x => himgOf x.2.image
  if i.overlay = 0 then h else (overlayOf s i.ctx i.overlay).elim h fun o => patched h o.2.image

/-- The shape plan in force for an instance. -/
def instShape (s : State) (i : Inst) : Shape := shapeOf (instImg s i).plan

/-! ### Layout (Table 8-1) -/

/-- The KV layout object. -/
structure KvLay where
  fmt    : Nat
  dim    : Nat
  layers : Nat
  heads  : Nat
  qPerKv : Nat
  tree   : Nat
  rb     : Nat
  g      : Nat
  f2     : Nat
  f3     : Nat
  ltT1   : Nat
  ltLen  : Nat
  deriving DecidableEq, Repr

/-- Reads the layout object; `dim` is in units of 64. -/
def kvLay (b : Bytes) : KvLay :=
  { fmt := byteAt b 2, dim := byteAt b 3, layers := fld b 4 2, heads := byteAt b 6, qPerKv := byteAt b 7, tree := byteAt b 8,
    rb := byteAt b 9, g := fld b 10 2, f2 := fld b 12 4, f3 := fld b 16 4, ltT1 := 64 * fld b 20 4, ltLen := fld b 24 4 }

/-- Pool indices of a layout (R258). -/
def KvLay.pools (l : KvLay) : Nat := l.layers * l.heads

/-- Bytes of an element of the cache, and of a page (R262). -/
def KvLay.elem (l : KvLay) : Nat := if l.fmt = 9 then 2 else 1
def KvLay.pageBytes (l : KvLay) : Nat := 2 * 64 * (64 * l.dim) * l.elem

/-- Bytes of the layout object, and its tile list. -/
def kvLayBytes (b : Bytes) : Nat := 64 + 32 * (kvLay b).pools
def kvTile (b : Bytes) (i : Nat) : Nat := fld b (kvLayBytes b + 2 * i) 2

/-- The tile group of a pool index. -/
def kvGroup (b : Bytes) (idx : Nat) : List Nat :=
  (List.range (kvLay b).g).map fun m => kvTile b (fld b (64 + 32 * idx + 16) 4 + m)

/-- Fields of the layout object in range (Table 8-1). -/
def kvLayOk (b : Bytes) : Bool :=
  let l := kvLay b
  fld b 0 2 == 1 && (l.fmt == 1 || l.fmt == 2 || l.fmt == 9) && decide (1 ≤ l.dim ∧ l.dim ≤ 4) &&
    decide (1 ≤ l.layers ∧ l.layers ≤ 256) && decide (1 ≤ l.heads ∧ l.heads ≤ 16) &&
    decide (1 ≤ l.qPerKv ∧ l.qPerKv ≤ 16) && decide (1 ≤ l.tree ∧ l.tree ≤ 64) && decide (1 ≤ l.rb ∧ l.rb ≤ 8) &&
    decide (1 ≤ l.g ∧ l.g ≤ 256) && decide (1 ≤ l.f2 + l.f3) && zeroAt b 0x1C 36 &&
    (List.range l.pools).all fun i => zeroAt b (64 + 32 * i + 20) 12

/-! ### Frames (R266, R281, R283, R284) -/

/-- Frames of a tier that pages of a group hold, those of copies under way among them. -/
def usedFrames (g : Group) (inT3 : Bool) : List Nat :=
  g.reqs.flatMap fun r => r.2.pages.flatMap fun p =>
    (if p.inT3 = inT3 then [p.frame] else []) ++ (match p.dest with | some d => if p.inT3 = inT3 then [] else [d] | none => [])

/-- Frames of a tier. -/
def tierFrames (g : Group) (inT3 : Bool) : Nat := if inT3 then (kvLay g.kv).f3 else (kvLay g.kv).f2

/-- Free frames of a tier. -/
def freeFrames (g : Group) (inT3 : Bool) : Nat := tierFrames g inT3 - (usedFrames g inT3).length

/-- The free frame that firmware takes next: the lowest number (notes/assumptions/21.md). -/
def nextFrame (g : Group) (inT3 : Bool) : Option Nat :=
  let used := usedFrames g inT3
  (List.range (tierFrames g inT3)).find? fun n => !used.contains n

/-- A new page for a request of a KV class (R283). -/
def newPage (g : Group) (cls : Nat) (prov : Bool) : Option KvPage :=
  let t2 := if cls = 1 then none else nextFrame g false
  match t2 with
  | some f => some { frame := f, inT3 := false, dest := none, prov := prov }
  | none => if cls = 2 then none else (nextFrame g true).map fun f => { frame := f, inT3 := true, dest := none, prov := prov }

/-- A request of a group, and its replacement. -/
def Group.req? (g : Group) (r : Nat) : Option Req := mget g.reqs r
def Group.setReq (g : Group) (r : Nat) (q : Req) : Group := { g with reqs := mset g.reqs r q }

/-- The KV placement class of a request. -/
def Req.cls (q : Req) : Nat := byteAt q.params 2

/-- Gives request `r` pages until it holds `n`, as far as frames last; pages from `prov` on are for tree slots only. The
second result lists the frames taken: page number and page. -/
def growPages (g : Group) (r prov n : Nat) : Nat → Group × List (Nat × KvPage)
  | 0 => (g, [])
  | fuel + 1 =>
    match g.req? r with
    | none => (g, [])
    | some q =>
      let k := q.pages.length
      if n ≤ k then (g, [])
      else match newPage g q.cls (decide (prov ≤ k)) with
        | none => (g, [])
        | some p =>
          let x := growPages (g.setReq r { q with pages := q.pages ++ [p] }) r prov n fuel
          (x.1, (k, p) :: x.2)

/-- Counts frames taken or freed, by tier (Table 8-6): `k` is 0 for taken, 2 for freed. -/
def countFrames (s : State) (k : Nat) (ps : List KvPage) : State :=
  fwBump (fwBump s (kKv k) (ps.filter (!·.inT3)).length) (kKv (k + 1)) (ps.filter (·.inT3)).length

/-- The frames of a list of pages, copies under way among them, as pages. -/
def allFrames (ps : List KvPage) : List KvPage :=
  ps.flatMap fun p => p :: (match p.dest with | some d => [{ p with frame := d, inT3 := !p.inT3, dest := none }] | none => [])

/-! ### Copies (R263, R279, R285) -/

/-- The entry of a pool object. -/
def poolEntry (s : State) (g : Group) (inT3 : Bool) (idx : Nat) : Option DirEntry :=
  (mget g.pools (65536 * b2n inT3 + idx)).bind (dirGet s)

/-- Runs of a page, byte offset and length, that hold slot `c`: its key row and its value column (R263, R264). -/
def slotRuns (l : KvLay) (c : Nat) : List (Nat × Nat) :=
  let half := l.pageBytes / 2
  if l.fmt = 9 then
    ((List.range l.dim).map fun j => ((c / 32 * l.dim + j) * 4096 + c % 32 * 128, 128)) ++
      (List.range (64 * l.dim)).map fun q => (half + q / 32 * 4096 + q % 32 * 128 + 2 * c, 2)
  else
    ((List.range l.dim).map fun j => (j * 4096 + c * 64, 64)) ++
      (List.range (64 * l.dim)).map fun q => (half + q / 64 * 4096 + q % 64 * 64 + c, 1)

/-- Copies runs of one page of a pool to another place of the same or another pool, poison with them: all are read before the first is
written (R207, R219, R279). -/
def copyRuns (s : State) (a b : DirEntry) (offA offB : Nat) (runs : List ((Nat × Nat) × (Nat × Nat))) : State :=
  let x := runs.foldl (fun (x : State × List (Nat × Bytes × List Nat)) r =>
    let y := takeObj (countObj x.1 a (offA + r.1.1) r.1.2 false) a (offA + r.1.1) r.1.2
    (y.2.2, x.2 ++ [(r.2.1, y.1, y.2.1)])) (s, [])
  x.2.foldl (fun s d => objLand (countObj s b (offB + d.1) d.2.1.length true) b (offB + d.1) d.2.1 d.2.2) x.1

/-- Copies the key and value of one slot to another, in every pool (R279). -/
def copySlot (s : State) (g : Group) (pages : List KvPage) (src dst : Nat) : State :=
  let l := kvLay g.kv
  match pages[src / 64]?, pages[dst / 64]? with
  | some p, some q =>
    let s := (List.range l.pools).foldl (fun s i =>
      match poolEntry s g p.inT3 i, poolEntry s g q.inT3 i with
      | some a, some b =>
        copyRuns s a b (p.frame * l.pageBytes) (q.frame * l.pageBytes) (List.zip (slotRuns l (src % 64)) (slotRuns l (dst % 64)))
      | _, _ => s) s
    fwBump s (kKv 5) 1
  | _, _ => s

/-- Copies a whole page to a frame of the other tier, poison with it (R285, Table 8-5). -/
def copyPage (s : State) (g : Group) (p : KvPage) (dest : Nat) : State :=
  let l := kvLay g.kv
  let n := l.pageBytes
  (List.range l.pools).foldl (fun s i =>
    match poolEntry s g p.inT3 i, poolEntry s g (!p.inT3) i with
    | some a, some b => copyRuns s a b (p.frame * n) (dest * n) [((0, n), (0, n))]
    | _, _ => s) s

/-- The accepted path n1 to na, compacted in rising depth (R279). -/
def compact (s : State) (g : Group) (pages : List KvPage) (len : Nat) (path : List Nat) : State :=
  (path.zipIdx.filter fun x => x.1 != x.2).foldl (fun s x => copySlot s g pages (len + x.1) (len + x.2)) s

/-! ### Trees (R272, R331, R332) -/

/-- The tree template of an instance: PARENT, DEPTH, RANK by node; one node without a TREE region. -/
def treeTemplate (h : HImg) : List (Nat × Nat × Nat) :=
  match h.regions 0x0102 with
  | [] => [(0xFF, 0, 0)]
  | (_, b) :: _ => (List.range (byteAt b 2)).map fun i =>
      (byteAt b (64 + 4 * i), byteAt b (64 + 4 * i + 1), byteAt b (64 + 4 * i + 2))

/-- The nodes of a tree of depth at most `d`, in order, their parents renumbered. -/
def trimDepth (t : List (Nat × Nat)) (d : Nat) : List (Nat × Nat) :=
  let keep := (List.range t.length).filter fun i => decide ((t.getD i (0, 0)).2 ≤ d)
  keep.map fun i =>
    let x := t.getD i (0xFF, 0)
    (if i = 0 then 0xFF else (keep.idxOf x.1), x.2)

/-- ⌈n / 64⌉ pages. -/
def pagesFor (n : Nat) : Nat := ceilDiv n 64

end Sys2Proof.Machine
end

