-- ==== Sys2Proof/Machine/Fabric.lean ====
section
/-!
DEFINITION. Tiles, their queues and the fabric (03 R80 to R105, R124, R147; 04 Table 4-9).
-/
namespace Sys2Proof.Machine

/-- A lane that is halted and idle. -/
def LaneSt.idle : LaneSt :=
  { pc := 0, halted := true, trapped := false, evaluated := false, op := none, syncing := false, cause := none,
    busy := 0, served := 0, waits := [] }

/-- A tile with every register zero, every queue empty and every lane halted. -/
def TileCore.empty : TileCore :=
  { lanes := List.replicate 5 .idle, lc := List.replicate 8 0, lc0 := List.replicate 8 0, flags := 0, flags0 := 0, s := [],
    v := [], queues := [], bank0 := .empty, bank1 := .empty, drain := none, stepFlags := 0, epoch := 0, wdog := 0, freeze := 0 }

/-- No configuration. -/
def TileCfg.empty : TileCfg :=
  { prog := [], segs := List.replicate 5 (0, 0), outSrc := [], toLane := [], lcInit := List.replicate 8 0, fInit := 0,
    sInit := List.replicate 32 0 }

/-- A tile of no harness. -/
def TileSt.empty : TileSt :=
  { core := .empty, cfg := .empty, inst := none, rel := 0, frozen := false, config := false, progress := false,
    stalled := false, seq := 0, pre := none, used := [], park := none, capture := none }

/-- Tile `t`. -/
def tileOf (s : State) (t : Nat) : TileSt := mgetD s.tiles t .empty

/-- The number of a lane in Table 3-2. -/
def laneIx : Lane → Nat
  | .mx => 0
  | .vx => 1
  | .sx => 2
  | .tx => 3
  | .gx => 4

/-- Sets tile `t`; a tile listed for the first time has counted IDLE and empty queues since power-on (R117,
Table 3-10). -/
def setTile (s : State) (t : Nat) (x : TileSt) : State :=
  let s := if mhas s.tiles t then s
    else
      let s := (List.range 5).foldl (fun s l => hwBump s (kTile t (17 * l + 1)) s.clks) s
      (List.range 24).foldl (fun s q => hwBump s (kTile t (133 + q)) s.clks) s
  { s with tiles := mset s.tiles t x }

/-- Changes the core of a tile. -/
def setCore (s : State) (t : Nat) (c : TileCore) : State := setTile s t { tileOf s t with core := c }

/-- Ors flags into the step flag word (R65, R590). -/
def orStep (s : State) (t fl : Nat) : State :=
  if fl = 0 then s
  else let c := (tileOf s t).core; setCore s t { c with stepFlags := orFlags c.stepFlags fl }

/-! ### Registers and T1 -/

/-- Scalar register `i`. -/
def TileCore.sreg (c : TileCore) (i : Nat) : Nat := (mgetD c.s i 0).toNat

/-- Writes scalar register `i`. -/
def TileCore.setS (c : TileCore) (i v : Nat) : TileCore := { c with s := mset c.s i (BitVec.ofNat 64 v) }

/-- Byte `a` of the vector registers. -/
def TileCore.vbyte (c : TileCore) (a : Nat) : Byte := BitVec.ofNat 8 ((mgetD c.v (a / 256) 0).toNat / 2 ^ (8 * (a % 256)))

/-- Writes one byte of the vector registers. -/
def TileCore.setVbyte (c : TileCore) (a : Nat) (b : Byte) : TileCore :=
  let i := a % 256
  { c with v := mset c.v (a / 256) (BitVec.ofNat 2048 (putBits (mgetD c.v (a / 256) 0).toNat (8 * i + 7) (8 * i) b.toNat)) }

/-- Writes bytes into the vector registers from byte `a`. -/
def TileCore.setVbytes (c : TileCore) (a : Nat) : Bytes → TileCore
  | [] => c
  | b :: bs => (c.setVbyte a b).setVbytes (a + 1) bs

/-- Bytes of the vector registers. -/
def TileCore.vbytes (c : TileCore) (a n : Nat) : Bytes := (List.range n).map fun i => c.vbyte (a + i)

/-- The offset in tier T1 of byte `a` of tile `t`'s T1, and in T2 of its slice (Table 5-3). -/
def t1Off (t a : Nat) : Nat := t * 2 ^ 19 + a
def t2Off (t a : Nat) : Nat := t * 2 ^ 23 + a

/-! ### Queues -/

/-- An empty queue without a ring. -/
def Queue.empty : Queue :=
  { hw := [], ringBase := 0, ringSize := 0, ringHead := 0, ringCnt := 0, returns := [], taken := [], owed := false }

/-- Queue `q` of a tile. -/
def TileCore.queue (c : TileCore) (q : Nat) : Queue := mgetD c.queues q .empty

/-- Sets queue `q` of a tile. -/
def TileCore.setQueue (c : TileCore) (q : Nat) (v : Queue) : TileCore := { c with queues := mset c.queues q v }

/-- The entries that conditions see at the start of the clk (R90). -/
def Queue.seen (v : Queue) : List Entry := v.hw.filter (!·.fresh)

/-- Times that a destination has taken entries still in the queue; destination 24 is the tile's lanes. -/
def Queue.takenBy (v : Queue) (d : Nat) : Nat := (v.taken.filter (· == d)).length

/-- The entries that a destination may take: those it has not taken, up to the first of a future epoch (R83, R147). A destination that has
taken the head may take what stands behind it before the others have taken the head: R83 does not say (DESIGN CHOICE,
notes/assumptions/89.md). -/
def Queue.forDest (v : Queue) (epoch d : Nat) : List Entry :=
  (v.seen.drop (v.takenBy d)).takeWhile fun e => e.side % 4 == epoch

/-- The destinations of an input queue (R82, R83). -/
def destsOf (g : TileCfg) (q : Nat) : List Nat :=
  (((List.range 4).map fun d => q / 8 * 8 + 4 + d).filter fun o => mgetD g.outSrc o 15 == q % 4 + 1) ++
    if g.toLane.contains q then [24] else []

/-- Removes entries that every destination has taken. -/
def Queue.drop (v : Queue) (ds : List Nat) : Nat → Queue
  | 0 => v
  | n + 1 =>
    if !v.hw.isEmpty && !ds.isEmpty && ds.all fun d => decide (0 < v.takenBy d) then
      Queue.drop { v with hw := v.hw.drop 1, taken := ds.foldl (fun t d => t.erase d) v.taken } ds n
    else v

/-- A destination takes `n` entries. -/
def Queue.take (v : Queue) (ds : List Nat) (d n : Nat) : Queue :=
  Queue.drop { v with taken := v.taken ++ List.replicate n d } ds v.hw.length

/-- The depth of queue `q` in hardware. -/
def qDepth (q : Nat) : Nat := depthOf (netOf q)

/-- True where an entry that arrives at a queue goes to its spill ring (R102). -/
def Queue.spills (v : Queue) (q : Nat) : Bool :=
  v.ringSize != 0 && (decide (qDepth q ≤ v.hw.length ∨ v.ringCnt ≠ 0) || !v.returns.isEmpty)

/-- True where a queue accepts one more entry (R102, R109). -/
def Queue.accepts (v : Queue) (q : Nat) : Bool :=
  if v.spills q then decide (v.ringCnt < v.ringSize) else decide (v.hw.length < qDepth q)

/-- Bytes of a ring slot (Table 3-7). -/
def slotBytes (q : Nat) : Nat := if netOf q = 0 then 8 else if netOf q = 1 then 64 else 2

/-- Writes an entry into slot `i` of a ring in T1, its poison with it (R219). -/
def writeSlot (s : State) (t q : Nat) (v : Queue) (i : Nat) (e : Entry) : State :=
  let a := t1Off t (v.ringBase + slotBytes q * i)
  if netOf q = 0 then storeTier s 0 a (leBytes 4 e.val ++ leBytes 1 e.side ++ leBytes 3 0)
  else if netOf q = 1 then
    let s := storeTier (storeTier s 0 a (leBytes 64 e.val)) 0 (t1Off t (v.ringBase + 64 * v.ringSize + i)) (leBytes 1 e.side)
    ((List.range 8).filter (bit e.poison)).foldl (fun s j => poisonRange s 0 (a + 8 * j) 8) s
  else storeTier s 0 a (leBytes 1 e.val ++ leBytes 1 e.side)

/-- Reads slot `i` of a ring; the entry of a vector ring carries its poisoned words (R219). -/
def readSlot (s : State) (t q : Nat) (v : Queue) (i : Nat) : Entry :=
  let a := t1Off t (v.ringBase + slotBytes q * i)
  if netOf q = 0 then
    { val := leNat (readTier s 0 a 4), side := leNat (readTier s 0 (a + 4) 1), fresh := true, poison := 0 }
  else if netOf q = 1 then
    { val := leNat (readTier s 0 a 64), side := leNat (readTier s 0 (t1Off t (v.ringBase + 64 * v.ringSize + i)) 1),
      fresh := true, poison := ((List.range 8).map fun j => b2n (poisoned s 0 (a + 8 * j) 8) * 2 ^ j).sum }
  else { val := leNat (readTier s 0 a 1), side := leNat (readTier s 0 (a + 1) 1), fresh := true, poison := 0 }

/-- Keys of the counters of a bay: 0 STALE_EPOCH, 1 DISCARDED (R149). -/
def kBay (b k : Nat) : Nat := 606000 + 2 * b + k

/-- The bay of a tile. -/
def bayOf (t : Nat) : Nat := t % 64 / 8

/-- An entry enters an input queue of a tile, or its ring under R102. -/
def admitEntry (s : State) (t q : Nat) (e : Entry) : State :=
  let x := tileOf s t
  let v := x.core.queue q
  if v.spills q then
    setCore (writeSlot s t q v ((v.ringHead + v.ringCnt) % v.ringSize) e) t (x.core.setQueue q { v with ringCnt := v.ringCnt + 1 })
  else setCore s t (x.core.setQueue q { v with hw := v.hw ++ [{ e with fresh := true }] })

/-- An entry arrives at an input queue of a tile: a stale one is dropped (R147). -/
def arriveQueue (s : State) (t q : Nat) (e : Entry) : State :=
  let x := tileOf s t
  let ahead := (e.side % 4 + 4 - x.core.epoch) % 4
  if 2 ≤ ahead then hwBump s (kBay (bayOf t) 0) 1
  else hwBump (admitEntry (hwBump s (kTile t (85 + q)) 1) t q e) (kTile t (157 + q)) (b2n ((x.core.queue q).spills q))

/-- A tile's lane or a pass-through writes an entry into an output queue, with its poisoned words. -/
def putOut (c : TileCore) (q val poison : Nat) : TileCore :=
  let v := c.queue q
  c.setQueue q { v with hw := v.hw ++ [{ val := val, side := c.epoch + 4, fresh := true, poison := poison }] }

/-- A tile whose queues are about to change within a clk: conditions go on reading them as they were at its start (R90). -/
def TileSt.touch (x : TileSt) : TileSt := if x.pre.isNone then { x with pre := some x.core.queues } else x

/-- Queue `q` as conditions see it: at the start of the clk (R90). -/
def TileSt.condQueue (x : TileSt) (q : Nat) : Queue := mgetD (x.pre.getD x.core.queues) q .empty

/-- The tile next to a tile in a direction: N, E, S, W. -/
def nextTile (t dir : Nat) : Nat := if dir = 0 then t - 64 else if dir = 1 then t + 1 else if dir = 2 then t + 64 else t - 1

/-- The input queue that an output queue feeds (R81). -/
def facing (q : Nat) : Nat := q / 8 * 8 + (q % 4 + 2) % 4

/-- Free entries that OUT_FREE counts at the start of the clk: those of the queue, and of a ring downstream (R90, R105); the queues of a
frozen tile are seen as full (R124). -/
def outFree (s : State) (t q : Nat) : Nat :=
  let v := (tileOf s t).condQueue q
  let u := tileOf s (nextTile t (q % 4))
  let w := u.condQueue (facing q)
  (qDepth q - v.hw.length) + if u.frozen then 0 else w.ringSize - w.ringCnt

/-- True where back-pressure on an output queue comes from a full ring: the queue it feeds is full with its ring full, or its head waits
for a queue that is full and itself so held (R109); `n` bounds the hops looked at. -/
def spillHeld (s : State) : Nat → Nat → Nat → Bool
  | 0, _, _ => false
  | n + 1, t, q =>
    let u := nextTile t (q % 4)
    let x := tileOf s u
    let v := x.core.queue (facing q)
    if v.accepts (facing q) then false
    else if v.ringSize ≠ 0 then true
    else (destsOf x.cfg (facing q)).any fun d =>
      d != 24 && v.takenBy d == 0 && decide (qDepth d ≤ (x.core.queue d).hw.length) && spillHeld s n u d

/-- Empties every queue and ring of a tile, and returns the number of entries lost (R149). -/
def emptyQueues (c : TileCore) : Nat × TileCore :=
  ((c.queues.map fun e => e.2.hw.length + e.2.ringCnt + e.2.returns.length).sum,
   { c with queues := mmap c.queues fun _ v =>
       { v with hw := [], ringHead := 0, ringCnt := 0, returns := [], taken := [], owed := false } })

/-! ### Freezing and the tiles of an instance -/

/-- The physical tiles of a run of bays, in relative order (R130). -/
def regionTiles (first bays : Nat) : List Nat :=
  (List.range (256 * bays)).map fun r => r / (8 * bays) * 64 + 8 * first + r % (8 * bays)

/-- The tiles of an instance. -/
def instTiles (i : Inst) : List Nat := regionTiles i.first i.bays

/-- Changes the tiles of a list. -/
def onTiles (s : State) (ts : List Nat) (f : TileSt → TileSt) : State := ts.foldl (fun s t => setTile s t (f (tileOf s t))) s

/-- Freezes tiles; each notes the tread (R124, Table 3-13). -/
def freezeTiles (s : State) (ts : List Nat) : State :=
  let n := nowTread s
  onTiles s ts fun x => { x with frozen := true, core.freeze := n }

/-- Releases a freeze. -/
def thawTiles (s : State) (ts : List Nat) : State := onTiles s ts fun x => { x with frozen := false, pre := none }

/-- A tile is drained: lanes halted with no operation in progress, queues, rings and returns empty (R150). Lanes `held`
for their first step count as halted: the region of Table 4-16 is drained straight after its bind (notes/assumptions/76.md). -/
def TileSt.drained (x : TileSt) (held : Bool) : Bool :=
  (x.core.lanes.all fun l => (held || l.halted) && l.op.isNone) && x.core.drain.isNone &&
    x.core.queues.all fun e => e.2.hw.isEmpty && e.2.ringCnt == 0 && e.2.returns.isEmpty

/-- A region is drained when every tile is (R150). -/
def regionDrained (s : State) (i : Inst) : Bool := (instTiles i).all fun t => (tileOf s t).drained !i.running

/-- Rearms a tile: each lane at its segment's start, an empty segment halted, initial counters, flags and scalars
(R93, R132). -/
def rearmTile (x : TileSt) : TileSt :=
  let lanes := x.cfg.segs.map fun g => { LaneSt.idle with pc := g.1, halted := g.2 == 0 }
  { x with pre := none, core := { x.core with
      lanes := lanes, lc := x.cfg.lcInit, lc0 := x.cfg.lcInit, flags := x.cfg.fInit, flags0 := x.cfg.fInit,
      s := (List.zip (List.range 32) x.cfg.sInit), stepFlags := 0, wdog := 0 } }

/-- Rearms a tile within a step, whose flags go on (R65, R132). -/
def rearmKeep (x : TileSt) : TileSt := { rearmTile x with core.stepFlags := x.core.stepFlags }

/-- The present sum of a counter of the bays of an instance. -/
def baySum (s : State) (i : Inst) (k : Nat) : Nat :=
  ((List.range i.bays).map fun b => (mgetD s.hwc (kBay (i.first + b) k) .zero).value).sum

end Sys2Proof.Machine
end

