-- ==== Sys2Proof/Machine/Operands.lean ====
section
/-!
DEFINITION. The operand forms of sequencer instructions: scalar, vector, T1, queue, immediate and index (03 Tables 3-14
to 3-19, R97, R99), and conditions (Table 3-4, R90).
-/
namespace Sys2Proof.Machine

/-- What reading an operand comes to: a trap with its status, or a value. -/
inductive Got where
  | trap (status : Nat)
  | val (v : Nat)
  deriving DecidableEq, Repr

/-- Takes `n` entries of an input queue for the lanes, and packs them from bit 0; a poisoned word among them traps (R219, Table 6-4). -/
def takeEntries (s : State) (t q n : Nat) : Got × State :=
  let x := (tileOf s t).touch
  let v := x.core.queue q
  let es := (v.forDest x.core.epoch 24).take n
  let w := if netOf q = 1 then 512 else 32
  (if es.any (·.poison != 0) then .trap ePoison else .val (packLanes w (es.map (·.val))),
   setTile s t { x with core := x.core.setQueue q (v.take (destsOf x.cfg q) 24 n), progress := true })

/-- Writes an entry into an output queue of a tile. -/
def putEntry (s : State) (t q val : Nat) : State :=
  let x := (tileOf s t).touch
  hwBump (setTile s t { x with core := putOut x.core q val 0, progress := true }) (kTile t (85 + q)) 1

/-- The T1 byte address of an operand reference: ADDR, plus the index register when IDX is set, modulo 8,192 units
(Table 3-14). -/
def refT1 (c : TileCore) (r idx : Nat) : Nat := (r % 2 ^ 13 + if bit r 13 then c.sreg idx % 2 ^ 13 else 0) % 8192 * 64

/-- Reads `n` bytes of a tile's T1 as a lane does: past the end of T1 and poisoned words trap (R99, Table 6-4). -/
def readT1 (s : State) (t a n : Nat) : Got × State :=
  if 2 ^ 19 < a + n then (.trap ePerm, s)
  else
    let s := demand s 0 (t1Off t a) n 1
    if poisoned s 0 (t1Off t a) n then (.trap ePoison, s) else (.val (leNat (readTier s 0 (t1Off t a) n)), s)

/-- Writes bytes into a tile's T1; past its end traps (R99). -/
def writeT1 (s : State) (t a : Nat) (bs : Bytes) : Got × State :=
  if 2 ^ 19 < a + bs.length then (.trap ePerm, s) else (.val 0, storeTier s 0 (t1Off t a) bs)

/-- A vector source (Table 3-14): one register, 256 B of T1, 4 queue entries; KIND none gives `none0`. -/
def readRef (s : State) (t r idx none0 : Nat) : Got × State :=
  let c := (tileOf s t).core
  match r / 2 ^ 14 with
  | 0 => (.val (mgetD c.v (r % 64) 0).toNat, s)
  | 1 => readT1 s t (refT1 c r idx) 256
  | 2 => takeEntries s t (r % 32) 4
  | _ => (.val none0, s)

/-- A vector destination (Table 3-14). -/
def writeRef (s : State) (t r idx v : Nat) : Got × State :=
  let c := (tileOf s t).core
  match r / 2 ^ 14 with
  | 0 => (.val 0, setCore s t { c with v := mset c.v (r % 64) (BitVec.ofNat 2048 v) })
  | 1 => writeT1 s t (refT1 c r idx) (leBytes 256 v)
  | 2 => (.val 0, (List.range 4).foldl (fun s i => putEntry s t (r % 32) (laneAt v 512 i)) s)
  | _ => (.val 0, s)

/-- A scalar source: a register, or one queue entry, zero-extended (Table 3-18). -/
def readS (s : State) (t o : Nat) : Got × State :=
  if bit o 7 then takeEntries s t (o % 32) 1 else (.val ((tileOf s t).core.sreg (o % 32)), s)

/-- A scalar destination (Table 3-18). -/
def writeS (s : State) (t o v : Nat) : State :=
  if bit o 7 then putEntry s t (o % 32) (v % 2 ^ 32) else setCore s t ((tileOf s t).core.setS (o % 32) v)

/-- The queue entries that an instruction takes as operands, by queue. -/
def operandTakes (w : InstrWord) : List (Nat × Nat) :=
  let n := if opcodeOf w = 0x20 then 4 else 1
  let qs := (takesOf w).drop ((if iw w 13 13 = 1 then 1 else 0) + if iw w 14 14 = 1 then 1 else 0)
  qs.eraseDups.map fun q => (q, n * (qs.filter (· == q)).length)

/-- The queue entries that an instruction writes, by queue. -/
def operandPuts (w : InstrWord) : List (Nat × Nat) :=
  let n := if opcodeOf w = 0x20 then 4 else 1
  let qs := putsOf w
  qs.eraseDups.map fun q => (q, n * (qs.filter (· == q)).length)

/-! ### Stall causes (Table 3-9) -/

/-- The order in which causes count (R117). -/
def causeOrder : List Nat := [0xD, 0xC, 0x2, 0x1, 0x0, 0x3, 0x8, 0x7, 0xB, 0xA, 0x9, 0x6, 0x5, 0xE, 0x4]

/-- The cause that counts among those that hold. -/
def firstCause (cs : List Nat) : Option Nat := causeOrder.find? fun c => cs.contains c

/-- Entries are missing from an input queue for the lanes: a future entry there gives CONFIG, else EMPTY_IN (R147). -/
def inCause (x : TileSt) (q n : Nat) : List Nat :=
  let v := x.condQueue q
  if n ≤ (v.forDest x.core.epoch 24).length then []
  else if n ≤ v.seen.length - v.takenBy 24 then [0xC] else [0x0]

/-- Space is missing in an output queue: SPILL_FULL under R109, else FULL_OUT. -/
def outCause (s : State) (t q : Nat) : Nat := if spillHeld s 4096 t q then 0x2 else 0x1

/-- The lane that owns a flag, or a loop counter (R92). -/
def ownerOf (x : TileSt) (f : InstrWord → List Nat) (i : Nat) : Option Nat :=
  (List.range 5).find? fun l =>
    let g := x.cfg.segs.getD l (0, 0)
    ((List.range g.2).map fun j => mgetD x.cfg.prog (g.1 + j) 0).any fun w => (f w).contains i

/-- A wait on a flag or counter: on its owner lane, or FLAG_WAIT where no lane owns it (R118). -/
def ownerWait (x : TileSt) (f : InstrWord → List Nat) (i : Nat) : Nat :=
  match ownerOf x f i with
  | none => 0x4
  | some l => 0x10 + l

/-- The cause that a wait counts once every lane has been evaluated: a wait on an owner lane counts what that lane waits for, and
FLAG_WAIT where it fires or is idle (R118). Lanes that wait on each other count FLAG_WAIT: `n` bounds the chain. -/
def waitCause (x : TileSt) : Nat → Nat → Nat
  | 0, c => if c < 0x10 then c else 0x4
  | n + 1, c =>
    if c < 0x10 then c
    else
      let o := x.core.lanes.getD (c - 0x10) .idle
      if o.halted then 0x4 else (firstCause (o.waits.map (waitCause x n))).getD 0x4

/-- What keeps a condition from holding at the start of the clk (Table 3-4, R90). -/
def condCauses (s : State) (t c : Nat) : List Nat :=
  let x := tileOf s t
  let q := bits c 12 8
  match c / 2 ^ 13 with
  | 1 => inCause x q (bits c 5 0)
  | 2 => if bits c 5 0 ≤ outFree s t q then [] else [outCause s t q]
  | 3 =>
    match (x.condQueue q).forDest x.core.epoch 24 with
    | [] => inCause x q 1
    | e :: _ => if e.val = c % 256 then [] else [0x3]
  | 4 => if x.core.flags0.getLsbD (c % 32) = !bit c 5 then [] else [ownerWait x flagsOf (c % 32)]
  | 5 => if (x.core.lc0.getD (c % 8) 0 ≠ 0) = (bit c 3 = true) then [] else [ownerWait x countersOf (c % 8)]
  | _ => []

/-- The cause of a gallery stream's wait, by the stream's source (R116): 0 T2, 1 T3, 2 link, 3 T1. -/
def streamCause (src : Nat) : Nat := if src = 0 then 0x7 else if src = 1 then 0x8 else if src = 2 then 0xB else 0x9

/-- The key of a stream of an end port (R195). -/
def streamKey (t : Nat) (w : InstrWord) : Nat := 128 * (t / 64) + 64 * iw w 72 72 + iw w 71 66

/-- The global address held by an operation of kind ADDRESS: it is put into the word's upper bits when the operation
starts. -/
def opAddress (w : InstrWord) : Nat := iw w 255 192

/-! ### Addresses of the units' operations -/

/-- The slice offset of a T2 path move, after indexing, in bytes (Table 3-19). -/
def t2At (c : TileCore) (w : InstrWord) : Nat :=
  (iw w 80 64 + if iw w 81 81 = 1 then c.sreg (iw w 86 82) % 2 ^ 17 else 0) * 64

/-- K of an operation of the matrix engine. -/
def mxeK (w : InstrWord) : Nat := iw w 99 76 + 1

/-- True for an operation whose B operand streams from T2 (Table 3-5). -/
def streamsB (w : InstrWord) : Bool := opcodeOf w == 0x10 && iw w 75 74 == 1

/-- The bytes of T2 that an instruction's unit works on: the slice offset and the length. -/
def t2Range (c : TileCore) (w : InstrWord) : Nat × Nat :=
  if opcodeOf w = 0x10 then (iw w 160 144 * 64, if streamsB w then operandBytes (iw w 71 68) (mxeK w) else 0)
  else (t2At c w, 64 * iw w 127 112)

/-- TIER_WAIT_T2 where the T2 path must wait for a page of those bytes (R41, R214). -/
def t2Wait (s : State) (t : Nat) (r : Nat × Nat) : List Nat := if mustWait s 1 (t2Off t r.1) r.2 then [0x7] else []

/-- True where the T2 path belongs to the weight stream: an operation with B_SRC 1 has not taken its last B element (R95). -/
def streaming (x : TileSt) : Bool :=
  (x.core.lanes.getD 0 .idle).op.any fun o => streamsB o.word && decide (o.done < mxeK o.word)

/-- What a transfer in progress keeps an instruction of its lane waiting with: a GET from a stream counts the stream's source (R116, R197),
a PUT toward another tile or member LINK_WAIT or GALLERY (R301);
a transfer of kind ADDRESS its tier, while a MOVE of the object there or its bytes hold it up (R181, R214), LINK_WAIT for another module's
home, GALLERY for another tile's T1; else UNIT_BUSY (R97). -/
def galWait (s : State) (t : Nat) (o : InstrWord) : Nat :=
  if iw o 65 64 = 0 then
    match mget s.streams (streamKey t o) with
    | some st =>
      if opcodeOf o = 0x50 then streamCause st.source
      else match st.feeds with
        | some d => if d.member = s.net.index then 0x9 else 0xB
        | none => 0xE
    | none => 0xE
  else
    let g := opAddress o
    let tier := gaTier g
    if gaModule g ≠ s.net.index then 0xB
    else if tier = 0 then 0x9
    else if (objAt s (gaModule g) tier (gaOff g)).any (fun e => moveHolds s e.1 (opcodeOf o == 0x51)) ||
        mustWait s tier (gaOff g) (iw o 127 96) then
      if tier = 1 then 0x7 else 0x8
    else 0xE

/-- True where writes of a tile have not reached their homes yet: its T2 path or its gallery port writes, or a message is outstanding
(R203). -/
def writesOut (s : State) (t : Nat) : Bool :=
  let x := tileOf s t
  let busy (l op : Nat) : Bool := (x.core.lanes.getD l .idle).op.any fun o => opcodeOf o.word == op
  busy 3 0x41 || busy 4 0x51 || s.net.msgs.any fun m => m.2.why == .tile t && (m.2.ty == 1 || m.2.ty == 4)

/-- What keeps an instruction's unit or operands from taking it, T1 banks apart. -/
def unitCauses (s : State) (t l : Nat) (w : InstrWord) : List Nat :=
  let x := tileOf s t
  let lane (k : Nat) := x.core.lanes.getD k .idle
  let sync := if (lane l).syncing then [0xA] else []
  let ins := (operandTakes w).flatMap fun q => inCause x q.1 q.2
  let outs := (operandPuts w).flatMap fun q =>
    if (x.condQueue q.1).hw.length + q.2 ≤ qDepth q.1 then [] else [outCause s t q.1]
  let unit :=
    match opcodeOf w with
    | 0x10 | 0x11 =>
      (if x.core.drain.any fun d => iw d.word 100 100 == iw w 100 100 then [0x6] else []) ++
        (if (lane 0).op.isSome then [0xE] else []) ++ t2Wait s t (t2Range x.core w)
    | 0x20 => if (lane 1).busy = 0 then [] else [0xE]
    | 0x40 | 0x41 => (if (lane 3).op.isSome || streaming x then [0xE] else []) ++ t2Wait s t (t2Range x.core w)
    | 0x50 | 0x51 => (lane 4).op.toList.map fun o => galWait s t o.word
    | 0x08 => if writesOut s t then [0xA] else []
    | _ => []
  sync ++ ins ++ outs ++ unit

/-! ### T1 banks (R38, R162) -/

/-- The banks of `n` bytes of T1 from byte `a`: bank b holds the 16-byte rows whose number is b modulo 16 (R162). -/
def bankMask (a n : Nat) : Nat :=
  (List.range ((a % 16 + n + 15) / 16)).foldl (fun m i => m ||| 2 ^ ((a / 16 + i) % 16)) 0

/-- The banks that the MXE's drain takes in a clk: all of them for wide partials, the bytes of one clk for a FINAL drain (R53). -/
def drainBanks (d : OpSt) : Nat :=
  if iw d.word 110 110 = 0 then 0
  else if iw d.word 104 103 = 2 then 0xFFFF
  else
    let n := 32 * ((outFmt (iw d.word 107 105)).width / 8)
    bankMask (iw d.word 191 176 % 8192 * 64 + n * (32 - d.clk)) n

/-- The banks that the MXE's operand fetch takes in a clk: all of them while wide partials are read; else a pattern that the manual does
not give, free, where an operand rests in T1 (R38, R53; notes/assumptions/83.md). -/
def fetchMask (o : OpSt) : Nat :=
  if opcodeOf o.word = 0x11 ∨ iw o.word 102 101 = 2 then if iw o.word 224 224 = 0 ∧ 0 < o.clk then 0xFFFF else 0
  else if 0 < o.clk ∨ mxeK o.word ≤ o.done then 0
  else if iw o.word 73 72 = 1 ∨ iw o.word 75 74 = 0 then (fetchBanks o.word o.done).toNat else 0

/-- The banks that the MXE takes in this clk. -/
def mxeBanks (c : TileCore) : Nat :=
  c.drain.elim 0 drainBanks ||| (c.lanes.getD 0 .idle).op.elim 0 fetchMask

/-- The T1 accesses of an instruction of the vector or the scalar unit: the banks that each needs, one access a clk at each bank. -/
def t1Needs (c : TileCore) (w : InstrWord) : List Nat :=
  match opcodeOf w with
  | 0x20 =>
    let refs := [iw w 111 96, iw w 127 112, iw w 143 128, iw w 159 144]
    (refs.filter fun r => r / 2 ^ 14 == 1).map fun _ => 0xFFFF
  | 0x30 =>
    if iw w 71 64 = 0x20 ∨ iw w 71 64 = 0x21 then
      let o := iw w 89 82
      [bankMask (if bit o 7 then ((c.queue (o % 32)).forDest c.epoch 24).head?.elim 0 (·.val) else c.sreg (o % 32)) 8]
    else []
  | _ => []

/-- One clk of the access that comes next, when the banks in `taken` serve others: what has been served then (`LaneSt.served`), and the
banks used. -/
def serveBanks (needs : List Nat) (served taken : Nat) : Nat × Nat :=
  let need := needs.getD (served / 65536) 0
  let use := need &&& (served % 65536 ^^^ 0xFFFF) &&& (taken ^^^ 0xFFFF)
  let got := served % 65536 ||| use
  (if got &&& need = need then (served / 65536 + 1) * 65536 else served / 65536 * 65536 + got, use)

/-- What keeps an instruction waiting for T1: T1_BANK in a clk in which it lost a bank, UNIT_BUSY while its further accesses take their
turn (R38). -/
def bankCauses (needs : List Nat) (served taken : Nat) : List Nat :=
  let r := serveBanks needs served taken
  if needs.length ≤ r.1 / 65536 then [] else if r.1 / 65536 = served / 65536 then [0x5] else [0xE]

/-- Everything that keeps an instruction from firing, T1 banks apart. -/
def laneCauses (s : State) (t l : Nat) (w : InstrWord) : List Nat :=
  condCauses s t (iw w 31 16) ++ condCauses s t (iw w 47 32) ++ unitCauses s t l w

/-- The banks that requester `p` of R38 has taken in this clk. -/
def TileSt.usedBy (x : TileSt) (p : Nat) : Nat := (x.used.filter (·.1 == p)).foldl (fun m u => m ||| u.2) 0

/-- Notes the banks that a requester takes. -/
def useBanks (s : State) (t p m : Nat) : State :=
  if m = 0 then s else setTile s t { tileOf s t with used := (tileOf s t).used ++ [(p, m)] }

end Sys2Proof.Machine
end

