-- ==== Sys2Proof/Machine/Sync.lean ====
section
/-!
DEFINITION. Sync objects: operations, barriers and their releases, semaphores, work counters (11 R346 to R368).
-/
namespace Sys2Proof.Machine

/-- A 32-bit value has reached a target (R347). -/
def reached (v t : Nat) : Bool := decide ((v + 2 ^ 32 - t % 2 ^ 32) % 2 ^ 32 < 2 ^ 31)

/-- A barrier's generation `n`, of 32 bits, has been released (R356). -/
def SyncObj.released (o : SyncObj) (n : Nat) : Bool := decide (0 < o.oldest) && reached (o.oldest - 1) n

/-- A generation that nothing has happened to. -/
def BGen.fresh : BGen :=
  { arrived := [], due := none, released := none, byTimer := false, timeout := false, forced := false, late := [],
    lateMax := 0, opened := none, sentUp := false }

/-- Generation `g` of a barrier. -/
def SyncObj.gen (o : SyncObj) (g : Nat) : BGen := mgetD o.gens g .fresh

/-- Sets object `k`. -/
def setObj (s : State) (k : Nat) (o : SyncObj) : State := { s with objs := mset s.objs k o }

/-- Member numbers of a barrier, FLOOR or not. -/
def SyncObj.memberIx (o : SyncObj) (floor : Bool) : List Nat :=
  (o.members.zipIdx.filter fun m => m.1.floor == floor).map (·.2)

/-- The treads at which members arrived in a generation. -/
def arrivalsOf (g : BGen) (ms : List Nat) : List Nat := ms.filterMap (mget g.arrived)

/-- True where every member of a list has arrived. -/
def allArrived (g : BGen) (ms : List Nat) : Bool := ms.all (mhas g.arrived)

/-- How a release comes about. -/
inductive RelKind where
  | arrival | timer | timeout
  deriving DecidableEq, Repr

/-- The release tread of generation `g`, when it is known, and what decides it (Table 11-7, R365). -/
def SyncObj.dueOf (o : SyncObj) (g : Nat) : Option (Nat × RelKind) :=
  let b := o.gen g
  let fl := o.memberIx true
  let ms := o.memberIx false
  let f := if fl.isEmpty then 0 else (arrivalsOf b fl).foldl max 0 + 1
  if !allArrived b fl then b.due.bind fun t => if b.forced then some (t, .arrival) else none
  else
    let own := if o.timed then o.base.map fun x => (max (x + g * o.period) (f - 1), RelKind.timer)
      else if allArrived b ms then some (max ((arrivalsOf b ms).foldl max 0 + o.lead) f, .arrival) else none
    let late := if o.timeout = 0 then none else b.opened.map fun a => (max (a + o.timeout) f, RelKind.timeout)
    let hand := if b.forced then b.due.map fun t => (t, RelKind.arrival) else none
    [late, hand].foldl (fun x y =>
      match x, y with
      | some u, some v => if v.1 < u.1 then some v else some u
      | none, v => v
      | u, none => u) own

/-- The spread of the arrivals (Table 11-8 SKEW). -/
def SyncObj.skewOf (o : SyncObj) (b : BGen) : Nat :=
  match arrivalsOf b (o.memberIx false) with
  | [] => 0
  | x :: xs => xs.foldl max x - xs.foldl min x

/-- The member whose arrival was the last (Table 11-8 SLOWEST). -/
def SyncObj.slowest (o : SyncObj) (b : BGen) : Nat :=
  ((o.memberIx false).foldl (fun (m : Nat × Nat) i =>
    match mget b.arrived i with
    | some t => if m.2 ≤ t then (i, t) else m
    | none => m) (0, 0)).1

/-- Writes a release record, or counts it lost (R360). -/
def relRecord (s : State) (r : RelRec) : State :=
  if 256 ≤ s.relRecs.length then fwBump s (kSync 11) 1 else { s with relRecs := s.relRecs ++ [r] }

/-- A generation leaves the window: its release record is written where R360 asks for one. -/
def closeGen (s : State) (k g : Nat) (absent : List Nat) : State :=
  match mget s.objs k with
  | none => s
  | some o =>
    let b := o.gen g
    let skew := min 65535 (o.skewOf b)
    let wide := decide (o.skewLimit ≠ 0 ∧ o.skewLimit ≤ skew)
    let s := setObj s k { o with gens := merase o.gens g }
    let s := fwBump s (kSync 4) absent.length
    if b.late.isEmpty && absent.isEmpty && !b.forced && !wide then s
    else relRecord s
      { tread := b.released.getD s.time.tread, context := o.ctx, vid := o.vid, gen := g % 2 ^ 32,
        late := if absent.isEmpty then b.late else absent, skew := skew, maxLate := min 65535 b.lateMax,
        flags := b2n (o.timed && b.byTimer) + 2 * b2n b.timeout + 4 * b2n b.forced + 8 * b2n (!absent.isEmpty) +
          16 * b2n wide, slowest := o.slowest b }

/-- The payload of a SYNC_RSP: a value, a generation and a tread (Table 12-5; notes/assumptions/17.md). -/
def rspBytes (v g tread : Nat) : Bytes := leBytes 4 v ++ leBytes 4 g ++ leBytes 8 tread

/-- The wait of a tile's SX lane ends. -/
def wakeTile (s : State) (t : Nat) : State :=
  { s with tiles := madj s.tiles t fun x =>
      { x with core.lanes := x.core.lanes.modify 2 fun l => { l with syncing := false, op := none } } }

/-- A barrier's tiles start in waves: those of wave 0 at once, the others after their delay (R367). -/
def wakeTiles (s : State) (k g : Nat) (o : SyncObj) (ts : List Nat) : State :=
  if !o.riser then ts.foldl wakeTile s
  else
    let now := ts.filter fun t => t % o.waves * o.span / o.waves == 0
    let ws := (List.range o.waves).filterMap fun w =>
      let mine := ts.filter fun t => t % o.waves == w && t % o.waves * o.span / o.waves != 0
      if mine.isEmpty then none
      else some { obj := k, gen := g, wave := w, tiles := mine, due := s.clks + w * o.span / o.waves : Wave }
    now.foldl wakeTile { s with waves := s.waves ++ ws }

/-- What is still to be done among barriers: an arrival, a look at what can release, a parent's release of a child's
generation. -/
inductive Task where
  | arrive (obj member tread : Nat)
  | settle (obj : Nat)
  | free (obj gen tread : Nat)
  deriving DecidableEq, Repr

/-- Tells one waiter, tiles apart, that its wait is over; `v` is the value or count. -/
def wakeWho (s : State) (v g tread : Nat) : Who → State
  | .desc d => { s with taken := madj s.taken d ({ · with stage := .satisfied v }) }
  | .remote src msg => sendReply s 6 src 0xFFFF msg 0 [] (rspBytes v g tread) []
  | .group k => { s with groups := madj s.groups k ({ · with release := some tread }) }
  | _ => s

/-- The physical object of a child barrier on this module. -/
def childObj (s : State) (o : SyncObj) (vid : Nat) : Option Nat :=
  ((mget s.ctxs o.ctx).bind fun c => mget c.vids vid).map (·.1)

/-- Who a list of waiters names as tiles. -/
def tilesIn (ws : List Waiter) : List Nat := ws.filterMap fun w => match w.who with | .tile t => some t | _ => none

/-- The arrivals that a barrier's window admits, in their order, each with the number of the generation that it opens: a member may be at
most 16 generations beyond the oldest (R204, R356). `seen` counts those admitted before, by member. -/
def admitWindow (o : SyncObj) : List Waiter → AMap Nat → List (Waiter × Nat)
  | [], _ => []
  | w :: ws, seen =>
    match w.want with
    | .window m _ =>
      match o.members[m]? with
      | some x =>
        if x.arrivals + mgetD seen m 0 < o.oldest + 16 then
          (w, x.arrivals + mgetD seen m 0) :: admitWindow o ws (mset seen m (mgetD seen m 0 + 1))
        else admitWindow o ws seen
      | none => admitWindow o ws seen
    | _ => admitWindow o ws seen

/-- A generation releases at `tread`: its waiters are woken, its child barriers released, arrivals that waited for the
window taken, and a generation that nobody is missing from is closed (R356 to R360). -/
def releaseGen (s : State) (k g tread : Nat) (kind : RelKind) : State × List Task :=
  match mget s.objs k with
  | none => (s, [])
  | some o =>
    let b := { o.gen g with released := some tread, byTimer := kind == .timer, timeout := kind == .timeout }
    let o := { o with oldest := max o.oldest (g + 1), gens := mset o.gens g b }
    let done := o.waiters.filter fun w => match w.want with | .gen n => o.released n | _ => false
    let wins := admitWindow o o.waiters []
    let stay := wins.foldl (fun ws w => ws.erase w.1) (o.waiters.filter fun w => !done.contains w)
    let holds := wins.filterMap fun w =>
      match w.1.want with
      | .window _ true => some { w.1 with want := WaitFor.gen (w.2 % 2 ^ 32) }
      | _ => none
    let free := (wins.map (·.1)).filter fun w => match w.want with | .window _ h => !h | _ => false
    let s := setObj s k { o with waiters := stay ++ holds }
    let s := fwBump s (kSync 1) 1
    let s := fwBump s (kSync 2) (b2n (kind != .arrival))
    let s := if o.domain = 3 then fwBump s (kSync 5) (o.skewOf b) else s
    let s := wakeTiles s k g o (tilesIn done)
    let s := (tilesIn free).foldl wakeTile s
    let s := (done ++ free).foldl (fun s w => wakeWho s (g % 2 ^ 32) (g % 2 ^ 32) tread w.who) s
    let kids := o.members.filterMap fun m => if m.kind = 1 then childObj s o m.id else none
    let arr := wins.filterMap fun w =>
      match w.1.want with | .window m _ => some (Task.arrive k m s.time.tread) | _ => none
    let s := if allArrived b (o.memberIx false ++ o.memberIx true) then closeGen s k g [] else s
    (s, kids.map (Task.free · g tread) ++ arr ++ [.settle k])

/-- The next generation that a barrier may release, or hand up to its parent (R356). -/
def SyncObj.next (o : SyncObj) : Nat :=
  if o.parent.isNone then o.oldest
  else ((List.range 16).find? fun i => !(o.gen (o.oldest + i)).sentUp).getD 16 + o.oldest

/-- Releases generation `g`, or arrives with it at the parent (R356, R359). -/
def fireGen (s : State) (k g tread : Nat) (kind : RelKind) : State × List Task :=
  match mget s.objs k with
  | none => (s, [])
  | some o =>
    match o.parent with
    | none => releaseGen s k g tread kind
    | some p =>
      let b := { o.gen g with sentUp := true, byTimer := kind == .timer, timeout := kind == .timeout }
      let s := setObj s k { o with gens := mset o.gens g b }
      if p.home = s.net.index then (s, [.arrive p.phys p.member tread, .settle k])
      else
        let id := s.net.msgNext
        let s := newMsg s 5 p.home o.ctx .firmware (leBytes 2 p.phys ++ leBytes 10 0 ++ leBytes 4 16)
          ([0, 0, 0, 0] ++ leBytes 4 1 ++ leBytes 2 o.vid ++ leBytes 6 0)
        ({ s with syncOut := mset s.syncOut id { dst := p.home, who := .child k, gen := g, reg := none } }, [.settle k])

/-- Fires what is due now; a TIMEOUT is left to its own row. -/
def settleObj (s : State) (k : Nat) (allow : RelKind → Bool) : State × List Task :=
  match mget s.objs k with
  | none => (s, [])
  | some o =>
    if o.kind ≠ 1 then (s, [])
    else match o.dueOf o.next with
      | some (t, kind) =>
        if t ≤ s.time.tread ∧ allow kind = true ∧ o.next < o.oldest + 16 then fireGen s k o.next t kind else (s, [])
      | none => (s, [])

/-- Member `m` arrives at its next generation, stamped with `tread` (R356 to R358). -/
def arriveAt (s : State) (k m tread : Nat) : State × List Task :=
  match mget s.objs k with
  | none => (s, [])
  | some o =>
    match o.members[m]? with
    | none => (s, [])
    | some x =>
      let g := x.arrivals
      let o := { o with members := o.members.set m { x with arrivals := g + 1 } }
      let b := o.gen g
      let late := decide (g < o.oldest)
      if late && !mhas o.gens g then (fwBump (setObj s k o) (kSync 3) 1, [])
      else
        let b := { b with arrived := mset b.arrived m tread, opened := some (b.opened.getD tread) }
        let b := if late then { b with late := b.late ++ [m], lateMax := max b.lateMax (tread - b.released.getD tread) }
          else b
        let s := fwBump (setObj s k { o with gens := mset o.gens g b }) (kSync 3) (b2n late)
        if late then
          (if allArrived b (o.memberIx false ++ o.memberIx true) then closeGen s k g [] else s, [])
        else (s, [.settle k])

/-- One task. -/
def runTask (s : State) : Task → State × List Task
  | .arrive k m t => arriveAt s k m t
  | .settle k => settleObj s k fun r => r != .timeout
  | .free k g t => releaseGen s k g t .arrival

/-- Runs the tasks that barriers bring about for one another; the fuel exceeds what a module's objects can need. -/
def runTasks : Nat → State → List Task → State
  | 0, s, _ => s
  | _, s, [] => s
  | n + 1, s, t :: ts => let r := runTask s t; runTasks n r.1 (r.2 ++ ts)

/-- The tasks of one operation. -/
def syncRun (s : State) (ts : List Task) : State := runTasks 100000 s ts

/-! ### Counters, semaphores, work -/

/-- Serves the waits of a counter after a change. -/
def serveCounter (s : State) (k : Nat) : State :=
  match mget s.objs k with
  | none => s
  | some o =>
    let done := o.waiters.filter fun w => match w.want with | .value n => reached o.value n | _ => false
    let s := setObj s k { o with waiters := o.waiters.filter fun w => !done.contains w }
    let s := (tilesIn done).foldl wakeTile s
    done.foldl (fun s w => wakeWho s o.value 0 s.time.tread w.who) s

/-- Serves the ACQUIREs of a semaphore in order of arrival, at most `n` of them (R353). -/
def serveSem (s : State) (k : Nat) : Nat → State
  | 0 => s
  | n + 1 =>
    match mget s.objs k with
    | none => s
    | some o =>
      match o.waiters with
      | [] => s
      | w :: ws =>
        match w.want with
        | .count c =>
          if c ≤ o.value then
            let s := setObj s k { o with value := o.value - c, waiters := ws }
            let s := (tilesIn [w]).foldl wakeTile s
            serveSem (wakeWho s (o.value - c) 0 s.time.tread w.who) k n
          else s
        | _ => s

/-- What an operation comes to: not allowed, a wait, or done with a result and a generation. -/
inductive SyncRes where
  | bad | waits | done (v g : Nat)
  deriving DecidableEq, Repr

/-- Kinds that an operation is for (Table 11-5). -/
def opFits (op kind : Nat) : Bool :=
  match op with
  | 0 | 7 => kind == 1
  | 1 => kind == 0
  | 2 => kind == 0 || kind == 1
  | 3 | 4 | 8 | 9 => kind == 3
  | 5 | 6 => kind == 2
  | _ => false

/-- The lowest item that TAKE may hand out (R362). -/
def nextItem (o : SyncObj) : Option Nat :=
  (List.range (o.limit - o.value)).map (o.value + ·) |>.find? fun i => !o.finished.contains i

/-- One operation on object `k` of this module (Table 11-5). `n` is its number, and for COMPLETE item + 2^32 ×
generation; `member` is the member that arrives; `hold` asks for a wait. -/
def syncOp (s : State) (k op n : Nat) (who : Who) (member : Option Nat) (hold : Bool) (expiry : Option Nat) :
    SyncRes × State :=
  match mget s.objs k with
  | none => (.bad, s)
  | some o =>
    if !opFits op o.kind then (.bad, s)
    else
      let s := fwBump s (kSync 0) 1
      let wait (w : WaitFor) : State :=
        setObj s k { o with waiters := o.waiters ++ [{ who := who, want := w, expiry := expiry }] }
      match op with
      | 0 =>
        match member.bind fun m => (o.members[m]?).map fun x => (m, x) with
        | none => (.bad, s)
        | some (m, x) =>
          if o.oldest + 16 ≤ x.arrivals then (.waits, wait (.window m hold))
          else
            let g := x.arrivals % 2 ^ 32
            let s' := if hold && !decide (x.arrivals < o.oldest) then wait (.gen g) else s
            let s' := syncRun s' [.arrive k m s.time.tread]
            let still := (mget s'.objs k).any fun o' => o'.waiters.any fun w => w.who == who && w.want == .gen g
            (if still then .waits else .done g g, s')
      | 1 => (.done ((o.value + n) % 2 ^ 32) 0, serveCounter (setObj s k { o with value := (o.value + n) % 2 ^ 32 }) k)
      | 2 =>
        if o.kind = 0 then
          if reached o.value n then (.done o.value 0, s)
          else (.waits, if hold then wait (.value n) else s)
        else if o.released n then (.done n n, s)
        else (.waits, if hold then wait (.gen n) else s)
      | 3 =>
        match nextItem o with
        | some i => (.done i o.curGen, setObj s k { o with value := i + 1 })
        | none => (.done 0xFFFFFFFF o.curGen, s)
      | 4 =>
        let i := n % 2 ^ 32
        let g := n / 2 ^ 32
        if !(reached g o.baseGen && reached o.curGen g) then (.done 0 0, fwBump s (kSync 7) 1)
        else if o.finished.contains i then (.done 0 0, fwBump s (kSync 8) 1)
        else (.done 0 0, if i < o.limit then setObj s k { o with finished := o.finished ++ [i] } else s)
      | 5 =>
        if o.waiters.isEmpty && decide (n ≤ o.value) then (.done (o.value - n) 0, setObj s k { o with value := o.value - n })
        else (.waits, wait (.count n))
      | 6 =>
        let overs := decide (o.limit < o.value + n)
        let s := fwBump s (kSync 9) (b2n overs)
        let s := setObj s k { o with value := min o.limit (o.value + n) }
        (.done (min o.limit (o.value + n)) 0, serveSem s k o.waiters.length)
      | 7 => (.done 0 0, syncRun (setObj s k { o with base := some n }) [.settle k])
      | 8 => (.done 0 0, setObj s k { o with finished := [], value := 0, baseGen := n % 2 ^ 32, curGen := n % 2 ^ 32 })
      | _ => (.done 0 0, setObj s k { o with value := 0, curGen := n % 2 ^ 32 })

/-- The member of a barrier that has a kind and an ID. -/
def memberAt (o : SyncObj) (kind id : Nat) : Option Nat :=
  (o.members.zipIdx.find? fun m => m.1.kind == kind && m.1.id == id).map (·.2)

/-- The HOST member, or the control-core member, with the fewest arrivals. -/
def memberLeast (o : SyncObj) (kind : Nat) : Option Nat :=
  let ms := o.members.zipIdx.filter fun m => m.1.kind == kind
  (ms.foldl (fun (b : Option (Nat × Nat)) m =>
    match b with
    | none => some (m.2, m.1.arrivals)
    | some x => if m.1.arrivals < x.2 then some (m.2, m.1.arrivals) else some x) none).map (·.1)

/-- The translation of a virtual ID: physical object, home, kind (R348, Table 11-2). -/
def vidOf (s : State) (ctx vid : Nat) : Option (Nat × Nat × Nat) :=
  if vid = 0 then none else (mget s.ctxs ctx).bind fun c => mget c.vids vid

/-- Sends an operation to the home of its object; `req` is the requesting tile or core (Table 12-5). -/
def syncSend (s : State) (ctx home phys op n req : Nat) (why : MsgWhy) (who : Who) (reg : Option Nat) : State :=
  let id := s.net.msgNext
  let s := newMsg s 5 home ctx why (leBytes 2 phys ++ leBytes 10 0 ++ leBytes 4 16)
    (leBytes 1 op ++ [0, 0, 0] ++ leBytes 4 n ++ leBytes 2 req ++ leBytes 6 0)
  if op = 2 ∨ op = 3 ∨ op = 5 ∨ (op = 0 ∧ who ≠ .firmware) then { s with syncOut := mset s.syncOut id { dst := home, who := who, gen := n, reg := reg, obj := phys } } else s

/-! ### Rows of barriers -/

/-- Fires the next generation of a barrier when its release tread has come and `allow` names what decides it. -/
def fireRow (s : State) (o : SyncIx) (allow : RelKind → Bool) : State :=
  let r := settleObj s o allow
  syncRun r.1 r.2

/-- BARRIER_TIMED_RELEASE (Table 11-7). -/
def execBarrierTimedRelease (o : SyncIx) (s : State) : Host.Outcome State Fault Refusal :=
  .next <| unfused s (fireRow s o (· == .timer))

/-- BARRIER_TIMEOUT: a generation releases TIMEOUT treads after its first arrival (Table 11-7). -/
def execBarrierTimeout (o : SyncIx) (s : State) : Host.Outcome State Fault Refusal :=
  .next <| unfused s (fireRow s o (· == .timeout))

/-- BARRIER_FLOOR_RELEASE: a generation releases at max(T + LEAD, F + 1) (Table 11-7); one released by hand releases
at the next tread (R365). -/
def execBarrierFloorRelease (o : SyncIx) (s : State) : Host.Outcome State Fault Refusal :=
  .next <| unfused s (fireRow s o (· == .arrival))

/-- True where a released generation leaves the window with members missing (R358). -/
def retires (s : State) (o : SyncObj) (g : Nat) (b : BGen) : Bool :=
  b.released.isSome && ((o.gens.any fun e => decide (g + 16 ≤ e.1)) ||
    decide ((b.opened.getD (b.released.getD 0)) + 4096 ≤ s.time.tread))

/-- GENERATION_RETIRE: late generations retire after a flight, or 16 generations on; members missing are absent
(R358). -/
def execGenerationRetire (o : SyncIx) (s : State) : Host.Outcome State Fault Refusal :=
  .next <| unfused s <| match mget s.objs o.val with
    | none => s
    | some b => (b.gens.filter fun e => retires s b e.1 e.2).foldl (fun s e =>
        closeGen s o e.1 ((List.range b.members.length).filter fun m => !mhas e.2.arrived m)) s

/-- RISER_WAVE_START: a wave's delay is over and the waits of its tiles are satisfied (R367). -/
def execRiserWaveStart (o : SyncIx) (wave : Nat) (s : State) : Host.Outcome State Fault Refusal :=
  let due (w : Wave) : Bool := w.obj == o.val && w.wave == wave && decide (w.due ≤ s.clks)
  .next <| unfused s <| (s.waves.filter due).foldl (fun s w => w.tiles.foldl wakeTile s)
    { s with waves := s.waves.filter fun w => !due w }

/-! ### Rows of descriptors and of control cores (Table 13-11) -/

/-- Fields of SYNC_SET and SYNC_WAIT (Table 13-11). -/
def setFields : List (Nat × Nat) := [(8, 3), (16, 8)]
def waitFields : List (Nat × Nat) := [(8, 3), (12, 8)]

/-- True where a descriptor is a SYNC_SET, or SYNC_WAIT, of an operation. -/
def isSync (opcode op : Nat) (t : Taken) : Bool := t.op == opcode && byteAt t.bytes 10 == op

/-- True where writes of a partner through its windows have not reached their homes yet (R203). -/
def partnerWrites (s : State) (p : Nat) : Bool :=
  s.waits.any fun w => match w.2 with | .cxlWrite q _ _ _ | .biWrite q _ _ _ => q == p | _ => false

/-- True where writes of the module's own firmware have not reached their homes yet (R203). -/
def ownWrites (s : State) : Bool := s.net.msgs.any fun m => m.2.why == .firmware && m.2.ty == 1

/-- SYNC_SET: an operation that asks for no wait (R354). Its N is 32 bits but for SET_BASE. It waits until the partner's earlier writes
are in their homes (R203). -/
def syncSet (s : State) (d op : Nat) (t : Taken) : State :=
  let n := fld t.bytes 16 8
  if partnerWrites s t.port then s
  else match vidOf s t.ctx (fld t.bytes 8 2) with
  | none => finish s d ePerm
  | some (phys, home, kind) =>
    if !opFits op kind || (op != 7 && decide (2 ^ 32 ≤ n)) then finish s d ePerm
    else if home ≠ s.net.index then
      if moduleStatus s home ≠ stOk then finish s d (moduleStatus s home)
      else syncSend (holdDesc s d) t.ctx home phys op n 0xFFFF (.desc d) (.desc d) none
    else
      let m := (mget s.objs phys).bind fun o => memberLeast o 4
      let r := syncOp s phys op n (.desc d) m false none
      match r.1 with
      | .bad => finish s d ePerm
      | .waits => holdDesc r.2 d
      | .done _ _ => finish r.2 d stOk

/-- SYNC_SET ARRIVE for a HOST member (R354). -/
def execSyncSetArrive (d : Nat) (s : State) : Host.Outcome State Fault Refusal :=
  .next <| unfused s (withDesc s d (isSync 0x60 0) setFields (syncSet s d 0))

/-- SYNC_SET ADD (Table 11-5). -/
def execSyncSetAdd (d : Nat) (s : State) : Host.Outcome State Fault Refusal :=
  .next <| unfused s (withDesc s d (isSync 0x60 1) setFields (syncSet s d 1))

/-- SYNC_SET POST (Table 11-5, R353). -/
def execSyncSetPost (d : Nat) (s : State) : Host.Outcome State Fault Refusal :=
  .next <| unfused s (withDesc s d (isSync 0x60 6) setFields (syncSet s d 6))

/-- SYNC_SET SET_BASE (R357). -/
def execSyncSetBase (d : Nat) (s : State) : Host.Outcome State Fault Refusal :=
  .next <| unfused s (withDesc s d (isSync 0x60 7) setFields (syncSet s d 7))

/-- SYNC_WAIT: completes at once when satisfied, and waits otherwise, for TIMEOUT treads at most from its taking
(R354). -/
def syncWait (s : State) (d op : Nat) (t : Taken) : State :=
  let n := fld t.bytes 12 4
  let limit := fld t.bytes 16 4
  match vidOf s t.ctx (fld t.bytes 8 2) with
  | none => finish s d ePerm
  | some (phys, home, kind) =>
    if !opFits op kind then finish s d ePerm
    else if home ≠ s.net.index then
      if moduleStatus s home ≠ stOk then finish s d (moduleStatus s home)
      else syncSend (holdDesc s d) t.ctx home phys op n 0xFFFF (.desc d) (.desc d) none
    else
      let r := syncOp s phys op n (.desc d) none true (if limit = 0 then none else some (t.tread + limit))
      match r.1 with
      | .bad => finish s d ePerm
      | .waits => holdDesc r.2 d
      | .done v _ => complete r.2 d stOk v 0

/-- SYNC_WAIT WAIT (R354). -/
def execSyncWaitWait (d : Nat) (s : State) : Host.Outcome State Fault Refusal :=
  .next <| unfused s (withDesc s d (isSync 0x61 2) waitFields (syncWait s d 2))

/-- SYNC_WAIT ACQUIRE (R353). -/
def execSyncWaitAcquire (d : Nat) (s : State) : Host.Outcome State Fault Refusal :=
  .next <| unfused s (withDesc s d (isSync 0x61 5) waitFields (syncWait s d 5))

/-- Drops the waits of a requester. -/
def dropWaits (s : State) (p : Who → Bool) : State :=
  { s with objs := mmap s.objs fun _ o => { o with waiters := o.waiters.filter fun w => !p w.who } }

/-- SYNC_WAIT_TIMEOUT: TIMEOUT treads have passed since the descriptor was taken; it completes with E_BUSY and acquires
nothing (R354). An ACQUIRE that waits at another member's semaphore is answered still: what it takes then is given back by a POST
(notes/assumptions/103.md). -/
def execSyncWaitTimeout (d : Nat) (s : State) : Host.Outcome State Fault Refusal :=
  .next <| unfused s <| match mget s.taken d with
    | none => s
    | some t =>
      let limit := fld t.bytes 16 4
      if t.op = 0x61 ∧ t.stage = .waiting ∧ limit ≠ 0 ∧ t.tread + limit ≤ s.time.tread then
        let s := dropWaits s (· == .desc d)
        let s := { s with syncOut := if byteAt t.bytes 10 = 5 then mmap s.syncOut fun _ (o : SyncOut) => if o.who == Who.desc d then { o with who := Who.firmware } else o
                    else mkeep s.syncOut fun _ (o : SyncOut) => o.who != Who.desc d }
        finish ((s.objs.map (·.1)).foldl (fun s k => serveSem s k ((mget s.objs k).elim 0 (·.waiters.length))) s) d eBusy
      else s

/-- SYNC_WAIT_SATISFIED: a wait that has been satisfied completes with its value or count (R354, Table 13-15). -/
def execSyncWaitSatisfied (d : Nat) (s : State) : Host.Outcome State Fault Refusal :=
  .next <| unfused s <| match mget s.taken d with
    | none => s
    | some t =>
      match t.stage with
      | .satisfied v => if t.op = 0x61 then complete s d stOk v 0 else finish s d stOk
      | _ => s

/-- An operation of a control core: SET_BASE, NEW_STEP, RESTART (Table 11-5), once the core's writes are in their homes (R203). -/
def coreOp (s : State) (ctx vid op n : Nat) : State :=
  match vidOf s ctx vid with
  | none => s
  | some (phys, home, kind) =>
    if !coresRun s || !opFits op kind || ownWrites s then s
    else if home ≠ s.net.index then syncSend s ctx home phys op n 0xFFFF .firmware .firmware none
    else (syncOp s phys op n .firmware none false none).2

/-- SET_BASE by a control core (R357). -/
def execSetBase (ctx vid base : Nat) (s : State) : Host.Outcome State Fault Refusal :=
  .next <| unfused s (coreOp s ctx vid 7 (base % 2 ^ 64))

/-- NEW_STEP (R362). -/
def execNewStep (ctx vid : Nat) (n : W32) (s : State) : Host.Outcome State Fault Refusal :=
  .next <| unfused s (coreOp s ctx vid 8 n.toNat)

/-- RESTART (R362). -/
def execRestart (ctx vid : Nat) (n : W32) (s : State) : Host.Outcome State Fault Refusal :=
  .next <| unfused s (coreOp s ctx vid 9 n.toNat)

/-! ### Setting an object by hand (R365, R366) -/

/-- True where the force log holds its 32,768 records (R509). -/
def forceFull (s : State) : Bool := decide (32768 ≤ s.store.forceLog.length)

/-- True where SYNC_FORCE acts (R365, R509). -/
def forceAllowed (s : State) : Bool :=
  (s.fuses.lc == .manufacture || s.fuses.lc == .returned || (s.fuses.lc == .deployed && s.tr.debugUnlocked)) &&
    !forceFull s

/-- Writes a force record and counts it; a full force log sends it to the event log with FORCE_FULL (R366, R509,
Table 16-5). -/
def forceRecord (s : State) (ob act res old new : Nat) : State :=
  let o := mget s.objs ob
  let r : LogRec := { tread := nowTread s, kind := 2, flags := b2n (forceFull s), context := o.elim 0xFFFF (·.ctx),
                      detail := leBytes 2 ob ++ leBytes 2 (o.elim 0 (·.vid)) ++ leBytes 1 act ++
                        leBytes 1 res ++ leBytes 2 0 ++ leBytes 4 old ++ leBytes 4 new }
  let s := fwBump s (kSync 10) 1
  if forceFull s then { s with evPend := s.evPend ++ [r] }
  else if storeOpen s then { s with store.forceLog := r :: s.store.forceLog }
  else s

/-- GO with ACTION SET_VALUE (Table 11-9). -/
def execSyncForceSetValue (object : SyncIx) (value : W32) (s : State) : Host.Outcome State Fault Refusal :=
  let k := object.val
  let o := mget s.objs k
  let old := o.elim 0 (·.value)
  let res := if !forceAllowed s then 2 else match o with | none => 1 | some o => if o.kind = 1 then 3 else 0
  .next <| unfused s <| if s.fuses.lc = .scrapped then s
    else
      let u := forceRecord { s with sf := { object := k, action := 0, result := res, value := value.toNat } } k 0 res old value.toNat
      match o with
      | some o =>
        if res ≠ 0 then u
        else
          let u := setObj u k { o with value := value.toNat }
          if o.kind = 0 then serveCounter u k else if o.kind = 2 then serveSem u k o.waiters.length else u
      | none => u

/-- GO with ACTION RELEASE: the named generation of a barrier releases at the next tread (Table 11-9, R365). -/
def execSyncForceRelease (object : SyncIx) (gen : W32) (s : State) : Host.Outcome State Fault Refusal :=
  let k := object.val
  let o := mget s.objs k
  let g := gen.toNat
  let res := if !forceAllowed s then 2 else match o with
    | none => 1
    | some o =>
      if o.kind ≠ 1 then 3
      else if o.released g then 5
      else if (g + 2 ^ 32 - o.oldest % 2 ^ 32) % 2 ^ 32 < 16 then 0 else 4
  .next <| unfused s <| if s.fuses.lc = .scrapped then s
    else
      let u := forceRecord { s with sf := { object := k, action := 1, result := res, value := g } } k 1 res 0 g
      match o with
      | some o =>
        if res ≠ 0 then u
        else
          let j := o.oldest + (g + 2 ^ 32 - o.oldest % 2 ^ 32) % 2 ^ 32
          setObj u k { o with gens := mset o.gens j { o.gen j with forced := true, due := some (u.time.tread + 1) } }
      | none => u

end Sys2Proof.Machine
end

