-- ==== Sys2Proof/Machine/Serve.lean ====
section
/-!
DEFINITION. What the rows of the serving loop share: parameters, token records, the end of a request, its frames and
references (10 R319 to R344; 14 R469; 09 R311).
-/
namespace Sys2Proof.Machine

/-! ### Names -/

/-- The key of a group. -/
def groupKey (ctx n : Nat) : Nat := 256 * ctx + n

/-- A request ID (R434). -/
def Group.rid (g : Group) (r : Nat) : Nat := g.num * 65536 + r

/-- The key under which an admitting module holds a request. -/
def admitKey (ctx rid : Nat) : Nat := ctx * 2 ^ 32 + rid

/-- The key of a group. -/
def Group.key (g : Group) : Nat := groupKey g.ctx g.num

/-- Sets a group. -/
def setGroup (s : State) (g : Group) : State := { s with groups := mset s.groups g.key g }

/-- The group of a context that an RID names, and its request number. -/
def groupOfRid (s : State) (ctx rid : Nat) : Option (Group × Nat) :=
  (mget s.groups (groupKey ctx (rid / 65536))).map (·, rid % 65536)

/-- The instances of a group on this module. -/
def groupInsts (s : State) (g : Group) : List (Nat × Inst) := s.insts.filter fun i => i.2.ctx == g.ctx && i.2.group == g.num

/-! ### Parameters (Table 13-12) -/

def Req.output (q : Req) : Nat := byteAt q.params 0
def Req.endTtft (q : Req) : Bool := byteAt q.params 1 == 1
def Req.draftMax (q : Req) : Nat := byteAt q.params 3
def Req.stops (q : Req) : List Nat := (List.range (byteAt q.params 4)).map fun i => fld q.params (80 + 4 * i) 4
def Req.set (q : Req) : Nat := fld q.params 16 2
def Req.ttft (q : Req) : Nat := fld q.params 20 4
def Req.tbt (q : Req) : Nat := fld q.params 24 4
def Req.sampling (q : Req) : SampleArgs :=
  { seed := fld q.params 32 8, temp := fld q.params 40 4, topk := fld q.params 44 4, topp := fld q.params 48 4,
    rep := fld q.params 52 4, pres := fld q.params 56 4, freq := fld q.params 60 4 }

/-! ### Token records (R340, R341, R468, R469) -/

/-- The IV of a turn's messages: 0 for the prompt, 1 for the kept tokens. -/
def turnIv (kind turn : Nat) : Bytes := leBytes 1 kind ++ leBytes 4 turn ++ leBytes 7 0

/-- What a step's settling tells the admitting module of one request (Table 12-24). -/
structure Settled where
  rid    : Nat
  len    : Nat
  toks   : List Nat
  status : Nat
  ended  : Bool
  replay : Bool
  drops  : Nat
  deriving DecidableEq, Repr

/-- The TOKEN of a record: the token, or the next 4 bytes of the turn's ciphertext. -/
def recordToken (sl : Option SealSt) (tok : Nat) : Nat × Option SealSt :=
  match sl with
  | none => (tok, none)
  | some x =>
    let n := x.cipher.length
    let c := (leBytes 4 tok).zipIdx.map fun b => b.1 ^^^ gcmStream x.key (turnIv 1 x.turn) (n + b.2)
    (leNat c, some { x with cipher := x.cipher ++ c })

/-- Writes the trailer of a sealed turn (R469). -/
def writeTrailer (s : State) (port status : Nat) (x : SealSt) : State :=
  let head := leBytes 4 x.turn ++ leBytes 4 (x.cipher.length / 4) ++ leBytes 1 status ++ leBytes 7 0
  let tag := gcmTag x.key (turnIv 1 x.turn) (x.sid ++ head) x.cipher
  pmWrite s port x.trailer (head ++ leBytes 16 tag.toNat)

/-- Hands a token record to a queue pair, while the request's context still holds it (R422). -/
def tokenTo (s : State) (ctx p q : Nat) (r : TokRec) : State :=
  if mget s.qpOwner (qpKey p q) = some ctx then sendToken s p q r else s

/-- Writes the kept tokens of a request, one record each, from position `pos` on (R340). -/
def writeKept (s : State) (k : Nat) (r : Settled) (step pos : Nat) : List Nat → State
  | [] => s
  | t :: ts =>
    match mget s.admits k with
    | none => s
    | some a =>
      let x := recordToken a.sealing t
      let last := ts.isEmpty && r.ended
      let s := { s with admits := mset s.admits k { a with next := some (pos + 1), sealing := x.2 } }
      let s := match x.2 with | some y => if last then writeTrailer s a.port r.status y else s | none => s
      let s := tokenTo s (k / 2 ^ 32) a.port a.qp
        { rid := r.rid, token := x.1, position := pos, status := if last then r.status else 0,
          flags := 2 * b2n last + 8 * b2n (r.replay || decide (pos < a.seen)) + 16 * b2n x.2.isSome, step := step % 65536 }
      writeKept s k r step (pos + 1) ts

/-- The records of one request at its admitting module (R340, R341). The first record of a turn stands at the committed
length, which a chunk that ends a prompt has reached. -/
def writeSettled (s : State) (ctx step : Nat) (r : Settled) : State :=
  let k := admitKey ctx r.rid
  match mget s.admits k with
  | none => s
  | some a =>
    let pos := a.next.getD r.len
    let s := writeKept s k r step pos r.toks
    if !r.ended then s
    else
      let s := if r.toks.isEmpty then
          let s := match a.sealing with | some y => writeTrailer s a.port r.status y | none => s
          tokenTo s ctx a.port a.qp
            { rid := r.rid, token := 0, position := pos, status := r.status,
              flags := 6 + 8 * b2n r.replay + 16 * b2n a.sealing.isSome, step := step % 65536 }
        else s
      { s with admits := madj s.admits k ({ · with next := none }) }

/-- One entry of a SETTLE message (Table 12-24). -/
def Settled.bytes (r : Settled) : Bytes :=
  leBytes 4 r.rid ++ leBytes 4 r.len ++ leBytes 1 r.toks.length ++ leBytes 1 r.status ++
    leBytes 1 (b2n r.ended + 2 * b2n r.replay) ++ [0] ++ leBytes 4 r.drops ++
    padTo (ceilDiv (4 * r.toks.length) 16 * 16) (r.toks.flatMap (leBytes 4))

/-- Hands the records of a step to the admitting modules: its own at once, others in one SETTLE message each. -/
def deliver (s : State) (g : Group) (step gen : Nat) (rs : List (Nat × Settled)) : State :=
  let own := rs.filter fun r => r.1 == s.net.index
  let s := own.foldl (fun s r => writeSettled s g.ctx step r.2) s
  let far := ((rs.map (·.1)).eraseDups).filter (· != s.net.index)
  far.foldl (fun s m =>
    let es := (rs.filter fun r => r.1 == m).map (·.2)
    sendCtrl s m g.ctx .firmware ([8] ++ leBytes 1 g.num ++ [0, 0] ++ leBytes 4 gen ++ leBytes 8 step ++
      leBytes 8 s.time.tread ++ leBytes 4 es.length ++ leBytes 4 0 ++ es.flatMap Settled.bytes)) s

/-! ### References to adapter versions (R310, R311) -/

/-- Zero-fills and removes an object of this module (R182, R186). -/
def freeObject (s : State) (obj : Nat) : State :=
  match dirGet s obj with
  | none => s
  | some e =>
    let s := if e.modIx = s.net.index && !e.absent then objZero s e else s
    endContexts (announceGone (dirDel s obj) obj e)

/-- A version is gone: its owner frees its homes on every member (R311). -/
def dropVersion (s : State) (k : Nat) : State :=
  match mget s.adapters k with
  | none => s
  | some v =>
    let s := { s with adapters := merase s.adapters k }
    let s := v.homes.foldl (fun s h =>
      if h.1 = s.net.index then freeObject s h.2
      else sendCtrl s h.1 v.ctx .firmware ([0xB, 5, 0, 0] ++ leBytes 4 v.id ++ leBytes 4 v.version ++ leBytes 20 0)) s
    if v.owner = s.net.index then fwBump s (kExp 9) 1 else s

/-- The adapter version of an ID and a number. -/
def versionOf (s : State) (ctx id version : Nat) : Option (Nat × AdVer) :=
  s.adapters.find? fun v => v.2.ctx == ctx && v.2.id == id && v.2.version == version

/-- Releases one reference at the owner. -/
def releaseRef (s : State) (k : Nat) : State :=
  match mget s.adapters k with
  | none => s
  | some v =>
    let s := { s with adapters := mset s.adapters k { v with refs := v.refs - 1 } }
    if v.state = 2 ∧ v.refs ≤ 1 then dropVersion s k else s

/-- Releases a request's reference, at its owner (R311). -/
def releaseVersion (s : State) (ctx : Nat) (q : Req) (rid : Nat) : State :=
  match q.adapter.bind fun k => (mget s.adapters k).map (k, ·) with
  | none => s
  | some (k, v) =>
    if v.owner = s.net.index then releaseRef s k
    else sendCtrl s v.owner ctx .firmware ([0xB, 2, 0, 0] ++ leBytes 4 v.id ++ leBytes 4 v.version ++ leBytes 4 rid ++
      leBytes 16 0)

/-! ### Ending requests (R341 to R344, Table 10-3) -/

/-- Frees every frame of a request, abandoning copies under way (Table 8-5). -/
def freeAll (s : State) (g : Group) (r : Nat) : State × Group :=
  match g.req? r with
  | none => (s, g)
  | some q =>
    (countFrames s 2 (allFrames q.pages),
      { g.setReq r { q with pages := [] } with freed := g.freed ++ q.pages.zipIdx.map fun p => (r, p.2, p.1) })

/-- The record that tells of a request's end without a token (R341). -/
def endRecord (g : Group) (r status : Nat) (q : Req) : Nat × Settled :=
  (q.admitter, { rid := g.rid r, len := q.len, toks := [], status := status, ended := true, replay := false, drops := q.drops })

/-- A request enters ENDED with a status: its frames and its version reference are given up (R311, R342). -/
def endReq (s : State) (g : Group) (r status : Nat) : State × Group :=
  match g.req? r with
  | none => (s, g)
  | some q =>
    let s := releaseVersion s g.ctx q (g.rid r)
    let x := freeAll s g r
    let s := fwBump x.1 (kSrv q.inst 11) (b2n (status == eCancelled))
    (s, (x.2).setReq r { q with state := .ended, status := status, pages := [], adapter := none })

/-- A closed request: its close completes, its buffer is freed and its number is free (R343). -/
def closeReq (s : State) (g : Group) (r d status : Nat) : State × Group :=
  match g.req? r with
  | none => (s, g)
  | some q =>
    let s := releaseVersion s g.ctx q (g.rid r)
    let x := freeAll s g r
    let s := complete x.1 d status q.drops 0
    ({ s with admits := if q.admitter = s.net.index then merase s.admits (admitKey g.ctx (g.rid r)) else s.admits },
     { x.2 with reqs := merase x.2.reqs r })

/-- True where a request is in PREFILL or DECODE. -/
def Req.live (q : Req) : Bool := q.state == .prefill || q.state == .decode

/-- Cancels, closes and the loss of the admitting port end the live requests of a list with E_CANCELLED (R342, R343,
Table 13-21); the END records come third. -/
def applyEnds (s : State) (g : Group) (rs : List Nat) : State × Group × List (Nat × Settled) :=
  rs.foldl (fun (x : State × Group × List (Nat × Settled)) r =>
    match (x.2.1).req? r with
    | none => x
    | some q =>
      if q.live && (!q.cancels.isEmpty || q.closer.isSome || q.lost) then
        let y := endReq x.1 x.2.1 r eCancelled
        (y.1, y.2, x.2.2 ++ [endRecord g r eCancelled q])
      else x) (s, g, [])

/-- The cancels and closes of requests that are no longer live complete, after the END records (R342, R343, R436). -/
def finishEnds (s : State) (g : Group) (rs : List Nat) : State × Group :=
  rs.foldl (fun (x : State × Group) r =>
    match (x.2).req? r with
    | none => x
    | some q =>
      if q.live then x
      else
        let n := if q.state = .ended ∧ q.status = eCancelled then q.drops else 0
        let s := q.cancels.foldl (fun s d => complete s d stOk n 0) x.1
        let g := (x.2).setReq r { q with cancels := [] }
        match q.closer with
        | some d => closeReq s g r d q.status
        | none => (s, g)) (s, g)

/-- Ends that take effect with no step running (R342, R343). -/
def endNow (s : State) (g : Group) (rs : List Nat) : State :=
  let x := applyEnds s g rs
  let s := deliver x.1 x.2.1 g.stepNo g.gen x.2.2
  let y := finishEnds s x.2.1 rs
  setGroup y.1 y.2

/-- What becomes of the requests of instance `i` when its step does not complete (R282, Table 10-9): nothing is
settled, frames taken for the step are freed; with a status, those in the step end with it and the others with
E_CANCELLED. -/
def failReqs (s : State) (g : Group) (i : Nat) (status : Option Nat) : State :=
  let inStep (r : Nat) : Bool := (g.run.any fun p => p.entries.any fun e => e.req == r && e.inst == i)
  let mine := (g.reqs.filter fun r => r.2.inst == i).map (·.1)
  let step := (g.run.elim g.stepNo (·.stepNo))
  let x := mine.foldl (fun (x : State × Group × List (Nat × Settled)) r =>
    match (x.2.1).req? r with
    | none => x
    | some q =>
      let gone := if inStep r then q.pages.drop (pagesFor q.len) else []
      let s := countFrames x.1 2 gone
      let g := if inStep r then (x.2.1).setReq r { q with pages := q.pages.take (pagesFor q.len) } else x.2.1
      match status with
      | none => (s, g, x.2.2)
      | some st =>
        if !q.live then (s, g, x.2.2)
        else
          let st := if inStep r then st else eCancelled
          let y := endReq s g r st
          (y.1, y.2, x.2.2 ++ [endRecord g r st q])) (s, g, [])
  let y := finishEnds (deliver x.1 x.2.1 step g.gen x.2.2) x.2.1 mine
  setGroup y.1 y.2

end Sys2Proof.Machine
end

