-- ==== Sys2Proof/Machine/StepEnd.lean ====
section
/-!
DEFINITION. Capture of a harness's tiles, and what becomes of a step that does not complete (03 R111; 10 R344, Table
10-9; 17 Table 17-9).
-/
namespace Sys2Proof.Machine

/-- Freezes the tiles of instance `k` and captures them to their capture slots; it is stalled (R111, Table 6-4, R139).
One that is stalled already keeps its capture. -/
def captureInst (s : State) (k : Nat) : State :=
  match mget s.insts k with
  | none => s
  | some i =>
    if i.stalled then s
    else
      let ts := instTiles i
      let s := onTiles (freezeTiles s ts) ts fun x => { x with capture := some x.core }
      { s with insts := mset s.insts k { i with stalled := true } }

/-- The RUN_GRAPHs of instance `i` complete with a status. -/
def endGraphs (s : State) (i status : Nat) : State :=
  (s.graphs.filter fun g => g.2.inst == i).foldl (fun s g =>
    finish { s with graphs := merase s.graphs g.1 } g.1 (if g.2.running then status else eCancelled)) s

/-- The member's own arrival at the group's step barrier, with a wait for the release (R327, R328, R356). It waits until what the module's
firmware has written is in its homes (R203). -/
def groupArrive (s : State) (k : Nat) : State :=
  match mget s.groups k with
  | none => s
  | some g =>
    if ownWrites s then setGroup s { g with owed := true }
    else if g.lead = s.net.index then
      match (mget s.objs g.bar).bind fun o => memberAt o 3 s.net.index with
      | some m => (syncOp s g.bar 0 0 (.group k) (some m) true none).2
      | none => s
    else
      let id := s.net.msgNext
      let s := newMsg s 5 g.lead g.ctx .firmware (leBytes 2 g.bar ++ leBytes 10 0 ++ leBytes 4 16)
        ([0, 0, 0, 0] ++ leBytes 4 1 ++ leBytes 2 (0xFF00 + g.num) ++ leBytes 6 0)
      { s with syncOut := mset s.syncOut id { dst := g.lead, who := .group k, gen := 0, reg := none } }

/-- The group after its step `p`: the next one takes the next step number and a new generation (R344). A part of an earlier step that ran on
after its parking changes neither. -/
def Group.stepOver (g : Group) (p : Plan) : Group :=
  if p.stepNo < g.stepNo then { g with run := none }
  else { g with run := none, stepNo := p.stepNo + 1, gen := (p.gen + 1) % 2 ^ 32 }

/-- The entries of instance `i` leave the running step; a step without entries runs no longer. -/
def leaveRun (s : State) (k i : Nat) : State :=
  { s with groups := madj s.groups k fun g =>
      match g.run with
      | none => g
      | some p =>
        let es := p.entries.filter fun e => e.inst != i
        if es.isEmpty then g.stepOver p else { g with run := some { p with entries := es } } }

/-- A member whose group ran a step in `s` and runs none in `t` arrives at the group's step barrier for the next one (R328). -/
def arriveAfter (s t : State) (k : Nat) : State :=
  let ran := (mget s.groups k).any fun g => g.run.any fun p => decide (g.stepNo ≤ p.stepNo)
  if ran && (mget t.groups k).any (·.run.isNone) && !t.flt.sliceStopped then groupArrive t k else t

/-- The entries of instance `i` leave the running step, and where that ends the step of this member it arrives at the group's step
barrier for the next one (R328). -/
def leaveArrive (s : State) (k i : Nat) : State :=
  arriveAfter s (leaveRun s k i) k

/-- The step of instance `i` does not complete; `status` is what its requests end with, none where they are planned
again (Table 10-9). -/
def abandonStep (s : State) (i : Nat) (status : Option Nat) : State :=
  match mget s.insts i with
  | none => s
  | some x =>
    let s := fwBump s (kSrv i 1) (b2n x.running)
    let s := { s with insts := mset s.insts i { x with running := false, failed := status } }
    let s := match mget s.groups (groupKey x.ctx x.group) with
      | some g => failReqs s g i status
      | none => s
    leaveRun s (groupKey x.ctx x.group) i

/-- The step of instance `i` is lost to a forced switch; its requests are planned again, and the member arrives for the next step
(Table 10-9). -/
def abandonArrive (s : State) (i : Nat) : State :=
  match mget s.insts i with
  | none => s
  | some x =>
    arriveAfter s (abandonStep s i none) (groupKey x.ctx x.group)

/-- A step of instance `i` ends with a status and the captured instance takes no further one: its requests and its
RUN_GRAPHs end (Table 10-9). A unit that cannot be reached counts as a poisoned one (Table 17-9). -/
def failStep (s : State) (i status : Nat) : State :=
  let st := if status = eUnreachable then ePoison else status
  endGraphs (abandonStep s i (some st)) i st

end Sys2Proof.Machine
end

