-- ==== Sys2Proof/Machine/Exchange.lean ====
section
/-!
DEFINITION. Streams at their end ports as their units land, and the exchange of experts' rows between tiles: credits, stale messages, route
digests (05 R195, R196; 09 R297 to R305, Tables 9-3 and 9-4; 12 R387).
-/
namespace Sys2Proof.Machine

/-- The instance of a tile. -/
def instOfTile (s : State) (t : Nat) : Option (Nat × Inst) :=
  (tileOf s t).inst.bind fun k => (mget s.insts k).map fun i => (k, i)

/-- The deadline of a stream after a unit has landed or been taken at clk `now`: the clk at which what is landed and not yet taken has been
used up at its rate (R114, R195). -/
def Stream.dueFrom (st : Stream) (now : Nat) : Stream :=
  { st with due := if st.rate = 0 then 0 else now + 64 * ((st.landed - st.taken) * st.unitBytes) / st.rate }

/-- Unit `n` of a stream has landed: units in stream order become usable, later ones wait for their place (R196). -/
def landUnit (st : Stream) (n : Nat) : Stream :=
  let early := addWord st.early n
  let run := ((List.range early.length).takeWhile fun j => early.contains (st.landed + j)).length
  { st with landed := st.landed + run, early := early.filter fun m => decide (st.landed + run ≤ m) }

/-- The tier offset of the buffer slot of unit `n` of a stream. -/
def slotAt (st : Stream) (n : Nat) : Nat :=
  (if st.inT2 then t2Off st.tile 0 else t1Off st.tile 0) + st.base + n % max 1 st.slots * st.unitBytes

/-- Lands the units of a STREAM message from unit `n` on (R387); `bad` are the poisoned words of the message. -/
def landStream (s : State) (key : Nat) (st : Stream) (n : Nat) (b : Bytes) (bad : List Nat) : State :=
  let u := max 1 st.unitBytes
  let s := (List.range (ceilDiv b.length u)).foldl (fun s i =>
    let s := storeTier (countTier s (b2n st.inT2) (slotAt st (n + i)) u true) (b2n st.inT2) (slotAt st (n + i)) (slice b (u * i) u)
    { s with streams := madj s.streams key fun x => (landUnit x (n + i)).dueFrom s.clks }) s
  bad.foldl (fun s w => poisonRange s (b2n st.inT2) (slotAt st (n + 8 * w / u) + 8 * w % u) 8) s

/-! ### The routing of the running step -/

/-- Tokens of an entry, and the expert sets of an instance's slots in a step. -/
def entrySize (e : PEntry) : Nat := if e.chunk then e.toks.length else e.nodes.length
def instSets (p : Plan) (k : Nat) : List Nat :=
  (p.entries.filter (·.inst == k)).flatMap fun e => List.replicate (entrySize e) e.set

/-- The routing of layer `l` in the running step of instance `k`, as its routing tiles compute it (R289, R298). -/
def stepRoute (s : State) (k : Nat) (i : Inst) (l : Nat) : Option LayerRoute :=
  ((mget s.groups (groupKey i.ctx i.group)).bind (·.run)).bind fun p =>
    (routeFor (((instImg s i).regions 0x0101).map (·.2)) l).map fun r =>
      let h := routeHead r
      routeLayer h (h.layer r l) (instSets p k) (routerLogits i.uid i.stepNo i.stepGen l)

/-- True where a message's ROUTE_DIGEST is that of the receiving tile for its layer and half; without a route table of the layer there is
nothing to compare (R305). -/
def routeAgrees (s : State) (k : Nat) (i : Inst) (b : Bytes) : Bool :=
  (stepRoute s k i (fld b 2 2)).all fun y => routeDigest y.entries (byteAt b 1 % 2) == fld b 8 4

/-! ### Credits (R303) -/

/-- The number of a sender's count toward a buffer: sending tile, receiving member and tile, expert, layer, half. -/
def creditKey (tile member peer expert layer half : Nat) : Nat :=
  ((((tile * 8192 + member) * 2048 + peer) * 65536 + expert) * 256 + layer % 256) * 2 + half % 2

/-- Rows that the schedule reserves for an expert in a half: CAP, for a shared expert the slots of a step (R297). -/
def reservedRows (s : State) (i : Inst) (expert : Nat) : Nat :=
  if 0x8000 ≤ expert then (instShape s i).slots else (((instImg s i).regions 0x0101).head?).elim 0 fun r => (routeHead r.2).cap

/-- Credits that a sending tile of instance `i` holds toward a buffer. -/
def creditsOf (s : State) (i : Inst) (key expert : Nat) : Nat :=
  mgetD s.credits key (min (reservedRows s i expert) (exchangeCredits i.uid key))

/-- A CREDIT reaches sending tile `t`: its rows are added to the count toward the buffer that it comes from (R303). -/
def takeCredit (s : State) (t : Nat) (b : Bytes) : State :=
  match instOfTile s t with
  | none => s
  | some (_, i) =>
    let key := creditKey t (fld b 18 2) (fld b 16 2) (fld b 14 2) (fld b 2 2) (byteAt b 1)
    { s with credits := mset s.credits key (creditsOf s i key (fld b 14 2) + fld b 12 2) }

/-- The CREDIT that returns the rows of message `b` from receiving tile `t` to its sender (R303, R304). -/
def creditFor (s : State) (ctx key : Nat) (b : Bytes) (t : Nat) : State :=
  let c := [3] ++ slice b 1 1 ++ slice b 2 2 ++ slice b 4 2 ++ slice b 6 1 ++ [0] ++ slice b 8 4 ++ slice b 12 2 ++ slice b 14 2 ++
    leBytes 2 t ++ leBytes 2 s.net.index ++ leBytes 12 0
  if fld b 18 2 = s.net.index then takeCredit s (fld b 16 2) c
  else newMsg s 4 (fld b 18 2) ctx .firmware
    (leBytes 2 (fld b 16 2) ++ leBytes 1 (key % 64) ++ leBytes 1 (key / 64 % 2) ++ leBytes 8 0 ++ leBytes 4 32) c

/-- The buffer room of unit `n` of a stream is free: where an exchange message lies there, the credit of its rows goes back (R303). -/
def freeUnit (s : State) (key : Nat) (st : Stream) (n : Nat) : State :=
  let b := readTier s (b2n st.inT2) (slotAt st n) 32
  match instOfTile s st.tile with
  | some (_, i) => if st.exch && (byteAt b 0 == 1 || byteAt b 0 == 2) then creditFor s i.ctx key b st.tile else s
  | none => s

/-! ### Messages (R302 to R305) -/

/-- What a message's exchange header comes to at the receiving tile: current, or stale (R304). -/
def staleExchange (s : State) (t : Nat) (b : Bytes) : Bool :=
  match instOfTile s t with
  | none => true
  | some (_, i) => fld b 4 2 != i.stepNo % 65536 || byteAt b 6 != i.stepGen % 256

/-- A DISPATCH or RETURN arrives at a tile's stream: a stale one is dropped, counted, and its credit returned; one whose ROUTE_DIGEST is not
the tile's own is counted and lands poisoned (R304, R305). -/
def exchangeArrive (s : State) (key : Nat) (st : Stream) (n : Nat) (b : Bytes) (bad : List Nat) : State :=
  match instOfTile s st.tile with
  | none => s
  | some (k, i) =>
    if staleExchange s st.tile b then
      creditFor (fwBump s (kExp (if byteAt b 0 = 2 then 5 else 4)) 1) i.ctx key b st.tile
    else if routeAgrees s k i b then landStream s key st n b bad
    else landStream (fwBump s (kExp 6) 1) key st n b (List.range (ceilDiv b.length 8))

/-- GAL_PUT hands a message to a stream toward another tile: none while the sender lacks the credits for its rows, which the message consumes
(R303). Within the module it arrives at once; over the links it travels as a STREAM message. -/
def exchangePut (s : State) (t key : Nat) (st : Stream) (dst : StreamTo) (b : Bytes) : Option (Got × State) :=
  match instOfTile s t with
  | none => some (.trap ePerm, s)
  | some (_, i) =>
    let rows := if byteAt b 0 = 1 ∨ byteAt b 0 = 2 then fld b 12 2 else 0
    let ck := creditKey t dst.member dst.tile (fld b 14 2) (fld b 2 2) (byteAt b 1)
    let has := creditsOf s i ck (fld b 14 2)
    if has < rows then none
    else
      let s := { s with credits := if rows = 0 then s.credits else mset s.credits ck (has - rows),
                        streams := mset s.streams key { st with given := st.given + 1 } }
      let rk := 128 * (dst.tile / 64) + 64 * b2n dst.east + dst.num % 64
      if dst.member ≠ s.net.index then
        some (.val 0, newMsg s 4 dst.member i.ctx (.tile t)
          (leBytes 2 dst.tile ++ leBytes 1 dst.num ++ leBytes 1 (b2n dst.east) ++ leBytes 4 st.given ++ leBytes 4 0) b)
      else match mget s.streams rk with
        | some r => if r.tile = dst.tile then some (.val 0, exchangeArrive s rk r st.given b []) else some (.trap ePerm, s)
        | none => some (.trap ePerm, s)

/-! ### The schedule's streams (R195, R297) -/

/-- The exchange streams of an instance's tiles are closed, the credits of rows that still stand in their buffers returned. -/
def closeExchange (s : State) (ts : List Nat) : State :=
  let s := (s.streams.filter fun x => x.2.exch && ts.contains x.2.tile).foldl (fun s x =>
    (List.range (x.2.landed - (x.2.taken - 1))).foldl (fun s j => freeUnit s x.1 x.2 (x.2.taken - 1 + j)) s) s
  { s with streams := mkeep s.streams fun _ st => !(ts.contains st.tile && (st.exch || st.feeds.isSome)) }

/-- Opens one stream at an end port where its number is free; a buffer lies where firmware puts it. -/
def openStreamAt (s : State) (key : Nat) (st : Stream) : State :=
  if mhas s.streams key then s
  else
    let base := freeValue s.fv % ((2 ^ 19 - min (2 ^ 19) (st.slots * st.unitBytes)) / 64 + 1) * 64
    { s with fv := s.fv + 1, streams := mset s.streams key { st with base := base } }

/-- A stream on which nothing has moved. -/
def freshStream (rate tile slots unit source : Nat) (feeds : Option StreamTo) (exch : Bool) : Stream :=
  { rate := rate, tile := tile, inT2 := false, base := 0, slots := slots, unitBytes := unit, given := 0, landed := 0, taken := 0,
    early := [], source := source, out := [], due := 0, ahead := false, feeds := feeds, exch := exch }

/-- Firmware opens the exchange streams of a routing harness for its step: those of its tiles as senders, and as receivers, whose source is a
link, or another tile's T1 (R116, R195). -/
def openExchange (s : State) (i : Inst) : State :=
  if ((instImg s i).regions 0x0101).isEmpty then s
  else
    let ts := instTiles i
    let own := s.net.index
    let s := (activeMembers s).foldl (fun s m =>
      ((exchangePlan i.uid own m).filter fun x => ts.contains x.src).foldl (fun s x =>
        openStreamAt s (128 * (x.src / 64) + 64 * b2n x.sEast + x.sNum % 64)
          (freshStream x.rate x.src 2 x.unit 0 (some { member := m, tile := x.dst, num := x.rNum % 64, east := x.rEast }) false)) s) s
    (activeMembers s).foldl (fun s m =>
      ((exchangePlan i.uid m own).filter fun x => ts.contains x.dst).foldl (fun s x =>
        openStreamAt s (128 * (x.dst / 64) + 64 * b2n x.rEast + x.rNum % 64)
          (freshStream x.rate x.dst (max 2 x.slots) x.unit (if m = own then 3 else 2) none true)) s) s

end Sys2Proof.Machine
end

