-- ==== Sys2Proof/Machine/ScanImg.lean ====
section
/-!
DEFINITION. The scan image of a tile: its bytes, and a tile from its bytes (03 Tables 3-12 and 3-13, R124 to R128; 02 R69).
-/
namespace Sys2Proof.Machine

/-- Bytes of a scan image. -/
def scanBytes : Nat := 98304

/-- The entries of a queue from its head: those in hardware, and those on their way back, which land when the tile is
frozen (R124). -/
def Queue.held (v : Queue) : List Entry := v.hw ++ v.returns.map (·.1)

/-- The queues in the order of the three entry sections, with entries per queue and bytes per entry. -/
def scanQueues : List (Nat × Nat × Nat) :=
  ((List.range 8).map fun q => (16 + q, 64, 1)) ++ ((List.range 8).map fun q => (q, 32, 4)) ++
    (List.range 8).map fun q => (8 + q, 16, 64)

/-- The entry section of some queues. -/
def entrySection (c : TileCore) (qs : List (Nat × Nat × Nat)) : Bytes :=
  qs.flatMap fun q => padTo (q.2.1 * q.2.2) ((c.queue q.1).held.flatMap fun e => leBytes q.2.2 e.val)

/-- Two 4-bit values a byte. -/
def nibbles : List Nat → Bytes
  | [] => []
  | [a] => leBytes 1 (a % 16)
  | a :: b :: xs => leBytes 1 (a % 16 + 16 * (b % 16)) ++ nibbles xs

/-- The sidebands of every entry slot; slots beyond a queue's count hold zero. -/
def sideSection (c : TileCore) : Bytes :=
  nibbles (scanQueues.flatMap fun q =>
    let es := (c.queue q.1).held.map (·.side)
    (es ++ List.replicate (q.2.1 - es.length) 0).take q.2.1)

/-- The queue state of a queue. -/
def queueState (v : Queue) : Bytes :=
  leBytes 2 v.held.length ++ leBytes 4 v.ringBase ++ leBytes 2 v.ringSize ++ leBytes 2 v.ringHead ++ leBytes 2 v.ringCnt ++
    leBytes 4 0

/-- Counter `k` of a tile; one that is not listed has counted IDLE in every lane and empty queues since its counters' reset (R117,
Table 3-10). -/
def tileCtr (s : State) (t k : Nat) : HwCtr :=
  let c := mgetD s.hwc (kTile t k) .zero
  if !mhas s.tiles t ∧ (k < 85 ∧ k % 17 = 1 ∨ 133 ≤ k ∧ k < 157) then c.add s.clks else c

/-- The 181 counters of a tile as `f` shows them, 1,536 bytes (Table 3-10, R121, R504). -/
def tileCounters (s : State) (f : HwCtr → Nat) (t : Nat) : Bytes :=
  padTo 1536 ((List.range 181).flatMap fun k => leBytes 8 (f (tileCtr s t k)))

/-- Replaces a field of an instruction word. -/
def setField (w : InstrWord) (hi lo v : Nat) : InstrWord := BitVec.ofNat 256 (putBits w.toNat hi lo v)

/-- The K positions whose products an operation adds at once: an engine-ready tile of 64, or two where an MX operand A rests in registers,
of which only an even number of tiles is whole (notes/assumptions/83.md). -/
def mxeGroup (w : InstrWord) : Nat := if iw w 73 72 = 0 && isMx (iw w 67 64) then 128 else 64

/-- The K positions of an MXE_OP whose products the bank holds; the last group waits for the end. -/
def OpSt.added (o : OpSt) : Nat := min o.done (iw o.word 99 76) / mxeGroup o.word * mxeGroup o.word

/-- The 64-byte units that a T2 path move has moved whole: to and from registers, four at a time. -/
def OpSt.moved (o : OpSt) : Nat :=
  let g := if iw o.word 111 110 = 0 then 4 else 1
  o.done / (2 * g) * g

/-- An operation in progress as its instruction word, with its counts replaced by those remaining (Table 3-13, IN_OP): an MXE_OP's K and the
operand addresses that go with it, a T2 path move's units and its two addresses (R124, R127). -/
def OpSt.remaining (o : OpSt) : InstrWord :=
  let w := o.word
  match opcodeOf w with
  | 0x10 =>
    let k := o.added
    let a := k / 64 * (tileBytes (iw w 67 64)).1 / (if iw w 73 72 = 0 then 256 else 64)
    let b := k / 64 * (tileBytes (iw w 71 68)).1 / 64
    setField (setField (setField w 99 76 (iw w 99 76 - k)) 143 128 (iw w 143 128 + a)) 175 144 (iw w 175 144 + b)
  | 0x40 | 0x41 =>
    let n := o.moved
    let loc := iw w 108 96 + if iw w 111 110 = 0 then n / 4 else n
    setField (setField (setField w 127 112 (iw w 127 112 - n)) 80 64 (iw w 80 64 + n)) 108 96 loc
  | _ => w

/-- The operation in progress of a lane as IN_OP holds it; a lane that waits for its SYNC holds that word. -/
def inOp (l : LaneSt) : InstrWord := l.op.elim 0 (·.remaining)

/-- One accumulator of a bank, 32 bytes. -/
def accBytes (b : Bank) (i : Nat) : Bytes :=
  let a := b.acc i
  partialBytes b a ++ leBytes 2 (if b.fmtA = 9 then 0 else ofInt 16 a.smax) ++ leBytes 6 0

/-- The scan image of a core of tile `t` (Table 3-12). -/
def scanImage (s : State) (t : Nat) (c : TileCore) : Bytes :=
  let head := leBytes 2 1 ++ leBytes 2 t ++ leBytes 1 c.epoch ++
    leBytes 1 ((c.lanes.zipIdx.map fun l => b2n l.1.halted * 2 ^ l.2).sum) ++ leBytes 2 0 ++ leBytes 8 c.freeze ++
    padTo 10 (c.lanes.flatMap fun l => leBytes 2 (l.pc % 1024)) ++ leBytes 6 0 ++ padTo 32 (c.lc.flatMap (leBytes 4)) ++
    leBytes 4 c.flags.toNat ++ leBytes 4 c.stepFlags ++ leBytes 4 c.wdog ++ leBytes 4 0 ++
    padTo 160 (c.lanes.flatMap fun l => leBytes 32 (inOp l).toNat) ++ leBytes 16 0
  let img := head ++ ((List.range 32).flatMap fun i => leBytes 8 (c.sreg i)) ++
    ((List.range 24).flatMap fun q => queueState (c.queue q)) ++ leBytes 128 0 ++
    entrySection c scanQueues ++ tileCounters s HwCtr.raw t ++ c.vbytes 0 16384 ++ sideSection c ++ leBytes 3648 0 ++
    ((List.range 1024).flatMap (accBytes c.bank0)) ++ (List.range 1024).flatMap (accBytes c.bank1)
  putBytes img 0xFC (leBytes 4 (crc32 img))

/-- The reserved bytes of an image are zero (R128). -/
def scanReserved (b : Bytes) : Bool :=
  byteAt b 4 / 4 == 0 && byteAt b 5 / 32 == 0 && zeroAt b 6 2 && zeroAt b 0x1A 6 && zeroAt b 0x4C 4 && zeroAt b 0xF0 12 &&
    ((List.range 5).all fun l => fld b (0x10 + 2 * l) 2 / 1024 == 0) &&
    ((List.range 24).all fun q => zeroAt b (0x200 + 16 * q + 13) 3) && zeroAt b 0x380 128 && zeroAt b 0x2FA8 88 && zeroAt b 0x71C0 3648 &&
    (List.range 2048).all fun i => byteAt b (0x8000 + 32 * i + 16) / 64 == 0 && zeroAt b (0x8000 + 32 * i + 26) 6

/-- FORMAT, CRC and reserved bytes of an image (R128). -/
def scanOk (b : Bytes) : Bool :=
  b.length == scanBytes && fld b 0 2 == 1 && fld b 0xFC 4 == crc32 (putBytes b 0xFC [0, 0, 0, 0]) && scanReserved b

/-- The queues of an image: `off` is where the next queue's entries rest, `slot` its first sideband. -/
def scanInQueues (b : Bytes) : Nat → Nat → List (Nat × Nat × Nat) → AMap Queue → AMap Queue
  | _, _, [], m => m
  | off, slot, q :: qs, m =>
    let st := slice b (0x200 + 16 * q.1) 16
    let n := min q.2.1 (fld st 0 2)
    let es := (List.range n).map fun i =>
      { val := fld b (off + i * q.2.2) q.2.2, side := byteAt b (0x7000 + (slot + i) / 2) / 16 ^ ((slot + i) % 2) % 16,
        fresh := false, poison := 0 : Entry }
    let v : Queue := { Queue.empty with hw := es, ringBase := fld st 2 4, ringSize := fld st 6 2, ringHead := fld st 8 2,
                                        ringCnt := fld st 10 2 }
    scanInQueues b (off + q.2.1 * q.2.2) (slot + q.2.1) qs (if v = .empty then m else mset m q.1 v)

/-- The bank of an image. -/
def scanInBank (b : Bytes) (k : Nat) : Bank :=
  let base := 0x8000 + 32768 * k
  let p := partialOf (slice b base 24)
  { fmtA := p.1, fmtB := p.2.1,
    accs := (List.range 1024).filterMap fun i =>
      let q := partialOf (slice b (base + 32 * i) 24)
      let a := if p.1 = 9 then q.2.2 else { q.2.2 with smax := toInt 16 (fld b (base + 32 * i + 24) 2) }
      if a = Acc.zero then none else some (i, a) }

/-- A lane of an image. -/
def scanInLane (b : Bytes) (l : Nat) : LaneSt :=
  let w : InstrWord := BitVec.ofNat 256 (fld b (0x50 + 32 * l) 32)
  { pc := fld b (0x10 + 2 * l) 2 % 1024, halted := bit (byteAt b 5) l, trapped := false, evaluated := false,
    op := if w = 0 then none else some { word := w, done := 0, clk := 0 }, syncing := l == 2 && opcodeOf w == 8, cause := none,
    busy := 0, served := 0, waits := [] }

/-- The core that an image holds (R127). -/
def scanInCore (b : Bytes) : TileCore :=
  let lc := (List.range 8).map fun i => fld b (0x20 + 4 * i) 4
  let fl : W32 := BitVec.ofNat 32 (fld b 0x40 4)
  { lanes := (List.range 5).map (scanInLane b), lc := lc, lc0 := lc, flags := fl, flags0 := fl,
    s := (List.range 32).map fun i => (i, BitVec.ofNat 64 (fld b (0x100 + 8 * i) 8)),
    v := (List.range 64).map fun i => (i, BitVec.ofNat 2048 (fld b (0x3000 + 256 * i) 256)),
    queues := scanInQueues b 0x400 0 scanQueues [], bank0 := scanInBank b 0, bank1 := scanInBank b 1, drain := none,
    stepFlags := fld b 0x44 4, epoch := byteAt b 4 % 4, wdog := fld b 0x48 4, freeze := fld b 8 8 }

/-- A scan-in that fails leaves every queue empty and every lane halted (R128). -/
def scanRefused (c : TileCore) : TileCore :=
  { (emptyQueues c).2 with drain := none, lanes := c.lanes.map fun l => { l with halted := true, op := none, syncing := false } }

/-- Scans an image into a frozen tile (R127, R128); the second result says that it was restored. -/
def scanInto (s : State) (t : Nat) (b : Bytes) : State × Bool :=
  if scanOk b then (setCore s t (scanInCore b), true) else (setCore s t (scanRefused (tileOf s t).core), false)

end Sys2Proof.Machine
end

