-- ==== Sys2Proof/Machine/Lanes.lean ====
section
/-!
DEFINITION. One clk of one lane: an instruction fires or counts what it waits for, and what each instruction does (03 R89
to R99, R117, R118; 02 R51 to R67; 11 Table 11-6, R349; 05 R196; Tables 3-5 to 3-19).
-/
namespace Sys2Proof.Machine

/-- True where the lanes of a tile may fire: a tile of an instance holds its lanes, rearmed at bind or by a switch, until
a step of the instance starts (R132, R138, R152; notes/assumptions/76.md). -/
def inStepTile (s : State) (t : Nat) : Bool := (instOfTile s t).all (·.2.running)

/-- Lane `l` of a tile. -/
def TileSt.lane (x : TileSt) (l : Nat) : LaneSt := x.core.lanes.getD l .idle

/-- Changes lane `l` of tile `t`. -/
def setLane (s : State) (t l : Nat) (f : LaneSt → LaneSt) : State :=
  let x := tileOf s t
  setTile s t { x with core.lanes := x.core.lanes.modify l f }

/-- A lane traps and halts, and counts IDLE; the instance is captured and its step ends with the status (Table 6-4, R99, R349). -/
def trapLane (s : State) (t l status : Nat) : State :=
  let s := setLane s t l fun x => { x with halted := true, trapped := true, evaluated := true, op := none, syncing := false,
                                           waits := [], served := 0 }
  match instOfTile s t with
  | some (k, _) => failStep (captureInst s k) k status
  | none => s

/-- Traps the lane where an action ended so. -/
def settleGot (t l : Nat) (r : Got × State) : State :=
  match r.1 with
  | .trap status => trapLane r.2 t l status
  | .val _ => r.2

/-- Takes the tokens that conditions with a consume bit tested; one queue gives one token (R91). -/
def consumeTokens (s : State) (t : Nat) (w : InstrWord) : State :=
  let qs := (if iw w 13 13 = 1 then [iw w 28 24] else []) ++ (if iw w 14 14 = 1 then [iw w 44 40] else [])
  qs.eraseDups.foldl (fun s q => (takeEntries s t q 1).2) s

/-- DEC and BR, and the program counter moves on; a lane past its segment's end halts (R91, R93, Table 3-6). -/
def advanceLane (s : State) (t l : Nat) (w : InstrWord) : State :=
  let x := tileOf s t
  let g := x.cfg.segs.getD l (0, 0)
  let k := iw w 10 8
  let n := x.core.lc.getD k 0
  let n := if iw w 11 11 = 1 then n - 1 else n
  let lane := x.lane l
  let pc := if opcodeOf w = 4 ∨ (iw w 12 12 = 1 ∧ n ≠ 0) then g.1 + iw w 57 48 else lane.pc + 1
  let lane := { lane with pc := pc, evaluated := true, waits := [], served := 0,
                          halted := opcodeOf w == 5 || decide (g.1 + g.2 ≤ pc) }
  setTile s t { x with core.lc := x.core.lc.set k n, core.lanes := x.core.lanes.set l lane, progress := true }

/-- True where tiles run: A0, no coolant stop (R497, Table 17-4). -/
def arrayRuns (s : State) : Bool := s.ps.state == 0 && !s.pw.coolantStop && s.sup.on

/-- True where the lanes of tile `t` run. -/
def lanesRun (s : State) (t : Nat) : Bool := arrayRuns s && inStepTile s t

/-- True where lane `l` of tile `t` still evaluates its instruction in this clk (R89). -/
def laneReady (s : State) (t l : Nat) : Bool :=
  mhas s.tiles t && lanesRun s t && !(tileOf s t).frozen && !((tileOf s t).lane l).halted && !((tileOf s t).lane l).evaluated

/-- The banks that lane `l`, of the vector or the scalar unit, takes in this clk when its instruction's evaluation is still to come and
`taken` serve others. -/
def wantedBanks (s : State) (t l taken : Nat) : Nat :=
  let x := tileOf s t
  match mget x.cfg.prog (x.lane l).pc with
  | none => 0
  | some w =>
    if laneReady s t l && (laneCauses s t l w).isEmpty then (serveBanks (t1Needs x.core w) (x.lane l).served taken).2 else 0

/-- The T1 banks that requesters before `p` in the order of R38 take in this clk: 1 the MXE, 2 the vector unit, 3 the scalar unit, 4 the
spill rings, 5 the T2 path, 6 the gallery port. -/
def takenBanks (s : State) (t p : Nat) : Nat :=
  let x := tileOf s t
  let m := mxeBanks x.core
  let m := if 2 < p then m ||| x.usedBy 2 ||| wantedBanks s t 1 m else m
  let m := if 3 < p then m ||| x.usedBy 3 ||| wantedBanks s t 2 m else m
  let m := if 4 < p then m ||| x.usedBy 4 else m
  if 5 < p then m ||| x.usedBy 5 else m

/-- The word `w` of program store `t` (Table 6-1). -/
def progKey (t w : Nat) : Nat := 2 ^ 20 * t + w

/-- A lane reads its instruction, four words of the tile's program store: a word with one wrong bit is corrected, one beyond the word code
is poisoned, and a poisoned one traps the lane (R208, R218; notes/assumptions/90.md). -/
def progRead (s : State) (t pc : Nat) : Got × State :=
  let ks := (List.range 4).map fun j => progKey t (4 * pc + j)
  let multi := ks.filter fun k => mget s.mem.sramBad k == some .multi
  let s := { s with mem.sramBad := mkeep s.mem.sramBad fun k _ => !ks.contains k, mem.sramPoison := multi.foldl addWord s.mem.sramPoison }
  (if ks.any s.mem.sramPoison.contains then .trap ePoison else .val 0, s)

/-- A lane evaluates instruction `w` (R89): it notes what it waits for (R117), or fires `act`, and then takes the tokens and moves on
(R91). A wait for a page of T2 starts the page's rebuild where none is under way (R214). -/
def laneEval (s : State) (t l : Nat) (w : InstrWord) (act : State → InstrWord → Got × State) : State :=
  let x := tileOf s t
  let lane := x.lane l
  match progRead s t lane.pc with
  | (.trap status, s) => trapLane s t l status
  | (.val _, s) =>
    let cs := laneCauses s t l w
    if !cs.isEmpty then
      let r := t2Range x.core w
      let s := if cs.contains 0x7 && l != 4 then startRebuilds s 1 (t2Off t r.1) r.2 else s
      setLane s t l fun y => { y with evaluated := true, waits := cs }
    else
      let needs := t1Needs x.core w
      let taken := takenBanks s t (l + 1)
      let r := serveBanks needs lane.served taken
      let s := useBanks s t (l + 1) r.2
      let bs := bankCauses needs lane.served taken
      if !bs.isEmpty then setLane s t l fun y => { y with evaluated := true, waits := bs, served := r.1 }
      else
        match act s w with
        | (.trap status, s) => trapLane s t l status
        | (.val _, s) => advanceLane (consumeTokens s t w) t l w

/-- A lane evaluates the instruction at its program counter, when it is one that the row is for. -/
def laneRow (s : State) (t l : Nat) (isRow : InstrWord → Bool) (act : State → InstrWord → Got × State) : State :=
  match mget (tileOf s t).cfg.prog ((tileOf s t).lane l).pc with
  | none => s
  | some w => if laneReady s t l && isRow w then laneEval s t l w act else s

/-- A row of one opcode. -/
def opRow (s : State) (t l op : Nat) (act : State → InstrWord → Got × State) : State :=
  laneRow s t l (fun w => opcodeOf w == op) act

/-- An action that cannot trap. -/
def plain (f : State → InstrWord → State) (s : State) (w : InstrWord) : Got × State := (.val 0, f s w)

/-! ### Control opcodes (Table 3-15) -/

/-- NOP (Table 3-6). -/
def execInstrNop (t : TileIx) (l : Lane) (s : State) : Host.Outcome State Fault Refusal :=
  .next <| unfused s (opRow s t (laneIx l) 0x00 (plain fun s _ => s))

/-- What SETLC loads: an immediate or a scalar register. -/
def setlcAct (t : Nat) (s : State) (w : InstrWord) : State :=
  let c := (tileOf s t).core
  let v := if iw w 67 67 = 1 then c.sreg (iw w 72 68) % 2 ^ 32 else iw w 127 96
  setCore s t { c with lc := c.lc.set (iw w 66 64) v }

/-- SETLC. -/
def execSetlc (t : TileIx) (l : Lane) (s : State) : Host.Outcome State Fault Refusal :=
  .next <| unfused s (opRow s t (laneIx l) 0x01 (plain (setlcAct t)))

/-- Sets or clears a local flag. -/
def setFlag (s : State) (t f : Nat) (on : Bool) : State :=
  let c := (tileOf s t).core
  setCore s t { c with flags := BitVec.ofNat 32 (putBits c.flags.toNat f f (b2n on)) }

/-- What SETF and CLRF do. -/
def flagAct (t : Nat) (on : Bool) (s : State) (w : InstrWord) : State := setFlag s t (iw w 68 64) on

/-- SETF. -/
def execSetf (t : TileIx) (l : Lane) (s : State) : Host.Outcome State Fault Refusal :=
  .next <| unfused s (opRow s t (laneIx l) 0x02 (plain (flagAct t true)))

/-- CLRF. -/
def execClrf (t : TileIx) (l : Lane) (s : State) : Host.Outcome State Fault Refusal :=
  .next <| unfused s (opRow s t (laneIx l) 0x03 (plain (flagAct t false)))

/-- JUMP: the program counter becomes BR_TARGET. -/
def execJump (t : TileIx) (l : Lane) (s : State) : Host.Outcome State Fault Refusal :=
  .next <| unfused s (opRow s t (laneIx l) 0x04 (plain fun s _ => s))

/-- HALT: the lane halts. -/
def execHalt (t : TileIx) (l : Lane) (s : State) : Host.Outcome State Fault Refusal :=
  .next <| unfused s (opRow s t (laneIx l) 0x05 (plain fun s _ => s))

/-- What SEND writes: an immediate or a scalar register, a token for the control network. -/
def sendAct (t : Nat) (s : State) (w : InstrWord) : Got × State :=
  let q := iw w 68 64
  let v := if iw w 69 69 = 1 then (tileOf s t).core.sreg (iw w 74 70) % 2 ^ 32 else iw w 127 96
  if netOf q = 2 then
    if 0xF0 ≤ v % 256 then (.trap ePerm, s) else (.val 0, putEntry s t q (v % 256))
  else (.val 0, putEntry s t q v)

/-- SEND; a reserved token value from a register traps the lane (R98). -/
def execSend (t : TileIx) (l : Lane) (s : State) : Host.Outcome State Fault Refusal :=
  .next <| unfused s (opRow s t (laneIx l) 0x06 (sendAct t))

/-- What EOS writes: the end-of-step marker to the control output queues of QMASK. -/
def eosAct (t : Nat) (s : State) (w : InstrWord) : State := (putsOf w).foldl (fun s q => putEntry s t q 0xFF) s

/-- EOS (R87). -/
def execEos (t : TileIx) (l : Lane) (s : State) : Host.Outcome State Fault Refusal :=
  .next <| unfused s (opRow s t (laneIx l) 0x07 (plain (eosAct t)))

/-! ### SYNC (Table 11-6) -/

/-- True where a wait of tile `t` is in force on an object, or its wave has not started. -/
def tileWaits (s : State) (k t : Nat) : Bool :=
  ((mget s.objs k).any fun o => o.waiters.any fun w => w.who == .tile t) || s.waves.any fun w => w.tiles.contains t

/-- Writes the result of TAKE: the item in [31:0] and CUR_GEN in [63:32] (R362). -/
def takeResult (s : State) (t reg item gen : Nat) : State :=
  setCore s t ((tileOf s t).core.setS reg (item % 2 ^ 32 + gen % 2 ^ 32 * 2 ^ 32))

/-- The lane waits for its SYNC, which is its operation in progress. -/
def holdSync (s : State) (t : Nat) (w : InstrWord) : State :=
  setLane s t 2 fun l => { l with syncing := true, op := some { word := w, done := 0, clk := 0 } }

/-- An operation on an object of this module. -/
def syncHere (s : State) (t : Nat) (w : InstrWord) (op n phys : Nat) : Got × State :=
  let hold := iw w 84 84 == 1
  let m := (mget s.objs phys).bind fun o => memberAt o 0 (tileOf s t).rel
  let r := syncOp s phys op n (if hold || op == 0 then .tile t else .firmware) m hold none
  match r.1 with
  | .bad => (.trap ePerm, s)
  | .waits => (.val 0, if tileWaits r.2 phys t then holdSync r.2 t w else r.2)
  | .done v g =>
    let s := if op = 3 then takeResult r.2 t (iw w 95 91) v g else r.2
    (.val 0, if tileWaits s phys t then holdSync s t w else s)

/-- An operation on an object of another module; a lane that waits for it, or for the item of a TAKE, fires nothing
until the answer comes. -/
def syncThere (s : State) (t : Nat) (w : InstrWord) (ctx op n home phys : Nat) : Got × State :=
  let hold := iw w 84 84 == 1 || op == 3
  let s := syncSend s ctx home phys op n t (.tile t) (if hold then .tile t else .firmware)
    (if op = 3 then some (iw w 95 91) else none)
  (.val 0, if hold && (op == 0 || op == 2 || op == 3 || op == 5) then holdSync s t w else s)

/-- The operand n: bits [31:0] of S[VAL_S] or IMM; for COMPLETE the whole of S[VAL_S], item and generation (Table 11-6,
R362). -/
def syncN (c : TileCore) (w : InstrWord) (op : Nat) : Nat :=
  if op = 4 then c.sreg (iw w 90 86)
  else (if iw w 85 85 = 1 then c.sreg (iw w 90 86) else iw w 127 96) % 2 ^ 32

/-- A SYNC instruction: an ID that is not VALID, or of a kind that does not allow the operation, traps (R349). -/
def syncAct (t op : Nat) (s : State) (w : InstrWord) : Got × State :=
  match instOfTile s t with
  | none => (.trap ePerm, s)
  | some (_, i) =>
    match vidOf s i.ctx (iw w 79 64) with
    | none => (.trap ePerm, s)
    | some (phys, home, kind) =>
      if !opFits op kind then (.trap ePerm, s)
      else
        let n := syncN (tileOf s t).core w op
        if home = s.net.index then syncHere s t w op n phys else syncThere s t w i.ctx op n home phys

/-- A SYNC of any operation. Those that only a control core issues are none of a tile's kinds: the lane traps (R349; notes/assumptions/77.md). -/
def anySync (t : Nat) (s : State) (w : InstrWord) : Got × State :=
  if iw w 83 80 ≤ 6 then syncAct t (iw w 83 80) s w else (.trap ePerm, s)

/-- A SYNC row of operation `op`. -/
def syncRow (s : State) (t op : Nat) : State :=
  laneRow s t 2 (fun w => opcodeOf w == 8 && iw w 83 80 == op) (syncAct t op)

/-- SYNC ARRIVE (Table 11-5), and the operations that trap. -/
def execSyncArrive (t : TileIx) (s : State) : Host.Outcome State Fault Refusal :=
  .next <| unfused s (laneRow s t 2 (fun w => opcodeOf w == 8 && (iw w 83 80 == 0 || decide (7 ≤ iw w 83 80)))
    (anySync t))
/-- SYNC ADD. -/
def execSyncAdd (t : TileIx) (s : State) : Host.Outcome State Fault Refusal := .next <| unfused s (syncRow s t 1)
/-- SYNC WAIT. -/
def execSyncWait (t : TileIx) (s : State) : Host.Outcome State Fault Refusal := .next <| unfused s (syncRow s t 2)
/-- SYNC TAKE (R362). -/
def execTake (t : TileIx) (s : State) : Host.Outcome State Fault Refusal := .next <| unfused s (syncRow s t 3)
/-- SYNC COMPLETE (R363). -/
def execComplete (t : TileIx) (s : State) : Host.Outcome State Fault Refusal := .next <| unfused s (syncRow s t 4)
/-- SYNC ACQUIRE (R353). -/
def execAcquire (t : TileIx) (s : State) : Host.Outcome State Fault Refusal := .next <| unfused s (syncRow s t 5)
/-- SYNC POST (R353). -/
def execPost (t : TileIx) (s : State) : Host.Outcome State Fault Refusal := .next <| unfused s (syncRow s t 6)

/-! ### Matrix engine (Table 3-5) -/

/-- Where an operand or a block of partials rests: registers from a byte, T1 from a byte, T2 from a byte. -/
inductive Where where
  | regs (a : Nat)
  | t1 (a : Nat)
  | t2 (a : Nat)
  deriving DecidableEq, Repr

/-- One byte of an operand; register bytes run on from V63 to V0. -/
def readWhere (s : State) (t : Nat) (c : TileCore) : Where → Nat → Byte
  | .regs a, i => c.vbyte ((a + i) % 16384)
  | .t1 a, i => readByte s.mem.t1 (t1Off t (a + i))
  | .t2 a, i => readByte s.mem.t2 (t2Off t (a + i))

/-- What reading `n` bytes of an operand comes to: past the end of T1, or into the configuration reserve, is E_PERM; a
poisoned word E_POISON (R99, Table 6-4; that an operand of the matrix engine past the end of T1 traps is a DESIGN CHOICE,
notes/assumptions/92.md). -/
def checkWhere (s : State) (t n : Nat) : Where → Got × State
  | .regs _ => (.val 0, s)
  | .t1 a =>
    if 2 ^ 19 < a + n then (.trap ePerm, s)
    else
      let s := demand s 0 (t1Off t a) n 1
      (if poisoned s 0 (t1Off t a) n then .trap ePoison else .val 0, s)
  | .t2 a =>
    if reserveOff < a + n then (.trap ePerm, s)
    else
      let s := demand s 1 (t2Off t a) n 1
      (if poisoned s 1 (t2Off t a) n then .trap ePoison else .val 0, s)

/-- True where `n` bytes from a place pass the end of T1. -/
def Where.pastT1 (n : Nat) : Where → Bool
  | .t1 a => decide (2 ^ 19 < a + n)
  | _ => false

/-- Checks a list of operands in order. -/
def checkAll (s : State) (t : Nat) : List (Where × Nat) → Got × State
  | [] => (.val 0, s)
  | (w, n) :: ws =>
    match checkWhere s t n w with
    | (.trap e, s) => (.trap e, s)
    | (.val _, s) => checkAll s t ws

/-- Writes bytes into registers from a byte, or into T1. -/
def writeWhere (s : State) (t : Nat) (w : Where) (bs : Bytes) : Got × State :=
  match w with
  | .regs a => (.val 0, setCore s t (bs.zipIdx.foldl (fun c b => c.setVbyte ((a + b.2) % 16384) b.1) (tileOf s t).core))
  | .t1 a => writeT1 s t a bs
  | .t2 _ => (.val 0, s)

/-- Registers from the first one named, or T1 at an address in 64 B units. -/
def placeOf (regs : Bool) (a : Nat) : Where := if regs then .regs (a % 64 * 256) else .t1 (a % 8192 * 64)

/-- An MXE_OP as the engine takes it: P_SRC is the source of LOAD_PARTIAL alone (Table 3-5). -/
def mxeWord (w : InstrWord) : InstrWord := if iw w 102 101 = 2 then w else setField w 224 224 0

/-- The half of the block that an operation works on (R54). One that has read its partials goes on as a CONTINUE that keeps P_SRC. -/
def halfOf (w : InstrWord) : Option Nat :=
  if mxeHalf w || (iw w 102 101 == 1 && iw w 224 224 == 1) then some (iw w 225 225) else none

/-- The bank that an operation names, and its replacement. -/
def TileCore.bank (c : TileCore) (k : Nat) : Bank := if k = 0 then c.bank0 else c.bank1
def TileCore.setBank (c : TileCore) (k : Nat) (b : Bank) : TileCore :=
  if k = 0 then { c with bank0 := b } else { c with bank1 := b }

/-- Operands of an MXE_OP: A, B, the partials it starts from, the bias. -/
def mxeA (w : InstrWord) : Where := placeOf (iw w 73 72 == 0) (iw w 143 128)
def mxeB (w : InstrWord) : Where :=
  if iw w 75 74 = 0 then .t1 (iw w 156 144 * 64) else .t2 (iw w 160 144 * 64)
def mxePart (w : InstrWord) : Where := placeOf (iw w 224 224 == 1) (iw w 223 208)
def mxeBias (w : InstrWord) : Where := .t1 (iw w 207 192 % 8192 * 64)

/-- The first row of an engine-ready tile that an operation uses (Table 3-5 A_HALF, B_HALF); a 16-bit tile has 32 rows. -/
def halfRow (c h : Nat) : Nat := if c = 9 then 0 else 32 * h

/-- The place `n` bytes on. -/
def Where.shift (n : Nat) : Where → Where
  | .regs a => .regs (a + n)
  | .t1 a => .t1 (a + n)
  | .t2 a => .t2 (a + n)

/-- Sets the operation in progress of lane `l`. -/
def setOp (s : State) (t l : Nat) (o : Option OpSt) : State := setLane s t l fun y => { y with op := o }

/-- Sets an accumulator bank, and ORs flags into the step flag word. -/
def putBank (s : State) (t k : Nat) (r : Bank × Nat) : State := orStep (setCore s t ((tileOf s t).core.setBank k r.1)) t r.2

/-- True where an operation names the bank's format pair (R51). -/
def Bank.fits (b : Bank) (w : InstrWord) : Bool := b.fmtA == iw w 67 64 && b.fmtB == iw w 71 68

/-- The start of an operation (R51): CLEAR empties the bank; CONTINUE with another pair puts it in the NaN state and sets INVALID;
LOAD_PARTIAL acts once the partials have been read. -/
def mxeStart (s : State) (t : Nat) (w : InstrWord) : State :=
  let k := iw w 100 100
  let b := (tileOf s t).core.bank k
  match iw w 102 101 with
  | 0 => putBank s t k (Bank.start (iw w 67 64) (iw w 71 68) (halfOf w) b, 0)
  | 1 => if b.fits w then s else putBank s t k (b.spoil, flInvalid)
  | _ => s

/-- LOAD_PARTIAL: the bank takes the operation's pair and starts from the partials (R51, R67). -/
def mxeLoad (s : State) (t : Nat) (w : InstrWord) : State :=
  let k := iw w 100 100
  let c := (tileOf s t).core
  putBank s t k ((Bank.start (iw w 67 64) (iw w 71 68) (halfOf w) (c.bank k)).load (blockIx (halfOf w)) (readWhere s t c (mxePart w)))

/-- The bytes of A and B that hold the K positions `lo` to `hi − 1`; `lo` starts an engine-ready tile (R94). -/
def mxeTiles (w : InstrWord) (lo hi : Nat) : List (Where × Nat) :=
  [((mxeA w).shift (lo / 64 * (tileBytes (iw w 67 64)).1), operandBytes (iw w 67 64) (hi - lo)),
   ((mxeB w).shift (lo / 64 * (tileBytes (iw w 71 68)).1), operandBytes (iw w 71 68) (hi - lo))]

/-- The products of the K positions `lo` to `hi − 1`: none where the bank's pair is not the operation's (R51, R56 to R62, R70). -/
def mxeAdd (s : State) (t : Nat) (w : InstrWord) (lo hi : Nat) : Got × State :=
  match checkAll s t (mxeTiles w lo hi) with
  | (.trap e, s) => (.trap e, s)
  | (.val _, s) =>
    let s := hwBump s (kMem 0) (if streamsB w then operandBytes (iw w 71 68) (hi - lo) else 0)
    let c := (tileOf s t).core
    let k := iw w 100 100
    let b := c.bank k
    if !b.fits w then (.val 0, s)
    else
      let fa := iw w 67 64
      let fb := iw w 71 68
      let ix := blockIx (halfOf w)
      let overs := ix.any fun i => decide ((b.acc i).count ≤ 2 ^ 24 ∧ 2 ^ 24 < (b.acc i).count + (hi - lo))
      (.val 0, putBank s t k
        (b.overs ix fun i a => accRun (readWhere s t c (mxeA w)) (readWhere s t c (mxeB w)) fa fb
          (halfRow fa (iw w 111 111) + i / 32) (halfRow fb (iw w 127 127) + i % 32) lo hi a, b2n overs * flInvalid))

/-- True for a plain FP8 or FP4 operand, which takes a tensor scale (Table 2-2). -/
def plainScaled (c : Nat) : Bool := c == 1 || c == 2 || c == 7

/-- The out scale with the tensor scales folded in (Table 3-5). -/
def outScale (c : TileCore) (w : InstrWord) : FVal :=
  let t := c.sreg (iw w 121 117)
  let sc := fp32.decode (c.sreg (iw w 116 112) % 2 ^ 32)
  let sc := if plainScaled (iw w 67 64) then sc.mul (fp32.decode (t % 2 ^ 32)) else sc
  if plainScaled (iw w 71 68) then sc.mul (fp32.decode (t / 2 ^ 32)) else sc

/-- FINAL drain: the elements in the out format, row by row, and the block's flags (R63 to R65). -/
def drainFinal (s : State) (t : Nat) (c : TileCore) (w : InstrWord) (b : Bank) : Bytes × Nat :=
  let o := iw w 107 105
  let n := (outFmt o).width / 8
  let bias (i : Nat) : FVal :=
    if iw w 109 109 = 1 then fp32.decode (leNat ((List.range 4).map fun j => readWhere s t c (mxeBias w) (4 * (i % 32) + j)))
    else .fin false 0 0
  let sc := outScale c w
  (blockIx (halfOf w)).foldl (fun r i =>
    let d := drainOne (b.acc i) (b.fmtA == 9) o (iw w 108 108 == 1) sc (bias i)
    (r.1 ++ leBytes n d.1, orFlags r.2 d.2)) ([], 0)

/-- PARTIAL drain: 24 bytes for each element (R66). -/
def drainPartial (w : InstrWord) (b : Bank) : Bytes := (blockIx (halfOf w)).flatMap fun i => partialBytes b (b.acc i)

/-- The flags of a PARTIAL drain's block (R65). -/
def partialFlags (w : InstrWord) (b : Bank) : Nat := (blockIx (halfOf w)).foldl (fun f i => orFlags f ((b.acc i).flags b)) 0

/-- Where a drain writes, and how many bytes: wide partials go to PARTIAL_ADDR, to registers as to T1, whatever P_SRC says (R53, R54, Table
3-5; DEDUCED, notes/assumptions/91.md). -/
def mxeDest (w : InstrWord) : Where × Nat :=
  if iw w 104 103 = 2 then (placeOf (iw w 110 110 == 0) (iw w 223 208), 24 * (blockIx (halfOf w)).length)
  else (placeOf (iw w 110 110 == 0) (iw w 191 176), (blockIx (halfOf w)).length * ((outFmt (iw w 107 105)).width / 8))

/-- The clk that a drain takes (R53, R54). -/
def drainClk (w : InstrWord) : Nat :=
  if iw w 104 103 = 2 then 24 * (blockIx (halfOf w)).length / 256 else (blockIx (halfOf w)).length / 32

/-- The drain of an operation that has reached its K: the results and the flags are written as it starts, and the bank drains for the clk
that it takes (R52, R53, R65; notes/assumptions/83.md). -/
def mxeDrain (s : State) (t : Nat) (w : InstrWord) : Got × State :=
  let c := (tileOf s t).core
  let b := c.bank (iw w 100 100)
  let d := if iw w 104 103 = 2 then (drainPartial w b, partialFlags w b) else drainFinal s t c w b
  let s := orStep s t d.2
  let s := setCore s t { (tileOf s t).core with drain := some { word := w, done := 0, clk := drainClk w } }
  writeWhere s t (mxeDest w).1 d.1

/-- The end of an operation: its last products, then its drain (R53). -/
def mxeEnd (s : State) (t : Nat) (o : OpSt) : Got × State :=
  match mxeAdd s t o.word o.added (mxeK o.word) with
  | (.trap e, s) => (.trap e, s)
  | (.val _, s) =>
    let s := setOp s t 0 none
    if iw o.word 104 103 = 0 then (.val 0, s) else mxeDrain s t o.word

/-- The clk in which the partials of a block, or of a half of one, are read (R53, R54). -/
def loadClk (w : InstrWord) : Nat := if iw w 224 224 = 1 then 48 else 96

/-- MXE_OP: an operand or a destination past the end of T1, or in the configuration reserve, traps the lane (DESIGN CHOICE,
notes/assumptions/92.md), and so does a poisoned word. The bank starts, and the operation is in progress until its K is reached (Table 3-5,
R51). -/
def mxeAct (t : Nat) (s : State) (w : InstrWord) : Got × State :=
  let w := mxeWord w
  let ins := mxeTiles w 0 (mxeK w) ++
    (if iw w 102 101 = 2 then [(mxePart w, 24 * (blockIx (halfOf w)).length)] else []) ++
    (if iw w 104 103 = 1 ∧ iw w 109 109 = 1 then [(mxeBias w, 128)] else [])
  match checkAll s t ins with
  | (.trap e, s) => (.trap e, s)
  | (.val _, s) =>
    if iw w 104 103 ≠ 0 ∧ (mxeDest w).1.pastT1 (mxeDest w).2 = true then (.trap ePerm, s)
    else
      let load := iw w 102 101 == 2
      (.val 0, setOp (mxeStart s t w) t 0 (some { word := if load then w else setField w 102 101 1, done := 0,
                                                  clk := if load then loadClk w else 1 }))

/-- MXE_OP (Table 3-5). -/
def execMxeOp (t : TileIx) (s : State) : Host.Outcome State Fault Refusal := .next <| unfused s (opRow s t 0 0x10 (mxeAct t))

/-- The indices of a block that a MERGE works on (R54). -/
def mergeIx (w : InstrWord) : List Nat := blockIx (if iw w 224 224 = 1 then some (iw w 225 225) else none)

/-- MERGE: its partials are read, and then added (R53). -/
def mergeAct (t : Nat) (s : State) (w : InstrWord) : Got × State :=
  match checkAll s t [(mxePart w, 24 * (mergeIx w).length)] with
  | (.trap e, s) => (.trap e, s)
  | (.val _, s) => (.val 0, setOp s t 0 (some { word := w, done := 0, clk := loadClk w }))

/-- MERGE (R67). -/
def execMerge (t : TileIx) (s : State) : Host.Outcome State Fault Refusal := .next <| unfused s (opRow s t 0 0x11 (mergeAct t))

/-- The end of a MERGE: the partials are added to a bank of the same pair; another pair puts the bank in the NaN state and sets INVALID
(R51, R67). -/
def mergeEnd (s : State) (t : Nat) (w : InstrWord) : State :=
  let k := iw w 100 100
  let c := (tileOf s t).core
  let b := c.bank k
  setOp (putBank s t k (if b.fits w then b.merge (mergeIx w) (readWhere s t c (mxePart w)) else (b.spoil, flInvalid))) t 0 none

/-- The partials of a LOAD_PARTIAL have been read: the operation goes on with its K. -/
def loadEnd (s : State) (t : Nat) (o : OpSt) : State :=
  setOp (mxeLoad s t o.word) t 0 (some { o with word := setField o.word 102 101 1, clk := 0 })

/-- K positions in a clk (R52): two of a 4-bit pair, one of any other. -/
def mxeStep (w : InstrWord) : Nat :=
  let four (c : Nat) : Bool := c == 7 || c == 8
  if four (iw w 67 64) && four (iw w 71 68) then 2 else 1

/-- The clk without a K position after one: every second for BF16 (R52), and one in 33 or in 17 where scales of an MX format come over the
weight stream (R40). -/
def mxeRest (w : InstrWord) (done : Nat) : Nat :=
  let fb := iw w 71 68
  if fb = 9 then 1
  else if streamsB w ∧ (fb = 3 ∨ fb = 4 ∨ (fb = 8 ∧ mxeStep w = 2)) ∧ done % 32 = 0 then 1
  else 0

/-- One clk of the drain. -/
def drainTick (s : State) (t : Nat) : State :=
  let c := (tileOf s t).core
  match c.drain with
  | none => s
  | some d => setCore s t { c with drain := if d.clk ≤ 1 then none else some { d with clk := d.clk - 1 } }

/-- True where the drain and the fetch of the engine need a bank of T1 in the same clk: the drain is served first, since the manual does not
say (DESIGN CHOICE, notes/assumptions/83.md). -/
def mxeClash (c : TileCore) (o : OpSt) : Bool := c.drain.elim 0 drainBanks &&& fetchMask o != 0

/-- One clk of the matrix engine, and what holds its operation back in it, if something does (R41, R52 to R54, R214). -/
def mxeTick (s0 : State) (t : Nat) : State × Option Nat :=
  let c := (tileOf s0 t).core
  let s := drainTick s0 t
  match ((tileOf s0 t).lane 0).op with
  | none => (s, none)
  | some o =>
    let k := mxeK o.word
    let at2 := t2Off t (iw o.word 160 144 * 64 + o.done / 64 * (tileBytes (iw o.word 71 68)).1)
    let need := (tileBytes (iw o.word 71 68)).1
    if mxeClash c o then (s, some 0x5)
    else if 0 < o.clk then (setOp s t 0 (some { o with clk := o.clk - 1 }), none)
    else if opcodeOf o.word = 0x11 then (mergeEnd s t o.word, none)
    else if iw o.word 102 101 = 2 then (loadEnd s t o, none)
    else if o.done < k ∧ streamsB o.word = true ∧ mustWait s 1 at2 need = true then (startRebuilds s 1 at2 need, some 0x7)
    else
      let o := { o with done := min k (o.done + mxeStep o.word), clk := mxeRest o.word (o.done + mxeStep o.word) }
      let s := setOp s t 0 (some o)
      if k ≤ o.done then
        if iw o.word 104 103 ≠ 0 ∧ (tileOf s t).core.drain.isSome = true then (setOp s t 0 (some { o with clk := 0 }), some 0x6)
        else (settleGot t 0 (mxeEnd s t o), none)
      else if o.done % mxeGroup o.word = 0 then (settleGot t 0 (mxeAdd s t o.word (o.done - mxeGroup o.word) o.done), none)
      else (s, none)

/-- True where a unit of a tile may go on with its operation: the tile runs and is not frozen (R124). -/
def unitRuns (s : State) (t : Nat) : Bool := arrayRuns s && !(tileOf s t).frozen

/-- Adds the groups of K positions that are whole before the last one. -/
def mxeAddAll (s : State) (t : Nat) (w : InstrWord) : List Nat → Got × State
  | [] => (.val 0, s)
  | lo :: los =>
    match mxeAdd s t w lo (lo + mxeGroup w) with
    | (.trap e, s) => (.trap e, s)
    | (.val _, s) => mxeAddAll s t w los

/-- The rest of an operation at once. -/
def mxeRunOut (s : State) (t : Nat) (o : OpSt) : Got × State :=
  let g := mxeGroup o.word
  let last := (mxeK o.word - 1) / g * g
  match mxeAddAll s t o.word ((List.range ((last - o.added) / g)).map fun j => o.added + j * g) with
  | (.trap e, s) => (.trap e, s)
  | (.val _, s) => mxeEnd s t { o with done := mxeK o.word }

/-- No drain is in progress. -/
def endDrain (s : State) (t : Nat) : State := setCore s t { (tileOf s t).core with drain := none }

/-- MXE_OP_COMPLETE: the engine has ended its operation and its drain, and takes the next (R52, R53). -/
def execMxeOpComplete (t : TileIx) (s : State) : Host.Outcome State Fault Refusal :=
  .next <| unfused s <| if !unitRuns s t then s
    else match ((tileOf s t).lane 0).op with
      | none => if (tileOf s t).core.drain.isSome then endDrain s t else s
      | some o =>
        if opcodeOf o.word = 0x11 then mergeEnd (endDrain s t) t o.word
        else
          let s := if iw o.word 102 101 = 2 then mxeLoad (endDrain s t) t o.word else endDrain s t
          endDrain (settleGot t 0 (mxeRunOut s t { o with word := setField o.word 102 101 1 })) t

/-! ### Vector and scalar units (Tables 3-16 to 3-18) -/

/-- A vector operation: operands in the order A, B, C, then the result (R592, R590); the unit is busy for the clk that its function takes
(Table 2-11). The two block scales of MXQ are written to SRC_C as a whole operand of 256 bytes, the others zero (DESIGN CHOICE,
notes/assumptions/93.md). -/
def vopAct (t : Nat) (s : State) (w : InstrWord) : Got × State :=
  let fn := iw w 71 64
  let fs := iw w 75 72
  let ii := iw w 86 85
  let ix := iw w 84 80
  let imm := iw w 223 192
  let bc := broadcastImm fn fs ii imm
  match readRef s t (iw w 111 96) ix 0 with
  | (.trap e, s) => (.trap e, s)
  | (.val a, s) =>
    match readRef s t (iw w 127 112) ix bc.1 with
    | (.trap e, s) => (.trap e, s)
    | (.val b, s) =>
      match (if fn = 0x29 then (Got.val 0, s) else readRef s t (iw w 143 128) ix 0) with
      | (.trap e, s) => (.trap e, s)
      | (.val c, s) =>
        let r := vopRun { fn := fn, fs := fs, fd := iw w 79 76, iw := ii, a := a, b := b,
                          c := if fn = 0x41 then imm else c }
        let fl := if (vReads fn).2.1 ∧ iw w 127 126 = 3 then orFlags r.2.2 bc.2 else r.2.2
        match writeRef (orStep s t fl) t (iw w 159 144) ix r.1 with
        | (.trap e, s) => (.trap e, s)
        | (.val _, s) =>
          let s := setLane s t 1 fun l => { l with busy := vClk fn fs (iw w 79 76) }
          match r.2.1 with
          | some scales => writeRef s t (iw w 143 128) ix scales
          | none => (.val 0, s)

/-- VOP (Table 3-16). -/
def execVop (t : TileIx) (s : State) : Host.Outcome State Fault Refusal := .next <| unfused s (opRow s t 1 0x20 (vopAct t))

/-- SRC_B of a SOP: IMM, a register or a queue entry, which is taken whether or not the function reads it (R91). -/
def sopB (s : State) (t : Nat) (w : InstrWord) : Got × State :=
  if iw w 97 90 = 0xFF then (.val (iw w 191 128), s) else readS s t (iw w 97 90)

/-- A scalar operation. LOAD and STORE move 8 B at a multiple of 8; any other address traps (Table 3-18, R593). -/
def sopAct (t : Nat) (s : State) (w : InstrWord) : Got × State :=
  let fn := iw w 71 64
  match readS s t (iw w 89 82) with
  | (.trap e, s) => (.trap e, s)
  | (.val a, s) =>
    match sopB s t w with
    | (.trap e, s) => (.trap e, s)
    | (.val b, s) =>
      if fn = 0x20 then
        if a % 8 ≠ 0 then (.trap ePerm, s)
        else match readT1 s t a 8 with
          | (.trap e, s) => (.trap e, s)
          | (.val v, s) => (.val 0, writeS s t (iw w 81 74) v)
      else if fn = 0x21 then if a % 8 ≠ 0 then (.trap ePerm, s) else writeT1 s t a (leBytes 8 b)
      else
        let r := sopRun fn (iw w 73 72) a b
        (.val 0, writeS (orStep s t r.2) t (iw w 81 74) r.1)

/-- SOP (Table 3-18). -/
def execSop (t : TileIx) (s : State) : Host.Outcome State Fault Refusal := .next <| unfused s (opRow s t 2 0x30 (sopAct t))

/-! ### The KV write path (R265) -/

/-- Element codes of KV_FMT as they are stored: NaN as +0 in every format (R265, R589). -/
def kvStored (fmt : Nat) (b : Bytes) : Bytes :=
  let f := fmtOf fmt
  let w := if fmt = 9 then 2 else 1
  ((List.range (b.length / w)).flatMap fun i => leBytes w (kvConvert f (f.decode (fld b (w * i) w))).1) ++ b.drop (b.length / w * w)

/-- NaN codes among elements of KV_FMT. -/
def kvNans (fmt : Nat) (b : Bytes) : Nat :=
  let w := if fmt = 9 then 2 else 1
  ((List.range (b.length / w)).filter fun i => ((fmtOf fmt).decode (fld b (w * i) w)).isNan).length

/-- Tile `t` has written `n` bytes: where they lie in a pool of its instance's cache they are keys and values, each NaN is stored as +0, sets
INVALID in the tile's step flag word, and counts (R265, R590; DEDUCED, notes/assumptions/42.md). -/
def kvLand (s : State) (t tier off n : Nat) : State :=
  match (instOfTile s t).bind fun i => mget s.groups (groupKey i.2.ctx i.2.group) with
  | none => s
  | some g =>
    if g.kv.isEmpty || !(objAt s s.net.index tier off).any fun e => g.pools.any fun p => p.2 == e.1 then s
    else
      let b := readTier s tier off n
      let bad := kvNans (kvLay g.kv).fmt b
      if bad = 0 then s
      else orStep (fwBump (storeTier s tier off (kvStored (kvLay g.kv).fmt b)) (kKv 9) bad) t flInvalid

/-! ### T2 path (Table 3-19) -/

/-- The local end of a T2 path move. -/
def localAt (c : TileCore) (w : InstrWord) : Where :=
  let r := iw w 111 96
  if r / 2 ^ 14 = 0 then .regs (r % 64 * 256) else .t1 (refT1 c r (iw w 86 82))

/-- A T2 path move with its two addresses resolved. -/
def t2Resolve (c : TileCore) (w : InstrWord) : InstrWord :=
  let w1 := setField (setField w 80 64 (t2At c w / 64)) 81 81 0
  if iw w 111 110 = 1 then setField (setField w1 109 109 0) 108 96 (refT1 c (iw w 111 96) (iw w 86 82) / 64) else w1

/-- Moves units `lo` to `hi − 1` of a T2 path move, between the slice and the local end; a poisoned word traps (R99, Table 6-4). -/
def t2Copy (s : State) (t : Nat) (w : InstrWord) (lo hi : Nat) : Got × State :=
  let c := (tileOf s t).core
  let n := 64 * (hi - lo)
  let a := t2Off t (t2At c w + 64 * lo)
  let loc := (localAt c w).shift (64 * lo)
  if opcodeOf w = 0x40 then
    let s := hwBump (demand s 1 a n 1) (kMem 1) n
    if poisoned s 1 a n then (.trap ePoison, s) else writeWhere s t loc (readTier s 1 a n)
  else
    match checkWhere s t n loc with
    | (.trap e, s) => (.trap e, s)
    | (.val _, s) =>
      let s := hwBump (storeTier s 1 a ((List.range n).map (readWhere s t c loc))) (kMem 2) n
      (.val 0, (List.range (hi - lo)).foldl (fun s i => kvLand s t 1 (a + 64 * i) 64) s)

/-- T2_READ and T2_WRITE: a range that reaches the configuration reserve, or passes the end of T1, traps (R99), and so does a poisoned word
that is there at the start. The path is then busy until the move completes (R97). -/
def t2Act (t : Nat) (s : State) (w : InstrWord) : Got × State :=
  let c := (tileOf s t).core
  let n := 64 * iw w 127 112
  let a := t2At c w
  if reserveOff < a + n ∨ (localAt c w).pastT1 n = true then (.trap ePerm, s)
  else
    match (if opcodeOf w = 0x40 then checkWhere s t n (.t2 a) else checkWhere s t n (localAt c w)) with
    | (.trap e, s) => (.trap e, s)
    | (.val _, s) => (.val 0, setOp s t 3 (some { word := t2Resolve c w, done := 0, clk := 1 }))

/-- T2_READ: slice to T1 or registers. -/
def execT2Read (t : TileIx) (s : State) : Host.Outcome State Fault Refusal := .next <| unfused s (opRow s t 3 0x40 (t2Act t))

/-- T2_WRITE: T1 or registers to the slice. -/
def execT2Write (t : TileIx) (s : State) : Host.Outcome State Fault Refusal := .next <| unfused s (opRow s t 3 0x41 (t2Act t))

/-- The end of a T2 path move: the path is free, and FLAG is set when F_EN asks for it (Table 3-19). -/
def t2End (s : State) (t : Nat) (w : InstrWord) : State :=
  let s := setOp s t 3 none
  if iw w 133 133 = 1 then setFlag s t (iw w 132 128) true else s

/-- What is left of a T2 path move, and its end. -/
def t2Rest (s : State) (t : Nat) (o : OpSt) : State :=
  match t2Copy s t o.word o.moved (iw o.word 127 112) with
  | (.trap e, s) => trapLane s t 3 e
  | (.val _, s) => t2End s t o.word

/-- One clk of the T2 path, 32 bytes of its move, and what holds it back (R38, R95, R97, R214). -/
def t2Tick (s : State) (t : Nat) : State × Option Nat :=
  let x := tileOf s t
  match (x.lane 3).op with
  | none => (s, none)
  | some o =>
    let a := t2Off t (t2At x.core o.word + 32 * o.done)
    let m := match localAt x.core o.word with
      | .t1 b => bankMask (b + 32 * o.done) 32
      | _ => 0
    if 0 < o.clk then (setOp s t 3 (some { o with clk := o.clk - 1 }), none)
    else if streaming x then (s, none)
    else if mustWait s 1 a 32 then (startRebuilds s 1 a 32, some 0x7)
    else if takenBanks s t 5 &&& m ≠ 0 then (s, some 0x5)
    else
      let n := { o with done := o.done + 1 }
      let s := useBanks s t 5 m
      if 2 * iw o.word 127 112 ≤ n.done then (t2Rest s t o, none)
      else if o.moved < n.moved then (settleGot t 3 (t2Copy (setOp s t 3 (some n)) t o.word o.moved n.moved), none)
      else (setOp s t 3 (some n), none)

/-- T2_MOVE_COMPLETE: the move in progress has ended. -/
def execT2MoveComplete (t : TileIx) (s : State) : Host.Outcome State Fault Refusal :=
  .next <| unfused s <| match ((tileOf s t).lane 3).op with
    | none => s
    | some o => if unitRuns s t then t2Rest s t o else s

/-! ### Gallery port (Table 3-19, R196) -/

/-- True where `n` bytes at a global address lie in tiles of an instance's region, T2 outside the configuration
reserve (R99). -/
def inRegion (s : State) (i : Inst) (g n : Nat) : Bool :=
  let off := gaOff g
  let size := if gaTier g = 0 then 2 ^ 19 else 2 ^ 23
  gaModule g == s.net.index && decide (gaTier g ≤ 1) &&
    ((List.range ((off + n - 1) / size + 1 - off / size)).all fun j => (instTiles i).contains (off / size + j)) &&
    (gaTier g == 0 || (off / size == (off + n - 1) / size && outsideReserve off n))

/-- The bound object whose home holds every one of `n` bytes at a global address (R99). -/
def inBound (s : State) (i : Inst) (g n : Nat) : Option (Nat × DirEntry) :=
  (objAt s (gaModule g) (gaTier g) (gaOff g)).filter fun e =>
    i.bound.contains e.1 && (homeByte e.2 (gaOff g)).any fun b => homeByte e.2 (gaOff g + n - 1) == some (b + n - 1)

/-- Resolves the address of a transfer of kind ADDRESS. -/
def withAddress (c : TileCore) (w : InstrWord) : InstrWord :=
  setField w 255 192 (c.sreg (iw w 77 73))

/-- The offset, in its tier, of the local end of a transfer. -/
def galLocal (t : Nat) (w : InstrWord) : Nat × Nat :=
  if iw w 78 78 = 1 then (1, t2Off t (iw w 95 79 * 64)) else (0, t1Off t (iw w 91 79 * 64))

/-- True where `n` bytes of the local end lie in T1, or in T2 outside the reserve. The manual's list of traps has T2 path moves there and
not this end: the lane traps all the same (R99; DESIGN CHOICE, notes/assumptions/92.md). -/
def galLocalOk (w : InstrWord) (n : Nat) : Bool :=
  if iw w 78 78 = 1 then decide (iw w 95 79 * 64 + n ≤ reserveOff) else decide (iw w 91 79 * 64 + n ≤ 2 ^ 19)

/-- Sends the READ or WRITE messages of a transfer with a home on another module, 1 MiB each. -/
def galRemote (s : State) (t ctx : Nat) (w : InstrWord) (obj : Nat) (e : DirEntry) : State :=
  let n := iw w 127 96
  let b := (homeByte e (gaOff (opAddress w))).getD 0
  let src := galLocal t w
  (List.range (ceilDiv n 1048576)).foldl (fun s i =>
    let len := min 1048576 (n - i * 1048576)
    let tg := handleTarget obj (b + i * 1048576) len e.epoch
    if opcodeOf w = 0x50 then newMsg s 2 e.modIx ctx (.tile t) tg (handleTarget 0 (i * 1048576) len 0)
    else newMsg s 1 e.modIx ctx (.tile t) tg (readTier s src.1 (src.2 + i * 1048576) len)) s

/-- Starts a gallery transfer: an address outside the region and the bound objects traps (R99), and so do poisoned words that it would take
from this tile to another module (Table 6-4). -/
def galAct (t : Nat) (s : State) (w : InstrWord) : Got × State :=
  let n := iw w 127 96
  let start (w : InstrWord) (s : State) : Got × State := (.val 0, setOp s t 4 (some { word := w, done := 0, clk := 1 }))
  if iw w 65 64 = 0 then start w s
  else match instOfTile s t with
    | none => (.trap ePerm, s)
    | some (_, i) =>
      let w := withAddress (tileOf s t).core w
      let g := opAddress w
      if !galLocalOk w n then (.trap ePerm, s)
      else if inRegion s i g n then start w s
      else match inBound s i g n with
        | none => (.trap ePerm, s)
        | some (obj, e) =>
          if e.modIx = s.net.index then start w s
          else
            let src := galLocal t w
            let s := if opcodeOf w = 0x51 then demand (countTier s src.1 src.2 n false) src.1 src.2 n 1 else s
            if opcodeOf w = 0x51 ∧ poisoned s src.1 src.2 n = true then (.trap ePoison, s) else start w (galRemote s t i.ctx w obj e)

/-- GAL_GET. -/
def execGalGet (t : TileIx) (s : State) : Host.Outcome State Fault Refusal := .next <| unfused s (opRow s t 4 0x50 (galAct t))

/-- GAL_PUT. -/
def execGalPut (t : TileIx) (s : State) : Host.Outcome State Fault Refusal := .next <| unfused s (opRow s t 4 0x51 (galAct t))

/-- The key of the gallery beats of a transfer's end port (Table 5-10). -/
def kBeats (t : Nat) (w : InstrWord) : Nat := kMem (51 + 2 * (t / 64) + iw w 72 72)

/-- The operation of the gallery port ends and its flag is set. -/
def galEnd (s : State) (t : Nat) (w : InstrWord) (bytes : Nat) : State :=
  hwBump (setFlag (setLane s t 4 fun l => { l with op := none }) t (iw w 132 128) true) (kBeats t w) (ceilDiv bytes 64)

/-- A transfer of kind STREAM, of an instance: GET ends when the next unit has landed, and gives the slot of the unit before free; PUT hands
the unit at LOCAL over to a move engine, or sends it on its way when the sender holds the credits for its rows (R196, R303). -/
def galStreamDone (s : State) (t : Nat) (w : InstrWord) : State :=
  let k := streamKey t w
  match mget s.streams k with
  | none => s
  | some st =>
    if opcodeOf w = 0x50 then
      if st.landed ≤ st.taken then s
      else
        let off := slotAt st st.taken
        let s := { s with streams := mset s.streams k (Stream.dueFrom { st with taken := st.taken + 1 } s.clks) }
        let s := if st.taken = 0 then s else freeUnit s k st (st.taken - 1)
        let s := demand (countTier s (b2n st.inT2) off st.unitBytes false) (b2n st.inT2) off st.unitBytes 1
        if poisoned s (b2n st.inT2) off st.unitBytes then trapLane s t 4 ePoison else galEnd s t w 0
    else
      let src := galLocal t w
      if !galLocalOk w st.unitBytes then trapLane s t 4 ePerm
      else
        let x := takeTier s src.1 src.2 st.unitBytes
        let count (s : State) : State := countTier s src.1 src.2 st.unitBytes false
        if !x.2.1.isEmpty then trapLane (count x.2.2) t 4 ePoison
        else match st.feeds with
          | none => galEnd { count x.2.2 with streams := mset x.2.2.streams k { st with out := st.out ++ [x.1] } } t w st.unitBytes
          | some dst =>
            match exchangePut x.2.2 t k st dst x.1 with
            | none => x.2.2
            | some (.trap e, s) => trapLane (count s) t 4 e
            | some (.val _, s) => galEnd (count s) t w st.unitBytes

/-- A transfer of kind ADDRESS within the module. Poison travels with what a GET lands, and traps the lane (R219, Table 6-4). -/
def galAddressDone (s : State) (t : Nat) (w : InstrWord) : State :=
  let n := iw w 127 96
  let far := (gaTier (opAddress w), gaOff (opAddress w))
  let near := galLocal t w
  let a := if opcodeOf w = 0x50 then far else near
  let b := if opcodeOf w = 0x50 then near else far
  let s := demand (countTier s a.1 a.2 n false) a.1 a.2 n 1
  let bad := poisoned s a.1 a.2 n
  if bad && opcodeOf w == 0x51 then trapLane s t 4 ePoison
  else
    let s := countTier (copyTier s a b n) b.1 b.2 n true
    if bad then trapLane s t 4 ePoison else galEnd (if opcodeOf w = 0x51 then kvLand s t b.1 b.2 n else s) t w n

/-- True where a transfer of kind ADDRESS still waits: its object moves, a page or a repair holds its bytes (R181, R214, R234). -/
def galHeld (s : State) (w : InstrWord) : Bool :=
  let g := opAddress w
  (objAt s (gaModule g) (gaTier g) (gaOff g)).any (fun e => moveHolds s e.1 (opcodeOf w == 0x51)) || mustWait s (gaTier g) (gaOff g) (iw w 127 96)

/-- The object and the range of it that a PUT of kind ADDRESS within the module writes. -/
def putRange (s : State) (w : InstrWord) : Option (Nat × DirEntry × Nat) :=
  let g := opAddress w
  if opcodeOf w ≠ 0x51 then none
  else (objAt s (gaModule g) (gaTier g) (gaOff g)).bind fun e => (homeByte e.2 (gaOff g)).map fun b => (e.1, e.2, b)

/-- A transfer of kind ADDRESS within the module that nothing else holds up: a PUT waits until no partner holds the lines (R425). -/
def galAddressGo (s : State) (t : Nat) (w : InstrWord) : State :=
  match putRange s w with
  | some (o, e, b) =>
    if writeHeld s o e b (iw w 127 96) then askLines s o e b (iw w 127 96) else galAddressDone (usedLines s o b (iw w 127 96)) t w
  | none => galAddressDone s t w

/-- GALLERY_TRANSFER_DONE: the transfer of a tile's gallery port has landed, or has left (Table 3-19); one with a home
on another module ends when its messages have been answered. -/
def execGalleryTransferDone (t : TileIx) (s : State) : Host.Outcome State Fault Refusal :=
  .next <| unfused s <| match ((tileOf s t).lane 4).op with
    | none => s
    | some o =>
      let w := o.word
      if !unitRuns s t then s
      else if iw w 65 64 = 0 then galStreamDone s t w
      else if gaModule (opAddress w) = s.net.index then
        if galHeld s w then startRebuilds s (gaTier (opAddress w)) (gaOff (opAddress w)) (iw w 127 96) else galAddressGo s t w
      else if opcodeOf w = 0x50 && s.net.msgs.any fun m => m.2.ty == 2 && m.2.why == .tile t then s
      else
        let src := galLocal t w
        if opcodeOf w = 0x50 ∧ poisoned s src.1 src.2 (iw w 127 96) = true then trapLane s t 4 ePoison else galEnd s t w (iw w 127 96)

/-- The bytes of the local end of a transfer that cross T1. -/
def galBytes (s : State) (t : Nat) (w : InstrWord) : Nat :=
  if iw w 78 78 = 1 then 0
  else if iw w 65 64 = 1 then iw w 127 96
  else if opcodeOf w = 0x51 then (mget s.streams (streamKey t w)).elim 0 (·.unitBytes)
  else 0

/-- One clk of the gallery port at T1: a beat of 64 bytes, and what holds it back (R38). The transfer lands, or leaves, at
GALLERY_TRANSFER_DONE (notes/assumptions/83.md). -/
def galTick (s : State) (t : Nat) : State × Option Nat :=
  match ((tileOf s t).lane 4).op with
  | none => (s, none)
  | some o =>
    let m := bankMask (iw o.word 91 79 * 64 + 64 * o.done) 64
    if 0 < o.clk then (setOp s t 4 (some { o with clk := o.clk - 1 }), none)
    else if galBytes s t o.word ≤ 64 * o.done then (s, none)
    else if takenBanks s t 6 &&& m ≠ 0 then (s, some 0x5)
    else (useBanks (setOp s t 4 (some { o with done := o.done + 1 })) t 6 m, none)

/-! ### Spill rings (R104) -/

/-- The clk that a ring entry takes to come back (R104). -/
def returnClk : Nat := 4

/-- The banks of slot `i` of a ring: the slot's, and that of the sideband of a vector slot (Table 3-7, R103). -/
def slotBanks (v : Queue) (q i : Nat) : Nat :=
  bankMask (v.ringBase + slotBytes q * i) (slotBytes q) |||
    (if netOf q = 1 then bankMask (v.ringBase + 64 * v.ringSize + i) 1 else 0)

/-- The lane that takes entries from input queue `q` (R92). -/
def takerOf (x : TileSt) (q : Nat) : Nat :=
  ((List.range 5).find? fun l =>
    let g := x.cfg.segs.getD l (0, 0)
    (List.range g.2).any fun j => (takesOf (mgetD x.cfg.prog (g.1 + j) 0)).contains q).getD 1

/-- The oldest ring entry of queue `q` starts back when a hardware entry became free in the clk before, beyond those reserved for returns,
one in a clk, and T1 serves the read (R38, R103, R104). A poisoned word travels with a vector entry, and traps the lane that takes it; a
poisoned slot of a scalar or a control ring traps the lane that takes from the queue (R219, Table 6-4). -/
def startReturn (s : State) (t q : Nat) : State :=
  let x := tileOf s t
  let v := x.core.queue q
  let m := slotBanks v q v.ringHead
  if unitRuns s t && v.owed && decide (0 < v.ringCnt) && (v.returns.all fun r => r.2 != returnClk) &&
      (takenBanks s t 4 ||| x.usedBy 4) &&& m == 0 then
    let a := t1Off t (v.ringBase + slotBytes q * v.ringHead)
    let s := demand (useBanks s t 4 m) 0 a (slotBytes q) 1
    let e := readSlot s t q v v.ringHead
    let v := { v with ringHead := (v.ringHead + 1) % v.ringSize, ringCnt := v.ringCnt - 1,
                      returns := v.returns ++ [(e, returnClk)], owed := false }
    let bad := netOf q != 1 && poisoned s 0 a (slotBytes q)
    let x := (tileOf s t).touch
    let s := setTile s t { x with core := x.core.setQueue q v }
    if bad then trapLane s t (takerOf x q) ePoison else s
  else s

/-- SPILL_RETURN: a return of queue `q` starts (R104). Neither its start nor its landing counts as fabric progress: no entry moves through a
queue (R110; DESIGN CHOICE, notes/assumptions/94.md). -/
def execSpillReturn (t : TileIx) (q : Fin 24) (s : State) : Host.Outcome State Fault Refusal :=
  .next <| unfused s (startReturn s t q)

/-! ### Every instruction, for a clk in which no command names it -/

/-- What instruction `w` does on firing in tile `t` (Table 3-6). -/
def actOf (t : Nat) (w : InstrWord) : State → InstrWord → Got × State :=
  match opcodeOf w with
  | 0x01 => plain (setlcAct t)
  | 0x02 => plain (flagAct t true)
  | 0x03 => plain (flagAct t false)
  | 0x06 => sendAct t
  | 0x07 => plain (eosAct t)
  | 0x08 => anySync t
  | 0x10 => mxeAct t
  | 0x11 => mergeAct t
  | 0x20 => vopAct t
  | 0x30 => sopAct t
  | 0x40 | 0x41 => t2Act t
  | 0x50 | 0x51 => galAct t
  | _ => plain fun s _ => s

/-- The lanes that an opcode may stand in (Table 3-6). -/
def opLane (op l : Nat) : Bool :=
  decide (op ≤ 7) || (op == 8 && l == 2) || ((op == 0x10 || op == 0x11) && l == 0) || (op == 0x20 && l == 1) ||
    (op == 0x30 && l == 2) || ((op == 0x40 || op == 0x41) && l == 3) || ((op == 0x50 || op == 0x51) && l == 4)

/-- Lane `l` of a tile evaluates its instruction, whatever it is, if it has not yet done so in this clk (R89). -/
def runLane (t : Nat) (s : State) (l : Nat) : State := laneRow s t l (fun w => opLane (opcodeOf w) l) fun s w => actOf t w s w

end Sys2Proof.Machine
end

