-- ==== Sys2Proof/Machine/Fetch.lean ====
section
/-!
DEFINITION. Move engines: fetch descriptors, their issue and the landing of their units (05 R175, R178, R187, R193 to
R198, Tables 5-8 and 5-10; 03 R114, R116).
-/
namespace Sys2Proof.Machine

/-- The queue of a move engine. -/
def engineQ (s : State) (e : Nat) : List Fetch := mgetD s.movers e []

/-- Sets the queue of a move engine; one whose descriptors have all completed is empty. -/
def setEngine (s : State) (e : Nat) (q : List Fetch) : State :=
  { s with movers := mset s.movers e (if q.all (·.done) then [] else q) }

/-- Changes descriptor `i` of an engine's queue. -/
def onFetch (s : State) (e i : Nat) (f : Fetch → Fetch) : State := setEngine s e ((engineQ s e).modify i f)

/-- The key of the stream that a descriptor feeds, at an end port of its tile's row (R195). -/
def Fetch.key (f : Fetch) : Nat := 128 * (f.tile / 64) + 64 * b2n f.east + f.stream

/-- Units of a descriptor. -/
def Fetch.units (f : Fetch) (st : Stream) : Nat := f.length / max 1 st.unitBytes

/-- True where the sync object of DEP has reached its value (R193): a counter's value, a barrier's generation. -/
def depReached (s : State) (phys n : Nat) : Bool :=
  (mget s.objs phys).any fun o => if o.kind = 0 then reached o.value n else o.released n

/-- True where the tile buffer has room for a whole descriptor (R193, R196). -/
def roomFor (st : Stream) (f : Fetch) : Bool :=
  f.kind == 2 || decide (st.given + f.units st ≤ st.slots + (st.taken - 1))

/-- The consumer of a fetch that cannot be served traps as a tile lane (R541, Table 17-9). -/
def fetchLost (s : State) (e i status : Nat) : State :=
  match (engineQ s e)[i]? with
  | none => s
  | some f => trapLane (onFetch s e i ({ · with done := true })) f.tile 4 status

/-- What the home answers to an access of `n` bytes by context `ctx` (R178, R541). -/
def accessStatus (s : State) (ctx obj off n : Nat) : Nat :=
  match dirGet s obj with
  | none => ePerm
  | some e =>
    if e.ctx ≠ ctx ∨ e.size < off + n then ePerm
    else if e.absent then eUnreachable
    else moduleStatus s e.modIx

/-- The tile buffer of unit `i` of a descriptor: tier and offset. -/
def unitSlot (f : Fetch) (st : Stream) (i : Nat) : Nat × Nat :=
  let a := st.base + ((f.bufAddr - st.base) / max 1 st.unitBytes + i) % max 1 st.slots * st.unitBytes
  if f.dstT2 then (1, t2Off f.tile a) else (0, t1Off f.tile a)

/-- Sends the READ messages of a fetch for its bytes from `at_` on, whose home another module holds, 1 MiB each, with the descriptor's epoch
(R175, R198). -/
def fetchRemote (s : State) (e i : Nat) (f : Fetch) (d : DirEntry) (at_ : Nat) : State :=
  let n := f.length - at_
  let s := onFetch s e i ({ · with far := some d.modIx })
  (List.range (ceilDiv n 1048576)).foldl (fun s j =>
    let off := at_ + j * 1048576
    let len := min 1048576 (n - j * 1048576)
    newMsg s 2 d.modIx f.ctx (.fetch e i) (handleTarget f.obj (f.offset + off) len f.epoch) (handleTarget 0 off len 0)) s

/-- True where messages of a descriptor are outstanding. -/
def fetchOut (s : State) (e i : Nat) : Bool := s.net.msgs.any fun m => m.2.why == .fetch e i

/-- True where an earlier access of an engine to some of `n` bytes of an object has not taken effect yet, and one of the two writes: the
accesses of descriptor `i` go behind it (R202). -/
def fetchBehind (s : State) (e i : Nat) (f : Fetch) (off n : Nat) : Bool :=
  ((engineQ s e).take i).zipIdx.any fun x =>
    x.1.obj == f.obj && (x.1.kind == 2 || f.kind == 2) && decide (x.1.offset < off + n ∧ off < x.1.offset + x.1.length) &&
      (!x.1.done || fetchOut s e x.2)

/-- Issues descriptor `i` (R193): the accesses it cannot make trap its consumer. -/
def issueFetch (s : State) (e i : Nat) (f : Fetch) (st : Stream) : State :=
  let n := if f.kind = 2 then 0 else f.units st
  let s := { s with streams := mset s.streams f.key { st with given := st.given + n } }
  let s := onFetch s e i fun x => { x with issued := true, first := st.given }
  let status := accessStatus s f.ctx f.obj f.offset f.length
  if status ≠ stOk then fetchLost s e i status
  else match dirGet s f.obj with
    | none => s
    | some d =>
      if d.modIx = s.net.index then s
      else if f.kind = 2 then onFetch s e i ({ · with far := some d.modIx })
      else if fetchBehind s e i f f.offset f.length then s
      else fetchRemote s e i f d 0

/-- Asks another module's sync engine for the value of DEP. -/
def askDep (s : State) (e i : Nat) (f : Fetch) (home phys n : Nat) : State :=
  if f.asked then s
  else syncSend (onFetch s e i ({ · with asked := true })) f.ctx home phys 2 n 0xFFFF .firmware (.fetch e i) none

/-- FETCH_ISSUE: the first descriptor of the queue that has not issued issues when R193 lets it; a stream must be open
(R195). -/
def execFetchIssue (engine : Fin 16) (s : State) : Host.Outcome State Fault Refusal :=
  let e := engine.val
  let q := engineQ s e
  .next <| unfused s <| match q.findIdx? fun f => !f.issued && !f.done with
    | none => s
    | some i =>
      match q[i]? with
      | none => s
      | some f =>
        match mget s.streams f.key with
        | none => s
        | some st =>
          let early := q.take i
          if s.ps.state = 2 ∨ s.pw.coolantStop = true ∨ (f.fence = true ∧ early.any (!·.done) = true) ∨
              !roomFor st f ∨ 64 ≤ (q.filter fun x => x.issued && !x.done).length then s
          else match f.dep with
            | none => issueFetch s e i f st
            | some (vid, n) =>
              match vidOf s f.ctx vid with
              | none => s
              | some (phys, home, _) =>
                if home ≠ s.net.index then askDep s e i f home phys n
                else if depReached s phys n then issueFetch s e i f st
                else s

/-- A unit that lands after its stream's deadline has missed it; before the first unit the consumer has nothing that could run dry (R114,
R195, Table 5-10). -/
def missed (s : State) (st : Stream) : Bool := st.rate != 0 && decide (0 < st.landed ∧ st.due < s.clks)

/-- A unit of a descriptor is counted, and the descriptor is done with its last. -/
def unitDone (s : State) (e i : Nat) (f : Fetch) (st : Stream) : State :=
  let s := hwBump s (kMem (51 + 2 * (f.tile / 64) + b2n f.east)) (ceilDiv st.unitBytes 64)
  onFetch s e i fun x => { x with landed := x.landed + 1, done := x.landed + 1 == f.units st }

/-- The next unit of a FETCH or STITCH is in its tile buffer: in stream order it becomes usable (R196). -/
def unitLanded (s : State) (e i : Nat) (f : Fetch) (st : Stream) : State :=
  let s := hwBump s (kMem (115 + 2 * (f.tile / 64) + b2n f.east)) (b2n (missed s st))
  let s := { s with streams := mset s.streams f.key ((landUnit st (f.first + f.landed)).dueFrom s.clks) }
  unitDone s e i f st

/-- The next unit of a FETCH or STITCH lands in its tile buffer from a home of this module, poison with it (R219). -/
def landFetch (s : State) (e i : Nat) (f : Fetch) (st : Stream) (d : DirEntry) : State :=
  let u := st.unitBytes
  let b := f.offset + f.landed * u
  let dst := unitSlot f st f.landed
  let x := takeObj (countObj s d b u false) d b u
  unitLanded (carryPoison (storeTier (countTier x.2.2 dst.1 dst.2 u true) dst.1 dst.2 x.1) dst.1 dst.2 x.2.1) e i f st

/-- The next unit of a STORE goes to its home: one that a GAL_PUT of its tile has handed over, which holds no poison (Table 6-4). While
there is none, the STORE waits for it. -/
def landStore (s : State) (e i : Nat) (f : Fetch) (st : Stream) (d : DirEntry) : State :=
  let u := st.unitBytes
  let b := f.offset + f.landed * u
  match st.out with
  | [] => s
  | x :: xs =>
    let s := { s with streams := mset s.streams f.key { st with out := xs } }
    let s := if d.modIx = s.net.index then kvLand (objWrite (countObj s d b u true) d b x) f.tile d.tier (homeAt d b) u
      else newMsg s 1 d.modIx f.ctx (.fetch e i) (handleTarget f.obj b u f.epoch) x
    unitDone s e i f st

/-- The home was here when the access was made and has changed since: the access receives REDIRECT from this module's directory, and is made
again against the home that it names, in its place in stream order (R175, R176, R198). -/
def fetchRedirect (s : State) (e i : Nat) (f : Fetch) (st : Stream) (d : DirEntry) : State :=
  let s := hwBump (hwBump (hwBump s (kMem 179) 1) (kMem 180) 1) (kMem 181) (b2n (!f.reissued))
  let f := { f with epoch := d.epoch, reissued := true, far := none }
  let s := onFetch s e i fun _ => f
  if d.modIx = s.net.index then s
  else if f.kind = 2 then onFetch s e i ({ · with far := some d.modIx })
  else fetchRemote s e i f d (f.landed * st.unitBytes)

/-- The next access of an issued descriptor that this module's homes, or a tile buffer, serve. It waits behind earlier accesses of its engine
to the same bytes, for a MOVE, and for a page or a repair (R181, R202, R214, R234); a STORE waits until no partner holds the lines (R425). -/
def fetchHere (s : State) (e i : Nat) (f : Fetch) (st : Stream) (d : DirEntry) : State :=
  let u := st.unitBytes
  let b := f.offset + f.landed * u
  if fetchBehind s e i f b u then s
  else if d.modIx ≠ s.net.index then
    if f.kind = 2 then landStore s e i f st d else fetchRemote s e i f d (f.landed * u)
  else if moveHolds s f.obj (f.kind == 2) then s
  else if objMustWait s d b u then objRebuilds s d b u
  else if f.kind ≠ 2 then landFetch s e i f st d
  else if !st.out.isEmpty && writeHeld s f.obj d b u then askLines s f.obj d b u
  else landStore (usedLines s f.obj b u) e i f st d

/-- FETCH_UNIT_LANDED: the next unit of an issued descriptor lands. An access that its home refuses traps its consumer (R178, R541). The data
of a home on another module come with its DATA messages, which must all have arrived. -/
def execFetchUnitLanded (engine : Fin 16) (index : Nat) (s : State) : Host.Outcome State Fault Refusal :=
  let e := engine.val
  .next <| unfused s <| match (engineQ s e)[index]? with
    | none => s
    | some f =>
      match mget s.streams f.key with
      | none => s
      | some st =>
        if !f.issued || f.done || s.pw.coolantStop then s
        else if f.kind ≠ 2 ∧ f.far.isSome then if fetchOut s e index then s else unitLanded s e index f st
        else
          let status := accessStatus s f.ctx f.obj f.offset f.length
          if status ≠ stOk then fetchLost s e index status
          else match dirGet s f.obj with
            | none => s
            | some d =>
              if f.epoch < d.epoch ∧ (f.far.isNone || d.modIx == s.net.index) = true then fetchRedirect s e index f st d
              else fetchHere s e index f st d

end Sys2Proof.Machine
end

