-- ==== Sys2Proof/Machine/Graph.lean ====
section
/-!
DEFINITION. RUN_GRAPH and the operation expander: operation records, their checks, work items, work lists, fetch
descriptors (07 R237 to R257, Tables 7-1, 7-3 to 7-6).
-/
namespace Sys2Proof.Machine

/-! ### Records -/

/-- Bytes of a matrix in the tiled matrix layout (R237); `wide` is a 32-bit format. -/
def tiledBytes (fmt : Nat) (wide : Bool) (rows cols : Nat) : Nat :=
  let rt := if wide then 16 else tileRows fmt
  ceilDiv rows rt * ceilDiv cols 64 * (if wide then 4096 else (tileBytes fmt).1)

/-- Bytes of C for an OUT_FMT (Table 3-5). -/
def outBytes (o m n : Nat) : Nat :=
  match o with
  | 0 | 4 => tiledBytes 0 true m n
  | 1 => tiledBytes 9 false m n
  | _ => tiledBytes 1 false m n

/-- One matrix problem: a batch entry or a group (R238, R249); `paged` where its B comes by page streams (R275). -/
structure Prob where
  pos   : Nat
  m     : Nat
  n     : Nat
  k     : Nat
  bias  : Bool
  a     : Nat × Nat
  b     : Nat × Nat
  c     : Nat × Nat
  v     : Nat × Nat
  scale : Nat
  paged : Bool
  deriving DecidableEq, Repr

/-- OUT_SCALE with the tensor scales of plain FP8 and FP4 operands folded in, rounded once. -/
def foldScale (o : ShapeOp) (scale ta tb : Nat) : Nat :=
  let s := fp32.decode scale
  let s := if plainScaled o.fmtA then s.mul (fp32.decode ta) else s
  f32 (if plainScaled o.fmtB then s.mul (fp32.decode tb) else s)

/-- A handle moved on by some bytes. -/
def handlePlus (h : Nat × Nat) (n : Nat) : Nat × Nat := (h.1, h.2 + n)

/-- The problems of a record; `tab` is its group table. -/
def probsOf (o : ShapeOp) (r tab : Bytes) : List Prob :=
  if o.kind = 1 then
    (List.range (fld r 16 4)).map fun e =>
      { pos := e, m := fld r 4 4, n := fld r 8 4, k := fld r 12 4, bias := bit (byteAt r 1) 0,
        a := handlePlus (handleAt r 24) (e * fld r 72 8), b := handlePlus (handleAt r 36) (e * fld r 80 8),
        c := handlePlus (handleAt r 48) (e * fld r 88 8), v := handlePlus (handleAt r 60) (e * fld r 96 8),
        scale := foldScale o (fld r 20 4) (fld r 104 4) (fld r 108 4), paged := false }
  else
    (List.range (fld tab 0 4)).map fun e =>
      let g := slice tab (64 + 96 * e) 96
      { pos := e, m := fld g 0 4, n := fld g 4 4, k := fld g 8 4, bias := bit (byteAt g 12) 0, a := handleAt g 16,
        b := handleAt g 28, c := handleAt g 40, v := handleAt g 52,
        scale := foldScale o (fld g 64 4) (fld g 68 4) (fld g 72 4), paged := false }

/-- Check 1 of Table 7-6 on a record and its group table. -/
def recordOk (o : ShapeOp) (i : Nat) (r tab : Bytes) : Bool :=
  byteAt r 0 == o.kind && fld r 2 2 == i && byteAt r 1 / 2 == 0 && zeroAt r 112 16 &&
    ([72, 80, 88, 96].all fun f => fld r f 8 % 64 == 0) && (bit (byteAt r 1) 0 || zeroAt r 60 12) &&
    if o.kind = 1 then true
    else fld r 8 4 == 0 && fld r 12 4 == 0 && fld r 16 4 == 1 && zeroAt r 36 36 && fld tab 0 4 == fld r 4 4 &&
      zeroAt tab 4 60 && (List.range (fld tab 0 4)).all fun e =>
        let g := slice tab (64 + 96 * e) 96
        byteAt g 12 / 2 == 0 && zeroAt g 13 1 && zeroAt g 76 20 && (bit (byteAt g 12) 0 || zeroAt g 52 12)

/-- Check 3. -/
def shapeFits (o : ShapeOp) (r : Bytes) (ps : List Prob) : Bool :=
  (if o.kind = 1 then decide (fld r 16 4 ≤ o.maxBatch) &&
      decide (fld r 4 4 ≤ o.maxM ∧ fld r 8 4 ≤ o.maxN ∧ fld r 12 4 ≤ o.maxK)
    else decide (fld r 4 4 ≤ o.maxGroups)) &&
    ps.all fun p => decide (p.m ≤ o.maxM ∧ p.n ≤ o.maxN ∧ p.k ≤ o.maxK)

/-- The candidate for M rows: the first whose range holds M (R242), with its record number. -/
def chooseCand (p : Shape) (o : ShapeOp) (m : Nat) : Option (Nat × Cand) :=
  ((o.cands p).zipIdx.find? fun c => decide (c.1.mmin ≤ m ∧ m ≤ c.1.mmax)).map fun c => (o.candFirst + c.2, c.1)

/-- Check 4: bias where the plan allows it, and no batch of weights on a STREAM candidate (R244). -/
def biasAndStream (p : Shape) (o : ShapeOp) (r : Bytes) (ps : List Prob) : Bool :=
  (o.biasOk || (!bit (byteAt r 1) 0 && ps.all fun x => !x.bias)) &&
    (o.kind != 1 || fld r 80 8 == 0 || ps.all fun x => (chooseCand p o x.m).all fun c => !c.2.stream)

/-- True where a handle names an object of the context with `n` bytes from its offset (R178). -/
def handleFits (s : State) (ctx : Nat) (h : Nat × Nat) (n : Nat) : Bool :=
  (dirGet s h.1).any fun e => e.ctx == ctx && decide (h.2 + n ≤ e.size)

/-- Check 5 on one problem. -/
def handlesFit (s : State) (ctx : Nat) (o : ShapeOp) (p : Prob) : Bool :=
  let live := p.m ≠ 0 ∧ p.n ≠ 0
  handleFits s ctx p.a (if live then tiledBytes o.fmtA false p.m p.k else 0) &&
    handleFits s ctx p.b (if live then tiledBytes o.fmtB false p.n p.k else 0) &&
    handleFits s ctx p.c (if live then outBytes o.outFmt p.m p.n else 0) &&
    (!p.bias || handleFits s ctx p.v (if live then 4 * p.n else 0))

/-- Where the bytes of a table come from: its home here, or `far` when another module holds it. -/
def tableBytes (s : State) (h : Nat × Nat) (n : Nat) (far : Bytes) : Bytes :=
  match dirGet s h.1 with
  | some e => if e.modIx = s.net.index then objRead s e h.2 n else far.take n
  | none => []

/-- The status of reading a table of the context. -/
def tableStatus (s : State) (ctx : Nat) (h : Nat × Nat) (n : Nat) : Nat :=
  match dirGet s h.1 with
  | none => ePerm
  | some e =>
    if e.ctx ≠ ctx ∨ e.size < h.2 + n then ePerm
    else if e.absent ∨ moduleStatus s e.modIx ≠ stOk then eUnreachable
    else if e.modIx = s.net.index && (List.range n).any fun i => poisoned s e.tier (homeAt e (h.2 + i)) 1 then ePoison
    else stOk

/-- The handle of a GROUPED record's table, and its bytes. -/
def groupTable (s : State) (r far : Bytes) : Bytes := tableBytes s (handleAt r 24) (64 + 96 * fld r 4 4) far

/-- The records of a plan with their tables: operator, index, record, table. -/
def recordsOf (p : Shape) (recs : Bytes) (tabs : AMap Bytes) : List (ShapeOp × Nat × Bytes × Bytes) :=
  p.ops.zipIdx.map fun o => (o.1, o.2, slice recs (128 * o.2) 128, mgetD tabs o.2 [])

/-- The checks of Table 7-6 in their order (R255). -/
def graphStatus (s : State) (ctx : Nat) (p : Shape) (recs : Bytes) (tabs : AMap Bytes) : Nat :=
  let rs := recordsOf p recs tabs
  let ps (x : ShapeOp × Nat × Bytes × Bytes) := probsOf x.1 x.2.2.1 x.2.2.2
  let tab := rs.map fun x => if x.1.kind = 2 then tableStatus s ctx (handleAt x.2.2.1 24) (64 + 96 * fld x.2.2.1 4 4) else stOk
  let far := rs.any fun x => (ps x).any fun q => [q.a, q.b, q.c].any fun h =>
    (dirGet s h.1).any fun e => e.absent || moduleStatus s e.modIx == eUnreachable
  if rs.any fun x => !recordOk x.1 x.2.1 x.2.2.1 x.2.2.2 && tab.getD x.2.1 0 == stOk then ePerm
  else if tab.any (· != stOk) then (tab.find? (· != stOk)).getD ePerm
  else if far then eUnreachable
  else if rs.any fun x => !shapeFits x.1 x.2.2.1 (ps x) then eShape
  else if rs.any fun x => !biasAndStream p x.1 x.2.2.1 (ps x) then ePerm
  else if rs.any fun x => (ps x).any fun q => !handlesFit s ctx x.1 q then ePerm
  else stOk

/-! ### Work items (R243 to R248) -/

/-- One work item and the member that runs it. -/
structure Item where
  member : Nat
  cand   : Nat
  c      : Cand
  p      : Prob
  m0     : Nat
  n0     : Nat
  part   : Nat
  deriving DecidableEq, Repr

/-- K-tiles of a part: first tile and number (R243). -/
def partTiles (k ksplit p : Nat) : Nat × Nat :=
  let kt := ceilDiv k 64
  let per := ceilDiv kt ksplit
  (p * per, min per (kt - p * per))

/-- K elements of a part. -/
def partK (i : Item) : Nat :=
  let t := partTiles i.p.k i.c.ksplit i.part
  min i.p.k ((t.1 + t.2) * 64) - t.1 * 64

/-- The items of an operation in their numbering, each with its member (R243, R244). -/
def itemsOf (p : Shape) (o : ShapeOp) (ps : List Prob) : List Item :=
  (ps.foldl (fun (x : Nat × List Item) q =>
    if q.m = 0 ∨ q.n = 0 then x
    else match chooseCand p o q.m with
      | none => x
      | some (ci, c) =>
        let is := (List.range (ceilDiv q.m c.tm)).flatMap fun m => (List.range (ceilDiv q.n c.tn)).flatMap fun n =>
          (List.range c.ksplit).map fun k => (m, n, k)
        let mk := is.zipIdx.map fun i =>
          let g := if o.kind = 2 then q.pos else 0
          { member := if c.stream then g * o.own + i.1.2.1 % max 1 o.own else (x.1 + i.2) % max 1 o.g,
            cand := ci, c := c, p := q, m0 := i.1.1 * c.tm, n0 := i.1.2.1 * c.tn, part := i.1.2.2 : Item }
        (x.1 + is.length, x.2 ++ mk)) (0, [])).2

/-- The slice offset of the B tiles of an item on a STREAM candidate. -/
def bSlice (s : State) (o : ShapeOp) (i : Item) : Nat :=
  match dirGet s i.p.b.1 with
  | none => 0
  | some e => homeAt e (i.p.b.2 + i.n0 / tileRows o.fmtB * ceilDiv i.p.k 64 * (tileBytes o.fmtB).1) % 2 ^ 23 / 64

/-- Rows and columns of an item that are below M and N. -/
def Item.rows (i : Item) : Nat := min i.c.tm (i.p.m - i.m0)
def Item.cols (i : Item) : Nat := min i.c.tn (i.p.n - i.n0)

/-- A work list entry of 32 bytes (Table 7-3); stream numbers are firmware's choice (notes/assumptions/23.md). -/
def workEntry (s : State) (o : ShapeOp) (i : Item) (last : Bool) (streams : Nat) : Bytes :=
  let kc := ceilDiv (partK i) 32 * 32
  let flags := b2n i.p.bias + 2 * b2n (i.p.k == 0) + 4 * b2n (decide (1 < i.c.ksplit) && i.part == 0) +
    8 * b2n (i.part != 0) + 16 * b2n last
  leBytes 2 i.rows ++ leBytes 2 i.cols ++ leBytes 4 kc ++ leBytes 2 (ceilDiv i.cols 64) ++ leBytes 2 (ceilDiv i.rows 32) ++
    leBytes 1 i.part ++ leBytes 1 flags ++ leBytes 2 streams ++ leBytes 4 (if i.c.stream then bSlice s o i else 0) ++
    leBytes 4 i.p.scale ++ leBytes 8 0

/-- K advance per clk of an operation, as a fraction, with the delivery factor of the weight-stream path (R248). -/
def kAdvance (o : ShapeOp) (stream : Bool) : Nat × Nat :=
  let four (c : Nat) : Bool := c == 7 || c == 8
  let k := if o.fmtA = 9 then (1, 2) else if four o.fmtA && four o.fmtB then (2, 1) else (1, 1)
  if !stream then k
  else if o.fmtB = 3 ∨ o.fmtB = 4 then (k.1 * 32, k.2 * 33) else if o.fmtB = 8 then (k.1 * 16, k.2 * 17) else k

/-- A stream's declared rate for `bytes` over an item (R248). -/
def declaredRate (o : ShapeOp) (i : Item) (bytes : Nat) : Nat :=
  let kr := kAdvance o i.c.stream
  let clk := ceilDiv i.cols 64 * 2 * ceilDiv i.rows 32 * (ceilDiv (partK i) 32 * 32) * kr.2
  max 1 (min 65535 (ceilDiv (64 * bytes * kr.1) (max 1 clk)))

/-- The stream numbers that are not open at an end port. -/
def freeStreams (s : State) (row side : Nat) : List Nat :=
  (List.range 64).filter fun n => !mhas s.streams (128 * row + 64 * side + n)

/-- Firmware opens a stream for a tile (R195): its number and end, and where its buffer lies in T1, are free. -/
def openStream (s : State) (tile unit slots rate source : Nat) : Option (Nat × Nat × Nat × State) :=
  let side := freeValue s.fv % 2
  match freeStreams s (tile / 64) side with
  | [] => none
  | n :: ns =>
    let num := (n :: ns).getD (freeValue (s.fv + 1) % (ns.length + 1)) n
    let base := freeValue (s.fv + 2) % ((2 ^ 19 - min (2 ^ 19) (slots * unit)) / 64 + 1) * 64
    let st : Stream := { freshStream rate tile slots unit source none false with base := base }
    some (num, side, base, { s with fv := s.fv + 3, streams := mset s.streams (128 * (tile / 64) + 64 * side + num) st })

/-- The source of a stream for its waits (R116): 0 T2, 1 T3, 2 link. -/
def sourceOf (s : State) (obj : Nat) : Nat :=
  match dirGet s obj with
  | some e => if e.modIx ≠ s.net.index then 2 else if e.tier = 1 then 0 else 1
  | none => 1

/-- The units of descriptors before each of them, counted from `n` on. -/
def unitsBefore (unit : Nat) : Nat → List (Nat × Nat × Nat) → List Nat
  | _, [] => []
  | n, f :: fs => n :: unitsBefore unit (n + f.2.2 / max 1 unit) fs

/-- Posts descriptors of one stream (number, end, buffer) of `unit` bytes and `slots` units to a move engine, `n` units after those posted
before; with `whole` the last one is marked LAST (Table 5-8, R196). -/
def postFetches (s : State) (ctx kind tile : Nat) (st : Nat × Nat × Nat) (unit slots n : Nat) (whole : Bool) (fs : List (Nat × Nat × Nat)) :
    State :=
  let e := freeValue s.fv % 16
  let q := (fs.zip (unitsBefore unit n fs)).zipIdx.map fun f =>
    { kind := kind, fence := false, dep := none, asked := false, last := whole && f.2 + 1 == fs.length, stream := st.1,
      east := st.2.1 == 1, ctx := ctx, obj := f.1.1.1, offset := f.1.1.2.1, epoch := (dirGet s f.1.1.1).elim 0 (·.epoch),
      tile := tile, dstT2 := false, bufAddr := st.2.2 + f.1.2 % max 1 slots * unit, length := f.1.1.2.2, first := 0, issued := false,
      landed := 0, done := false, reissued := false, far := none : Fetch }
  setEngine { s with fv := s.fv + 1 } e (engineQ s e ++ q)

/-- Opens a stream and posts its descriptors; none where the end port has no stream left. -/
def streamIn (s : State) (ctx kind tile unit slots rate obj : Nat) (fs : List (Nat × Nat × Nat)) : Nat × State :=
  if fs.isEmpty then (0, s)
  else match openStream s tile unit slots rate (sourceOf s obj) with
    | none => (0, s)
    | some (n, side, base, s) => (n, postFetches s ctx kind tile (n, side, base) unit slots 0 true fs)

/-- The rows of engine-ready tiles, of `rt` rows each, that hold some of `n` matrix rows from row `r0` on (R237, R245). -/
def tileRowsOf (rt r0 n : Nat) : List Nat := if n = 0 then [] else List.range' (r0 / rt) ((r0 + n - 1) / rt + 1 - r0 / rt)

/-- The descriptors of an operand's rows from `r0` on: one for each row of tiles of the item's K part (R245, R254). -/
def operandFetches (fmt : Nat) (h : Nat × Nat) (i : Item) (r0 n : Nat) : List (Nat × Nat × Nat) :=
  let tb := (tileBytes fmt).1
  let t := partTiles i.p.k i.c.ksplit i.part
  if t.2 = 0 then []
  else (tileRowsOf (tileRows fmt) r0 n).map fun r => (h.1, h.2 + (r * ceilDiv i.p.k 64 + t.1) * tb, t.2 * tb)

/-- The descriptors of an item's rows of A. With A_MCAST the rows are fetched once, by the first of the items that use them, at the head of
their chain (R200, R248). -/
def aFetches (o : ShapeOp) (i : Item) : List (Nat × Nat × Nat) :=
  if i.c.mcast ∧ i.n0 ≠ 0 then [] else operandFetches o.fmtA i.p.a i i.m0 i.rows

/-- The descriptors of an item's panels of B; pages of a cache come by their own streams. -/
def bFetches (o : ShapeOp) (i : Item) : List (Nat × Nat × Nat) :=
  if i.c.stream ∨ i.p.paged then [] else operandFetches o.fmtB i.p.b i i.n0 i.cols

/-- The rows of a tile of C by OUT_FMT: all its tiles have 4 KiB (R187, R237, Table 3-5). -/
def outTileRows (o : Nat) : Nat :=
  match o with
  | 0 | 4 => 16
  | 1 => 32
  | _ => 64

/-- The descriptors of an item's block of C, which the part that drains FINAL stores (R238, R246, R248). -/
def cStores (o : ShapeOp) (i : Item) : List (Nat × Nat × Nat) :=
  if i.part ≠ 0 then []
  else (tileRowsOf (outTileRows o.outFmt) i.m0 i.rows).map fun r =>
    (i.p.c.1, i.p.c.2 + (r * ceilDiv i.p.n 64 + i.n0 / 64) * 4096, ceilDiv i.cols 64 * 4096)

/-- The descriptor of an item's bias values: 4 KiB of opaque bytes, moved back where they would pass the object's end (R187, R238;
notes/assumptions/23.md). -/
def biasFetches (s : State) (i : Item) : List (Nat × Nat × Nat) :=
  let size := (dirGet s i.p.v.1).elim 0 (·.size)
  if i.part ≠ 0 ∨ !i.p.bias ∨ size < 4096 then [] else [(i.p.v.1, min (i.p.v.2 + 4 * i.n0) (size - 4096), 4096)]

/-- Opens the streams of an item and posts its descriptors: A, the panels of B, the bias, and the stores of C, which are best effort; the
STREAMS field of its entry comes first. -/
def itemStreams (s : State) (ctx tile : Nat) (o : ShapeOp) (i : Item) : Nat × State :=
  let bytes (fs : List (Nat × Nat × Nat)) : Nat := (fs.map (·.2.2)).sum
  let a := aFetches o i
  let b := bFetches o i
  let x := streamIn s ctx (if i.c.mcast then 3 else 1) tile (tileBytes o.fmtA).1 (max 2 (bytes a / (tileBytes o.fmtA).1))
    (declaredRate o i (bytes a)) i.p.a.1 a
  let y := streamIn x.2 ctx 1 tile (tileBytes o.fmtB).1 i.c.units (declaredRate o i (bytes b)) i.p.b.1 b
  let z := (streamIn y.2 ctx 1 tile 4096 2 0 i.p.v.1 (biasFetches y.2 i)).2
  (x.1 + 64 * y.1, (streamIn z ctx 2 tile 4096 2 0 i.p.c.1 (cStores o i)).2)

/-- Writes the work list of one tile of an operator's group, with no entry where no item is its own (R247). The manual gives
the candidate of the first entry alone: without one it is free (notes/assumptions/78.md). -/
def writeWork (s : State) (ctx tile op start : Nat) (o : ShapeOp) (is : List Item) : State :=
  let x := is.zipIdx.foldl (fun (x : State × Bytes) i =>
    let y := itemStreams x.1 ctx tile o i.1
    (y.2, x.2 ++ workEntry x.1 o i.1 (i.2 + 1 == is.length) y.1)) (s, [])
  let c := match is with
    | [] => (freeValue x.1.fv, { x.1 with fv := x.1.fv + 1 })
    | i :: _ => (i.cand, x.1)
  storeTier c.2 0 (t1Off tile o.paramT1)
    (leBytes 4 is.length ++ leBytes 2 op ++ leBytes 2 c.1 ++ leBytes 8 start ++ leBytes 48 0 ++ x.2)

/-- The work lists of one operator for its items, tile by tile of its group (R244, R247). -/
def expandOp (s : State) (i : Inst) (start op : Nat) (o : ShapeOp) (items : List Item) : State :=
  let ts := instTiles i
  ((o.group (instShape s i)).zipIdx).foldl (fun s m =>
    writeWork s i.ctx (ts.getD m.1 0) op start o (items.filter fun x => x.member == m.2)) s

/-- Expands every operation of a graph into the work lists of the instance's tiles. -/
def expandGraph (s : State) (i : Inst) (start : Nat) (recs : Bytes) (tabs : AMap Bytes) : State :=
  let p := instShape s i
  (recordsOf p recs tabs).foldl (fun s r => expandOp s i start r.2.1 r.1 (itemsOf p r.1 (probsOf r.1 r.2.2.1 r.2.2.2))) s

/-! ### The row -/

/-- The named body fields of RUN_GRAPH. -/
def graphFields : List (Nat × Nat) := [(8, 1), (12, 12), (24, 8)]

/-- The group tables of a shape table, by operator index; `far` are those whose homes other modules hold. -/
def graphTables (s : State) (p : Shape) (recs : Bytes) (far : List Bytes) : AMap Bytes :=
  (p.ops.zipIdx.filter fun o => o.1.kind == 2).map fun o =>
    (o.2, groupTable s (slice recs (128 * o.2) 128) (far.getD (o.2 + 1) []))

/-- Reads the shape table of a RUN_GRAPH and its group tables (Table 7-6 check 2). -/
def readTables (s : State) (ctx : Nat) (p : Shape) (h : Nat × Nat) (far : Bytes) : State :=
  let n := 128 * p.ops.length
  let s := demandOwn s ctx h n
  if tableStatus s ctx h n ≠ stOk then s
  else
    let recs := tableBytes s h n far
    (p.ops.zipIdx.filter fun o => o.1.kind == 2).foldl (fun s o =>
      let r := slice recs (128 * o.2) 128
      demandOwn s ctx (handleAt r 24) (64 + 96 * fld r 4 4)) s

/-- RUN_GRAPH: the checks of R255 against the plan in force; the work waits for its start tread, which is the next one
where none is given or it has passed (R239, R256). `far` are the bytes of the shape table and of the group tables, by
operator, whose homes other modules hold. -/
def execRunGraph (d : Nat) (far : List Bytes) (s : State) : Host.Outcome State Fault Refusal :=
  .next <| unfused s (withDesc s d (·.op == 0x50) graphFields fun t =>
    let k := byteAt t.bytes 8
    match mget s.insts k with
    | none => finish s d ePerm
    | some i =>
      if i.ctx ≠ t.ctx then finish s d ePerm
      else if i.stalled ∨ i.unbind.isSome ∨ s.flt.sliceStopped then finish s d eBusy
      else
        let p := instShape s i
        let h := handleAt t.bytes 12
        let n := 128 * p.ops.length
        let s := readTables s t.ctx p h (far.getD 0 [])
        if tableStatus s t.ctx h n ≠ stOk then finish s d (tableStatus s t.ctx h n)
        else
          let recs := tableBytes s h n (far.getD 0 [])
          let tabs := graphTables s p recs far
          if graphStatus s t.ctx p recs tabs ≠ stOk then finish s d (graphStatus s t.ctx p recs tabs)
          else
            let start := max (fld t.bytes 24 8) (s.time.tread + 1)
            { holdDesc s d with graphs := mset s.graphs d
                                  { inst := k, start := start, records := recs, tables := tabs, running := false, parked := false } })

/-- The RUN_GRAPHs of instance `k` that are due at a step start: each is checked again against the plan in force and its
work lists are written, or it completes with its status (R255, R256). -/
def startGraphs (s : State) (k : Nat) : State :=
  match mget s.insts k with
  | none => s
  | some i =>
    (s.graphs.filter fun g => g.2.inst == k && !g.2.running && !g.2.parked && decide (g.2.start ≤ s.time.tread)).foldl (fun s g =>
      let st := graphStatus s i.ctx (instShape s i) g.2.records g.2.tables
      if st ≠ stOk then finish { s with graphs := merase s.graphs g.1 } g.1 st
      else
        let s := expandGraph s i s.time.tread g.2.records g.2.tables
        { s with graphs := mset s.graphs g.1 { g.2 with start := s.time.tread, running := true } }) s

end Sys2Proof.Machine
end

