-- ==== Sys2Proof/Machine/Pages.lean ====
section
/-!
DEFINITION. The page fetches of a step, at its start and ahead of it (05 R194, R206; 08 R275, R276, Table 8-6).
-/
namespace Sys2Proof.Machine

/-- The page fetches of one entry for one pool index and pass, by member: the pages of a member in rising order, whole
in the value pass and the K section alone in the max pass (R275, R276). -/
def pageFetches (g : Group) (e : PEntry) (at_ idx member : Nat) (max_ : Bool) : List (Nat × Nat × Nat) :=
  let l := kvLay g.kv
  (e.pages.zipIdx.filter fun p => (p.2 + at_) % max 1 l.g == member).filterMap fun p =>
    (mget g.pools (65536 * b2n p.1.inT3 + idx)).map fun obj =>
      (obj, p.1.frame * l.pageBytes, if max_ then l.pageBytes / 2 else l.pageBytes)

/-- The page streams of the entries of instance `k` with the tiles that they feed: for each layer's pool indices and each pass, entry after
entry, one for each member of the tile group (R275). -/
def pageStreams (g : Group) (k : Nat) (i : Inst) (es : List PEntry) : List (Nat × PageStream) :=
  let ts := instTiles i
  (List.range (kvLay g.kv).pools).flatMap fun idx => [true, false].flatMap fun max_ => es.zipIdx.flatMap fun e =>
    (kvGroup g.kv idx).zipIdx.map fun m =>
      (ts.getD m.1 0, { inst := k, idx := idx, max_ := max_, req := e.1.req, member := m.2, at_ := (0, 0, 0),
                        fs := pageFetches g e.1 e.2 idx m.2 max_ })

/-- Units of a page buffer: room for two pages (notes/assumptions/23.md). -/
def pageSlots (g : Group) : Nat := max 2 (2 * ceilDiv (kvLay g.kv).pageBytes 4096)

/-- Opens a page stream and posts its fetches; with `whole` they are all of the step's. -/
def openPages (s : State) (g : Group) (x : Nat × PageStream) (ahead whole : Bool) : State × PageStream :=
  match x.2.fs, openStream s x.1 4096 (pageSlots g) 0 (sourceOf s (x.2.fs.headD (0, 0, 0)).1) with
  | _ :: _, some (n, side, base, t) =>
    let t := { t with streams := madj t.streams (128 * (x.1 / 64) + 64 * side + n) ({ · with ahead := ahead }) }
    (postFetches (fwBump t (kKv 8) x.2.fs.length) g.ctx 1 x.1 (n, side, base) 4096 (pageSlots g) 0 whole x.2.fs,
      { x.2 with at_ := (n, side, base) })
  | _, _ => (s, { x.2 with fs := [] })

/-- The pages of an entry that a step under way cannot change: those whose slots are all committed, before the first that is being moved
(R279, R285). -/
def settledPages (e : PEntry) : PEntry := { e with pages := (e.pages.take (e.len / 64)).takeWhile (·.dest.isNone) }

/-- While a step runs, firmware posts the fetches of the next one's settled pages (R194, R206). -/
def prefetchPages (s : State) (k : Nat) : State :=
  match mget s.groups k with
  | none => s
  | some g =>
    match g.run, g.plan with
    | some _, some p =>
      if g.kv.isEmpty || !g.pre.isEmpty then s
      else
        let x := (groupInsts s g).foldl (fun (x : State × List PageStream) i =>
          let es := p.entries.filter fun e => e.inst == i.1
          (List.zip (pageStreams g i.1 i.2 (es.map settledPages)) (pageStreams g i.1 i.2 es)).foldl
            (fun (x : State × List PageStream) y =>
              let z := openPages x.1 g y.1 true (y.1.2.fs.length == y.2.2.fs.length)
              (z.1, if z.2.fs.isEmpty then x.2 else x.2 ++ [z.2])) x) (s, [])
        { x.1 with groups := madj x.1.groups k ({ · with pre := x.2 }) }
    | _, _ => s

/-- True where a stream opened ahead carries the first fetches of a page stream of the step. -/
def PageStream.starts (p x : PageStream) : Bool :=
  p.inst == x.inst && p.idx == x.idx && p.max_ == x.max_ && p.req == x.req && p.member == x.member && !p.fs.isEmpty && p.fs.isPrefixOf x.fs

/-- Emits the page fetches of an instance's entries to the streams of the members that hold the pages, after those that were posted ahead
(R206, R275, Table 8-6). -/
def emitPages (s : State) (g : Group) (k : Nat) (i : Inst) (es : List PEntry) : State :=
  if g.kv.isEmpty then s
  else (pageStreams g k i es).foldl (fun s x =>
    match g.pre.find? (·.starts x.2) with
    | none => (openPages s g x false true).1
    | some p =>
      let rest := x.2.fs.drop p.fs.length
      let done := ((p.fs.map fun f => f.2.2 / 4096)).sum
      if rest.isEmpty then s
      else postFetches (fwBump s (kKv 8) rest.length) g.ctx 1 x.1 p.at_ 4096 (pageSlots g) done true rest) s

end Sys2Proof.Machine
end

