-- ==== Sys2Proof/Machine/Plan.lean ====
section
/-!
DEFINITION. Planning a step: slack, trees, chunks, frames, the plan's message, the step barrier's FLOOR member (10 R320,
R323 to R328, R332; 08 R271, R284 to R286; 09 R308; Table 12-23).
-/
namespace Sys2Proof.Machine

/-! ### Periods and slack -/

/-- E(P), the estimated period of a step with P prefill tokens (R324). -/
def Group.period (g : Group) (p : Nat) : Nat := g.base + ceilDiv (g.perToken * p) 256

/-- The slack of a request with no target. -/
def noTarget : Int := 2 ^ 31 - 1

/-- The slack of a request (Table 10-4). -/
def slackOf (g : Group) (q : Req) (now : Nat) : Int :=
  if q.state = .prefill then
    match q.ttftAt with
    | some d => (d : Int) - now - (ceilDiv q.left.length (max 1 g.chunk) * g.period g.chunk : Nat)
    | none => noTarget
  else
    match q.tbtAt with
    | some d => (d : Int) - now - g.base
    | none => noTarget

/-- Less slack first, then the earlier admission, then the lower number (R320). -/
def slackBefore (g : Group) (now : Nat) (a b : Nat × Req) : Bool :=
  let x := slackOf g a.2 now
  let y := slackOf g b.2 now
  decide (x < y) || (x == y && (decide (a.2.admitAt < b.2.admitAt) || (a.2.admitAt == b.2.admitAt && decide (a.1 ≤ b.1))))

/-! ### Who may enter the step -/

/-- Token records that a queue pair holds beyond its ring (R438). -/
def heldRecords (s : State) (g : Group) (r : Nat) (q : Req) : Nat × Nat :=
  if q.admitter ≠ s.net.index then (0, 0)
  else (mget s.admits (admitKey g.ctx (g.rid r))).elim (0, 0) fun a => (a.port, (qpOf s a.port a.qp).held.length)

/-- True where an instance takes part in steps: not captured, not unbinding, no switch past draining. -/
def Inst.serves (i : Inst) : Bool :=
  !i.stalled && i.unbind.isNone && (i.sw.all fun w => w.state == .staging || w.state == .armed)

/-- Requests that may enter the step being planned (R323): live, with work, opened before the running step's start. -/
def candidates (s : State) (g : Group) : List (Nat × Req) :=
  g.reqs.filter fun r =>
    let q := r.2
    q.live && !((groupInsts s g).any fun i => i.2.parkRun.any fun p => p.entries.any (·.req == r.1)) && (g.run.isNone || decide (q.openAt < g.startAt)) && ((mget s.insts q.inst).any Inst.serves) &&
      (if q.state = .prefill then !q.left.isEmpty else q.pend.isSome)

/-- Leaves out requests whose queue pair holds 65,536 records, and counts them (R438). -/
def withTokenRoom (s : State) (g : Group) (rs : List (Nat × Req)) : State × List (Nat × Req) :=
  let full (r : Nat × Req) : Bool := decide (65536 ≤ (heldRecords s g r.1 r.2).2)
  ((rs.filter full).foldl (fun s r => hwBump s (kPort (heldRecords s g r.1 r.2).1 3) 1) s, rs.filter fun r => !full r)

/-- The length limit of an instance's plan (R257). -/
def atLimit (p : Shape) (len : Nat) : Bool := decide (p.maxSeq ≤ len ∨ 64 * p.maxPages ≤ len)

/-- A request whose committed length is at the limit of a plan that has changed meanwhile ends with E_LENGTH before the first step under that
plan; its frames are freed (R257, Table 8-5). -/
def endLong (s : State) (g : Group) : State × Group :=
  let long := (candidates s g).filter fun r => (mget s.insts r.2.inst).any fun i => atLimit (instShape s i) r.2.len
  let x := long.foldl (fun (x : State × Group × List (Nat × Settled)) r =>
    let y := endReq x.1 x.2.1 r.1 eLength
    (y.1, y.2, x.2.2 ++ [endRecord g r.1 eLength r.2])) (s, g, [])
  finishEnds (deliver x.1 x.2.1 g.stepNo g.gen x.2.2) x.2.1 (long.map (·.1))

/-! ### Trees and chunks -/

/-- A request's tree for a step (R257, R332). -/
def treeFor (h : HImg) (p : Shape) (q : Req) : List (Nat × Nat) :=
  let t := (treeTemplate h).map fun x => (x.1, x.2.1)
  let d := min q.draftMax (min (q.maxNew - q.kept - 1) (p.maxSeq - 1 - q.len))
  (trimDepth t d).take (max 1 (64 * p.maxPages - q.len))

/-- Trims trees from the last, highest node first, down to their roots, by `n` nodes at most. -/
def trimTrees (n : Nat) : List (Nat × List (Nat × Nat)) → Nat × List (Nat × List (Nat × Nat))
  | [] => (n, [])
  | t :: ts =>
    let x := trimTrees n ts
    let c := min x.1 (t.2.length - 1)
    (x.1 - c, (t.1, t.2.take (t.2.length - c)) :: x.2)

/-- Fits the trees into the slots (R323): nodes trimmed and whole requests left out come with the result. -/
def fitTrees (slots : Nat) (ts : List (Nat × List (Nat × Nat))) : List (Nat × List (Nat × Nat)) × Nat × Nat :=
  let total := (ts.map (·.2.length)).sum
  let x := trimTrees (total - slots) ts
  (x.2.take (x.2.length - x.1), total - slots - x.1, x.1)

/-- The chunk budget of a step (R325); `tbt` is the smallest TBT among its decode entries. -/
def chunkBudget (g : Group) (slots decode : Nat) (tbt : Option Nat) (waiting : Bool) : Nat :=
  if decode = 0 then slots
  else
    let room := (slots - decode) / 64 * 64
    let c := match tbt with
      | none => room
      | some t =>
        if t < g.base then 0
        else if g.perToken = 0 then room
        else 256 * (t - g.base) / g.perToken / 64 * 64
    if waiting && decide (64 ≤ room) then max 64 (min c room) else min c room

/-- Cuts a budget into chunks, one for each request in order (R326): a request and its chunk's length. -/
def cutChunks (top : Nat) : Nat → List (Nat × Req) → List (Nat × Nat)
  | _, [] => []
  | c, r :: rs =>
    let n := r.2.left.length
    let m := min top c
    let k := if n ≤ m then n else m / 64 * 64
    if k = 0 then cutChunks top c rs else (r.1, k) :: cutChunks top (c - k) rs

/-! ### Limits on pages and versions -/

/-- The most adapter versions that a step of an instance may hold: the least MAX_GROUPS of its down operators (R308). -/
def versionLimit (h : HImg) (p : Shape) : Nat :=
  match h.regions 0x0104 with
  | [] => 0
  | (_, b) :: _ =>
    ((List.range (fld b 2 2)).map fun i => ((p.ops[fld b (64 + 32 * i + 8) 2]?).map (·.maxGroups)).getD 0).foldl min 4096

/-- Entries under way: request, tree or none for a chunk, chunk length. -/
structure Wish where
  req   : Nat
  nodes : List (Nat × Nat)
  count : Nat
  deriving DecidableEq, Repr

/-- Leaves out requests whose version would pass the limit (R308). -/
def limitVersions (s : State) (g : Group) (limit : Nat) (ws : List Wish) : State × List Wish :=
  let x := ws.foldl (fun (x : State × List Wish × List Nat) w =>
    match (g.req? w.req).bind (·.adapter) with
    | none => (x.1, x.2.1 ++ [w], x.2.2)
    | some v =>
      if x.2.2.contains v then (x.1, x.2.1 ++ [w], x.2.2)
      else if x.2.2.length < limit then (x.1, x.2.1 ++ [w], x.2.2 ++ [v])
      else (fwBump x.1 (kExp 7) 1, x.2.1, x.2.2)) (s, [], [])
  (x.1, x.2.1)

/-- Gives the entries their frames in order (R284): trees are trimmed, chunks shortened, and a request whose root's page
cannot be had sits out. The frames taken come with the result. -/
def takePages (s : State) (g : Group) (ws : List Wish) : State × Group × List Wish × List (Nat × Nat × KvPage) :=
  ws.foldl (fun (x : State × Group × List Wish × List (Nat × Nat × KvPage)) w =>
    match (x.2.1).req? w.req with
    | none => x
    | some q =>
      let prov := if w.nodes.isEmpty then pagesFor (q.len + w.count) else pagesFor (q.len + 1)
      let y := growPages x.2.1 w.req prov (pagesFor (q.len + w.count)) (pagesFor (q.len + w.count))
      let have_ := ((y.1.req? w.req).elim 0 (·.pages.length)) * 64 - q.len
      let n := if w.count ≤ have_ then w.count else if w.nodes.isEmpty then have_ / 64 * 64 else have_
      let keep := pagesFor (q.len + n)
      let got := y.2.filter fun p => decide (p.1 < keep)
      let g := match y.1.req? w.req with
        | some q' => y.1.setReq w.req { q' with pages := q'.pages.take (max keep q.pages.length) }
        | none => y.1
      let s := countFrames x.1 0 (got.map (·.2))
      if n = 0 then (fwBump s (kKv 10) 1, g, x.2.2.1, x.2.2.2)
      else (s, g, x.2.2.1 ++ [{ w with nodes := w.nodes.take n, count := n }], x.2.2.2 ++ got.map fun p => (w.req, p.1, p.2)))
    (s, g, [], [])

/-- Lays the entries of one instance out, slot after slot (R271). -/
def layEntries (g : Group) (i : Nat) : Nat → List Wish → List PEntry
  | _, [] => []
  | at_, w :: ws =>
    match g.req? w.req with
    | none => layEntries g i at_ ws
    | some q =>
      let chunk := w.nodes.isEmpty
      { inst := i, req := w.req, chunk := chunk, nodes := w.nodes, first := at_, len := q.len, pages := q.pages,
        toks := if chunk then q.left.take w.count else q.pend.toList, ends := chunk && w.count == q.left.length,
        set := q.set } :: layEntries g i (at_ + w.count) ws

/-! ### Pages between the tiers (R285, R286) -/

/-- A page that may move: all its slots below L, no copy under way. -/
def movable (q : Req) (j : Nat) (p : KvPage) : Bool := p.dest.isNone && decide (64 * (j + 1) ≤ q.len)

/-- Starts the copy of page `j` of request `r` to the other tier, when a frame is free there. -/
def startMove (s : State) (g : Group) (r j : Nat) : State × Group :=
  match g.req? r with
  | none => (s, g)
  | some q =>
    match q.pages[j]? with
    | none => (s, g)
    | some p =>
      match nextFrame g (!p.inT3) with
      | none => (s, g)
      | some f =>
        (countFrames (copyPage s g p f) 0 [{ p with frame := f, inT3 := !p.inT3 }],
          g.setReq r { q with pages := q.pages.set j { p with dest := some f } })

/-- The pages of a request in a tier that may move, lowest first. -/
def movablePages (q : Req) (inT3 : Bool) : List Nat :=
  (List.range q.pages.length).filter fun j => (q.pages[j]?).any fun p => p.inT3 == inT3 && movable q j p

/-- Demotes pages of T2_FIRST requests, the longest absent first, until T2 has room again (R286). -/
def demotePages (s : State) (g : Group) : State × Group :=
  let l := kvLay g.kv
  let short := l.f2 / 16 - freeFrames g false
  let rs := (g.reqs.filter fun r => r.2.cls == 0).mergeSort fun a b => decide (a.2.lastIn ≤ b.2.lastIn)
  let js := (rs.flatMap fun r => (movablePages r.2 false).map (r.1, ·)).take short
  js.foldl (fun x j => startMove x.1 x.2 j.1 j.2) (s, g)

/-- Promotes pages of T2_FIRST requests of the step, the highest page first, while T2 has room (R286). -/
def promotePages (s : State) (g : Group) (rs : List Nat) : State × Group :=
  let l := kvLay g.kv
  let js := (rs.filterMap fun r => (g.req? r).map (r, ·)).flatMap fun r =>
    if r.2.cls = 0 then (movablePages r.2 true).reverse.map (r.1, ·) else []
  js.foldl (fun x j => if l.f2 / 8 < freeFrames x.2 false then startMove x.1 x.2 j.1 j.2 else x) (s, g)

/-- The frames that page copies have taken since `g`: request, page, and the page in its new place. -/
def movesSince (g h : Group) : List (Nat × Nat × KvPage) :=
  h.reqs.flatMap fun r => r.2.pages.zipIdx.filterMap fun p =>
    match p.1.dest with
    | some f => if ((g.req? r.1).bind (·.pages[p.2]?)).any (·.dest.isNone) then
        some (r.1, p.2, { p.1 with frame := f, inT3 := !p.1.inT3, dest := none }) else none
    | none => none

/-! ### The plan -/

/-- Plans one instance's entries: trees, chunks, then the limits on versions and pages, in that order (R323). -/
def planInst (s : State) (g : Group) (rs : List (Nat × Req)) (i : Nat) (inst : Inst) :
    State × Group × List PEntry × List (Nat × Nat × KvPage) × Nat :=
  let h := instImg s inst
  let p := shapeOf h.plan
  let mine := (rs.filter fun r => r.2.inst == i).mergeSort (slackBefore g s.time.tread)
  let dec := mine.filter fun r => r.2.state == .decode
  let pre := mine.filter fun r => r.2.state == .prefill
  let fit := fitTrees p.slots (dec.map fun r => (r.1, treeFor h p r.2))
  let s := fwBump (fwBump s (kSrv i 8) fit.2.1) (kSrv i 9) fit.2.2
  let tokens := (fit.1.map (·.2.length)).sum
  let tbts := (fit.1.filterMap fun t => (g.req? t.1).map (·.tbt)).filter (· != 0)
  let tbt := match tbts with | [] => none | t :: ts => some (ts.foldl min t)
  let c := chunkBudget g p.slots tokens tbt (!pre.isEmpty)
  let ws := fit.1.map (fun t => { req := t.1, nodes := t.2, count := t.2.length : Wish }) ++
    (cutChunks g.chunkMax c pre).map fun x => { req := x.1, nodes := [], count := x.2 : Wish }
  let v := limitVersions s g (versionLimit h p) ws
  let t := takePages v.1 g v.2
  (t.1, t.2.1, layEntries t.2.1 i 0 t.2.2.1, t.2.2.2, c)

/-- A lengths table (Table 8-4); page tables lie where firmware keeps them in control SRAM, at free offsets. -/
def lengthsTable (fv tread : Nat) (es : List PEntry) : Bytes :=
  let size (e : PEntry) : Nat := if e.chunk then e.toks.length else e.nodes.length
  let offs := es.foldl (fun (x : Nat × List Nat) e => (x.1 + 4 * e.nodes.length, x.2 ++ [x.1])) (64 + 32 * es.length, [])
  leBytes 4 es.length ++ leBytes 4 ((es.map size).sum) ++ leBytes 8 tread ++ leBytes 48 0 ++
    (es.zipIdx.flatMap fun e =>
      leBytes 2 e.1.req ++ leBytes 1 (b2n e.1.chunk) ++ leBytes 1 e.1.nodes.length ++ leBytes 2 e.1.first ++
        leBytes 2 (size e.1) ++ leBytes 4 e.1.len ++ leBytes 4 (pagesFor (e.1.len + size e.1)) ++
        leBytes 4 (freeValue (fv + e.2)) ++ leBytes 4 (if e.1.chunk then 0 else offs.2.getD e.2 0) ++ leBytes 8 0) ++
    es.flatMap fun e => e.nodes.flatMap fun n => leBytes 1 n.1 ++ leBytes 1 n.2 ++ [0, 0]

/-- An allocation or free record (Table 12-23). -/
def frameRecord (x : Nat × Nat × KvPage) : Bytes :=
  leBytes 2 x.1 ++ leBytes 1 (b2n x.2.2.inT3) ++ leBytes 1 (b2n x.2.2.prov) ++ leBytes 4 x.2.1 ++ leBytes 4 x.2.2.frame

/-- Pads a part to 16 bytes. -/
def pad16 (b : Bytes) : Bytes := padTo (ceilDiv b.length 16 * 16) b

/-- The STEP_PLAN message: the lengths tables of the group's instances one after another in their order, the frames
taken and freed, and the requests that appear for the first time (Table 12-23; notes/assumptions/22.md). -/
def planBody (s : State) (g : Group) (p : Plan) (is : List Nat) (allocs : List (Nat × Nat × KvPage)) (new : List Nat) :
    Bytes :=
  let tabs := (is.zipIdx.map fun i => lengthsTable (s.fv + 4096 * i.2) 0 (p.entries.filter fun e => e.inst == i.1)).flatten
  [7] ++ leBytes 1 g.num ++ [0, 0] ++ leBytes 4 p.gen ++ leBytes 8 p.stepNo ++ leBytes 8 s.time.tread ++
    leBytes 4 tabs.length ++ leBytes 4 allocs.length ++ leBytes 4 g.freed.length ++ leBytes 4 new.length ++ leBytes 24 0 ++
    pad16 tabs ++ pad16 (allocs.flatMap frameRecord) ++ pad16 (g.freed.flatMap frameRecord) ++
    new.flatMap fun r => leBytes 2 r ++ leBytes 14 0 ++ padTo 128 ((g.req? r).elim [] (·.params))

/-- The FLOOR member of a group's step barrier arrives for the next generation, once (R327, R328). -/
def floorArrive (s : State) (k : Nat) : State :=
  match mget s.groups k with
  | none => s
  | some g =>
    match mget s.objs g.bar with
    | none => s
    | some o =>
      match (o.memberIx true).head? with
      | none => s
      | some m =>
        if g.lead = s.net.index && g.plan.any (·.reached.isSome) && ((o.members[m]?).any fun x => decide (x.arrivals ≤ o.oldest)) then
          syncRun s [.arrive g.bar m s.time.tread]
        else s

/-- A plan whose messages every member has answered has reached them; while a step runs its fetches go ahead and the FLOOR member arrives
at once (R206, R316, R327). -/
def planReached (s : State) (k : Nat) : State :=
  match mget s.groups k with
  | none => s
  | some g =>
    match g.plan with
    | none => s
    | some p =>
      if p.msgs.isEmpty && p.reached.isNone then
        let s := prefetchPages (setGroup s { g with plan := some { p with reached := some s.time.tread } }) k
        if g.run.isSome then floorArrive s k else s
      else s

/-- Plans the next step from the candidates of a group, and sends the plan to every member; a plan without an entry is none (R323, R328). -/
def planStep (s : State) (g : Group) (k : Nat) : State :=
  let is := groupInsts s g
  let c := withTokenRoom s g (candidates s g)
  let x := is.foldl (fun (x : State × Group × List PEntry × List (Nat × Nat × KvPage) × Nat) i =>
    let y := planInst x.1 x.2.1 c.2 i.1 i.2
    (y.1, y.2.1, x.2.2.1 ++ y.2.2.1, x.2.2.2.1 ++ y.2.2.2.1, max x.2.2.2.2 y.2.2.2.2)) (c.1, g, [], [], 0)
  let es := x.2.2.1
  if es.isEmpty then setGroup x.1 x.2.1
  else
    let g := x.2.1
    let gen := (g.gen + b2n g.run.isSome) % 2 ^ 32
    let p : Plan := { stepNo := g.stepNo + b2n g.run.isSome, gen := gen, entries := es, msgs := [], reached := none }
    let new := (es.map (·.req)).filter fun r => (g.req? r).any (·.lastIn == 0)
    let g := { g with reqs := mmap g.reqs fun r q => if es.any (·.req == r) then { q with lastIn := p.stepNo + 1 } else q }
    let d := demotePages x.1 g
    let d := promotePages d.1 d.2 (es.map (·.req))
    let body := planBody d.1 d.2 p (is.map (·.1)) (x.2.2.2.1 ++ movesSince g d.2) new
    let sent := (otherMembers d.1).foldl (fun (x : State × List Nat) m =>
      (sendCtrl x.1 m g.ctx .firmware body, x.2 ++ [x.1.net.msgNext])) (d.1, [])
    let s := { sent.1 with fv := sent.1.fv + 4096 * is.length }
    planReached (setGroup s { d.2 with plan := some { p with msgs := sent.2 }, chunk := x.2.2.2.2, freed := [] }) k

/-- STEP_PLAN: the lead plans the next step of a group and sends the plan to every member; a plan without an entry is
none (R323, R328). -/
def stepPlan (s : State) (k : Nat) : State :=
  match mget s.groups k with
  | none => s
  | some g =>
    if g.lead ≠ s.net.index || g.plan.isSome || !coresRun s || s.flt.sliceStopped then s
    else
      let y := endLong s g
      planStep y.1 y.2 k

/-- STEP_PLAN (R323). -/
def execStepPlan (group : Nat) (s : State) : Host.Outcome State Fault Refusal := .next <| unfused s (stepPlan s group)

/-- GROUP_FIRST_STEP: a group that runs no step has a plan with an entry on every member; the FLOOR member arrives
(R328). -/
def execGroupFirstStep (group : Nat) (s : State) : Host.Outcome State Fault Refusal :=
  .next <| unfused s <| if (mget s.groups group).any fun g => g.run.isNone then floorArrive s group else s

/-! ### A plan received (Table 12-23) -/

/-- The entries of one lengths table. -/
def entriesOf (i : Nat) (tab : Bytes) : List PEntry :=
  (List.range (fld tab 0 4)).map fun j =>
    let e := slice tab (64 + 32 * j) 32
    let n := byteAt e 3
    { inst := i, req := fld e 0 2, chunk := byteAt e 2 == 1,
      nodes := (List.range n).map fun x => (byteAt tab (fld e 20 4 + 4 * x), byteAt tab (fld e 20 4 + 4 * x + 1)),
      first := fld e 4 2, len := fld e 8 4, pages := [], toks := List.replicate (if byteAt e 2 = 1 then fld e 6 2 else 0) 0,
      ends := false, set := 0 }

/-- Bytes of one lengths table. -/
def tableLen (tab : Bytes) : Nat :=
  64 + 32 * fld tab 0 4 + 4 * ((List.range (fld tab 0 4)).map fun j => byteAt tab (64 + 32 * j + 3)).sum

/-- The entries of the tables of a list of instances. -/
def tablesOf : List Nat → Bytes → List PEntry
  | [], _ => []
  | i :: is, b => entriesOf i b ++ tablesOf is (b.drop (tableLen b))

/-- A request that a member learns of from a plan. -/
def Req.fromPlan (params : Bytes) (admitter now : Nat) : Req :=
  { state := .prefill, params := params, admitter := admitter, inst := 0, left := [], toks := [], share := 0, len := 0,
    pend := none, counts := [], maxNew := fld params 28 4, kept := 0, ttftAt := none, tbtAt := none, tokened := false,
    admitAt := now, openAt := now, adapter := none, pages := [], drops := 0, status := 0, cancels := [], closer := none,
    lastIn := 1, lost := false, got := 0 }

/-- Applies an allocation record to a member's copy of a page table. A frame of the other tier for a page that the member has starts the copy
of the page on this member too (R285; notes/assumptions/22.md). -/
def applyAlloc (x : State × Group) (b : Bytes) : State × Group :=
  let r := fld b 0 2
  match x.2.req? r with
  | none => x
  | some q =>
    let p : KvPage := { frame := fld b 8 4, inT3 := byteAt b 2 == 1, dest := none, prov := byteAt b 3 == 1 }
    let j := fld b 4 4
    match q.pages[j]? with
    | none => (x.1, x.2.setReq r { q with pages := q.pages ++ [p] })
    | some old =>
      if old.inT3 = p.inT3 then (x.1, x.2.setReq r { q with pages := q.pages.set j p })
      else (countFrames (copyPage x.1 x.2 old p.frame) 0 [p], x.2.setReq r { q with pages := q.pages.set j { old with dest := some p.frame } })

/-- Applies a free record. -/
def applyFree (g : Group) (b : Bytes) : Group :=
  match g.req? (fld b 0 2) with
  | none => g
  | some q => g.setReq (fld b 0 2) { q with pages := q.pages.take (fld b 4 4) }

/-- Takes a STEP_PLAN body (Table 12-23). -/
def takePlan (s : State) (ctx src : Nat) (b : Bytes) : State :=
  match mget s.groups (groupKey ctx (byteAt b 1)) with
  | none => s
  | some g =>
    let n := fld b 24 4
    let a := fld b 28 4
    let f := fld b 32 4
    let q := fld b 36 4
    let offA := 64 + ceilDiv n 16 * 16
    let offF := offA + ceilDiv (12 * a) 16 * 16
    let offQ := offF + ceilDiv (12 * f) 16 * 16
    let g := (List.range f).foldl (fun g i => applyFree g (slice b (offF + 12 * i) 12)) g
    let g := (List.range q).foldl (fun g i =>
      let r := slice b (offQ + 144 * i) 144
      g.setReq (fld r 0 2) (.fromPlan (slice r 16 128) src s.time.tread)) g
    let y := (List.range a).foldl (fun x i => applyAlloc x (slice b (offA + 12 * i) 12)) (s, g)
    let s := y.1
    let g := y.2
    let es := (tablesOf ((groupInsts s g).map (·.1)) (slice b 64 n)).map fun e =>
      { e with pages := (g.req? e.req).elim [] (·.pages), set := (g.req? e.req).elim 0 Req.set }
    let held (r : Nat) (q : Req) : Req :=
      (es.find? fun e => e.req == r).elim q fun e => { q with inst := e.inst, len := e.len }
    let g := { g with reqs := mmap g.reqs held }
    let p : Plan := { stepNo := fld b 8 8, gen := fld b 4 4, entries := es, msgs := [], reached := some s.time.tread }
    prefetchPages (setGroup s { g with plan := some p }) (groupKey ctx (byteAt b 1))

end Sys2Proof.Machine
end

