-- ==== Sys2Proof/Machine/Work.lean ====
section
/-!
DEFINITION. The operations that firmware forms for a serving step, operator by operator, from the step's lengths table, its route tables and
the adapter versions in it, and hands to the operation expander (07 R239; 08 R259, R271; 09 R299, R307). What the manual leaves to firmware in
their records is free: notes/assumptions/102.md.
-/
namespace Sys2Proof.Machine

/-- An operator of the plan in one pass of an instance's step: instance number and instance, group, entries, pass, operator number. -/
structure StepOp where
  k    : Nat
  i    : Inst
  g    : Group
  es   : List PEntry
  pass : Nat
  op   : Nat
  o    : ShapeOp

/-- Tokens of the step in the instance: TOKENS of the lengths table's header. -/
def StepOp.tokens (x : StepOp) : Nat := (x.es.map entrySize).sum

/-- The layer that the operator works on in the pass. -/
def StepOp.layer (x : StepOp) : Nat := opLayer x.i.uid x.op x.pass

/-- The record of firmware for position `pos` of the operator, with its kind, number and rows (Table 7-1, R271). -/
def StepOp.record (x : StepOp) (pos m : Nat) : Bytes :=
  let r := leBytes 128 (stepRecord x.i.uid x.op x.pass pos).toNat
  [x.o.kind, byteAt r 1 % 2].map (BitVec.ofNat 8) ++ leBytes 2 x.op ++ leBytes 4 m ++ slice r 8 104 ++ leBytes 16 0

/-- One problem of `m` rows as the record at `pos` gives its other operands. -/
def StepOp.prob (x : StepOp) (pos m : Nat) : Prob :=
  let r := x.record pos m
  { pos := pos, m := m, n := fld r 8 4, k := fld r 12 4, bias := bit (byteAt r 1) 0, a := handleAt r 24, b := handleAt r 36,
    c := handleAt r 48, v := handleAt r 60, scale := foldScale x.o (fld r 20 4) (fld r 104 4) (fld r 108 4), paged := false }

/-- Firmware's problems stay within the plan, and their handles name what they need (Table 7-6). -/
def StepOp.fits (s : State) (x : StepOp) (p : Prob) : Bool :=
  decide (p.m ≤ x.o.maxM ∧ p.n ≤ x.o.maxN ∧ p.k ≤ x.o.maxK) && (x.o.biasOk || !p.bias) && handlesFit s x.g.ctx x.o p

/-- The groups of an operation take their positions in its table (R249). -/
def inTable (ps : List Prob) : List Prob := ps.zipIdx.map fun p => { p.1 with pos := p.2 }

/-! ### Batched operators -/

/-- The problems of a BATCHED operator: M is TOKENS (R271). -/
def StepOp.batch (s : State) (x : StepOp) : List Prob :=
  let r := x.record 0 x.tokens
  let ps := probsOf x.o r []
  if recordOk x.o x.op r [] && shapeFits x.o r ps && biasAndStream (instShape s x.i) x.o r ps && ps.all (x.fits s) then ps else []

/-- The query rows of an entry for one head group, as token of the entry and query head: row `t × Q_PER_KV + h` holds head `h` of token `t`
(R259). -/
def queryRows (l : KvLay) (e : PEntry) : List (Nat × Nat) :=
  (List.range (entrySize e)).flatMap fun t => (List.range l.qPerKv).map fun h => (t, h)

/-- The problems of an operator of attention: one for each entry, of its query rows, whose keys and values come as pages (R259, R271). -/
def StepOp.attention (s : State) (x : StepOp) : List Prob :=
  (x.es.zipIdx.map fun e => { x.prob e.2 (queryRows (kvLay x.g.kv) e.1).length with paged := true }).filter (x.fits s)

/-! ### Adapters (R307) -/

/-- The adapter version that a request is bound to: its ID and version. -/
def Req.version (q : Req) : Option (Nat × Nat) := if fld q.params 8 4 = 0 then none else some (fld q.params 8 4, fld q.params 12 4)

/-- Rows of the requests of the step that are bound to a version. -/
def StepOp.rowsOf (x : StepOp) (v : AdVer) : Nat :=
  ((x.es.filter fun e => (x.g.req? e.req).any fun q => q.version == some (v.id, v.version)).map entrySize).sum

/-- The versions present in the step. -/
def StepOp.versions (s : State) (x : StepOp) : List AdVer := (s.adapters.map (·.2)).filter fun v => v.ctx == x.g.ctx && x.rowsOf v != 0

/-- The projection that an operator serves as down or up operation: its number, whether it is the up operation, and the ADAPT region
(Table 9-10). -/
def StepOp.projection (s : State) (x : StepOp) : Option (Nat × Bool × Bytes) :=
  match (instImg s x.i).regions 0x0104 with
  | [] => none
  | (_, r) :: _ =>
    ((List.range (fld r 2 2)).flatMap fun t =>
      (if fld r (64 + 32 * t + 8) 2 = x.op then [(t, false, r)] else []) ++
        if fld r (64 + 32 * t + 10) 2 = x.op then [(t, true, r)] else []).head?

/-- Bytes of the two matrices of a target in a share (Table 9-5). -/
def shareMats (r head : Bytes) (t : Nat) : Nat × Nat :=
  let rank := 64 * ceilDiv (fld head 8 2) 64
  (tiledBytes (byteAt head 6) false rank (fld r (64 + 32 * t) 4), tiledBytes (byteAt head 6) false (fld r (64 + 32 * t + 4) 4) rank)

/-- Where a matrix lies in a share: layer after layer, in each the targets in rising bit order, A before B. -/
def shareOff (r head : Bytes) (layer t : Nat) (up : Bool) : Nat :=
  let size (u : Nat) : Nat := if bit (fld head 0xC 4) u then (shareMats r head u).1 + (shareMats r head u).2 else 0
  layer * ((List.range 32).map size).sum + ((List.range t).map size).sum + if up then (shareMats r head t).1 else 0

/-- The group of one version in the down or the up operation of projection `t`: M the rows of its requests; the down result has RANK columns
and out scale 1.0, the up result the projection's output columns and out scale ALPHA (R307). -/
def StepOp.adapterProb (s : State) (x : StepOp) (t : Nat) (up : Bool) (r : Bytes) (v : AdVer) : Option Prob :=
  let first := fld r (64 + 32 * t + 14) 2
  let rank := fld v.head 8 2
  match v.homes.find? (·.1 == s.net.index) with
  | none => none
  | some h =>
    if !bit (fld v.head 0xC 4) t || decide (x.layer < first ∨ first + fld r (64 + 32 * t + 16) 2 ≤ x.layer) then none
    else some { x.prob 0 (x.rowsOf v) with
      n := if up then fld r (64 + 32 * t + 4) 4 else rank, k := if up then rank else fld r (64 + 32 * t) 4, bias := false,
      b := (h.2, shareOff r v.head (x.layer - first) t up), scale := if up then fld v.head 0x18 4 else f32OfNat 1 }

/-- The groups of a down or up operation: one for each version present. -/
def StepOp.adapters (s : State) (x : StepOp) (t : Nat) (up : Bool) (r : Bytes) : List Prob :=
  inTable (((x.versions s).filterMap (x.adapterProb s t up r)).filter (x.fits s))

/-! ### Experts (R299) -/

/-- The groups of one half of an expert projection whose MODE is EXPANDED: for each expert of this module the rows that the half keeps. An
IN_FABRIC projection takes its rows from the dispatch headers: firmware forms no operation for it (R299). -/
def StepOp.experts (s : State) (x : StepOp) (half : Nat) : List Prob :=
  match (routeFor (((instImg s x.i).regions 0x0101).map (·.2)) x.layer), stepRoute s x.k x.i x.layer with
  | some r, some y =>
    if (routeHead r).mode ≠ 0 then []
    else inTable (((List.range (routeHead r).experts).map fun e => x.prob (2 * e + half) (keptRows y.entries half e)).filter (x.fits s))
  | _, _ => []

/-! ### A pass of a step -/

/-- The items of an operator in one pass: an expert projection has an operation for each half. -/
def StepOp.items (s : State) (x : StepOp) : List Item :=
  let of := itemsOf (instShape s x.i) x.o
  if x.o.kind = 1 then of (if (opPool x.i.uid x.op x.pass).isSome then x.attention s else x.batch s)
  else match x.projection s with
    | some (t, up, r) => of (x.adapters s t up r)
    | none => of (x.experts s 0) ++ of (x.experts s 1)

/-- Firmware forms the operations of a pass of the step of instance `k` of a group, and the expander writes their work lists (R239, R247). -/
def expandPass (s : State) (g : Group) (k : Nat) (i : Inst) (pass : Nat) : State :=
  match g.run with
  | none => s
  | some p =>
    let es := p.entries.filter fun e => e.inst == k
    (instShape s i).ops.zipIdx.foldl (fun s o =>
      expandOp s i g.startAt o.2 o.1 (StepOp.items s ⟨k, i, g, es, pass, o.2, o.1⟩)) s

end Sys2Proof.Machine
end

