-- ==== Sys2Proof/Machine/Steps.lean ====
section
/-!
DEFINITION. Starting and settling a step (10 R319 to R328, R333 to R344; 08 R275 to R285; 09 R294 to R297; Table 12-24).
-/
namespace Sys2Proof.Machine

/-! ### Start -/

/-- Writes an instance's lengths table to every tile of every tile group (Table 8-1 LT_T1, Table 8-4). -/
def writeLengths (s : State) (g : Group) (i : Inst) (tab : Bytes) : State :=
  if g.kv.isEmpty then s
  else
    let l := kvLay g.kv
    let ts := instTiles i
    ((List.range l.pools).flatMap (kvGroup g.kv)).eraseDups.foldl (fun s r =>
      storeTier s 0 (t1Off (ts.getD r 0) l.ltT1) (tab.take l.ltLen)) s

/-- The relative tiles of an instance's first stage: those whose lanes run and take nothing from the fabric (DEDUCED: R205 does not say which
stage is the first; notes/assumptions/99.md). -/
def firstStage (s : State) (i : Inst) : List Nat :=
  ((instTiles i).zipIdx.filter fun t =>
    let c := (tileOf s t.1).cfg
    c.toLane.isEmpty && c.segs.any fun g => g.2 != 0).map (·.2)

/-- What of a step is to start after its beginning: the harness's other passes, and the other micro-batches of the first stage. -/
def stepWork (s : State) (i : Inst) : Work :=
  let n := (instShape s i).micro - 1
  { passes := layerPasses i.uid - 1, micro := if n = 0 then [] else (firstStage s i).map (·, n) }

/-- The tiles of an instance start a step at tread `t`: rearmed, with the step's number and generation, and its exchange
streams open (R23, R93, R132, R195, R304). -/
def startInst (s : State) (k : Nat) (i : Inst) (t stepNo gen : Nat) : State :=
  let ts := instTiles i
  let s := onTiles s ts fun x => rearmTile { x with stalled := true }
  let i := { i with running := true, stepNo := stepNo, stepGen := gen, failed := none, startAt := t, work := stepWork s i }
  openExchange (closeExchange
    { s with busy := true, insts := mset s.insts k i,
             streams := mmap s.streams fun _ st => if ts.contains st.tile then { st with ahead := false } else st } ts) i

/-- The part of a plan that does not start, since its instances switch, unbind or are captured: its requests are planned again (R152, R282). -/
def deferPart (s : State) (k : Nat) (p : Plan) : State :=
  let rest := (p.entries.map (·.inst)).eraseDups.filter fun i => !((mget s.insts i).any Inst.serves)
  rest.foldl (fun s i => leaveRun ((mget s.groups k).elim s fun g => failReqs s g i none) k i) s

/-- Starts the released step of a group at its release tread `t`, on the instances that serve: lengths tables, page fetches and the work
lists of the first pass (R239, R247, R275, R327, R328). -/
def startGroup (s : State) (g : Group) (p : Plan) (t : Nat) : State :=
  let is := (groupInsts s g).filter fun i => i.2.serves
  let run := { g with plan := none, run := some p, release := none, startAt := t, stepNo := p.stepNo, gen := p.gen, pre := [] }
  let s := setGroup s run
  let s := deferPart s g.key p
  is.foldl (fun s i =>
    let es := p.entries.filter fun e => e.inst == i.1
    let s := writeLengths s g i.2 (lengthsTable s.fv t es)
    let s := emitPages (startInst s i.1 i.2 t p.stepNo p.gen) g i.1 i.2 es
    startGraphs (expandPass s run i.1 i.2 0) i.1) s

/-- A step-start tread at which no instance of the plan may start: the plan stands, and the member arrives again for the next one (R152). -/
def deferGroup (s : State) (g : Group) : State := groupArrive (setGroup s { g with release := none }) g.key

/-- An instance that only RUN_GRAPHs wait for starts a step of its own (Table 13-11; notes/assumptions/24.md). -/
def startAlone (s : State) (i : Nat × Inst) : State :=
  if i.2.serves && !i.2.running && s.graphs.any fun x => x.2.inst == i.1 && !x.2.parked && decide (x.2.start ≤ s.time.tread) then
    startGraphs (startInst s i.1 i.2 s.time.tread i.2.stepNo i.2.stepGen) i.1
  else s

/-- STEP_START: a group's step barrier releases and the planned step starts; its start tread is the release tread, the same on every member,
also where one comes to it late (R23, R327, R328, R359); in A1 too, whose lanes then run from A1_EXIT on (R529). It waits for a step that
RUN_GRAPHs run on an instance of the group, whose lanes are not halted (R132). -/
def execStepStart (group : Nat) (s : State) : Host.Outcome State Fault Refusal :=
  .next <| unfused s <| match mget s.groups group with
    | none => s
    | some g =>
      if s.flt.sliceStopped || !coresRun s then s
      else
        let s := if g.lead = s.net.index then
            let r := settleObj s g.bar (· == .arrival)
            syncRun r.1 r.2
          else s
        match mget s.groups group with
        | none => s
        | some g =>
          let is := groupInsts s g
          match g.release, g.plan with
          | some t, some p =>
            if s.time.tread < t ∨ g.run.isSome ∨ (is.any fun i => i.2.running) = true then s
            else if p.entries.any fun e => (mget s.insts e.inst).any Inst.serves then startGroup s g p t
            else deferGroup s g
          | _, _ => is.foldl startAlone s

/-! ### Routing of a step -/

/-- The instance of each token slot of a step, the entries' slots one after another. -/
def slotInsts (p : Plan) : List Nat := p.entries.flatMap fun e => List.replicate (entrySize e) e.inst

/-- The routing of layer `l` on the instances of a step, each with the rows of its own slots (R288, R294). -/
def routeInsts (s : State) (g : Group) (p : Plan) (l : Nat) (rows : List (List W32)) : AMap LayerRoute :=
  let owners := slotInsts p
  ((groupInsts s g).filter fun i => owners.contains i.1).filterMap fun i =>
    (routeFor (((instImg s i.2).regions 0x0101).map (·.2)) l).map fun r =>
      let h := routeHead r
      (i.1, routeLayer h (h.layer r l) (instSets p i.1) (((List.zip owners rows).filter (·.1 == i.1)).map (·.2)))

/-- The routing of a step, layer by layer, and the drops of each layer by slot of the step; `routing` gives each layer's logits in slot
order (Table 9-9). -/
def routeStep (s : State) (g : Group) (p : Plan) (routing : List LayerLogits) : State × List (List Nat) :=
  let owners := slotInsts p
  routing.zipIdx.foldl (fun (x : State × List (List Nat)) l =>
    let ys := routeInsts s g p l.2 l.1.rows
    let s := ys.foldl (fun s y =>
      fwBump (fwBump (fwBump (fwBump s (kExp 0) y.2.kept) (kExp 1) y.2.lost) (kExp 2) y.2.ties) (kExp 3) y.2.idle) x.1
    let drops := owners.zipIdx.map fun o => (mget ys o.1).elim 0 fun y => y.drops.getD ((owners.take o.2).count o.1) 0
    (s, if ys.isEmpty then x.2 else x.2 ++ [drops])) (s, [])

/-- Selections lost by a slot over all layers. -/
def slotDrops (ds : List (List Nat)) (slot : Nat) : Nat := (ds.map fun d => d.getD slot 0).sum

/-! ### Settling one entry -/

/-- What settling gathers: the state, the group, records for admitting modules, the flight's counts. -/
structure Settling where
  s    : State
  g    : Group
  recs : List (Nat × Settled)
  cnt  : FlightCnt

/-- A record of kept tokens, or of an end with them. -/
def keptRecord (g : Group) (r : Nat) (q : Req) (toks : List Nat) (status : Nat) (ended : Bool) : Nat × Settled :=
  (q.admitter, { rid := g.rid r, len := q.len, toks := toks, status := status, ended := ended, replay := false,
                 drops := q.drops })

/-- Frees the pages beyond a committed length; PROV clears on the others (R281). -/
def dropPages (s : State) (q : Req) : State × Req :=
  let keep := pagesFor q.len
  let gone := q.pages.drop keep
  (fwBump (countFrames s 2 (allFrames gone)) (kKv 4) gone.length,
   { q with pages := (q.pages.take keep).map fun p => { p with prov := false } })

/-- How a request stands after its tokens: a STOP token or MAX_NEW ends generation (R341), then the length limit (R257)
and a TTFT missed under END_TTFT (R321) end the request. -/
def settleEnd (x : Settling) (p : Shape) (r : Nat) (q : Req) (toks : List Nat) (late : Bool) : Settling :=
  let stop := (toks.getLast?).any fun t => q.stops.contains t
  let full := decide (q.maxNew ≤ q.kept)
  if stop || full then
    let st := if stop then stOk else stOkPartial
    let q := { q with state := .held, status := st }
    { x with g := x.g.setReq r q, recs := x.recs ++ [keptRecord x.g r q toks st true] }
  else
    let x := { x with g := x.g.setReq r q, recs := x.recs ++ [keptRecord x.g r q toks 0 false] }
    let err := if atLimit p q.len then some eLength else if late && q.endTtft then some eSlo else none
    match err with
    | none => x
    | some e =>
      let y := endReq x.s x.g r e
      { x with s := y.1, g := y.2, recs := x.recs ++ [endRecord x.g r e q] }

/-- Settles a tree entry (R334, R335, R338, R340; R279, R280). `slot` is the step-wide number of its first slot. -/
def settleTree (x : Settling) (p : Shape) (e : PEntry) (o : EntryOut) (q : Req) (slot : Nat) (ds : List (List Nat)) :
    Settling :=
  let w := walkTree q.sampling e.nodes o.nodeTokens o.logits q.len (e.nodes.length + 1) q.counts 0 0
  let a := w.1.length - 1
  let room := q.maxNew - q.kept
  let upTo := ((w.2.findIdx? fun t => q.stops.contains t).map (· + 1)).getD w.2.length
  let kept := w.2.take (min room upTo)
  let n := kept.length
  let s := compact x.s x.g q.pages q.len w.1
  let now := s.time.tread
  let miss := q.tbtAt.any fun d => decide (d < now)
  let s := fwBump (fwBump (fwBump (fwBump s (kSrv e.inst 2) n) (kSrv e.inst 3) (e.nodes.length - 1)) (kSrv e.inst 4) a)
    (kSrv e.inst 7) (b2n miss)
  let lost := ((w.1.take (1 + min a n)).map fun m => slotDrops ds (slot + m)).sum
  let q := { q with len := q.len + 1 + min a n, pend := if n = a + 1 then kept.getLast? else none,
                    counts := addCounts q.counts kept, kept := q.kept + n, toks := q.toks ++ kept,
                    drops := satAdd 0xFFFFFFFF q.drops lost,
                    tbtAt := if q.tbt = 0 then none else some (now + q.tbt) }
  let y := dropPages s q
  settleEnd { x with s := y.1, cnt := { x.cnt with tbtMiss := x.cnt.tbtMiss + b2n miss, settles := x.cnt.settles + 1 } }
    p e.req y.2 kept false

/-- Writes an EMBED or SCORE result, FP32 values, to OUT (R340). -/
def writeOut (s : State) (q : Req) (vals : List W32) : State :=
  let h := handleAt q.params 64
  match dirGet s h.1 with
  | none => s
  | some e => if e.modIx = s.net.index then objWrite s e h.2 (vals.flatMap fun v => leBytes 4 v.toNat)
      else writeFar s e.modIx e.ctx .firmware h.1 h.2 e.epoch (vals.flatMap fun v => leBytes 4 v.toNat) []

/-- Settles a prefill chunk: its tokens commit; the last chunk settles the first token, or writes the result (R340,
R319). -/
def settleChunk (x : Settling) (p : Shape) (e : PEntry) (o : EntryOut) (q : Req) (slot : Nat) (ds : List (List Nat))
    (ends prefill : Bool) : Settling :=
  let n := e.toks.length
  let s := fwBump x.s (kSrv e.inst 5) n
  let now := s.time.tread
  let lost := ((List.range n).map fun i => slotDrops ds (slot + i)).sum
  let q := { q with len := q.len + n, left := q.left.drop n, pend := none, drops := satAdd 0xFFFFFFFF q.drops lost }
  let y := dropPages s q
  let x := { x with s := y.1, cnt := { x.cnt with chunked := x.cnt.chunked + (if prefill then n else 0) } }
  let q := y.2
  let late := q.ttftAt.any fun d => decide (d < now)
  if !ends then { x with g := x.g.setReq e.req q }
  else
    let x := { x with s := fwBump x.s (kSrv e.inst 6) (b2n late) }
    if q.output ≠ 0 then
      let s := writeOut x.s q (o.logits.headD [])
      let z := endReq s (x.g.setReq e.req q) e.req stOk
      { x with s := z.1, g := z.2, recs := x.recs ++ [endRecord x.g e.req stOk q] }
    else
      let t := sampleToken q.sampling q.counts q.len (o.logits.headD [])
      let s := fwBump x.s (kSrv e.inst 2) 1
      let q := { q with state := .decode, pend := some t, counts := addCounts q.counts [t], kept := q.kept + 1,
                        toks := q.toks ++ [t], tokened := true, ttftAt := none,
                        tbtAt := if q.tbt = 0 then none else some (now + q.tbt) }
      settleEnd { x with s := s } p e.req q [t] late

/-- Settles one entry. -/
def settleEntry (x : Settling) (e : PEntry) (o : EntryOut) (slot : Nat) (ds : List (List Nat)) : Settling :=
  match x.g.req? e.req, mget x.s.insts e.inst with
  | some q, some i =>
    let p := instShape x.s i
    if x.g.lead = x.s.net.index ∧ !q.live then x
    else if e.chunk then
      let ends := e.ends || (x.g.lead != x.s.net.index && !o.logits.isEmpty)
      settleChunk x p e o q slot ds ends (x.g.preOv != 0 && i.overlay == x.g.preOv)
    else settleTree x p e o q slot ds
  | _, _ => x

/-! ### The whole step -/

/-- TTFT deadlines that have passed end their requests under END_TTFT (R321). -/
def applySlo (x : Settling) : Settling :=
  x.g.reqs.foldl (fun x r =>
    match x.g.req? r.1 with
    | none => x
    | some q =>
      if q.state = .prefill ∧ q.endTtft ∧ !q.tokened ∧ (q.ttftAt.any fun d => decide (d ≤ x.s.time.tread)) then
        let s := fwBump x.s (kSrv q.inst 6) 1
        let y := endReq s x.g r.1 eSlo
        { x with s := y.1, g := y.2, recs := x.recs ++ [endRecord x.g r.1 eSlo q] }
      else x) x

/-- The copies under way take the place of their sources (R285, Table 8-6). -/
def switchPages (s : State) (g : Group) : State × Group :=
  g.reqs.foldl (fun x r =>
    match (x.2).req? r.1 with
    | none => x
    | some q =>
      let moved := q.pages.filter (·.dest.isSome)
      let s := fwBump (fwBump x.1 (kKv 6) (moved.filter (!·.inT3)).length) (kKv 7) (moved.filter (·.inT3)).length
      let pages := q.pages.map fun p =>
        match p.dest with | some f => { p with frame := f, inT3 := !p.inT3, dest := none } | none => p
      (countFrames s 2 (moved.map fun p => { p with dest := none }), (x.2).setReq r.1 { q with pages := pages })) (s, g)

/-- A DECODE request on a PREFILL instance goes to the DECODE instance with the fewest DECODE requests (R330). -/
def reassign (s : State) (g : Group) (from_ : Nat → Bool) : Group :=
  let isPre (i : Inst) : Bool := g.preOv != 0 && i.overlay == g.preOv
  let dec := (groupInsts s g).filter fun i => !isPre i.2 && !from_ i.1
  g.reqs.foldl (fun g r =>
    match g.req? r.1 with
    | none => g
    | some q =>
      if q.state = .decode ∧ from_ q.inst then
        let load (i : Nat) : Nat := (g.reqs.filter fun x => x.2.state == .decode && x.2.inst == i).length
        match dec.foldl (fun (b : Option Nat) i =>
          match b with | none => some i.1 | some j => if load i.1 < load j then some i.1 else some j) none with
        | some i => g.setReq r.1 { q with inst := i }
        | none => g
      else g) g

/-- True where an instance carries no tree entries from its present step end on: it runs the prefill overlay, or drains
on its way to it (R330). -/
def leavesDecode (g : Group) (x : Inst) : Bool :=
  g.preOv != 0 && (x.overlay == g.preOv || x.sw.any fun w => w.state == .draining && w.overlay == g.preOv)

/-- The period of a step that completes now (R324): BASE takes the least without prefill, PER_TOKEN the mean over steps
with it. -/
def notePeriod (s : State) (g : Group) (p : Plan) : Group :=
  let t := s.time.tread + g.early - g.startAt
  let n := ((p.entries.filter (·.chunk)).map (·.toks.length)).sum
  if n = 0 then { g with bare := some (match g.bare with | some b => min b t | none => t) }
  else { g with perSum := g.perSum + (t - g.base) * 256 / n, perCnt := g.perCnt + 1 }

/-- True where an instance's step has come to its end: no pass and no micro-batch is to start, and the region is drained (R132, R150,
R205). -/
def stepDone (s : State) (i : Inst) : Bool := i.work.passes == 0 && i.work.micro.isEmpty && regionDrained s i

/-- The streams of an instance's tiles that hold nothing under way are closed at the end of its step; a STORE that its tile has handed
nothing to ends with it (notes/assumptions/23.md). -/
def closeStreams (s : State) (ts : List Nat) : State :=
  let s := closeExchange s ts
  let idle (f : Fetch) : Bool := f.kind == 2 && ts.contains f.tile && (mget s.streams f.key).all (·.out.isEmpty)
  let s := (s.movers.map (·.1)).foldl (fun s e =>
    setEngine s e ((engineQ s e).map fun f => if idle f then { f with done := true } else f)) s
  let busy (k : Nat) : Bool := s.movers.any fun q => q.2.any fun f => !f.done && f.key == k
  { s with streams := mkeep s.streams fun k st => !ts.contains st.tile || st.ahead || busy k }

/-- The step flags of an instance (Table 13-15). -/
def stepFlagsOf (s : State) (i : Inst) : Nat := (instTiles i).foldl (fun f t => orFlags f (tileOf s t).core.stepFlags) 0

/-- The RUN_GRAPHs of an instance whose region has drained complete (Table 13-15). -/
def finishGraphs (s : State) (k : Nat) (i : Inst) : State :=
  (s.graphs.filter fun g => g.2.inst == k && g.2.running).foldl (fun s g =>
    complete { s with graphs := merase s.graphs g.1 } g.1 stOk (stepFlagsOf s i) g.2.start) s

/-- An instance's step is over: it has completed, and its counter moves on (Table 10-10). -/
def endInst (s : State) (k : Nat) (i : Inst) : State :=
  let s := finishGraphs (closeStreams s (instTiles i)) k i
  { fwBump s (kSrv k 0) 1 with insts := madj s.insts k ({ · with running := false }) }

/-- The first slots of the entries, counted over the whole step. -/
def stepSlots (es : List PEntry) : List Nat :=
  (es.foldl (fun (x : Nat × List Nat) e => (x.1 + (if e.chunk then e.toks.length else e.nodes.length), x.2 ++ [x.1]))
    (0, [])).2

/-- Settles the running step of a group whose regions have drained (R340). -/
def settleGroup (s : State) (g : Group) (p : Plan) (outs : List EntryOut) (routing : List LayerLogits) : State :=
  let is := (groupInsts s g).filter (·.2.running)
  let r := routeStep s g p routing
  let slots := stepSlots p.entries
  let s := is.foldl (fun s i => endInst s i.1 i.2) r.1
  let x : Settling := { s := s, g := g, recs := [], cnt := { tbtMiss := 0, settles := 0, chunked := 0 } }
  let x := p.entries.zipIdx.foldl (fun x e =>
    settleEntry x e.1 (outs.getD e.2 { nodeTokens := [], logits := [] }) (slots.getD e.2 0) r.2) x
  let x := if g.lead = s.net.index then applySlo x else x
  let all := x.g.reqs.map (·.1)
  let y := applyEnds x.s x.g all
  let s := if g.lead = s.net.index then deliver y.1 y.2.1 p.stepNo p.gen (x.recs ++ y.2.2) else y.1
  let z := finishEnds s y.2.1 all
  let z := switchPages z.1 z.2
  let g := reassign z.1 z.2 fun i => (mget z.1.insts i).any (leavesDecode z.2)
  let f := flight z.1
  let old := mgetD g.flights f { tbtMiss := 0, settles := 0, chunked := 0 }
  let g := { (if p.stepNo < g.stepNo then g else notePeriod z.1 g p) with
    flights := mset (mkeep g.flights fun k _ => decide (f ≤ k + 2)) f
      { tbtMiss := old.tbtMiss + x.cnt.tbtMiss, settles := old.settles + x.cnt.settles,
        chunked := old.chunked + x.cnt.chunked },
    run := some p }
  let s := setGroup z.1 (g.stepOver p)
  if p.stepNo < g.stepNo then s else groupArrive s g.key

/-- STEP_SETTLE: every instance of the running step has drained; its results settle, and the member arrives at the
step-end barrier (R340). `outs` are what heads and sampler hand over, entry by entry, and `routing` the router logits,
layer by layer. For an instance that ran only RUN_GRAPHs its step ends. -/
def execStepSettle (group : Nat) (outs : List EntryOut) (routing : List LayerLogits) (s : State) :
    Host.Outcome State Fault Refusal :=
  .next <| unfused s <| match mget s.groups group with
    | none => s
    | some g =>
      let is := (groupInsts s g).filter (·.2.running)
      if !coresRun s then s
      else match g.run with
        | some p => if is.all fun i => stepDone s i.2 then settleGroup s g p outs routing else s
        | none => is.foldl (fun s i => if stepDone s i.2 then endInst s i.1 i.2 else s) s

/-- PERIOD_ESTIMATE_UPDATE: at a flight boundary the lead updates BASE and PER_TOKEN from the flight's steps (R324). -/
def execPeriodEstimateUpdate (group : Nat) (s : State) : Host.Outcome State Fault Refusal :=
  .next <| unfused s <| match mget s.groups group with
    | none => s
    | some g =>
      if s.time.tread % 4096 ≠ 0 ∨ g.lead ≠ s.net.index then s
      else setGroup s { g with base := g.bare.getD g.base,
                               perToken := if g.perCnt = 0 then g.perToken else g.perSum / g.perCnt,
                               bare := none, perSum := 0, perCnt := 0 }

/-- The entries of a SETTLE body (Table 12-24), `n` of them. -/
def settledOf : Nat → Bytes → List Settled
  | 0, _ => []
  | n + 1, b =>
    let k := byteAt b 8
    { rid := fld b 0 4, len := fld b 4 4, toks := (List.range k).map fun i => fld b (16 + 4 * i) 4, status := byteAt b 9,
      ended := bit (byteAt b 10) 0, replay := bit (byteAt b 10) 1, drops := fld b 12 4 } ::
      settledOf n (b.drop (16 + ceilDiv (4 * k) 16 * 16))

/-- Takes a SETTLE body: the admitting module writes the token records (R340). -/
def takeSettle (s : State) (ctx : Nat) (b : Bytes) : State :=
  (settledOf (fld b 24 4) (b.drop 32)).foldl (fun s r => writeSettled s ctx (fld b 8 8) r) s

end Sys2Proof.Machine
end

