-- ==== Sys2Proof/Machine/Binding.lean ====
section
/-!
DEFINITION. What HARNESS_BIND resolves and checks: BINDINGS records, the KV layout and pools, declared sync objects (04
R140; 08 Table 8-2, R261; 11 R346 to R352, Tables 11-3 and 11-4).
-/
namespace Sys2Proof.Machine

/-! ### Bindings (R140, Table 8-2) -/

/-- What a bind resolves: the objects, the KV layout object and its bytes, the pools by 65,536 × tier + pool index, data
for T1 by physical tile and T1 offset with the places of its poisoned words, and what is left of the bytes that other members' homes
give. -/
structure Resolve where
  objs   : List Nat
  layout : Nat
  kv     : Bytes
  pools  : AMap Nat
  t1     : List (Nat × Nat × Bytes × List Nat)
  far    : Bytes
  deriving DecidableEq, Repr

/-- The handle of a role in a binding table (Table 13-13): object and offset. -/
def roleHandle (roles : List (Nat × Nat × Nat)) (role : Nat) : Option (Nat × Nat) :=
  (roles.find? fun r => r.1 == role).map fun r => (r.2.1, r.2.2)

/-- The entries of a binding table. -/
def rolesOf (tab : Bytes) : List (Nat × Nat × Nat) :=
  (List.range (fld tab 0 4)).map fun i =>
    let e := slice tab (128 + 16 * i) 16
    (fld e 0 4, fld e 4 4, fld e 8 8)

/-- The object of a record: one of the context, present. -/
def recEntry (s : State) (ctx : Nat) (roles : List (Nat × Nat × Nat)) (r : BindRec) : Option (Nat × Nat × DirEntry) :=
  (roleHandle roles r.role).bind fun h =>
    (dirGet s h.1).bind fun e => if e.ctx = ctx ∧ !e.absent then some (h.1, h.2, e) else none

/-- The bytes of an object: its home's, or the next of those that another member gives. -/
def bindBytes (s : State) (e : DirEntry) (off n : Nat) (far : Bytes) : Bytes × Bytes :=
  if e.modIx = s.net.index then (objRead s e off n, far) else (padTo n far, far.drop n)

/-- True where the home of a kind 0 or 1 record lies where the record says (R140). -/
def homeInSlice (s : State) (ts : List Nat) (r : BindRec) (off : Nat) (e : DirEntry) : Bool :=
  e.modIx == s.net.index && e.tier == 1 && e.size == off + r.size &&
    if r.tile = 0xFFFF then (homeRuns e).all fun x => ts.contains (x.1 / 2 ^ 23) && x.1 % 2 ^ 23 == r.off
    else e.stripes == 1 && e.base + off == t2Off (ts.getD r.tile 0) r.off

/-- The codes of KV roles in the role field. -/
def isKvRole (role : Nat) : Bool := decide (1 ≤ role / 65536 ∧ role / 65536 ≤ 3)

/-- The LT_BYTES of a layout lie inside a declared T1 region of every tile of every tile group (Table 8-2). -/
def lengthsRoom (h : HImg) (b : Bytes) : Bool :=
  let l := kvLay b
  ((List.range l.pools).flatMap (kvGroup b)).all fun t =>
    (h.tiles[t]?).any fun x => x.maps.any fun m => decide (m.base ≤ l.ltT1 ∧ l.ltT1 + l.ltLen ≤ m.base + m.size)

/-- The KV layout of a bind: exactly one record when the harness has KV records at all (Table 8-2). -/
def resolveLayout (s : State) (ctx : Nat) (h : HImg) (roles : List (Nat × Nat × Nat)) (far : Bytes) : Option Resolve :=
  let none_ : Resolve := { objs := [], layout := 0, kv := [], pools := [], t1 := [], far := far }
  match h.binds.filter fun r => isKvRole r.role with
  | [] => some none_
  | kvs =>
    match kvs.filter fun r => r.role / 65536 == 1 with
    | [r] =>
      match recEntry s ctx roles r with
      | none => none
      | some (obj, off, e) =>
        let x := bindBytes s e off (e.size - off) far
        let p := shapeOf h.plan
        let l := kvLay x.1
        if r.kind == 3 && r.role % 65536 == 0 && e.tier == 2 && kvLayOk x.1 && lengthsRoom h x.1 &&
            decide (ceilDiv (p.maxSeq + l.tree - 1) 64 ≤ p.maxPages) then
          some { none_ with objs := [obj], layout := obj, kv := x.1, far := x.2 }
        else none
    | _ => none

/-- One pool record (Table 8-2). -/
def resolvePool (l : KvLay) (r : BindRec) (obj : Nat) (e : DirEntry) (x : Resolve) : Option Resolve :=
  let inT3 := r.role / 65536 == 3
  let key := 65536 * b2n inT3 + r.role % 65536
  let frames := if inT3 then l.f3 else l.f2
  if decide (0 < frames) && decide (r.role % 65536 < l.pools) && !mhas x.pools key && e.size == frames * l.pageBytes &&
      (if inT3 then r.kind == 3 && e.tier == 2
       else r.kind == 1 && r.tile == 0xFFFF && e.tier == 1 && e.stripeSize % l.pageBytes == 0) then
    some { x with objs := x.objs ++ [obj], pools := mset x.pools key obj }
  else none

/-- One BINDINGS record (R140). Poisoned data goes into T1 as poison (R219). -/
def resolveOne (s : State) (ctx : Nat) (ts : List Nat) (roles : List (Nat × Nat × Nat)) (r : BindRec) (x : Resolve) : Option Resolve :=
  match recEntry s ctx roles r with
  | none => none
  | some (obj, off, e) =>
    if isKvRole r.role then (if r.role / 65536 = 1 then some x else resolvePool (kvLay x.kv) r obj e x)
    else match r.kind with
      | 0 | 1 => if homeInSlice s ts r off e then some { x with objs := x.objs ++ [obj] } else none
      | 2 =>
        if e.size = off + r.size ∧ r.off + r.size ≤ 2 ^ 19 then
          let b := bindBytes s e off r.size x.far
          let bad := if e.modIx = s.net.index then objPoisonAt s e off r.size else []
          let dst := if r.tile = 0xFFFF then ts else [ts.getD r.tile 0]
          some { x with objs := x.objs ++ [obj], t1 := x.t1 ++ dst.map fun t => (t, r.off, b.1, bad), far := b.2 }
        else none
      | _ => if e.tier = 2 ∧ e.size = off + r.size then some { x with objs := x.objs ++ [obj] } else none

/-- Every record of a harness on the tiles of a region: a status and what is resolved. -/
def resolveAll (s : State) (ctx : Nat) (h : HImg) (ts : List Nat) (roles : List (Nat × Nat × Nat)) (far : Bytes) :
    Nat × Resolve :=
  let bad : Resolve := { objs := [], layout := 0, kv := [], pools := [], t1 := [], far := [] }
  match resolveLayout s ctx h roles far with
  | none => (ePerm, bad)
  | some x =>
    match h.binds.foldl (fun (y : Option Resolve) r => y.bind (resolveOne s ctx ts roles r)) (some x) with
    | none => (ePerm, bad)
    | some y =>
      let l := kvLay x.kv
      let want := if x.kv.isEmpty then 0 else l.pools * (b2n (decide (0 < l.f2)) + b2n (decide (0 < l.f3)))
      if y.pools.length ≠ want then (ePerm, bad) else (stOk, y)

/-! ### Placement (R130, R141, R142) -/

/-- True where a run of bays belongs to no instance. -/
def bayFree (s : State) (first n : Nat) : Bool :=
  s.insts.all fun i => decide (i.2.first + i.2.bays ≤ first ∨ first + n ≤ i.2.first)

/-- Bytes of the kind 0 and 1 objects that lie where their records require on a region (R142). -/
def bytesInPlace (s : State) (ctx : Nat) (h : HImg) (ts : List Nat) (roles : List (Nat × Nat × Nat)) : Nat :=
  (h.binds.map fun r =>
    if 2 ≤ r.kind || isKvRole r.role then 0
    else match recEntry s ctx roles r with
      | some (_, off, e) => if homeInSlice s ts r off e then r.size else 0
      | none => 0).sum

/-- The run that any placement takes: among the free runs on which every record holds, the one with the most bytes in
place, the lower first bay among equals (R142). -/
def choosePlace (s : State) (ctx : Nat) (h : HImg) (roles : List (Nat × Nat × Nat)) (far : Bytes) : Option Nat :=
  let runs := (List.range (9 - h.bays)).filter fun f =>
    bayFree s f h.bays && (resolveAll s ctx h (regionTiles f h.bays) roles far).1 == stOk
  (runs.foldl (fun (b : Option (Nat × Nat)) f =>
    let n := bytesInPlace s ctx h (regionTiles f h.bays) roles
    match b with
    | some (m, g) => if m < n then some (n, f) else some (m, g)
    | none => some (n, f)) none).map (·.2)

/-! ### Declared sync objects (R348 to R352, Table 11-3) -/

/-- A declaration: its bytes, members among them. -/
abbrev SyncDecl := Bytes

def SyncDecl.vid (d : SyncDecl) : Nat := fld d 0 2
def SyncDecl.kind (d : SyncDecl) : Nat := byteAt d 2
def SyncDecl.domain (d : SyncDecl) : Nat := byteAt d 3

/-- The members of a declaration. -/
def SyncDecl.members (d : SyncDecl) : List BMember :=
  (List.range (byteAt d 4)).map fun i =>
    let m := slice d (64 + 8 * i) 8
    { kind := byteAt m 2, id := fld m 0 2, floor := bit (byteAt m 3) 0, modIx := fld m 4 2, arrivals := 0 }

/-- The declarations of a region, `n` of them. -/
def declsFrom : Nat → Bytes → List SyncDecl
  | 0, _ => []
  | n + 1, b =>
    let len := 64 + if byteAt b 2 = 1 then 8 * byteAt b 4 else 0
    slice b 0 len :: declsFrom n (b.drop len)

/-- The SYNC region of a harness: that of relative tile 0. -/
def syncRegion (h : HImg) : Option Bytes := ((h.regions 0x0103).find? fun r => r.1 == 0).map (·.2)

/-- The declarations of a harness. -/
def declsOf (h : HImg) : List SyncDecl :=
  match syncRegion h with
  | some b => declsFrom (fld b 2 2) (b.drop 64)
  | none => []

/-- Fields of a declaration in range (Table 11-3). -/
def declOk (s : State) (d : SyncDecl) : Bool :=
  let k := d.kind
  let timed := bit (byteAt d 5) 0
  let home := fld d 26 2
  let limit := fld d 12 4
  decide (1 ≤ d.vid ∧ d.vid ≤ 0xFEFF ∧ k ≤ 3 ∧ d.domain ≤ 3) && decide (byteAt d 5 ≤ 3) && zeroAt d 7 1 && zeroAt d 28 36 &&
    (if k = 1 then decide (1 ≤ byteAt d 4 ∧ byteAt d 4 ≤ 64) else byteAt d 4 == 0) &&
    (if k = 2 then decide (1 ≤ limit) else if k = 3 then decide (1 ≤ limit ∧ limit ≤ 65536) else limit == 0) &&
    (!timed || decide (1 ≤ fld d 16 4)) &&
    (if d.domain = 3 then home == 0xFFFF || home == s.net.index || (memberOf s home).isSome else home == 0) &&
    (List.range (byteAt d 4)).all fun i =>
      let m := slice d (64 + 8 * i) 8
      decide (byteAt m 2 ≤ 4 ∧ byteAt m 3 ≤ 1) && zeroAt m 6 2

/-- The lead of R316: the ACTIVE member of the lowest index, this module without a slice record. -/
def leadIndex (s : State) : Nat :=
  match s.net.record with
  | none => s.net.index
  | some r => ((r.members.zipIdx.find? fun m => m.1.role == 0).map (·.2)).getD s.net.index

/-- The home of a declared object. -/
def SyncDecl.home (s : State) (d : SyncDecl) : Nat :=
  if d.domain ≠ 3 then s.net.index else if fld d 26 2 = 0xFFFF then leadIndex s else fld d 26 2

/-- The barrier of a list of declarations that has a virtual ID. -/
def declBarrier (ds : List SyncDecl) (vid : Nat) : Option SyncDecl := ds.find? fun d => d.vid == vid && d.kind == 1

/-- A member fits the domain of its barrier (Table 11-4, R350). -/
def memberFits (s : State) (h : HImg) (first : Nat) (ds : List SyncDecl) (d : SyncDecl) (m : BMember) : Bool :=
  let child := declBarrier ds m.id
  let ts := regionTiles first h.bays
  let bay (t : Nat) : Nat := bayOf (ts.getD t 0)
  match m.kind with
  | 0 => decide (m.id < 256 * h.bays ∧ d.domain ≤ 2) &&
      (d.domain != 0 || d.members.all fun x => x.kind == 0 && bay x.id == bay m.id)
  | 1 => child.any fun c => decide (c.domain < d.domain ∧ d.domain ≤ 2)
  | 2 => d.domain == 3 && (child.any fun c => decide (2 ≤ c.domain)) && (m.modIx == s.net.index || (memberOf s m.modIx).isSome)
  | 3 => decide (2 ≤ d.domain)
  | _ => d.domain == 2

/-- One round of taking out barriers whose member barriers are all out. -/
def dropLeaves (ds : List SyncDecl) : List SyncDecl :=
  ds.filter fun d => d.members.any fun m => (m.kind == 1 || m.kind == 2) && (declBarrier ds m.id).isSome

/-- No barrier is, through members, a member of itself. -/
def acyclic : Nat → List SyncDecl → Bool
  | 0, ds => ds.isEmpty
  | n + 1, ds => let r := dropLeaves ds; r.isEmpty || (decide (r.length < ds.length) && acyclic n r)

/-- A virtual ID already mapped in the context: shared where it is a COUNTER or SEMAPHORE declared identically. -/
def mappedOk (s : State) (ctx : Nat) (d : SyncDecl) : Bool :=
  match vidOf s ctx d.vid with
  | none => true
  | some (phys, home, kind) =>
    (d.kind == 0 || d.kind == 2) && d.kind == kind && home == d.home s &&
      (home != s.net.index || (mget s.objs phys).any fun o => o.decl == d)

/-- Declarations that need an object of this module. -/
def newDecls (s : State) (ctx : Nat) (ds : List SyncDecl) : List SyncDecl :=
  ds.filter fun d => (vidOf s ctx d.vid).isNone && d.home s == s.net.index

/-- Bytes of the WORK bitmaps in use. -/
def bitmapBytes (s : State) : Nat := ((s.objs.filter fun o => o.2.kind == 3).map fun o => ceilDiv o.2.limit 8).sum

/-- The status of a harness's declarations (R351). -/
def syncStatus (s : State) (ctx first : Nat) (h : HImg) : Nat :=
  let ds := declsOf h
  let hd := (syncRegion h).getD []
  let fresh := newDecls s ctx ds
  let bars := ds.filter fun d => d.kind == 1
  if hd.isEmpty then stOk
  else if !(fld hd 0 2 == 1 && decide (fld hd 2 2 ≤ 1024) && decide (1 ≤ byteAt hd 4 ∧ byteAt hd 4 ≤ 16) && zeroAt hd 5 1 &&
      decide (fld hd 6 2 ≤ 512) && zeroAt hd 8 56) then ePerm
  else if !(ds.all (declOk s) && (ds.map (·.vid)).eraseDups.length == ds.length &&
      (bars.all fun d => d.members.all (memberFits s h first ds d)) && acyclic bars.length bars &&
      ds.all (mappedOk s ctx)) then ePerm
  else if 4096 < s.objs.length + fresh.length ∨
      2097152 < bitmapBytes s + ((fresh.filter fun d => d.kind == 3).map fun d => ceilDiv (fld d 12 4) 8).sum then eCapacity
  else stOk

/-- A new sync object of a declaration for instance `k` (R352). -/
def objOf (s : State) (ctx k : Nat) (hd : Bytes) (d : SyncDecl) : SyncObj :=
  { kind := d.kind, domain := d.domain, ctx := ctx, vid := d.vid, users := [k], decl := d,
    value := if d.kind = 3 then 0 else fld d 8 4, limit := fld d 12 4, curGen := 0, baseGen := 0, finished := [],
    members := d.members.map fun m => if m.kind ≤ 1 ∨ 3 ≤ m.kind then { m with modIx := s.net.index } else m,
    timed := bit (byteAt d 5) 0, riser := bit (byteAt d 5) 1, waves := max 1 (byteAt hd 4), span := fld hd 6 2,
    lead := byteAt d 6, period := fld d 16 4, timeout := fld d 20 4, skewLimit := fld d 24 2, base := none, oldest := 0,
    gens := [], waiters := [], parent := none }

/-- Maps a virtual ID of a context. -/
def mapVid (s : State) (ctx vid phys home kind : Nat) : State :=
  { s with ctxs := mset s.ctxs ctx { ctxOf s ctx with vids := mset (ctxOf s ctx).vids vid (phys, home, kind) } }

/-- Allocates and maps one declaration. The number of an object at another home is that home's choice
(notes/assumptions/25.md). -/
def declare (s : State) (ctx k : Nat) (hd : Bytes) (d : SyncDecl) : State :=
  match vidOf s ctx d.vid with
  | some (phys, home, _) =>
    if home = s.net.index then { s with objs := madj s.objs phys fun o => { o with users := o.users ++ [k] } } else s
  | none =>
    if d.home s = s.net.index then
      match mfresh s.objs 4096 with
      | some p => mapVid (setObj s p (objOf s ctx k hd d)) ctx d.vid p s.net.index d.kind
      | none => s
    else
      let (v, s) := useFree s
      mapVid s ctx d.vid (v % 4096) (d.home s) d.kind

/-- The barrier that a declared barrier is a member of, once all are mapped. -/
def parentOf (s : State) (ctx : Nat) (ds : List SyncDecl) (vid : Nat) : Option Parent :=
  (ds.filter fun d => d.kind == 1).findSome? fun d =>
    ((d.members.zipIdx.find? fun m => m.1.id == vid &&
        (m.1.kind == 1 || (m.1.kind == 2 && m.1.modIx == s.net.index))).bind fun m =>
      (vidOf s ctx d.vid).map fun v => { home := v.2.1, phys := v.1, member := m.2 : Parent })

/-- Declares the objects of a harness for instance `k`. -/
def declareAll (s : State) (ctx k : Nat) (h : HImg) : State :=
  let ds := declsOf h
  let s := ds.foldl (fun s d => declare s ctx k ((syncRegion h).getD []) d) s
  { s with objs := mmap s.objs fun _ o =>
      if o.ctx = ctx ∧ o.users.contains k ∧ o.kind = 1 then { o with parent := parentOf s ctx ds o.vid } else o }

/-- Frees the objects that only instance `k` declared (R352). -/
def undeclareAll (s : State) (ctx k : Nat) : State :=
  let s := { s with objs := mmap s.objs fun _ o => if o.ctx = ctx then { o with users := o.users.filter (· != k) } else o }
  let gone := mkeys s.objs fun _ o => o.ctx == ctx && o.users.isEmpty && decide (o.vid < 0xFF00)
  let mine := (mget s.insts k).elim [] fun i => (declsOf (instImg s { i with overlay := 0 })).map (·.vid)
  let others := (s.insts.filter fun i => i.1 != k && i.2.ctx == ctx).flatMap fun i =>
    (declsOf (instImg s { i.2 with overlay := 0 })).map (·.vid)
  let c := ctxOf s ctx
  { s with objs := mkeep s.objs fun p _ => !gone.contains p,
           ctxs := mset s.ctxs ctx { c with vids := mkeep c.vids fun v _ => !mine.contains v || others.contains v } }

end Sys2Proof.Machine
end

