-- ==== Sys2Proof/Machine/Bind.lean ====
section
/-!
DEFINITION. HARNESS_BIND and its unbind, serving groups formed, joined and left (04 R138 to R144; 10 R314, R316, R328,
Table 10-5; 17 R544; Tables 13-11 and 13-13).
-/
namespace Sys2Proof.Machine

/-! ### Tiles of a harness (R132, R138) -/

/-- What a harness sets in a tile. -/
def cfgOf (t : TileImg) : TileCfg :=
  { prog := List.zip (List.range t.prog.length) t.prog, segs := t.segs, outSrc := t.outSrc.zipIdx.map fun x => (outIx x.2, x.1),
    toLane := laneTakes t, lcInit := t.lcInit, fInit := BitVec.ofNat 32 t.fInit, sInit := t.sInit }

/-- The rings that a harness declares, every queue empty. -/
def ringQueues (t : TileImg) : AMap Queue :=
  t.rings.foldl (fun m g => mset m g.queue { Queue.empty with ringBase := g.base, ringSize := g.slots }) []

/-- The words of program store `t` are written whole: none is wrong and none poisoned (R208, R218). -/
def freshProg (s : State) (t : Nat) : State :=
  { s with mem.sramBad := mkeep s.mem.sramBad fun k _ => k / 2 ^ 20 != t, mem.sramPoison := s.mem.sramPoison.filter (· / 2 ^ 20 != t) }

/-- A tile of no harness: T1, registers and banks zero, its configuration reserve cleared (R138 steps 2 and 3). Its queue-depth samples go on
being numbered (R122). -/
def clearTile (s : State) (t : Nat) : State :=
  setTile (zeroTier (zeroTier s 0 (t1Off t 0) (2 ^ 19)) 1 (t2Off t reserveOff) (2 ^ 18)) t { TileSt.empty with seq := (tileOf s t).seq }

/-- Writes a tile's configuration and its T1_INIT data (R138 steps 4 and 5). -/
def configTile (s : State) (k rel t : Nat) (x : TileImg) : State :=
  let s := setTile (freshProg s t) t { TileSt.empty with cfg := cfgOf x, inst := some k, rel := rel, core.queues := ringQueues x,
                                                          seq := (tileOf s t).seq }
  x.inits.foldl (fun s d => writeTier s 0 (t1Off t d.addr) d.data) s

/-- Changes BOUND_COUNT of a list of objects, and sends the changed entries to the members, a home's own among them (R177, R185). -/
def pinAll (s : State) (objs : List Nat) (up : Bool) : State :=
  objs.eraseDups.foldl (fun s o =>
    match dirGet s o with
    | some e => commitEntry s o { e with bound := if up then e.bound + 1 else e.bound - 1 }
    | none => s) s

/-- Places a harness on a run of bays as instance `k`: its tiles cleared, configured and rearmed, its bindings resolved,
epoch 0 (R138). -/
def placeInst (s : State) (k ctx uid group first : Nat) (h : HImg) (roles : List (Nat × Nat × Nat)) (x : Resolve) : State :=
  let ts := regionTiles first h.bays
  let s := ts.foldl clearTile s
  let s := (List.zip ts h.tiles).zipIdx.foldl (fun s t => configTile s k t.2 t.1.1 t.1.2) s
  let s := x.t1.foldl (fun s d => carryPoison (writeTier s 0 (t1Off d.1 d.2.1) d.2.2.1) 0 (t1Off d.1 d.2.1) d.2.2.2) s
  let s := pinAll (onTiles s ts rearmTile) x.objs true
  let i : Inst :=
               { ctx := ctx, uid := uid, group := group, first := first, bays := h.bays, wdog := h.wdog, overlay := 0,
                 parked := none, stalled := false, sw := none, unbind := none, bound := x.objs.eraseDups, stepGen := 0,
                 stepNo := 0, running := false, failed := none, startAt := s.time.tread, roles := roles, parkRun := none, work := { passes := 0, micro := [] },
                 parkWork := { passes := 0, micro := [] }, table := 0 }
  declareAll { s with insts := mset s.insts k i } ctx k h

/-! ### Groups (R314, R316, R328, Table 10-5) -/

/-- MODEL_UID of a harness. -/
def modelUid (h : Harness) : Nat := fld h.image 0x30 16

/-- True where a UID is zero or an overlay of a harness of the context. -/
def overlayFor (s : State) (ctx base uid : Nat) : Bool :=
  uid == 0 || (overlayOf s ctx uid).any fun o => o.2.base == base

/-- A group field of a binding table; zero stands for the default of Table 10-5 (notes/assumptions/26.md). -/
def orDefault (v d : Nat) : Nat := if v = 0 then d else v

/-- The status of the group part of a bind (R314, Table 10-5, Table 13-13). -/
def groupStatus (s : State) (ctx num : Nat) (h : Harness) (hdr : Bytes) (x : Resolve) : Nat :=
  if num = 0 ∨ !zeroAt hdr 12 20 ∨ !zeroAt hdr 64 64 then ePerm
  else match mget s.groups (groupKey ctx num) with
    | some g =>
      if zeroAt hdr 4 8 && zeroAt hdr 32 32 && g.model == modelUid h && g.layout == x.layout && g.pools == x.pools then stOk
      else ePerm
    | none =>
      let chunk := orDefault (fld hdr 4 2) 1024
      let hold := orDefault (byteAt hdr 7) 16
      if chunk % 64 == 0 && decide (64 ≤ chunk ∧ chunk ≤ 1024 ∧ 16 ≤ hold) && overlayFor s ctx h.uid (fld hdr 32 16) &&
          overlayFor s ctx h.uid (fld hdr 48 16) then
        if leadIndex s = s.net.index ∧ (mfresh s.objs 4096).isNone then eCapacity else stOk
      else ePerm

/-- The step barrier of a group at its lead: one member for each member of the slice and the planning core's FLOOR member
(R328, R356). SKEW_LIMIT is that of the worked example of chapter 11. -/
def stepBarrier (s : State) (ctx num lead : Nat) : SyncObj :=
  let m (k i : Nat) (f : Bool) (x : Nat) : BMember := { kind := k, id := i, floor := f, modIx := x, arrivals := 0 }
  { kind := 1, domain := 3, ctx := ctx, vid := 0xFF00 + num, users := [], decl := [], value := 0, limit := 0, curGen := 0,
    baseGen := 0, finished := [],
    members := m 3 s.net.index false s.net.index :: ((otherMembers s).map fun i => m 2 (0xFF00 + num) false i) ++
      [m 3 s.net.index true s.net.index],
    timed := false, riser := false, waves := 1, span := 0, lead := lead, period := 0, timeout := 0, skewLimit := 2, base := none,
    oldest := 0, gens := [], waiters := [], parent := none }

/-- Forms a group and arrives at generation 0 of its step barrier (R328). -/
def formGroup (s : State) (ctx num : Nat) (h : Harness) (hdr : Bytes) (x : Resolve) : State :=
  let lead := leadIndex s
  let early := orDefault (byteAt hdr 6) 1
  let p := if lead = s.net.index then ((mfresh s.objs 4096).getD 0, setObj s ((mfresh s.objs 4096).getD 0) (stepBarrier s ctx num early))
    else let (v, s) := useFree s; (v % 4096, s)
  let s := mapVid p.2 ctx (0xFF00 + num) p.1 lead 1
  let g : Group :=
    { ctx := ctx, num := num, model := modelUid h, kv := x.kv, layout := x.layout, pools := x.pools,
      chunkMax := orDefault (fld hdr 4 2) 1024, lead := lead, early := early, hold := orDefault (byteAt hdr 7) 16,
      base := fld hdr 8 2, perToken := fld hdr 10 2, decOv := fld hdr 32 16, preOv := fld hdr 48 16, bar := p.1, reqs := [],
      stepNo := 0, gen := 0, chunk := 0, plan := none, run := none, startAt := 0, release := none, bare := none, perSum := 0,
      perCnt := 0, flights := [], movedAt := flight s, freed := [], owed := false, pre := [] }
  groupArrive (setGroup s g) g.key

/-- Forms or joins the group of a bind. -/
def enterGroup (s : State) (ctx num : Nat) (h : Harness) (hdr : Bytes) (x : Resolve) : State :=
  if mhas s.groups (groupKey ctx num) then s else formGroup s ctx num h hdr x

/-- Removes a group with its step barrier. -/
def dropGroup (s : State) (g : Group) : State :=
  let c := ctxOf s g.ctx
  { s with groups := merase s.groups g.key, objs := if g.lead = s.net.index then merase s.objs g.bar else s.objs,
           admits := mkeep s.admits fun k _ => !(k / 2 ^ 32 == g.ctx && k % 2 ^ 32 / 65536 == g.num),
           ctxs := mset s.ctxs g.ctx { c with vids := merase c.vids (0xFF00 + g.num) } }

/-- Ends every open request of a group with a status; their cancels and closes complete (R544). -/
def endAll (s : State) (g : Group) (status : Nat) : State :=
  let rs := g.reqs.map (·.1)
  let x := rs.foldl (fun (x : State × Group × List (Nat × Settled)) r =>
    match (x.2.1).req? r with
    | none => x
    | some q =>
      if q.live || q.state == .held then
        let y := endReq x.1 x.2.1 r status
        (y.1, y.2, x.2.2 ++ [endRecord g r status q])
      else x) (s, g, [])
  let s := if g.lead = s.net.index then deliver x.1 x.2.1 g.stepNo g.gen x.2.2 else x.1
  let y := finishEnds s x.2.1 rs
  setGroup y.1 y.2

/-- Instance `k` leaves its group: its requests go on at another instance, with them its part of the running step where that is `done`, and with
the last one the group ends (notes/assumptions/27.md); a stopped slice ends every request with E_UNREACHABLE (R544). -/
def leaveGroup (s : State) (k ctx num : Nat) (done : Bool) : State :=
  match mget s.groups (groupKey ctx num) with
  | none => s
  | some g =>
    let others := (groupInsts s g).filter fun i => i.1 != k
    let s := if s.flt.sliceStopped then endAll s g eUnreachable else if others.isEmpty then endAll s g eCancelled else s
    match mget s.groups (groupKey ctx num), others with
    | some g, [] => dropGroup s g
    | some g, i :: _ =>
      let hand (e : PEntry) : PEntry := if done && e.inst == k then { e with inst := i.1 } else e
      setGroup s { g with reqs := mmap g.reqs fun _ q => if q.inst = k then { q with inst := i.1 } else q,
                          run := g.run.map fun p => { p with entries := p.entries.map hand } }
    | none, _ => s

/-! ### Binding -/

/-- The status of a bind of harness `h` at `first` (255 for any placement), in the order of the manual's steps, with the
bays taken and what is resolved. -/
def bindCheck (s : State) (ctx first : Nat) (h : HImg) (roles : List (Nat × Nat × Nat)) (far : Bytes) : Nat × Nat × Resolve :=
  let none_ : Resolve := { objs := [], layout := 0, kv := [], pools := [], t1 := [], far := [] }
  let at_ := if first = 255 then choosePlace s ctx h roles far else some first
  match at_ with
  | none => (ePerm, 0, none_)
  | some f =>
    if 8 < f + h.bays then (ePerm, f, none_)
    else if !bayFree s f h.bays then (eBusy, f, none_)
    else
      let x := resolveAll s ctx h (regionTiles f h.bays) roles far
      if x.1 ≠ stOk then (x.1, f, x.2)
      else if !routeRegionsOk h || !adaptRegionsOk h || !treeRegionsOk h (if x.2.kv.isEmpty then 64 else (kvLay x.2.kv).tree) then
        (ePerm, f, x.2)
      else (syncStatus s ctx f h, f, x.2)

/-- The body of a BIND message (Table 12-21). -/
def bindBody (un : Bool) (k group uid : Nat) (tab : Bytes) : Bytes :=
  [9] ++ leBytes 1 (b2n un) ++ leBytes 1 k ++ leBytes 1 group ++ leBytes 16 uid ++ leBytes 32 (sha3 tab).toNat ++ leBytes 12 0

/-- RESULT0 of a bind: instance and first bay; RESULT1: increases of STALE_EPOCH and DISCARDED (Table 13-15). -/
def bindResult0 (k first : Nat) : Nat := k + 256 * first
def bindResult1 (stale discard : Nat) : Nat := min stale (2 ^ 32 - 1) + min discard (2 ^ 32 - 1) * 2 ^ 32

/-- True where a BIND received for the same group and instance differs from a bind (R381). -/
def bindDiffers (s : State) (ctx group k uid : Nat) (table : Digest) : Bool :=
  s.net.binds.any fun b => b.ctx == ctx && b.group == group && b.inst == k && (b.uid != uid || b.table != table)

/-- Body fields of HARNESS_BIND. -/
def bindFields : List (Nat × Nat) := [(8, 32)]

/-- Reads the homes whose data a bind writes into T1 (R140). -/
def demandBound (s : State) (ctx : Nat) (h : HImg) (roles : List (Nat × Nat × Nat)) : State :=
  (h.binds.filter fun r => r.kind == 2 && !isKvRole r.role).foldl (fun s r =>
    match recEntry s ctx roles r with
    | some (_, _, e) => if e.modIx = s.net.index then demandHome s e else s
    | none => s) s

/-- HARNESS_BIND without UNBIND. A bind whose records fail leaves the bays cleared and free (R140). -/
def bindHarness (s : State) (d : Nat) (t : Taken) (table : Bytes) : State :=
  let first := byteAt t.bytes 9
  let num := byteAt t.bytes 11
  let uid := fld t.bytes 12 16
  let len := fld t.bytes 36 4
  let tab := padTo len (table.take len)
  if byteAt t.bytes 8 ≠ 0 ∨ byteAt t.bytes 10 ≠ 0 ∨ len < 128 ∨ len ≠ 128 + 16 * fld tab 0 4 then finish s d ePerm
  else if !s.time.loaded then finish s d eBusy
  else match harnessOf s t.ctx uid with
    | none => finish s d ePerm
    | some (_, h) =>
      let hi := himgOf h.image
      let c := bindCheck s t.ctx first hi (rolesOf tab) (table.drop len)
      let g := groupStatus s t.ctx num h (slice tab 0 128) c.2.2
      let clear (s : State) : State :=
        if c.2.1 + hi.bays ≤ 8 ∧ bayFree s c.2.1 hi.bays then (regionTiles c.2.1 hi.bays).foldl clearTile s else s
      if c.1 ≠ stOk then finish (clear s) d c.1
      else if g ≠ stOk then finish (clear s) d g
      else match mfresh s.insts 8 with
        | none => finish s d eBusy
        | some k =>
          if bindDiffers s t.ctx num k uid (sha3 tab) then finish (clear s) d ePerm
          else
          let s := demandBound s t.ctx hi (rolesOf tab)
          let x := (bindCheck s t.ctx c.2.1 hi (rolesOf tab) (table.drop len)).2.2
          let s := placeInst s k t.ctx uid num c.2.1 hi (rolesOf tab) x
          let s := { s with insts := madj s.insts k ({ · with table := sha3 tab }) }
          let s := enterGroup s t.ctx num h (slice tab 0 128) x
          complete (broadcast s (bindBody false k num uid tab)) d stOk (bindResult0 k c.2.1) 0

/-- HARNESS_BIND (R138 to R142). `table` are the bytes of the binding table, and after them those that other members'
homes give, the KV layout's first, then data for T1 in record order (notes/assumptions/7.md). -/
def execHarnessBind (d : Nat) (table : Bytes) (s : State) : Host.Outcome State Fault Refusal :=
  .next <| unfused s (withDesc s d (fun t => t.op == 0x22 && byteAt t.bytes 8 % 2 == 0) bindFields fun t => bindHarness s d t table)

/-! ### Unbinding (R144, R544) -/

/-- Empties the queues of the tiles and counts what they held in DISCARDED, bay by bay (R149). -/
def discardQueues (s : State) (ts : List Nat) : State :=
  ts.foldl (fun s t =>
    let x := tileOf s t
    let e := emptyQueues x.core
    hwBump (setCore s t e.2) (kBay (bayOf t) 1) e.1) s

/-- Gives up the parked state of an instance, counting its entries (R149, R154). -/
def dropParked (s : State) (ts : List Nat) : State :=
  ts.foldl (fun s t =>
    match (tileOf s t).park with
    | none => s
    | some c => hwBump (setTile s t { tileOf s t with park := none }) (kBay (bayOf t) 1) (emptyQueues c).1) s

/-- Ends the streams and fetches of tiles, and their waits at sync objects of this module. -/
def dropTileWork (s : State) (ts : List Nat) : State :=
  let s := (s.movers.map (·.1)).foldl (fun s e =>
    setEngine s e ((engineQ s e).map fun f => if ts.contains f.tile then { f with done := true } else f)) s
  let s := { s with streams := mkeep s.streams fun _ st => !ts.contains st.tile }
  dropWaits s fun w => match w with | .tile t => ts.contains t | _ => false

/-- Takes an instance off its bays, which are then free; `keepPark` says that its parked state has gone to a save area
(R144, R159). -/
def removeInst (s : State) (k : Nat) (keepPark : Bool) : State :=
  match mget s.insts k with
  | none => s
  | some i =>
    let ts := instTiles i
    let s := discardQueues (if keepPark then s else dropParked s ts) ts
    let s := dropTileWork (endGraphs s k eCancelled) ts
    let s := undeclareAll (pinAll s i.bound false) i.ctx k
    { ts.foldl clearTile s with insts := merase s.insts k }

/-- True where an unbind need not wait any longer: the region is drained; a captured or stopped instance runs no further (R144, R544, Table
10-9). -/
def unbindReady (s : State) (i : Inst) : Bool :=
  i.stalled || s.flt.sliceStopped || stepDone s i

/-- With the last STOPPED instance gone, the slice's part here is stopped no longer, and its recovery has ended (R544,
R549). -/
def unstop (s : State) : State :=
  if s.flt.sliceStopped && s.insts.isEmpty then { s with flt.sliceStopped := false, net.recovery := none } else s

/-- The end of an unbind. -/
def finishUnbind (s : State) (k : Nat) : State :=
  match mget s.insts k with
  | none => s
  | some i =>
    match i.unbind with
    | none => s
    | some u =>
      let s := if i.running ∧ !i.stalled ∧ !s.flt.sliceStopped then endInst s k i else s
      let s := leaveArrive (leaveGroup s k i.ctx i.group (!i.stalled)) (groupKey i.ctx i.group) k
      let s := unstop (removeInst s k false)
      let r := bindResult1 (baySum s i 0 - u.stale) (baySum s i 1 - u.discard)
      complete (broadcast s (bindBody true k i.group i.uid [])) u.desc stOk (bindResult0 k i.first) r

/-- HARNESS_UNBIND: waits until the region is drained, with no time limit; E_BUSY while a switch is in progress, or the
context is being saved (R144, Table 4-13). -/
def execHarnessUnbind (d : Nat) (s : State) : Host.Outcome State Fault Refusal :=
  .next <| unfused s (withDesc s d (fun t => t.op == 0x22 && byteAt t.bytes 8 % 2 == 1) bindFields fun t =>
    let k := byteAt t.bytes 10
    match mget s.insts k with
    | none => finish s d ePerm
    | some i =>
      if byteAt t.bytes 8 ≠ 1 ∨ i.ctx ≠ t.ctx then finish s d ePerm
      else if i.sw.isSome ∨ i.unbind.isSome ∨ (s.saves.any fun x => x.2.ctx == i.ctx) = true then finish s d eBusy
      else
        let u : Unbind := { desc := d, stale := baySum s i 0, discard := baySum s i 1 }
        let s := holdDesc { s with insts := mset s.insts k { i with unbind := some u } } d
        if unbindReady s i then finishUnbind s k else s)

end Sys2Proof.Machine
end

