-- ==== Sys2Proof/Machine/Requests.lean ====
section
/-!
DEFINITION. REQ_OPEN, REQ_APPEND, REQ_CANCEL, REQ_CLOSE (10 R315 to R322, R342, R343, Tables 10-1 and 10-2; 09 R293, R310;
14 R468; 17 R544; Tables 13-11, 13-12, 14-20).
-/
namespace Sys2Proof.Machine

/-! ### Parameters in range (Tables 10-1, 13-12) -/

/-- A code of a positive FP32 number within two others. -/
def f32In (lo hi c : Nat) : Bool := decide (lo ≤ c ∧ c ≤ hi)

/-- Every parameter of a block in its range, reserved fields zero; `n` is PROMPT_LEN. -/
def paramsOk (p : Bytes) (n : Nat) : Bool :=
  let temp := fld p 40 4
  decide (byteAt p 0 ≤ 2 ∧ byteAt p 1 ≤ 1 ∧ byteAt p 2 ≤ 2 ∧ byteAt p 3 ≤ 4 ∧ byteAt p 4 ≤ 8) && zeroAt p 5 3 &&
    fld p 8 4 != 0xFFFFFFFF && fld p 12 4 != 0xFFFFFFFF && zeroAt p 18 2 && decide (1 ≤ fld p 28 4 ∧ fld p 28 4 ≤ 1048576) &&
    (temp % 2 ^ 31 == 0 || f32In 0x3C23D70A 0x42C80000 temp) && decide (fld p 44 4 ≤ 1024) &&
    f32In 1 0x3F800000 (fld p 48 4) && f32In 0x3DCCCCCD 0x41200000 (fld p 52 4) &&
    decide (fld p 56 4 % 2 ^ 31 ≤ 0x41200000) && decide (fld p 60 4 % 2 ^ 31 ≤ 0x41200000) && zeroAt p 76 4 &&
    zeroAt p (80 + 4 * byteAt p 4) (32 - 4 * byteAt p 4) && zeroAt p 112 16 && decide (1 ≤ n)

/-- OUT: null for GENERATE, otherwise an object of the context large enough for the result (Table 10-2 check 1). -/
def outOk (s : State) (g : Group) (p : Bytes) : Bool :=
  let h := handleAt p 64
  if byteAt p 0 = 0 then zeroAt p 64 12
  else (dirGet s h.1).any fun e => e.ctx == g.ctx && decide (h.2 + outputBytes g.model (byteAt p 0) ≤ e.size)

/-! ### Sealed prompts (R468, Table 14-20) -/

/-- A blob's fixed fields. -/
def blobOk (b : Bytes) : Bool :=
  fld b 0 4 == 0x51535944 && fld b 4 2 == 1 && zeroAt b 7 1 && fld b 0x18 8 % 64 == 0 && zeroAt b 0x24 12

/-- RK of a session (R468). -/
def sealRk (k : Digest) (sid : Bytes) : Digest := kdf k "DYRK" sid

/-- Opens a blob under a request key at a turn: the tokens' bytes, or none. -/
def openBlob (rk : Digest) (turn n : Nat) (b : Bytes) : Option Bytes :=
  if fld b 0x20 4 = turn then gcmOpen rk (turnIv 0 turn) (slice b 0 0x30) (slice b 0x40 (4 * n)) (slice b 0x30 16) else none

/-- The tokens that a byte string spells. -/
def tokensOf (b : Bytes) (n : Nat) : List Nat := (List.range n).map fun i => fld b (4 * i) 4

/-- Bytes that a prompt of `n` tokens takes in partner memory. -/
def promptBytes (sealed_ : Bool) (n : Nat) : Nat := (if sealed_ then 64 else 0) + 4 * n

/-- Reads the prompt of a REQ_OPEN: its status, bytes and sealing. An operand shorter than the prompt stands for a read that
came back poisoned (notes/assumptions/7.md). -/
def readPrompt (s : State) (ctx : Nat) (sealed_ : Bool) (n : Nat) (b : Bytes) : Nat × Bytes × Option SealSt :=
  if b.length < promptBytes sealed_ n then (ePoison, [], none)
  else if !sealed_ then (stOk, b.take (4 * n), none)
  else if !blobOk b then (ePerm, [], none)
  else
    let sid := slice b 8 16
    match mget (ctxOf s ctx).slots (byteAt b 6) with
    | none => (eAuth, [], none)
    | some k =>
      if k.kind ≠ 2 then (eAuth, [], none)
      else
        let rk := sealRk k.key sid
        match openBlob rk 0 n b with
        | none => (eAuth, [], none)
        | some p => (stOk, p, some { key := rk, sid := sid, turn := 0, trailer := fld b 0x18 8, cipher := [] })

/-! ### Where a request runs, and when (R322, R330) -/

/-- Prompt tokens that wait at an instance. -/
def promptTokens (g : Group) (i : Nat) : Nat :=
  ((g.reqs.filter fun r => r.2.state == .prefill && r.2.inst == i).map (·.2.left.length)).sum

/-- The instance that a new prompt goes to: a PREFILL instance where there is one, that with the fewest waiting tokens
(notes/assumptions/23.md). -/
def promptInst (s : State) (g : Group) : Option Nat :=
  let is := (groupInsts s g).filter (·.2.serves)
  let pre := is.filter fun i => g.preOv != 0 && i.2.overlay == g.preOv
  let all := if pre.isEmpty then (if is.isEmpty then groupInsts s g else is) else pre
  all.foldl (fun (b : Option Nat) i =>
    match b with
    | none => some i.1
    | some j => if promptTokens g i.1 < promptTokens g j then some i.1 else some j) none

/-- Prefill tokens of a plan. -/
def planTokens (p : Option Plan) : Nat := p.elim 0 fun p => ((p.entries.filter (·.chunk)).map (·.toks.length)).sum

/-- S of R322: the start of the first step that the request could enter. -/
def firstStart (s : State) (g : Group) : Nat :=
  if g.run.isNone then s.time.tread + 1
  else g.startAt + g.period (planTokens g.run) + g.period (planTokens g.plan)

/-- The predicted first settle (R322). -/
def predicted (s : State) (g : Group) (prompt deadline : Nat) : Nat :=
  let c := max 64 g.chunk
  let q := ((g.reqs.filter fun r => r.2.state == .prefill && r.2.ttftAt.any fun d => decide (d < deadline)).map
    (·.2.left.length)).sum
  firstStart s g + ceilDiv (q + prompt) c * g.period c - 1

/-! ### The lead's part of a REQ_OPEN -/

/-- Bytes of a request buffer: the prompt and the tokens that may settle (R317, R546; notes/assumptions/29.md). -/
def bufferFor (prompt maxNew : Nat) : Nat := 4 * (prompt + maxNew)

/-- Checks 4 and 6 of Table 10-2. -/
def leadStatus (s : State) (g : Group) (p : Bytes) (n take : Nat) : Nat :=
  let ttft := fld p 20 4
  if (mfresh g.reqs 4096).isNone || !allocFits s g.ctx 2 (bufferFor n (fld p 28 4)) 0 ||
      (byteAt p 2 == 2 && (kvLay g.kv).f2 == 0) then eCapacity
  else if byteAt p 1 = 1 ∧ ttft ≠ 0 ∧ take + ttft < predicted s g n (take + ttft) then eSlo
  else stOk

/-- Opens a request at the lead: its number and the state. The prompt's tokens are here, or are still to come. -/
def openAt (s : State) (g : Group) (p : Bytes) (n take admitter : Nat) (toks : Option (List Nat)) (ver : Option Nat) :
    Nat × State :=
  let r := (mfresh g.reqs 4096).getD 0
  let ttft := fld p 20 4
  let q : Req :=
    { state := .prefill, params := p, admitter := admitter, inst := (promptInst s g).getD 0, left := toks.getD [],
      toks := toks.getD (List.replicate n 0), share := bufferFor n (fld p 28 4), len := 0, pend := none, counts := [],
      maxNew := fld p 28 4, kept := 0, ttftAt := if ttft = 0 then none else some (take + ttft), tbtAt := none, tokened := false,
      admitAt := take, openAt := s.time.tread, adapter := ver, pages := [], drops := 0, status := 0, cancels := [], closer := none,
      lastIn := 0, lost := false, got := if toks.isSome then n else 0 }
  (g.rid r, setGroup s (g.setReq r q))

/-- The admitting module notes a request that it has opened. -/
def admitReq (s : State) (ctx rid : Nat) (t : Taken) (sl : Option SealSt) : State :=
  { s with admits := mset s.admits (admitKey ctx rid) { port := t.port, qp := t.qp, next := none, seen := 0, sealing := sl } }

/-! ### Versions (R310) -/

/-- The version that a request names: VERSION, or the highest READY one of the ID. -/
def namedVersion (s : State) (ctx id version : Nat) : Option (Nat × AdVer) :=
  if version ≠ 0 then versionOf s ctx id version
  else (s.adapters.filter fun v => v.2.ctx == ctx && v.2.id == id && v.2.state == 1).foldl
    (fun (b : Option (Nat × AdVer)) v => match b with
      | none => some v
      | some x => if x.2.version < v.2.version then some v else some x) none

/-- The owner binds a request to a version that is READY: a reference more. -/
def bindVersion (s : State) (ctx id version : Nat) : Nat × Option (Nat × AdVer) × State :=
  match namedVersion s ctx id version with
  | some (k, v) =>
    if v.state = 1 then (stOk, some (k, v), { s with adapters := mset s.adapters k { v with refs := v.refs + 1 } })
    else (ePerm, none, s)
  | none => (ePerm, none, s)

/-- Puts the bound version into a parameter block. -/
def withVersion (p : Bytes) (version : Nat) : Bytes := putBytes p 12 (leBytes 4 version)

/-- An ADAPTER message (Table 12-21). -/
def adapterMsg (op status id version rid : Nat) : Bytes :=
  [0xB] ++ leBytes 1 op ++ leBytes 1 status ++ [0] ++ leBytes 4 id ++ leBytes 4 version ++ leBytes 4 rid ++ leBytes 16 0

/-- Gives back the reference of a request that is not opened after all. -/
def unbindVersion (s : State) (ctx : Nat) (p : Bytes) : State :=
  if fld p 8 4 = 0 then s
  else match versionOf s ctx (fld p 8 4) (fld p 12 4) with
    | none => s
    | some (k, v) =>
      if v.owner = s.net.index then releaseRef s k
      else sendCtrl s v.owner ctx .firmware (adapterMsg 2 0 v.id v.version 0)

/-! ### REQ_OPEN -/

/-- Checks 1 to 3 of Table 10-2, but for the version's binding. -/
def openStatus (s : State) (g : Group) (t : Taken) (p : Bytes) (n : Nat) : Nat :=
  match (promptInst s g).bind (mget s.insts) with
  | none => ePerm
  | some i =>
    let h := instImg s i
    let pl := shapeOf h.plan
    if !paramsOk p n || !outputSupported g.model g.decOv (byteAt p 0) || !outOk s g p || (t.sealedFlag && byteAt p 0 != 0) then ePerm
    else if (fld p 8 4 ≠ 0 ∧ (namedVersion s g.ctx (fld p 8 4) (fld p 12 4)).isNone) ∨
        !setAllowed ((h.regions 0x0101).map (·.2)) (fld p 16 2) then ePerm
    else if pl.maxSeq < n ∨ pl.maxPages < pagesFor n then eLength
    else stOk

/-- A request whose version is bound: the rest of its checks, and its opening, here or at the lead (R316, R317). -/
def openBound (s : State) (d : Nat) (t : Taken) (g : Group) (p : Bytes) (n : Nat) (prompt : Bytes) (sl : Option SealSt) :
    State :=
  if g.lead = s.net.index then
    let st := leadStatus s g p n t.tread
    if st ≠ stOk then finish (unbindVersion s g.ctx p) d st
    else
      let v := if fld p 8 4 = 0 then none else (versionOf s g.ctx (fld p 8 4) (fld p 12 4)).map (·.1)
      let x := openAt s g p n t.tread s.net.index (some (tokensOf prompt n)) v
      complete (admitReq x.2 g.ctx x.1 t sl) d stOk x.1 0
  else
    let id := s.fwdNext
    let f : Fwd := { desc := d, stage := .asked, group := g.num, params := p, prompt := prompt, sealing := sl }
    let s := { s with fwds := mset s.fwds id f, fwdNext := (id + 1) % 2 ^ 32 }
    sendCtrl (holdDesc s d) g.lead g.ctx .firmware
      ([5, 0, 0, 0] ++ leBytes 4 id ++ leBytes 8 t.tread ++ leBytes 4 n ++ leBytes 1 g.num ++ leBytes 11 0 ++ p)

/-- REQ_OPEN: the checks of Table 10-2 at the admitting module, the binding of its version through the owner, and the
opening (R310, R316, R317). -/
def reqOpen (s : State) (d : Nat) (t : Taken) (params prompt : Bytes) : State :=
  let n := fld t.bytes 32 4
  let p := padTo 128 (params.take 128)
  if s.flt.sliceStopped then finish s d eBusy
  else match mget s.groups (groupKey t.ctx (byteAt t.bytes 8)) with
    | none => finish s d ePerm
    | some g =>
      let st := openStatus s g t p n
      let r := readPrompt s t.ctx t.sealedFlag n prompt
      if st ≠ stOk then finish s d st
      else if g.lead = s.net.index ∧ leadStatus s g p n t.tread = eCapacity then finish s d eCapacity
      else if r.1 ≠ stOk then finish s d r.1
      else if fld p 8 4 = 0 then openBound s d t g p n r.2.1 r.2.2
      else match namedVersion s g.ctx (fld p 8 4) (fld p 12 4) with
        | none => finish s d ePerm
        | some (_, v) =>
          if v.owner = s.net.index then
            match bindVersion s g.ctx v.id v.version with
            | (st, some (_, v), s) => if st = stOk then openBound s d t g (withVersion p v.version) n r.2.1 r.2.2 else finish s d st
            | (_, none, s) => finish s d ePerm
          else
            let id := s.fwdNext
            let f : Fwd := { desc := d, stage := .binding, group := g.num, params := p, prompt := r.2.1, sealing := r.2.2 }
            let s := { s with fwds := mset s.fwds id f, fwdNext := (id + 1) % 2 ^ 32 }
            sendCtrl (holdDesc s d) v.owner g.ctx .firmware (adapterMsg 1 0 v.id (fld p 12 4) id)

/-- Body fields of the request descriptors. -/
def openFields : List (Nat × Nat) := [(8, 1), (16, 20)]
def appendFields : List (Nat × Nat) := [(8, 4), (16, 16)]
def ridFields : List (Nat × Nat) := [(8, 4)]

/-- REQ_OPEN (R317). -/
def execReqOpen (d : Nat) (params prompt : Bytes) (s : State) : Host.Outcome State Fault Refusal :=
  .next <| unfused s (withDesc s d (·.op == 0x30) openFields fun t => reqOpen s d t params prompt)

/-! ### REQ_APPEND -/

/-- The blob of a sealed append at the admitting module: its status, tokens and the turn's sealing. -/
def readAppend (sl : Option SealSt) (sealed_ : Bool) (n : Nat) (b : Bytes) : Nat × Bytes × Option SealSt :=
  if b.length < promptBytes sealed_ n then (ePoison, [], none)
  else match sl, sealed_ with
    | none, _ => (stOk, b.take (4 * n), none)
    | some _, false => (ePerm, [], none)
    | some x, true =>
      if !blobOk b then (ePerm, [], none)
      else if slice b 8 16 ≠ x.sid then (eAuth, [], none)
      else match openBlob x.key (x.turn + 1) n b with
        | none => (eAuth, [], none)
        | some p => (stOk, p, some { x with turn := x.turn + 1, trailer := fld b 0x18 8, cipher := [] })

/-- Checks at the lead: state, ranges, then rows 3 and 4 of Table 10-2 for the appended tokens (R318). -/
def appendStatus (s : State) (g : Group) (q : Req) (n maxNew : Nat) : Nat :=
  let total := q.len + q.left.length + b2n q.pend.isSome + n
  let pl := ((mget s.insts q.inst).map (instShape s)).getD (shapeOf [])
  if q.state = .ended ∨ q.closer.isSome then ePerm
  else if q.state = .decode then eBusy
  else if n = 0 ∨ maxNew = 0 ∨ 1048576 < maxNew then ePerm
  else if pl.maxSeq < total ∨ pl.maxPages < pagesFor total then eLength
  else if !allocFits s g.ctx 2 (bufferFor n maxNew) 0 then eCapacity
  else stOk

/-- A request with tokens appended (R318): a HELD one enters PREFILL again, its pending token first. -/
def appended (s : State) (g : Group) (q : Req) (ts : List Nat) (maxNew take : Nat) : Req :=
  let q := { q with toks := q.toks ++ ts, maxNew := maxNew, share := q.share + bufferFor ts.length maxNew, openAt := s.time.tread }
  if q.state = .held then
    { q with state := .prefill, left := q.pend.toList ++ ts, pend := none, kept := 0, tokened := false, tbtAt := none,
             ttftAt := if q.ttft = 0 then none else some (take + q.ttft), inst := (promptInst s g).getD q.inst }
  else { q with left := q.left ++ ts }

/-- REQ_APPEND at the lead. -/
def appendAtLead (s : State) (d : Nat) (t : Taken) (g : Group) (r : Nat) (prompt : Bytes) : State :=
  let n := fld t.bytes 24 4
  let maxNew := fld t.bytes 28 4
  match g.req? r with
  | none => finish s d ePerm
  | some q =>
    let k := admitKey g.ctx (g.rid r)
    let sl := (mget s.admits k).bind (·.sealing)
    let far := t.origin.isSome && q.admitter != s.net.index
    let st := appendStatus s g q n maxNew
    let x := if far then readAppend none false n prompt else readAppend sl t.sealedFlag n prompt
    if !far ∧ sl.isSome ≠ t.sealedFlag then finish s d ePerm
    else if st ≠ stOk then finish s d st
    else if x.1 ≠ stOk then finish s d x.1
    else
      let s := if far then s else { s with admits := madj s.admits k ({ · with sealing := x.2.2 }) }
      finish (setGroup s (g.setReq r (appended s g q (tokensOf x.2.1 n) maxNew t.tread))) d stOk

/-- The group of a descriptor's RID, at the module that executes it: here, or by DESC_FWD at the lead (R316, R434). -/
def atLead (s : State) (d : Nat) (t : Taken) (act : Group → Nat → State) : State :=
  match groupOfRid s t.ctx (fld t.bytes 8 4) with
  | none => finish s d ePerm
  | some (g, r) => if g.lead = s.net.index then act g r else atModule s d g.lead t [] s

/-- REQ_APPEND. The admitting module opens a sealed prompt before it forwards the descriptor; at another lead the operand is
the tokens. -/
def reqAppend (s : State) (d : Nat) (t : Taken) (prompt : Bytes) : State :=
  if s.flt.sliceStopped then finish s d eBusy
  else match groupOfRid s t.ctx (fld t.bytes 8 4) with
    | none => finish s d ePerm
    | some (g, r) =>
      if g.lead = s.net.index then appendAtLead s d t g r prompt
      else
        let a := mget s.admits (admitKey t.ctx (fld t.bytes 8 4))
        let sl := a.bind (·.sealing)
        let x := readAppend sl t.sealedFlag (fld t.bytes 24 4) prompt
        if sl.isSome ≠ t.sealedFlag then finish s d ePerm
        else if x.1 ≠ stOk then finish s d x.1
        else
          let id := s.fwdNext
          let f : Fwd := { desc := d, stage := .append (fld t.bytes 8 4), group := g.num, params := [], prompt := [],
                           sealing := x.2.2 }
          let s := if x.2.2.isSome then { s with fwds := mset s.fwds id f, fwdNext := (id + 1) % 2 ^ 32 } else s
          atModule s d g.lead t [] s

/-- REQ_APPEND (R318). -/
def execReqAppend (d : Nat) (prompt : Bytes) (s : State) : Host.Outcome State Fault Refusal :=
  .next <| unfused s (withDesc s d (·.op == 0x31) appendFields fun t => reqAppend s d t prompt)

/-! ### REQ_CANCEL and REQ_CLOSE -/

/-- True where the step of a request's instance runs and does not stand still (R342, R544). -/
def stepRuns (s : State) (q : Req) : Bool := !s.flt.sliceStopped && (mget s.insts q.inst).any (·.running)

/-- REQ_CANCEL at the lead (R342). -/
def cancelAtLead (s : State) (d : Nat) (g : Group) (r : Nat) : State :=
  match g.req? r with
  | none => finish s d ePerm
  | some q =>
    if !q.live || !q.cancels.isEmpty || q.closer.isSome then finish s d stOk
    else
      let g := g.setReq r { q with cancels := [d] }
      let s := holdDesc s d
      if stepRuns s q then setGroup s g else endNow s g [r]

/-- REQ_CANCEL (R342). -/
def execReqCancel (d : Nat) (s : State) : Host.Outcome State Fault Refusal :=
  .next <| unfused s (withDesc s d (·.op == 0x32) ridFields fun t => atLead s d t (cancelAtLead s d))

/-- REQ_CLOSE at the lead (R343). -/
def closeAtLead (s : State) (d : Nat) (g : Group) (r : Nat) : State :=
  match g.req? r with
  | none => finish s d ePerm
  | some q =>
    if q.closer.isSome then finish s d ePerm
    else
      let g := g.setReq r { q with closer := some d }
      let s := holdDesc s d
      if q.state ≠ .ended ∧ stepRuns s q then setGroup s g else endNow s g [r]

/-- REQ_CLOSE (R343). -/
def execReqClose (d : Nat) (s : State) : Host.Outcome State Fault Refusal :=
  .next <| unfused s (withDesc s d (·.op == 0x33) ridFields fun t => atLead s d t (closeAtLead s d))

end Sys2Proof.Machine
end

