-- ==== Sys2Proof/Machine/Adapters.lean ====
section
/-!
DEFINITION. ADAPTER_LOAD and ADAPTER_RETIRE: image checks, shares and their homes, version states (09 R306, R309 to R312,
Tables 9-5, 9-6, 9-7).
-/
namespace Sys2Proof.Machine

/-! ### The image (Table 9-5) -/

def adMembers (b : Bytes) : Nat := byteAt b 7
def adTargets (b : Bytes) : Nat := fld b 0xC 4
def adId (b : Bytes) : Nat := fld b 0x10 4
def adVersion (b : Bytes) : Nat := fld b 0x14 4

/-- OFFSET and SIZE of the share of the `i`-th member. -/
def adShare (b : Bytes) (i : Nat) : Nat × Nat := (fld b (128 + 16 * i) 8, fld b (136 + 16 * i) 8)

/-- Check 1 of Table 9-6: fixed fields, ranges, HDR_CRC. -/
def adHeadOk (b : Bytes) : Bool :=
  let h := slice b 0 128
  decide (128 ≤ b.length) && fld h 0 4 == 0x44415944 && fld h 4 2 == 1 && (byteAt h 6 == 3 || byteAt h 6 == 9) &&
    decide (1 ≤ adMembers h ∧ adMembers h ≤ 16) && decide (1 ≤ fld h 8 2 ∧ fld h 8 2 ≤ 256) &&
    decide (1 ≤ fld h 0xA 2 ∧ fld h 0xA 2 ≤ 256) && decide (1 ≤ adId h ∧ adId h ≤ 0xFFFFFFFE) &&
    decide (1 ≤ adVersion h ∧ adVersion h ≤ 0xFFFFFFFE) && zeroAt h 0x1C 4 && zeroAt h 0x50 44 &&
    fld h 0x7C 4 == crc32 (putBytes h 0x7C [0, 0, 0, 0]) &&
    (List.range (adMembers h)).all fun i =>
      let x := adShare b i
      decide (128 + 16 * adMembers h ≤ x.1 ∧ 1 ≤ x.2 ∧ x.1 + x.2 ≤ b.length)

/-- Check 2: DIGEST. -/
def adDigestOk (b : Bytes) : Bool := fld b 0x30 32 == (sha3 (b.drop 128)).toNat

/-- True where a harness's ADAPT region has every projection that an image names, with its layers (R306). -/
def adProjectionsOk (h : HImg) (b : Bytes) : Bool :=
  match (h.regions 0x0104).head? with
  | none => adTargets b == 0
  | some (_, r) => (List.range 32).all fun t =>
      !bit (adTargets b) t || (decide (t < fld r 2 2) && fld r (64 + 32 * t + 16) 2 == fld b 0xA 2)

/-- Check 3: model, members, projections. -/
def adModelOk (s : State) (ctx : Nat) (b : Bytes) : Bool :=
  adMembers b == (activeMembers s).length &&
    s.harn.any fun h => h.2.ctx == ctx && modelUid h.2 == fld b 0x20 16 && adProjectionsOk (himgOf h.2.image) b

/-- Check 4: the version passes every one that has been loaded. -/
def adNewer (s : State) (b : Bytes) : Bool :=
  s.everLoaded.all fun v => v.1 % 2 ^ 32 != adId b || decide (v.2 < adVersion b)

/-! ### Homes of shares (R309) -/

/-- The home of a share of `size` bytes at base `a`, in as few stripes as keep out of the configuration reserves. -/
def shareHome (s : State) (ctx tier size a : Nat) : DirEntry :=
  let n := if tier = 1 then ceilDiv size reserveOff else 1
  { ctx := ctx, moving := false, absent := false, isSealed := (ctxOf s ctx).isSealed, epoch := 0, modIx := s.net.index,
    tier := tier, bound := 0, stripeSize := if n ≤ 1 then size % 2 ^ 32 else reserveOff, size := size, base := a,
    stripes := n, tileStep := if n ≤ 1 then 0 else 1, moveTread := s.time.tread }

/-- True where a share may lie there. -/
def shareFits (s : State) (ctx : Nat) (e : DirEntry) : Bool :=
  !destBad s 0 e && destRoom s ctx e 0 == stOk && !notReady s e

/-- Places that firmware tries: one of its own choice, the ends of homes, the slices of the tiles
(notes/assumptions/23.md). -/
def sharePlaces (s : State) (tier size : Nat) : List Nat :=
  (freeValue s.fv % (tierExtent s tier / 4096 + 1) * 4096) ::
    ((s.mem.dir.filter fun d => d.2.tier == tier && d.2.modIx == s.net.index).flatMap fun d =>
      (homeRuns d.2).map fun r => ceilDiv (r.1 + r.2) 4096 * 4096) ++
    (if tier = 1 then (List.range (2048 - (ceilDiv size reserveOff - 1))).map (· * 2 ^ 23) else [0])

/-- An object ID that no entry has: one of firmware's choice. -/
def freshObject (s : State) : Nat :=
  let f := freeValue (s.fv + 1) % (2 ^ 32 - 2) + 1
  if mhas s.mem.dir f then ((List.range (s.mem.dir.length + 1)).find? fun i => !mhas s.mem.dir (i + 1)).getD 0 + 1 else f

/-- Places a share: its status, its object and the state. -/
def placeShare (s : State) (ctx tier : Nat) (bytes : Bytes) : Nat × Nat × State :=
  match (sharePlaces s tier bytes.length).find? fun a => shareFits s ctx (shareHome s ctx tier bytes.length a) with
  | none => (eCapacity, 0, s)
  | some a =>
    let e := shareHome s ctx tier bytes.length a
    if dirFull s then (eCapacity, 0, s)
    else
      let o := freshObject s
      let s := { s with fv := s.fv + 2 }
      (stOk, o, commitEntry (countHome (objFill s e (cellsOf bytes) []) e true) o e)

/-! ### Loading -/

/-- Body fields of ADAPTER_LOAD and ADAPTER_RETIRE. -/
def adLoadFields : List (Nat × Nat) := [(8, 2), (12, 12)]
def adRetireFields : List (Nat × Nat) := [(8, 8)]

/-- The bytes of the image object; `given` are those of a home on another member (notes/assumptions/7.md). -/
def adImage (s : State) (t : Taken) (given : Bytes) : Nat × Bytes × State :=
  let h := handleAt t.bytes 12
  match dirGet s h.1 with
  | none => (ePerm, [], s)
  | some e =>
    if e.ctx ≠ t.ctx ∨ e.size < h.2 then (ePerm, [], s)
    else if e.absent ∨ moduleStatus s e.modIx ≠ stOk then (eUnreachable, [], s)
    else if e.modIx ≠ s.net.index then (stOk, given, s)
    else
      let s := demandHome s e
      if homePoisoned s e then (ePoison, [], s) else (stOk, objRead s e h.2 (e.size - h.2), s)

/-- The status of the checks of Table 9-6. -/
def adStatus (s : State) (ctx : Nat) (b : Bytes) : Nat :=
  if !adHeadOk b then ePerm
  else if !adDigestOk b then eAuth
  else if !adModelOk s ctx b ∨ !adNewer s b then ePerm
  else if 4096 ≤ s.adapters.length then eCapacity else stOk

/-- Key of an adapter ID of a context in the list of what has been loaded. -/
def loadedKey (ctx id : Nat) : Nat := ctx * 2 ^ 32 + id

/-- The end of a load once every member has answered: READY, or gone with every home (R309). -/
def endLoad (s : State) (k : Nat) : State :=
  match mget s.adapters k with
  | none => s
  | some v =>
    if !v.wait.isEmpty ∨ v.state ≠ 0 then s
    else if v.failed ≠ 0 then
      let s := dropVersion { s with adapters := mset s.adapters k { v with owner := 0xFFFF } } k
      finish s v.desc v.failed
    else
      let s := { s with adapters := mset s.adapters k { v with state := 1 } }
      complete (fwBump s (kExp 8) 1) v.desc stOk (v.id + 2 ^ 32 * v.version) 0

/-- A member's share is placed, or could not be. -/
def sharePlaced (s : State) (k m status : Nat) : State :=
  match mget s.adapters k with
  | none => s
  | some v =>
    if !v.wait.contains m then s
    else
      let v := { v with wait := v.wait.filter (· != m), homes := if status = stOk then v.homes ++ [(m, 0)] else v.homes,
                        failed := if status = stOk ∨ v.failed ≠ 0 then v.failed else status }
      endLoad { s with adapters := mset s.adapters k v } k

/-- The owner's part: its own share, and the others' shares on their way (R309). -/
def loadVersion (s : State) (d : Nat) (t : Taken) (b : Bytes) : State :=
  let ms := activeMembers s
  let own := adShare b (ms.idxOf s.net.index)
  let p := placeShare s t.ctx (byteAt t.bytes 9) (slice b own.1 own.2)
  if p.1 ≠ stOk then finish s d p.1
  else
    let k := (mfresh s.adapters 4096).getD 0
    let far := ms.filter (· != s.net.index)
    let v : AdVer := { ctx := t.ctx, id := adId b, version := adVersion b, owner := s.net.index, state := 0, refs := 0,
                       homes := [(s.net.index, p.2.1)], wait := far, desc := d, failed := 0, head := b.take 128 }
    let s := p.2.2
    let s := { s with adapters := mset s.adapters k v, everLoaded := s.everLoaded ++ [(loadedKey t.ctx v.id, v.version)] }
    let s := far.foldl (fun s m =>
      if moduleStatus s m = stOk then forwardDesc s d m t [] else sharePlaced s k m eUnreachable) s
    endLoad s k

/-- A member's part: the image header and its own share come in `b` (R309; notes/assumptions/7.md). -/
def takeShare (s : State) (d owner : Nat) (t : Taken) (b : Bytes) : State :=
  let id := adId b
  let ver := adVersion b
  let p := if 4096 ≤ s.adapters.length then (eCapacity, 0, s) else placeShare s t.ctx (byteAt t.bytes 9) (b.drop 128)
  let s := { p.2.2 with taken := merase s.taken d }
  let s := if p.1 ≠ stOk then s
    else
      let v : AdVer := { ctx := t.ctx, id := id, version := ver, owner := owner, state := 1, refs := 0,
                         homes := [(s.net.index, p.2.1)], wait := [], desc := d, failed := 0, head := b.take 128 }
      { s with adapters := mset s.adapters ((mfresh s.adapters 4096).getD 0) v,
               everLoaded := s.everLoaded ++ [(loadedKey t.ctx id, ver)] }
  sendCtrl s owner t.ctx .firmware (adapterMsg 4 p.1 id ver 0)

/-- ADAPTER_LOAD (R309). -/
def execAdapterLoad (d : Nat) (image : Bytes) (s : State) : Host.Outcome State Fault Refusal :=
  .next <| unfused s (withDesc s d (·.op == 0x40) adLoadFields fun t =>
    match t.origin with
    | some owner => takeShare s d owner t image
    | none =>
      if !(byteAt t.bytes 9 == 1 || byteAt t.bytes 9 == 2) || !mhas s.groups (groupKey t.ctx (byteAt t.bytes 8)) then
        finish s d ePerm
      else
        let x := adImage s t image
        if x.1 ≠ stOk then finish x.2.2 d x.1
        else if adStatus x.2.2 t.ctx x.2.1 ≠ stOk then finish x.2.2 d (adStatus x.2.2 t.ctx x.2.1)
        else loadVersion (holdDesc x.2.2 d) d t x.2.1)

/-! ### Retiring (R312) -/

/-- The owner retires a version: the completion's status and the state. -/
def retireVersion (s : State) (ctx id version : Nat) : Nat × State :=
  match versionOf s ctx id version with
  | none => (if s.everLoaded.contains (loadedKey ctx id, version) then stOk else ePerm, s)
  | some (k, v) =>
    if v.state = 0 then (eBusy, s)
    else if v.state = 2 then (stDeferred, fwBump s (kExp 10) 1)
    else if v.refs = 0 then (stOk, dropVersion s k)
    else (stDeferred, fwBump { s with adapters := mset s.adapters k { v with state := 2 } } (kExp 10) 1)

/-- ADAPTER_RETIRE: taken by the version's owner (R310, R312). -/
def execAdapterRetire (d : Nat) (s : State) : Host.Outcome State Fault Refusal :=
  .next <| unfused s (withDesc s d (·.op == 0x41) adRetireFields fun t =>
    let id := fld t.bytes 8 4
    let ver := fld t.bytes 12 4
    match (versionOf s t.ctx id ver).map (·.2.owner) with
    | some o =>
      if o = s.net.index then let x := retireVersion s t.ctx id ver; finish x.2 d x.1
      else
        let n := s.fwdNext
        let f : Fwd := { desc := d, stage := .retiring, group := 0, params := [], prompt := [], sealing := none }
        let s := { s with fwds := mset s.fwds n f, fwdNext := (n + 1) % 2 ^ 32 }
        sendCtrl (holdDesc s d) o t.ctx .firmware (adapterMsg 3 0 id ver n)
    | none => let x := retireVersion s t.ctx id ver; finish x.2 d x.1)

end Sys2Proof.Machine
end

