-- ==== Sys2Proof/Machine/Lifetime.lean ====
section
/-!
DEFINITION. Counter service, the event log, the lifetime record, the end of a repair (16 R500 to R516; 06 R230 to R234;
14 R455, R457).
-/
namespace Sys2Proof.Machine

/-! ### Counter service -/

/-- Services one counter; one found WRAPPED counts CTR_LATE (R501). -/
def serviceCtr (s : State) (k : Nat) : State :=
  match mget s.hwc k with
  | none => s
  | some c => fwBump { s with hwc := mset s.hwc k c.service } (kLife 0) (b2n c.wrapped)

/-- COUNTER_HALF_WRAP_SERVICE: Newel services a counter whose HALF is set (R501). -/
def execCounterHalfWrapService (counter : Nat) (s : State) : Host.Outcome State Fault Refusal :=
  .next <| unfused s <| match mget s.hwc counter with
    | some c => if c.half then serviceCtr s counter else s
    | none => s

/-- COUNTER_SWEEP: firmware services every hardware-extended counter (R503). -/
def execCounterSweep (s : State) : Host.Outcome State Fault Refusal :=
  .next <| unfused s ((s.hwc.map (·.1)).foldl serviceCtr s)

/-! ### Event log -/

/-- A log record of 32 bytes (Table 16-5). -/
def LogRec.bytes (r : LogRec) : Bytes :=
  let b := leBytes 8 r.tread ++ leBytes 1 r.kind ++ leBytes 1 r.flags ++ leBytes 2 r.context ++ padTo 16 r.detail
  b ++ leBytes 4 (crc32 b)

/-- Adds a record to the event-log ring of 131,072; a full ring loses its oldest sector of 128 (R508). -/
def pushLog (log : List LogRec) (r : LogRec) : List LogRec :=
  if 131072 ≤ log.length then r :: log.take (131072 - 128) else r :: log

/-- EVENT_LOG_WRITE: Newel writes the records it holds, in order, to the event log; the store takes none in BLANK and
SCRAPPED (R508, Table 16-4). -/
def execEventLogWrite (s : State) : Host.Outcome State Fault Refusal :=
  .next <| unfused s <| if s.tr.fwRunning then
      let st := if storeOpen s then { s.store with eventLog := s.evPend.foldl pushLog s.store.eventLog } else s.store
      { s with store := st, evPend := [] }
    else s

/-! ### Lifetime record -/

/-- The lifetime record of 128 bytes (Table 16-7). -/
def LifeRec.bytes (r : LifeRec) : Bytes :=
  let b := leBytes 8 r.powerOnS ++ leBytes 8 r.a0S ++ leBytes 8 r.a1S ++ leBytes 8 r.a2S ++ leBytes 4 r.coldBoots ++
    leBytes 4 r.uncleanOffs ++ leBytes 4 r.cycles ++ leBytes 2 (ofInt 16 r.tmaxC) ++ leBytes 1 (b2n r.cleanOff) ++
    [0] ++ leBytes 8 r.wearUs ++ leBytes 8 r.energyJ ++ leBytes 8 r.firstOnUtcS ++ leBytes 8 r.repairUtcS ++
    leBytes 8 r.repairTread ++ leBytes 4 r.limits.toNat ++ leBytes 4 r.seq ++ leBytes 28 0
  b ++ leBytes 4 (crc32 b)

/-- Life consumed in ppm (R514). -/
def lifePpm (wearUs : Nat) : Nat := wearUs * 1000000 / 220898880000000

/-- One step of the thermal-cycle count with the flight's highest temperature (R513). -/
def thermalCycle (l : Life) (t : Int) : Life :=
  match l.ext with
  | none => { l with high := false, ext := some t }
  | some m =>
    if l.high then
      if t ≤ m - 30 then { l with high := false, ext := some t } else { l with ext := some (max m t) }
    else
      if m + 30 ≤ t then { l with high := true, ext := some t, cur.cycles := l.cur.cycles + 1 }
      else { l with ext := some (min m t) }

/-- Adds `us` microseconds to the second counts of the record, by power state (Table 16-7). -/
def addSeconds (s : State) (us : Nat) : State :=
  let sec := (s.life.sinceUs + us) / 1000000
  let r := s.life.cur
  let r := { r with powerOnS := r.powerOnS + sec }
  let r := if s.ps.state = 0 then { r with a0S := r.a0S + sec }
    else if s.ps.state = 1 then { r with a1S := r.a1S + sec } else { r with a2S := r.a2S + sec }
  { s with life.cur := r, life.sinceUs := (s.life.sinceUs + us) % 1000000 }

/-- The limit codes that the present record has reached and not raised, with their values (Table 16-8). -/
def limitsDue (r : LifeRec) : List (Nat × Nat) :=
  let ppm := lifePpm r.wearUs
  ([(0x10, ppm, decide (800000 ≤ ppm)), (0x11, ppm, decide (1000000 ≤ ppm)),
    (0x12, r.cycles, decide (16000 ≤ r.cycles)), (0x13, r.cycles, decide (20000 ≤ r.cycles))].filter fun x =>
      x.2.2 && !r.limits.getLsbD (x.1 - 0x10)).map fun x => (x.1, x.2.1)

/-- Newel's accumulation at a flight boundary: times, highest temperature, thermal cycles, wear and energy; codes
reached are raised in order, with one commit (R511 to R516). -/
def accumulate (s : State) : State :=
  let s := addSeconds s (s.time.ticks - s.life.lastTread)
  let t := max (s.life.flightT.getD s.sup.dieC) s.sup.dieC
  let mv := max s.life.flightMv (s.fuses.voltMv.getD s.pw.now 0)
  let l := thermalCycle s.life t
  let r := { l.cur with tmaxC := max l.cur.tmaxC t, wearUs := l.cur.wearUs + wearOfFlight t mv,
                        energyJ := l.cur.energyJ + s.pw.energyUj / 1000000 - s.life.lastUj / 1000000 }
  let s := { s with life := { l with cur := r, flightT := none, flightMv := 0, lastUj := s.pw.energyUj,
                                     lastTread := s.time.ticks } }
  match limitsDue r with
  | [] => s
  | ds => commitLife (ds.foldl (fun s d => raiseLimit s d.1 d.2) s) false

/-- LIFETIME_ACCUMULATE at a flight boundary (R511). -/
def execLifetimeAccumulate (s : State) : Host.Outcome State Fault Refusal :=
  .next <| unfused s (if s.tr.fwRunning then accumulate s else s)

/-- LIFETIME_COMMIT: another 3,600 s of POWER_ON_S have passed since the last commit's; only a commit at entry to A2 sets
CLEAN_OFF (R511). -/
def execLifetimeCommit (s : State) : Host.Outcome State Fault Refusal :=
  .next <| unfused s (if s.tr.fwRunning && s.life.cur.powerOnS / 3600 != s.store.life.powerOnS / 3600 then commitLife s false else s)

/-! ### Limited counts and the fused log (R455, R457) -/

/-- The first 8 bytes of a digest. -/
def head8 (d : Digest) : BitVec 64 := BitVec.ofNat 64 d.toNat

/-- Writes one entry to the fused log (R457). -/
def fuseLog (s : State) (kind value : Nat) (subject : Digest) : State :=
  { s with fuses.log := s.fuses.log ++ [{ kind := kind, value := value, tread := nowTread s % 2 ^ 48,
                                          subject := head8 subject }] }

/-- EV_LIFE_LIMIT when the remaining count reaches 1 and 0 (R455). -/
def countLimit (s : State) (code used limit : Nat) : State :=
  unfused s (if used + 1 = limit ∨ used = limit then lifeLimit s code used else s)

/-- The bytes of the repair map, whose digest the log and the reports carry. -/
def repairMapBytes (m : List Repair) : Bytes :=
  m.flatMap fun r => leBytes 1 r.kind ++ leBytes 2 r.unit ++ leBytes 4 r.address

/-- The commit of every pending soft repair: the fused log entry and the count first, then the repair map (R232,
R455). -/
def commitRepairs (s : State) : State :=
  let used := s.fuses.repairUsed + 1
  let map := s.store.repairMap ++ s.mem.soft.filter (·.kind != 3)
  let s := fuseLog { s with fuses.repairUsed := used } 4 used (sha3 (repairMapBytes map))
  let s := { s with store.repairMap := map, store.stackRows := s.store.stackRows ++ s.mem.soft.filter (·.kind == 3), mem.soft := [],
                    life.cur.repairUtcS := (utcNow s).getD 0 / 1000000000, life.cur.repairTread := nowTread s }
  unfused s (commitLife (countLimit s 3 used 8) false)

/-- True while a pad slice of the in-field program runs: a soft repair of T2 waits for its end (R520). -/
def padSlice (s : State) : Bool := s.st.running && !s.st.ctlBusy && decide (28 ≤ s.st.nextSlice ∧ s.st.nextSlice < 108)

/-- REPAIR_DONE: the repair or commit in progress takes effect and BUSY clears (R231, R232, R234, R520). The array of eight fused
commits takes no ninth (R455). -/
def execRepairDone (s : State) : Host.Outcome State Fault Refusal :=
  .next <| queued s <| if s.mem.repBusy && !(padSlice s && !s.mem.repCommit && decide (s.mem.repKind ≤ 2)) then
      let s := { s with mem.repBusy := false }
      if !s.mem.repCommit then unfused s (softRepair s (repairTarget s))
      else
        let s := { s with mem.repCommit := false }
        if s.fuses.repairUsed < 8 then commitRepairs s else { s with mem.repResult := 5 }
    else s

end Sys2Proof.Machine
end

