-- ==== Sys2Proof/Machine/Identity.lean ====
section
/-!
DEFINITION. The module's identity and its owner: derived keys, DEVICE_ID, what the signing engine signs (14 R445 to R447,
R454).
-/
namespace Sys2Proof.Machine

/-- The seed of the IDK (Table 14-1). -/
def idkSeed (s : State) : Digest := kdf s.fuses.uds "DYID" [0]

/-- The IDK public key, 1,312 bytes. -/
def idkPub (s : State) : Bytes := leBytes 1312 (dsaPublic (idkSeed s)).toNat

/-- DEVICE_ID; none is derived in BLANK (R446, R449). -/
def deviceId (s : State) : Digest := if s.fuses.lc = .blank then 0 else sha3 (idkPub s)

/-- An IDK signature over a message (R445, R447). -/
def idkSign (s : State) (m : Bytes) : Bytes := leBytes 2420 (dsaSign (idkSeed s) m).toNat

/-- A digest as bytes. -/
def digestBytes (d : Digest) : Bytes := leBytes 32 d.toNat

/-- A digest read from bytes. -/
def digestAt (b : Bytes) (off : Nat) : Digest := BitVec.ofNat 256 (fld b off 32)

/-- The owner digest, where one is held that passes the checks of R454: its SUBJECT is that of the newest owner entry of
the fused log. -/
def ownerHeld (s : State) : Option Digest :=
  match s.store.owner, s.fuses.log.reverse.find? fun e => e.kind == 2 with
  | some d, some e => if head8 d = e.subject ∧ (s.fuses.lc = .deployed ∨ s.fuses.lc = .returned) then some d else none
  | _, _ => none

/-- The written entries of the fused log (Table 14-8). -/
def fusedLogBytes (s : State) : Bytes :=
  s.fuses.log.flatMap fun e => leBytes 1 e.kind ++ leBytes 1 e.value ++ leBytes 6 e.tread ++ leBytes 8 e.subject.toNat

/-- Rack time in ns (R396, R474). -/
def rackNs (s : State) : Nat := 1000 * s.time.tread + s.clk * 1000 / freqMhz s.pw.now

end Sys2Proof.Machine
end

