-- ==== Sys2Proof/Machine/Switch.lean ====
section
/-!
DEFINITION. Overlay switches, the fabric watchdog and role moves (04 R147 to R156, Tables 4-9 to 4-13; 03 R111, R112; 10
R329, R330, Table 10-6).
-/
namespace Sys2Proof.Machine

/-- Instance `k` with its switch. -/
def switchOf (s : State) (k : Nat) : Option (Inst × Switch) :=
  (mget s.insts k).bind fun i => i.sw.map fun w => (i, w)

/-- Sets the switch of instance `k`. -/
def setSwitch (s : State) (k : Nat) (w : Option Switch) : State :=
  { s with insts := madj s.insts k ({ · with sw := w }) }

/-- A switch that no descriptor waits for: one that firmware issues (R330). -/
def noDesc : Nat := 2 ^ 64

/-- The increases of STALE_EPOCH and DISCARDED since a switch began, as its completion gives them (R149). -/
def switchResult1 (s : State) (i : Inst) (w : Switch) : Nat := bindResult1 (baySum s i 0 - w.stale) (baySum s i 1 - w.discard)

/-- A switch ends before APPLYING: epoch, configuration and park slots stay as they are (R149, R156). -/
def abandonSwitch (s : State) (k status : Nat) : State :=
  match switchOf s k with
  | none => s
  | some (i, w) => complete (setSwitch s k none) w.desc status 0 (switchResult1 s i w)

/-- Body fields of OVERLAY_LOAD SWITCH. -/
def switchFields : List (Nat × Nat) := [(8, 6), (16, 24)]

/-- The state of a switch that begins. -/
def startSwitch (s : State) (k : Nat) (i : Inst) (overlay mode fallback limit commit desc : Nat) : State :=
  setSwitch s k (some { state := .staging, overlay := overlay, mode := mode, fallback := fallback, limit := limit,
                        commit := commit, desc := desc, since := 0, applied := 0, stale := baySum s i 0,
                        discard := baySum s i 1 })

/-- OVERLAY_LOAD with the switch action (Table 4-10): E_BUSY where a switch, an unbind or a save is in progress, or park
slots that would be filled are full; E_PERM for a RESUME of a state that they do not hold (R153, R154, Table 4-13). -/
def execOverlaySwitch (d : Nat) (s : State) : Host.Outcome State Fault Refusal :=
  .next <| unfused s (withDesc s d (fun t => t.op == 0x21 && byteAt t.bytes 8 == 1) switchFields fun t =>
    let k := byteAt t.bytes 9
    let mode := byteAt t.bytes 10
    let fb := byteAt t.bytes 11
    let uid := fld t.bytes 16 16
    match mget s.insts k with
    | none => finish s d ePerm
    | some i =>
      if i.ctx ≠ t.ctx ∨ 3 < mode ∨ 2 < fb ∨ !((overlayOf s t.ctx uid).any fun o => o.2.base == i.uid) then finish s d ePerm
      else if i.sw.isSome ∨ i.unbind.isSome ∨ (s.saves.any fun x => x.2.ctx == i.ctx) = true then finish s d eBusy
      else if mode = 3 ∧ i.parked ≠ some uid then finish s d ePerm
      else if (mode = 2 ∨ (mode = 0 ∧ fb = 2)) ∧ i.parked.isSome then finish s d eBusy
      else startSwitch (holdDesc s d) k i uid mode fb (fld t.bytes 12 2) (fld t.bytes 32 8) d)

/-- OVERLAY_STAGING_DONE: the patch records are staged; a COMMIT_TREAD that has passed is the present tread (R151). -/
def execOverlayStagingDone (i : InstIx) (s : State) : Host.Outcome State Fault Refusal :=
  .next <| unfused s <| match switchOf s i with
    | some (_, w) =>
      if w.state = .staging then setSwitch s i (some { w with state := .armed, commit := max w.commit s.time.tread }) else s
    | none => s

/-- Requests in DECODE of an instance that drains for the prefill overlay with no step running (R330). -/
def reassignIdle (s : State) (k : Nat) : State :=
  match mget s.insts k with
  | none => s
  | some i =>
    match mget s.groups (groupKey i.ctx i.group) with
    | none => s
    | some g =>
      if i.running || g.lead != s.net.index then s
      else setGroup s (reassign s g fun j => (mget s.insts j).any (leavesDecode g))

/-- OVERLAY_COMMIT_TREAD: at COMMIT_TREAD a DRAIN switch drains and any other freezes (Table 4-11). -/
def execOverlayCommitTread (i : InstIx) (s : State) : Host.Outcome State Fault Refusal :=
  .next <| unfused s <| match switchOf s i with
    | some (_, w) =>
      if w.state = .armed ∧ w.commit ≤ s.time.tread then
        if w.mode = 0 then reassignIdle (setSwitch s i (some { w with state := .draining, since := s.time.tread })) i
        else setSwitch s i (some { w with state := .freezing })
      else s
    | none => s

/-- The image of an overlay of instance `i`. -/
def overlayImage (s : State) (i : Inst) (uid : Nat) : Bytes := (overlayOf s i.ctx uid).elim [] (·.2.image)

/-- The physical bay that an APPLYING switch is at. -/
def applyBay (s : State) (i : Inst) (w : Switch) : Nat :=
  i.first + (bayOrder (overlayImage s i w.overlay) i.bays).getD w.applied 0

/-- The tiles of an instance in a physical bay. -/
def bayTiles (i : Inst) (b : Nat) : List Nat := (instTiles i).filter fun t => bayOf t == b

/-- APPLYING turns to the next bay of BAY_ORDER, which freezes (Table 4-12). -/
def applyNext (s : State) (k : Nat) (i : Inst) (w : Switch) : State :=
  let ts := bayTiles i (applyBay s i w)
  setSwitch (onTiles (freezeTiles s ts) ts ({ · with config := true })) k (some { w with state := .applying })

/-- REGION_DRAINED: a DRAINING switch goes on to APPLYING, and an unbind that waits ends (Table 4-11, R144, R150). The instance's part of a step
that runs on elsewhere is over; its results settle with the step. -/
def execRegionDrained (i : InstIx) (s : State) : Host.Outcome State Fault Refusal :=
  .next <| unfused s <| match mget s.insts i.val with
    | none => s
    | some x =>
      if x.unbind.isSome then if unbindReady s x then finishUnbind s i else s
      else match x.sw with
        | some w => if w.state = .draining ∧ stepDone s x then
            let s := if x.running then endInst s i x else s
            match mget s.insts i.val with
            | some y => applyNext s i y w
            | none => s
          else s
        | none => s

/-- DRAIN_LIMIT_EXPIRY: DRAIN_LIMIT treads after COMMIT_TREAD the fallback acts, and without one the switch ends with
E_BUSY (Table 4-11). -/
def execDrainLimitExpiry (i : InstIx) (s : State) : Host.Outcome State Fault Refusal :=
  .next <| unfused s <| match switchOf s i with
    | some (x, w) =>
      if w.state = .draining ∧ w.limit ≠ 0 ∧ w.commit + w.limit ≤ s.time.tread ∧ !stepDone s x then
        if w.fallback = 0 then abandonSwitch s i eBusy
        else setSwitch s i (some { w with state := .freezing, mode := w.fallback })
      else s
    | none => s

/-- CLEARING: queues and rings emptied and counted, operations in progress and both banks cleared, lanes halted (Table
4-11). -/
def clearRegion (s : State) (ts : List Nat) : State :=
  onTiles (dropTileWork (discardQueues s ts) ts) ts fun x =>
    { x with core := { x.core with bank0 := .empty, bank1 := .empty, drain := none, lanes := x.core.lanes.map fun l =>
                         { l with halted := true, op := none, syncing := false, busy := 0, served := 0 } } }

/-- The part of instance `k` in the running step is parked with its state (Table 4-11 PARKING). -/
def parkStep (s : State) (k : Nat) (i : Inst) : State :=
  let key := groupKey i.ctx i.group
  let run := if i.running then (mget s.groups key).bind (·.run) else none
  let mine := run.map fun p => { p with entries := p.entries.filter fun e => e.inst == k }
  let s := leaveArrive s key k
  { s with insts := madj s.insts k fun i => { i with parkRun := mine, running := false, parkWork := i.work, work := { passes := 0, micro := [] } },
           graphs := mmap s.graphs fun _ g => if g.inst = k ∧ g.running then { g with parked := true, running := false } else g }

/-- The parked part of a step runs on with the state resumed. -/
def resumeStep (s : State) (k : Nat) (i : Inst) : State :=
  let s := { s with graphs := mmap s.graphs fun _ g => if g.inst = k ∧ g.parked then { g with parked := false, running := true } else g }
  let live := s.graphs.any fun g => g.2.inst == k && g.2.running
  match i.parkRun with
  | none => { s with insts := madj s.insts k fun i => { i with running := live, work := i.parkWork } }
  | some p =>
    { s with
      insts := madj s.insts k fun i =>
        { i with parkRun := none, running := true, stepNo := p.stepNo, stepGen := p.gen, work := i.parkWork },
      groups := madj s.groups (groupKey i.ctx i.group) fun g =>
        match g.run with
        | some r => { g with run := some { r with entries := r.entries ++ p.entries } }
        | none => { g with run := some p } }

/-- A forced switch has frozen its region (R124). -/
def switchFrozen (s : State) (k : Nat) (i : Inst) (w : Switch) : State :=
  let ts := instTiles i
  let s := onTiles (freezeTiles s ts) ts ({ · with config := true })
  if w.mode = 2 then setSwitch s k (some { w with state := .parking })
  else
    let s := endGraphs (abandonArrive s k) k eCancelled
    let s := if w.mode = 1 then clearRegion s ts else dropTileWork s ts
    match mget s.insts k with
    | some j => applyNext s k j w
    | none => s

/-- SWITCH_FREEZE_DONE (Table 4-11): DISCARD clears and applies, SAVE parks, RESUME applies. -/
def execSwitchFreezeDone (i : InstIx) (s : State) : Host.Outcome State Fault Refusal :=
  .next <| unfused s <| match switchOf s i with
    | some (x, w) => if w.state = .freezing then switchFrozen s i x w else s
    | none => s

/-- A core as it rests in its slot, and the tile left with empty queues, rings kept. -/
def parkTile (x : TileSt) : TileSt :=
  { x with park := some x.core, core := (emptyQueues x.core).2 }

/-- SWITCH_PARK_DONE: every tile has scanned out to its park slot; APPLYING begins (Table 4-11). -/
def execSwitchParkDone (i : InstIx) (s : State) : Host.Outcome State Fault Refusal :=
  .next <| unfused s <| match switchOf s i with
    | some (x, w) =>
      if w.state = .parking then
        let s := onTiles s (instTiles x) parkTile
        let s := parkStep s i x
        let s := { s with insts := madj s.insts i ({ · with parked := some x.overlay }) }
        match mget s.insts i.val with
        | some y => applyNext s i y w
        | none => s
      else s
    | none => s

/-- A queue entry with another epoch (R153). -/
def Entry.withEpoch (e : Entry) (ep : Nat) : Entry := { e with side := e.side / 4 * 4 + ep }

/-- A core resumed under an epoch, its entries rewritten to it (R153). -/
def resumeCore (c : TileCore) (ep : Nat) : TileCore :=
  { c with epoch := ep, queues := mmap c.queues fun _ v =>
      { v with hw := v.hw.map (·.withEpoch ep), returns := v.returns.map fun r => (r.1.withEpoch ep, r.2) } }

/-- Rewrites the sidebands of the entries that rest in a tile's rings (R153). -/
def ringEpochs (s : State) (t : Nat) (c : TileCore) (ep : Nat) : State :=
  c.queues.foldl (fun s e =>
    (List.range e.2.ringCnt).foldl (fun s j =>
      let i := (e.2.ringHead + j) % max 1 e.2.ringSize
      writeSlot s t e.1 e.2 i ((readSlot s t e.1 e.2 i).withEpoch ep)) s) s

/-- The entries of an epoch that wait at a tile, queue by queue, each in its order: hardware entries, returns on their way, the ring. -/
def entriesAt (s : State) (t ep : Nat) : List (Nat × Entry) :=
  (tileOf s t).core.queues.flatMap fun q =>
    let ring := (List.range q.2.ringCnt).map fun j => readSlot s t q.1 q.2 ((q.2.ringHead + j) % max 1 q.2.ringSize)
    ((q.2.hw ++ q.2.returns.map (·.1) ++ ring).filter fun e => e.side % 4 == ep).map (q.1, ·)

/-- A tile's queues as an image declares them, empty. -/
def setRings (c : TileCore) (x : TileImg) : TileCore :=
  { c with queues := x.rings.foldl (fun m g => mset m g.queue { Queue.empty with ringBase := g.base, ringSize := g.slots }) [] }

/-- Applies an overlay to one tile and switches its epoch: rearmed, or resumed from its park slot (Table 4-12). Entries of the new epoch that
have come in the meantime stand behind those restored (R147, R148, R153). -/
def applyTile (s : State) (t : Nat) (x : TileImg) (inits : List InitData) (resume stalled : Bool) : State :=
  let y := tileOf s t
  let ep := (y.core.epoch + 1) % 4
  let future := entriesAt s t ep
  let s := inits.foldl (fun s d => writeTier s 0 (t1Off t d.addr) d.data) s
  let z := { y with cfg := cfgOf x, config := false, frozen := stalled }
  let s := match resume, y.park with
    | true, some c => ringEpochs (setTile s t { z with core := resumeCore c ep, park := none }) t c ep
    | _, _ => setTile s t (rearmTile { z with core := setRings { y.core with epoch := ep } x })
  future.foldl (fun s e => admitEntry s t e.1 e.2) s

/-- The words of a program store from an instruction on are written whole: none is wrong and none poisoned (R208, R218). -/
def wroteProg (s : State) (t first n : Nat) : State :=
  let old (k : Nat) : Bool := decide (progKey t (4 * first) ≤ k ∧ k < progKey t (4 * (first + n)))
  { s with mem.sramBad := mkeep s.mem.sramBad fun k _ => !old k, mem.sramPoison := s.mem.sramPoison.filter (!old ·) }

/-- The T1_INIT data that an overlay brings for a relative tile. -/
def patchInits (img : Bytes) (r : Nat) : List InitData :=
  ((overlayPatches img).filter fun p => p.2.tile == r && p.2.kind == 9).map fun p => { addr := 64 * p.2.target, data := p.2.data }

/-- Applies an overlay to the tiles of one physical bay. -/
def applyBayTiles (s : State) (i : Inst) (uid b : Nat) (resume : Bool) : State :=
  let img := overlayImage s i uid
  let h := patched (instImg s { i with overlay := 0 }) img
  ((instTiles i).zipIdx.filter fun t => bayOf t.1 == b).foldl (fun s t =>
    match h.tiles[t.2]? with
    | some x =>
      let ps := (overlayPatches img).filter fun p => p.2.tile == t.2 && p.2.kind == 1
      let s := ps.foldl (fun s p => wroteProg s t.1 p.2.target (p.2.data.length / 32)) s
      applyTile s t.1 x (patchInits img t.2) resume i.stalled
    | none => s) s

/-- The switch has applied its last bay: the overlay is in force and the OVERLAY_LOAD completes with the tread at which
APPLYING ended (R151, Table 13-15). -/
def endSwitch (s : State) (k : Nat) (w : Switch) : State :=
  let s := { s with insts := madj s.insts k fun i =>
               { i with sw := none, overlay := w.overlay, parked := if w.mode = 3 then none else i.parked } }
  match mget s.insts k with
  | none => s
  | some i =>
    let s := if w.mode = 3 then resumeStep s k i else s
    complete s w.desc stOk s.time.tread (switchResult1 s i w)

/-- BAY_APPLY_DONE: the bay in turn has its patches, its epoch and its rearm or scan-in, and runs; the next one follows
(Table 4-12, R155). -/
def execBayApplyDone (i : InstIx) (s : State) : Host.Outcome State Fault Refusal :=
  .next <| unfused s <| match switchOf s i with
    | some (x, w) =>
      if w.state = .applying then
        let s := applyBayTiles s x w.overlay (applyBay s x w) (w.mode == 3)
        let w := { w with applied := w.applied + 1 }
        if w.applied < x.bays then applyNext s i x w else endSwitch s i w
      else s
    | none => s

/-! ### The fabric watchdog (R111, R112) -/

/-- The stall cause that the event names: of what the tile's lanes counted last, the first in the order of causes; which one it names where
they differ the manual does not say (DESIGN CHOICE, notes/assumptions/95.md). -/
def stallCause (x : TileSt) : Nat := (firstCause (x.core.lanes.filterMap (·.cause))).getD 0

/-- FABRIC_WATCHDOG_EXPIRY: a tile's watchdog count has reached its harness's time: EV_FABRIC_STALL once for the stall, a
DRAINING switch is abandoned, the harness is captured, and its requests end with E_CANCELLED (R111, R112, Tables 4-13
and 10-9). -/
def execFabricWatchdogExpiry (t : TileIx) (s : State) : Host.Outcome State Fault Refusal :=
  .next <| unfused s <| match instOfTile s t with
    | none => s
    | some (k, i) =>
      let x := tileOf s t
      if i.stalled ∨ x.frozen ∨ x.core.wdog < i.wdog ∨ !arrayRuns s then s
      else
        let s := raiseCtx s 2 i.ctx (leBytes 1 k ++ leBytes 1 (stallCause x) ++ leBytes 2 t.val)
        let s := if i.sw.any fun w => w.state == .draining then abandonSwitch s k eCancelled else s
        failStep (captureInst s k) k eCancelled

/-! ### Role moves (R329, R330, Table 10-6) -/

/-- Prompt tokens that wait at an instance, or at the whole group. -/
def waitingTokens (g : Group) (p : Nat → Bool) : Nat :=
  ((g.reqs.filter fun r => r.2.state == .prefill && p r.2.inst).map (·.2.left.length)).sum

/-- The instance of the least figure, the lower number among equals. -/
def leastInst (f : Nat → Nat) (is : List Nat) : Option Nat :=
  is.foldl (fun b i => match b with | none => some i | some j => if f i < f j then some i else some j) none

/-- The move that an evaluation makes: an instance and the overlay it goes to. -/
def roleMove (s : State) (g : Group) (c : FlightCnt) : Option (Nat × Nat) :=
  let is := groupInsts s g
  let pre := (is.filter fun i => i.2.overlay == g.preOv).map (·.1)
  let dec := (is.filter fun i => i.2.overlay != g.preOv).map (·.1)
  if c.settles < 100 * c.tbtMiss ∧ !pre.isEmpty then
    (leastInst (fun i => waitingTokens g (· == i)) pre).map (·, g.decOv)
  else if 2 * c.chunked < waitingTokens g (fun _ => true) ∧ 1000 * c.tbtMiss ≤ c.settles ∧ 2 ≤ dec.length then
    (leastInst (fun i => (g.reqs.filter fun r => r.2.state == .decode && r.2.inst == i).length) dec).map (·, g.preOv)
  else none

/-- ROLE_EVALUATION: at the 64th tread before a flight the lead moves at most one instance of a group of several, by the
counts of the flight before the last (R329, R330). -/
def execRoleEvaluation (group : Nat) (s : State) : Host.Outcome State Fault Refusal :=
  .next <| unfused s <| match mget s.groups group with
    | none => s
    | some g =>
      let f := flight s + 1
      if s.time.tread % 4096 ≠ 4032 ∨ g.lead ≠ s.net.index ∨ (groupInsts s g).length < 2 ∨ g.preOv = 0 ∨ g.decOv = 0 ∨
          flight s < g.movedAt + g.hold ∨ !coresRun s then s
      else match roleMove s g (mgetD g.flights (f - 2) { tbtMiss := 0, settles := 0, chunked := 0 }) with
        | none => s
        | some (k, uid) =>
          match mget s.insts k with
          | none => s
          | some i =>
            if i.sw.isSome || i.unbind.isSome || s.saves.any fun x => x.2.ctx == i.ctx then s
            else
              let s := setGroup s { g with movedAt := flight s }
              fwBump (startSwitch s k i uid 0 0 0 (f * 4096) noDesc) (kSrv k 10) 1

end Sys2Proof.Machine
end

