-- ==== Sys2Proof/Machine/Preempt.lean ====
section
/-!
DEFINITION. Pre-emption: CTX_SAVE and CTX_RESTORE (04 R157 to R161, Tables 4-14 and 4-15; 11 R361, R364; 12 R388; 14 R470;
17 R544, R547, Table 17-10).
-/
namespace Sys2Proof.Machine

/-- The instances of a context, in instance order. -/
def ctxInsts (s : State) (ctx : Nat) : List (Nat × Inst) := s.insts.filter fun i => i.2.ctx == ctx

/-! ### The save area (Tables 4-14, 4-15) -/

/-- The control-core part as far as it is not free: a number that names the state held, and the binding table's entries
(notes/assumptions/28.md). -/
def ccHead (key : Nat) (i : Inst) : Bytes :=
  leBytes 8 key ++ leBytes 4 i.roles.length ++ i.roles.flatMap fun r => leBytes 4 r.1 ++ leBytes 4 r.2.1 ++ leBytes 8 r.2.2

/-- Rounds up to 4 KiB. -/
def to4k (n : Nat) : Nat := ceilDiv n 4096 * 4096

/-- SIZE of an instance's save area. -/
def areaSize (i : Inst) (cc : Nat) : Nat :=
  4096 + 256 * i.bays * (98304 + 524288 + (if i.parked.isSome then 98304 else 0)) + to4k cc

/-- CC_SIZE of each instance of a context: firmware's, at most 64 MiB; free beyond what the roles need. -/
def ccSizes (s : State) (is : List (Nat × Inst)) : AMap Nat :=
  is.zipIdx.map fun x =>
    let n := (ccHead 0 x.1.2).length
    (x.1.1, n + freeValue (s.fv + x.2) % (2 ^ 26 + 1 - n))

/-- The header of an instance's save area. -/
def areaHeader (i : Inst) (epoch freeze cc : Nat) (rest : Bytes) : Bytes :=
  let h := leBytes 4 0x53435944 ++ leBytes 2 1 ++ leBytes 1 i.bays ++
    leBytes 1 (epoch % 4 + 4 * b2n i.parked.isSome + 8 * b2n i.stalled) ++ leBytes 8 freeze ++ leBytes 16 i.uid ++
    leBytes 16 i.overlay ++ leBytes 16 (i.parked.getD 0) ++ leBytes 4 i.ctx ++ leBytes 4 cc ++ leBytes 8 (areaSize i cc) ++
    leBytes 32 (sha3 rest).toNat ++ leBytes 3980 0
  h ++ leBytes 4 (crc32 (h ++ [0, 0, 0, 0]))

/-- The core that the capture slot of a tile holds: a fault capture, or the staging of this save. -/
def savedCore (s : State) (t : Nat) : TileCore := (tileOf s t).capture.getD (tileOf s t).core

/-- The save area of one instance; `key` names its control-core state, `free` is where its free bytes start. -/
def saveArea (s : State) (i : Inst) (freeze cc key free : Nat) : Bytes :=
  let ts := instTiles i
  let head := ccHead key i
  let rest := ts.flatMap (fun t => scanImage s t (savedCore s t)) ++ ts.flatMap (fun t => readTier s 0 (t1Off t 0) (2 ^ 19)) ++
    (if i.parked.isSome then ts.flatMap fun t => scanImage s t ((tileOf s t).park.getD .empty) else []) ++
    padTo (to4k cc) (head ++ (List.range (cc - head.length)).map fun j => BitVec.ofNat 8 (freeValue (free + j)))
  areaHeader i ((ts.head?).elim 0 fun t => (savedCore s t).epoch) freeze cc rest ++ rest

/-- The request, adapter and sync state of an instance (Table 4-14, R364), with its tiles' streams and fetches. -/
def ccState (s : State) (k : Nat) (i : Inst) (digest : Digest) : CcState :=
  let g := mget s.groups (groupKey i.ctx i.group)
  let ts := instTiles i
  { num := k, inst := i, group := g, admits := s.admits.filter fun a => a.1 / 2 ^ 32 == i.ctx && a.1 % 2 ^ 32 / 65536 == i.group,
    adapters := s.adapters.filter fun a => a.2.ctx == i.ctx, objs := s.objs.filter fun o => o.2.ctx == i.ctx,
    vids := (ctxOf s i.ctx).vids, waves := s.waves.filter fun w => (mget s.objs w.obj).any fun o => o.ctx == i.ctx,
    graphs := s.graphs.filter fun g => g.2.inst == k, streams := mkeep s.streams fun _ st => ts.contains st.tile,
    fetches := s.movers.flatMap fun e => (e.2.filter fun f => !f.done && ts.contains f.tile).map (e.1, ·), digest := digest }

/-! ### CTX_SAVE -/

/-- Body fields of CTX_SAVE and CTX_RESTORE. -/
def saveFields : List (Nat × Nat) := [(8, 1), (12, 20)]
def restoreFields : List (Nat × Nat) := [(12, 28)]

/-- A switch that a save meets before FREEZING is abandoned (Table 4-13). -/
def abandonEarly (s : State) (k : Nat) (i : Inst) : State :=
  match i.sw with
  | some w => if w.state = .staging ∨ w.state = .armed ∨ w.state = .draining then abandonSwitch s k eCancelled else s
  | none => s

/-- CTX_SAVE: a save area too small for Table 4-14 ends it before anything freezes (R157); of a stopped slice E_BUSY
(R544). -/
def execCtxSave (d : Nat) (s : State) : Host.Outcome State Fault Refusal :=
  .next <| unfused s (withDesc s d (·.op == 0x90) saveFields fun t =>
    let h := handleAt t.bytes 12
    let is := ctxInsts s t.ctx
    let cc := ccSizes s is
    let size := (is.map fun i => areaSize i.2 (mgetD cc i.1 0)).sum
    match dirGet s h.1 with
    | none => finish s d ePerm
    | some e =>
      if 1 < byteAt t.bytes 8 ∨ e.ctx ≠ t.ctx ∨ e.size < h.2 then finish s d ePerm
      else if s.flt.sliceStopped ∨ (s.saves.any fun x => x.2.ctx == t.ctx) = true ∨ (is.any fun i => i.2.unbind.isSome) = true then
        finish s d eBusy
      else if e.absent ∨ moduleStatus s e.modIx ≠ stOk then finish s d eUnreachable
      else if e.size < h.2 + size then finish s d eCapacity
      else
        let sv : Save := { ctx := t.ctx, obj := h.1, off := h.2, freeze := fld t.bytes 24 8, unbind := byteAt t.bytes 8 == 1,
                           frozen := false, writing := false, lost := false, poison := false, msgs := [],
                           base := is.map fun i => (i.1, baySum s i.2 0, baySum s i.2 1), cc := cc }
        let s := holdDesc { s with fv := s.fv + is.length } d
        is.foldl (fun s i => abandonEarly s i.1 i.2) { s with saves := mset s.saves d sv })

/-- Bytes of the save area of a context. -/
def saveSize (sv : Save) (is : List (Nat × Inst)) : Nat := (is.map fun i => areaSize i.2 (mgetD sv.cc i.1 0)).sum

/-- Page copies under way are given up, and the frames that they had taken are free again (Table 8-5). -/
def dropCopies (s : State) (ctx : Nat) : State :=
  (s.groups.filter fun g => g.2.ctx == ctx).foldl (fun s g =>
    let copies := g.2.reqs.flatMap fun r => r.2.pages.filterMap fun p => p.dest.map fun f => { p with frame := f, inT3 := !p.inT3, dest := none }
    let reqs := mmap g.2.reqs fun _ q => { q with pages := q.pages.map ({ · with dest := none }) }
    { countFrames s 2 copies with groups := madj s.groups g.1 ({ · with reqs := reqs }) }) s

/-- True where a running step of the context has page copies under way, whose switch comes at its end (R285). -/
def copying (s : State) (ctx : Nat) : Bool :=
  s.groups.any fun g => g.2.ctx == ctx && g.2.run.isSome && g.2.reqs.any fun r => r.2.pages.any (·.dest.isSome)

/-- CTX_SAVE_FREEZE: at FREEZE_TREAD every instance of the context freezes, once no switch of theirs is past draining, unless one of those
has made the area larger than its object (E_CAPACITY); the messages of the context not yet delivered make its send fence (R157, R158,
R388, Table 4-13). It waits for the end of a step with pages on the move (Table 8-5). -/
def execCtxSaveFreeze (d : Nat) (s : State) : Host.Outcome State Fault Refusal :=
  .next <| unfused s <| match mget s.saves d with
    | none => s
    | some sv =>
      let is := ctxInsts s sv.ctx
      if sv.frozen ∨ s.time.tread < sv.freeze ∨ (is.any fun i => i.2.sw.isSome) = true ∨ copying s sv.ctx = true then s
      else if (dirGet s sv.obj).any fun e => decide (e.size < sv.off + saveSize sv is) then
        finish { s with saves := merase s.saves d } d eCapacity
      else
        let s := is.foldl (fun s i => if i.2.stalled then s else freezeTiles s (instTiles i.2)) (dropCopies s sv.ctx)
        { s with saves := mset s.saves d { sv with frozen := true, freeze := s.time.tread, msgs := mkeys s.net.msgs fun _ m => m.ctx == sv.ctx } }

/-- Writes a save area to its home, here or over GT, with the places of its poisoned words (R219, R545). -/
def writeArea (s : State) (d : Nat) (sv : Save) (e : DirEntry) (area : Bytes) (bad : List Nat) : State :=
  if e.modIx = s.net.index then objLand (countObj s e sv.off area.length true) e sv.off area bad
  else writeFar s e.modIx sv.ctx (.desc d) sv.obj sv.off e.epoch area bad

/-- The poisoned T1 words of the tiles of an instance, by byte of its save area (Table 6-4). -/
def areaPoison (s : State) (i : Inst) : List Nat :=
  let n := 256 * i.bays
  (instTiles i).zipIdx.flatMap fun t =>
    (s.mem.poison1.filter fun w => w / 2 ^ 16 == t.1).map fun w => 4096 + 98304 * n + t.2 * 2 ^ 19 + w % 2 ^ 16 * 8

/-- The end of a save: its instances run on, or are unbound with their parked state saved, and the descriptor completes
with the bytes written (R149, R159, Table 13-15). A save whose area could not be written unbinds all the same: R159 does not say (DESIGN
CHOICE, notes/assumptions/97.md). -/
def endSave (s : State) (d : Nat) : State :=
  match mget s.saves d with
  | none => s
  | some sv =>
    let is := ctxInsts s sv.ctx
    let size := saveSize sv is
    let s := { s with saves := merase s.saves d }
    let s := if sv.unbind then
        let s := is.foldl (fun s i => (mget s.groups (groupKey i.2.ctx i.2.group)).elim s (dropGroup s)) s
        is.foldl (fun s i => removeInst { s with graphs := s.graphs.filter fun g => g.2.inst != i.1 } i.1 true) s
      else is.foldl (fun s i => if i.2.stalled then s else thawTiles s (instTiles i.2)) s
    let inc := is.foldl (fun (x : Nat × Nat) i =>
      let b := mgetD sv.base i.1 (0, 0)
      (x.1 + (baySum s i.2 0 - b.1), x.2 + (baySum s i.2 1 - b.2))) (0, 0)
    complete s d (if sv.poison then ePoison else if sv.lost then eUnreachable else stOk) size (bindResult1 inc.1 inc.2)

/-- Writes every instance's save area, one after another in instance order. -/
def writeSave (s : State) (d : Nat) (sv : Save) (e : DirEntry) : State :=
  let is := ctxInsts s sv.ctx
  let x := is.foldl (fun (x : State × Bytes × List Nat) i =>
    let s := x.1
    let s := if i.2.stalled then s else onTiles s (instTiles i.2) fun y => { y with capture := some y.core }
    let s := (instTiles i.2).foldl (fun s t => demand s 0 (t1Off t 0) (2 ^ 19) 1) s
    let cc := mgetD sv.cc i.1 0
    let a := saveArea s i.2 sv.freeze cc s.fv (s.fv + 1)
    let bad := (areaPoison s i.2).map (x.2.1.length + ·)
    ({ s with ccs := mset s.ccs s.fv (ccState s i.1 i.2 (BitVec.ofNat 256 (fld a 0x50 32))), fv := s.fv + 1 + cc }, x.2.1 ++ a, x.2.2 ++ bad)) (s, [], [])
  let sv := { sv with writing := true, poison := !x.2.2.isEmpty }
  let s := writeArea { x.1 with saves := mset x.1.saves d sv } d sv e x.2.1 x.2.2
  if e.modIx = s.net.index then endSave s d else s

/-- True where a transfer that has issued is still to land in a tile of the context. -/
def inFlight (s : State) (ctx : Nat) : Bool :=
  let ts := (ctxInsts s ctx).flatMap fun i => instTiles i.2
  s.movers.any fun e => e.2.any fun f =>
    f.issued && !f.done && ts.contains f.tile && (f.kind != 2 || (mget s.streams f.key).any fun st => !st.out.isEmpty)

/-- SEND_FENCE_SATISFIED: every message of the fence has been delivered or has ended, and the transfers under way to the tiles have landed;
the tiles scan out to their capture slots and the save area is written (R158, R159, R388). -/
def execSendFenceSatisfied (d : Nat) (s : State) : Host.Outcome State Fault Refusal :=
  .next <| unfused s <| match mget s.saves d with
    | none => s
    | some sv =>
      if !sv.frozen || sv.writing || inFlight s sv.ctx || sv.msgs.any fun m => mhas s.net.msgs m then s
      else match dirGet s sv.obj with
        | some e => writeSave s d sv e
        | none => endSave { s with saves := mset s.saves d { sv with lost := true } } d

/-! ### CTX_RESTORE: reading the area (R161) -/

/-- Header checks of one instance's area (R161 check 1). -/
def areaHeadOk (s : State) (ctx : Nat) (b : Bytes) : Bool :=
  let uid := fld b 0x10 16
  let ov := fld b 0x20 16
  decide (4096 ≤ b.length) && fld b 0 4 == 0x53435944 && fld b 4 2 == 1 &&
    fld b 0xFFC 4 == crc32 (putBytes (slice b 0 4096) 0xFFC [0, 0, 0, 0]) && decide (byteAt b 7 < 16) && zeroAt b 0x70 3980 &&
    (harnessOf s ctx uid).any (fun h => byteAt h.2.image 0x10 == byteAt b 6) && overlayFor s ctx uid ov

/-- The areas of a save area, one after another while a header follows. -/
def areasOf : Nat → Bytes → List Bytes
  | 0, _ => []
  | n + 1, b =>
    let size := fld b 0x48 8
    if fld b 0 4 = 0x53435944 ∧ 4096 ≤ size ∧ size ≤ b.length then slice b 0 size :: areasOf n (b.drop size) else []

/-- Parts of an instance's area. -/
def areaTiles (b : Bytes) : Nat := 256 * byteAt b 6
def areaScan (b : Bytes) (r : Nat) : Bytes := slice b (4096 + 98304 * r) 98304
def areaT1 (b : Bytes) (r : Nat) : Bytes := slice b (4096 + 98304 * areaTiles b + 524288 * r) 524288
def areaPark (b : Bytes) (r : Nat) : Bytes := slice b (4096 + 622592 * areaTiles b + 98304 * r) 98304
def areaCc (b : Bytes) : Bytes :=
  b.drop (4096 + areaTiles b * (622592 + (if bit (byteAt b 7) 2 then 98304 else 0)))

/-- The binding table's entries in a control-core part. -/
def areaRoles (b : Bytes) : List (Nat × Nat × Nat) :=
  let c := areaCc b
  (List.range (fld c 8 4)).map fun i => (fld c (12 + 16 * i) 4, fld c (16 + 16 * i) 4, fld c (20 + 16 * i) 8)

/-- True where DIGEST of an area matches. -/
def areaDigestOk (b : Bytes) : Bool := fld b 0x50 32 == (sha3 (b.drop 4096)).toNat

/-- True where every scan image of an area passes R128, parked ones among them. -/
def areaImagesOk (b : Bytes) : Bool :=
  (List.range (areaTiles b)).all fun r => scanOk (areaScan b r) && (!bit (byteAt b 7) 2 || scanOk (areaPark b r))

/-- The control-core state that an area stands for: what this module wrote with it, or what its firmware reads from another module's
(R160; notes/assumptions/14.md). -/
def areaState (s : State) (b : Bytes) : Option CcState :=
  ((mget s.ccs (fld (areaCc b) 0 8)).filter fun c => c.digest == BitVec.ofNat 256 (fld b 0x50 32)).or (ccRead (areaCc b))

/-! ### Restoring -/

/-- Moves a deadline that falls in the freeze (R364). -/
def shiftPast (lo hi t : Nat) : Nat := if lo ≤ t ∧ t < hi then t + (hi - lo) else t

/-- A sync object as it comes back: deadlines moved, its parent and its home renumbered (R364). -/
def shiftObj (lo hi : Nat) (num : Nat → Nat) (index : Nat) (o : SyncObj) : SyncObj :=
  let due := fun b => b + o.oldest * o.period
  { o with
    base := o.base.map fun b => if lo ≤ due b ∧ due b < hi then b + (hi - lo) else b,
    gens := mmap o.gens fun _ g =>
      { g with opened := g.opened.map fun a => if o.timeout ≠ 0 ∧ lo ≤ a + o.timeout ∧ a + o.timeout < hi then a + (hi - lo) else a,
               due := g.due.map (shiftPast lo hi) },
    waiters := o.waiters.map fun w => { w with expiry := w.expiry.map (shiftPast lo hi) },
    parent := o.parent.map fun p => if p.home = index then { p with phys := num p.phys } else p }

/-- The sync objects of a context come back, each under its own number where that is free. -/
def restoreObjs (s : State) (ctx lo hi : Nat) (c : CcState) : State :=
  let pick := c.objs.foldl (fun (m : AMap Nat) o =>
    let taken (n : Nat) : Bool := mhas s.objs n || m.any fun e => e.2 == n
    let n := if taken o.1 then ((List.range 4096).find? fun n => !taken n).getD o.1 else o.1
    mset m o.1 n) []
  let num (p : Nat) : Nat := mgetD pick p p
  let s := c.objs.foldl (fun s o => setObj s (num o.1) (shiftObj lo hi num s.net.index o.2)) s
  { s with ctxs := mset s.ctxs ctx { ctxOf s ctx with
             vids := mmap c.vids fun _ v => if v.2.1 = s.net.index then (num v.1, v.2) else v },
           waves := s.waves ++ c.waves.map fun w => { w with obj := num w.obj } }

/-- True where a pool of a group was created again after a tread (Table 17-10). -/
def poolRemade (s : State) (g : Group) (inT3 : Bool) (since : Nat) : Bool :=
  g.pools.any fun p => (p.1 / 65536 == b2n inT3) &&
    match dirGet s p.2 with
    | some e => e.epoch == 0 && decide (since < e.moveTread)
    | none => true

/-- A request that re-enters PREFILL over its prompt and its settled tokens before the pending one (Table 17-10). -/
def refill (q : Req) : Req :=
  match q.pend with
  | some t => { q with state := .prefill, len := 0, left := q.toks.dropLast, toks := q.toks.dropLast, pend := none, pages := [],
                       counts := mset q.counts t (mgetD q.counts t 1 - 1), kept := q.kept - 1 }
  | none => { q with state := .prefill, len := 0, left := q.toks, pages := [] }

/-- What becomes of the requests of a group at a restore from a checkpoint (Table 17-10): `old` is the group as the stop
left it. The second result lists those that end, with their status. -/
def checkpointReqs (s : State) (g old : Group) (freeze : Nat) (isSealed : Nat → Bool) : Group × List (Nat × Nat) :=
  let lost := moduleStatus s g.lead != stOk
  let keep := g.reqs.filterMap fun r =>
    match old.req? r.1 with
    | none => none
    | some o =>
      let q := { r.2 with cancels := o.cancels, closer := o.closer }
      let remade := q.pages.any fun p => poolRemade s g p.inT3 freeze
      some (r.1, if q.live ∧ remade then refill q else q)
  let new := old.reqs.filter fun r => !mhas g.reqs r.1
  let ends := keep.filterMap fun r =>
    if !(r.2.live || r.2.state == .held) then none
    else if lost then some (r.1, eUnreachable)
    else if r.2.live ∧ isSealed r.1 then some (r.1, eCancelled) else none
  ({ g with reqs := new.foldl (fun m r => mset m r.1 r.2) keep },
   ends ++ (new.filter fun r => r.2.live || r.2.state == .held).map fun r => (r.1, eUnreachable))

/-- Ends a list of requests with their statuses, and delivers the END records. -/
def endListed (s : State) (g : Group) (es : List (Nat × Nat)) : State :=
  let x := es.foldl (fun (x : State × Group × List (Nat × Settled)) e =>
    match (x.2.1).req? e.1 with
    | none => x
    | some q =>
      let y := endReq x.1 x.2.1 e.1 e.2
      (y.1, y.2, x.2.2 ++ [endRecord g e.1 e.2 q])) (s, g, [])
  let s := deliver x.1 x.2.1 g.stepNo g.gen x.2.2
  let y := finishEnds s x.2.1 (es.map (·.1))
  setGroup y.1 y.2

/-- The group of a restored instance comes back; after a checkpoint its generation passes every one reached (R361) and
its requests fare as Table 17-10 says. `ren` renumbers instances, `old` is the group that a stop left. -/
def restoreGroup (s : State) (c : CcState) (ren : AMap Nat) (freeze : Nat) (old : Option Group) : State :=
  match c.group with
  | none => s
  | some g0 =>
    let ri (k : Nat) : Nat := mgetD ren k k
    let plan (p : Plan) : Plan := { p with entries := p.entries.map fun e => { e with inst := ri e.inst } }
    let bar := ((vidOf s g0.ctx (0xFF00 + g0.num)).map (·.1)).getD g0.bar
    let g := { g0 with reqs := mmap g0.reqs fun _ q => { q with inst := ri q.inst, lastIn := 0 }, run := g0.run.map plan, plan := g0.plan.map plan,
                       bar := bar }
    let admits := c.admits.foldl (fun m a =>
      let now := (mget s.admits a.1).elim 0 fun x => max x.seen (x.next.getD 0)
      mset m a.1 { a.2 with seen := max a.2.seen now }) s.admits
    match old with
    | none => setGroup { s with admits := admits } g
    | some o =>
      let sealed_ (r : Nat) : Bool := (mget c.admits (admitKey g.ctx (g.rid r))).any fun a => a.sealing.isSome
      let x := checkpointReqs s { g with gen := max g.gen o.gen + 1 } o freeze sealed_
      let admits := (admits.filter fun a => !(a.1 / 2 ^ 32 == g.ctx && a.1 % 2 ^ 32 / 65536 == g.num)) ++
        admits.filter fun a => a.1 / 2 ^ 32 == g.ctx && a.1 % 2 ^ 32 / 65536 == g.num && mhas x.1.reqs (a.1 % 65536)
      endListed { s with admits := admits.foldl (fun m a => mset m a.1 a.2) [] } x.1 x.2

/-- Restores the tiles of a bound instance: T1, park slots, scan images under the saved epoch (R160 steps 3 and 4). -/
def restoreTiles (s : State) (i : Inst) (b : Bytes) : State :=
  let ep := byteAt b 7 % 4
  let parked := bit (byteAt b 7) 2
  (instTiles i).zipIdx.foldl (fun s t =>
    let s := writeTier s 0 (t1Off t.1 0) (areaT1 b t.2)
    let s := (scanInto s t.1 (areaScan b t.2)).1
    let x := tileOf s t.1
    let c := resumeCore x.core ep
    let p := if parked then some (scanInCore (areaPark b t.2)) else none
    ringEpochs (setTile s t.1 { x with core := c, park := p, frozen := true }) t.1 c ep) s

/-- What a restore knows of one area: its bytes and the instance it becomes. -/
structure Restored where
  area : Bytes
  inst : Nat
  deriving DecidableEq, Repr

/-- Binds one area on bays (R160 steps 1 and 2); `far` are bytes of homes that other members hold, and the result ends with what is left of
them. -/
def bindArea (s : State) (ctx first : Nat) (b far : Bytes) : Nat × Nat × State × Bytes :=
  match harnessOf s ctx (fld b 0x10 16), mfresh s.insts 8 with
  | some (_, h), some k =>
    let hi := himgOf h.image
    let roles := areaRoles b
    let c := bindCheck s ctx first hi roles far
    if c.1 ≠ stOk then (c.1, 0, s, far)
    else
      let s := demandBound s ctx hi roles
      let ov := fld b 0x20 16
      let img := if ov = 0 then hi else patched hi ((overlayOf s ctx ov).elim [] (·.2.image))
      let s := placeInst s k ctx (fld b 0x10 16) ((areaState s b).elim 0 (·.inst.group)) c.2.1 img roles c.2.2
      let s := { s with insts := madj s.insts k fun i =>
        { i with overlay := ov, parked := if bit (byteAt b 7) 2 then some (fld b 0x30 16) else none, stalled := bit (byteAt b 7) 3 } }
      (stOk, k, s, c.2.2.far)
  | _, _ => (eBusy, 0, s, far)

/-- Binds every area in turn. -/
def bindAreas (s : State) (ctx : Nat) (firsts : Bytes) (areas : List Bytes) (far : Bytes) : Nat × List Restored × State :=
  let x := areas.zipIdx.foldl (fun (x : Nat × List Restored × State × Bytes) a =>
    if x.1 ≠ stOk then x
    else
      let r := bindArea x.2.2.1 ctx (byteAt firsts a.2) a.1 x.2.2.2
      (r.1, x.2.1 ++ [{ area := a.1, inst := r.2.1 }], r.2.2)) (stOk, [], s, far)
  (x.1, x.2.1, x.2.2.1)

/-- The streams and the fetches of a saved instance come back on its tiles, in its rows: each stream under its own number where that is free at
the end port, else under the first that is (R195; notes/assumptions/14.md). -/
def restoreStreams (s : State) (c : CcState) (i : Inst) : State :=
  let old := instTiles c.inst
  let new := instTiles i
  let tile (t : Nat) : Nat := new.getD (old.idxOf t) t
  let x := c.streams.foldl (fun (x : State × AMap Nat) st =>
    let key := if mhas x.1.streams st.1 then ((freeStreams x.1 (st.1 / 128) (st.1 / 64 % 2)).head?).elim st.1 (st.1 / 64 * 64 + ·) else st.1
    ({ x.1 with streams := mset x.1.streams key { st.2 with tile := tile st.2.tile } }, mset x.2 st.1 key)) (s, [])
  c.fetches.foldl (fun s f =>
    setEngine s f.1 (engineQ s f.1 ++ [{ f.2 with tile := tile f.2.tile, stream := mgetD x.2 f.2.key f.2.key % 64 }])) x.1

/-- The control-core state of the areas comes back (R160 step 5): that of the context once, and each instance's. -/
def restoreCc (s : State) (ctx resume : Nat) (rs : List Restored) (olds : AMap Group) : State :=
  let cs := rs.filterMap fun r => (areaState s r.area).map fun c => (r, c)
  match cs with
  | [] => s
  | (r0, c0) :: _ =>
    let freeze := fld r0.area 8 8
    let s := restoreObjs { s with objs := mkeep s.objs fun _ o => o.ctx != ctx } ctx freeze resume c0
    let s := { s with adapters := c0.adapters.foldl (fun m a => if mhas m a.1 then m else mset m a.1 a.2) s.adapters }
    let ren := cs.foldl (fun (m : AMap Nat) x => mset m x.2.num x.1.inst) []
    let s := cs.foldl (fun s x =>
      let i := x.2.inst
      { s with insts := madj s.insts x.1.inst fun y =>
                 { y with table := i.table, stepGen := i.stepGen, stepNo := i.stepNo, running := i.running, failed := i.failed, startAt := i.startAt,
                          parkRun := i.parkRun, work := i.work, parkWork := i.parkWork },
               graphs := x.2.graphs.foldl (fun m g => mset m g.1 { g.2 with inst := x.1.inst }) s.graphs }) s
    let s := cs.foldl (fun s x => (mget s.insts x.1.inst).elim s (restoreStreams s x.2)) s
    cs.foldl (fun s x =>
      match x.2.group with
      | none => s
      | some g => if mhas s.groups g.key then s else restoreGroup s x.2 ren freeze (mget olds g.key)) s

/-- The status of the reads of R161 checks 2 to 4. -/
def areaStatus (poison : Bool) (areas : List Bytes) : Nat :=
  if poison then ePoison
  else if !areas.all areaDigestOk ∨ !areas.all areaImagesOk then eAuth else stOk

/-- Bit mask of a list of instance numbers. -/
def instMask (ks : List Nat) : Nat := ((ks.eraseDups).map fun k => 2 ^ k).sum

/-- The restore of a context from the bytes of its save area (R160, R161, R547). A failure leaves the bays cleared and
free. -/
def restoreCtx (s : State) (d : Nat) (t : Taken) (bytes far : Bytes) (poison : Bool) : State :=
  let resume := fld t.bytes 24 8
  let stopped := s.flt.sliceStopped
  let is := ctxInsts s t.ctx
  let olds := if stopped then s.groups.filter fun g => g.2.ctx == t.ctx else []
  let s := if stopped then
      is.foldl (fun s i => removeInst s i.1 false) { s with groups := mkeep s.groups fun _ g => g.ctx != t.ctx }
    else s
  let back (s : State) : State := { s with groups := olds.foldl (fun m g => mset m g.1 g.2) s.groups }
  let areas := areasOf 8 bytes
  if (areas.isEmpty && !(poison && areaHeadOk s t.ctx bytes)) || !areas.all (areaHeadOk s t.ctx) then finish (back s) d ePerm
  else if areas.isEmpty then finish (back s) d ePoison
  else
    let b := bindAreas s t.ctx (slice t.bytes 32 8) areas far
    if b.1 ≠ stOk then finish (back s) d b.1
    else if areaStatus poison areas ≠ stOk then finish (back s) d (areaStatus poison areas)
    else
      let s := b.2.1.foldl (fun s r => (mget s.insts r.inst).elim s fun i => restoreTiles s i r.area) b.2.2
      let s := restoreCc s t.ctx resume b.2.1 olds
      { holdDesc s d with rests := mset s.rests d { ctx := t.ctx, insts := b.2.1.map (·.inst), resume := resume } }

/-- Bytes of the areas at the front of a save area. -/
def areasLen (b : Bytes) : Nat := ((areasOf 8 b).map (·.length)).sum

/-- CTX_RESTORE (R160). `area` are the bytes of the save area when another member is its home, which do not come whole where a word that the
restore reads is poisoned there (R161), and after them those of the homes that other members hold (notes/assumptions/7.md). -/
def execCtxRestore (d : Nat) (area : Bytes) (s : State) : Host.Outcome State Fault Refusal :=
  .next <| unfused s (withDesc s d (·.op == 0x91) restoreFields fun t =>
    let h := handleAt t.bytes 12
    match dirGet s h.1 with
    | none => finish s d ePerm
    | some e =>
      if e.ctx ≠ t.ctx ∨ e.size < h.2 then finish s d ePerm
      else if (s.saves.any fun x => x.2.ctx == t.ctx) = true ∨ (s.rests.any fun x => x.2.ctx == t.ctx) = true then finish s d eBusy
      else if e.absent ∨ moduleStatus s e.modIx ≠ stOk then finish s d eUnreachable
      else if e.modIx ≠ s.net.index then
        let n := e.size - h.2
        if area.length < 4096 then finish s d ePoison
        else restoreCtx s d t (area.take n) (area.drop n) (decide (area.length < n))
      else
        let n := areasLen (objRead s e h.2 (e.size - h.2))
        let s := objDemand s e h.2 n
        restoreCtx s d t (objRead s e h.2 n) area (!(objPoisonAt s e h.2 n).isEmpty))

/-- RESUME_TREAD_RELEASE: at RESUME_TREAD the freeze of the restored instances is released and the CTX_RESTORE completes
(R160 step 6, Table 13-15). -/
def execResumeTreadRelease (d : Nat) (s : State) : Host.Outcome State Fault Refusal :=
  .next <| unfused s <| match mget s.rests d with
    | none => s
    | some r =>
      if s.time.tread < r.resume then s
      else
        let s := r.insts.foldl (fun s k => (mget s.insts k).elim s fun i =>
          if i.stalled then s else thawTiles s (instTiles i)) { s with rests := merase s.rests d }
        let left := s.flt.sliceStopped && s.insts.any fun i => i.2.ctx != r.ctx && i.2.running
        complete { s with flt.sliceStopped := left, net.recovery := if left || s.net.closing then s.net.recovery else none } d stOk
          (instMask r.insts) 0

end Sys2Proof.Machine
end

