-- ==== Sys2Proof/Machine/Messages.lean ====
section
/-!
DEFINITION. Packets received and their answers, and what the end of a message does for whoever sent it (12 R379 to R389,
Tables 12-4 to 12-6; 05 R175 to R181, R198; 09 R304; 11 R346, R359; 17 R540, R541, Table 17-9).
-/
namespace Sys2Proof.Machine

/-! ### Answers (R385) -/

/-- The key of the DONE records held for source `src` on link `k`. -/
def doneKey (k src : Nat) : Nat := k * 8192 + src

/-- Sends one DONE frame with the records held under a key, 16 at most. -/
def sendDone (s : State) (key : Nat) : State :=
  let rs := mgetD s.net.doneHeld key []
  if rs.isEmpty then s
  else
    let body := (rs.take 16).flatMap fun r => leBytes 4 r.msg ++ leBytes 1 r.pkt ++ leBytes 1 r.status ++ [0, 0]
    let held := if (rs.drop 16).isEmpty then merase s.net.doneHeld key else mset s.net.doneHeld key (rs.drop 16)
    let id := s.net.msgNext
    sendReply { s with net.doneHeld := held, net.msgNext := (id + 1) % 2 ^ 32 } 9 (key % 8192) 0xFFFF id 0 [] body []

/-- Holds an answer; a full frame's worth is sent at once. -/
def addDone (s : State) (k : Nat) (p : Packet) (status : Nat) : State :=
  let key := doneKey k p.src
  let rs := mgetD s.net.doneHeld key [] ++ [{ msg := p.msgId, pkt := p.pkt, status := status : DoneRec }]
  let s := { s with net.doneHeld := mset s.net.doneHeld key rs }
  if 16 ≤ rs.length then sendDone s key else s

/-- DONE_RECORD_HOLD_EXPIRY: the records of packets that came on link `k` have been held for 1 µs and are sent (R385). -/
def execDoneRecordHoldExpiry (k : LinkIx) (s : State) : Host.Outcome State Fault Refusal :=
  .next <| unfused s <| ((s.net.doneHeld.map (·.1)).filter fun key => key / 8192 == k.val).foldl sendDone s

/-! ### Taking packets -/

/-- A packet leaves the receive buffer and its credits are owed to the peer (R390). -/
def dropRx (s : State) (n : Nat) : State :=
  match mget s.net.rx n with
  | none => s
  | some r =>
    let l := linkOf s r.link
    let vc := 4 * r.pkt.cls + r.pkt.vck
    let s := { s with net.rx := merase s.net.rx n }
    setLink s r.link { l with owed := l.owed.set vc (l.owed.getD vc 0 + frameCredits s l r.pkt) }

/-- Acts on packet `p` when it is one of type `ty` for this module. In A2 and during a coolant stop a request is answered with E_BUSY
(R402, R497). -/
def withRx (s : State) (p ty : Nat) (act : State → RxPacket → State) : State :=
  match mget s.net.rx p with
  | none => s
  | some r =>
    if r.pkt.ty ≠ ty ∨ r.pkt.dst ≠ s.net.index then s
    else if (s.ps.state = 2 ∨ s.pw.coolantStop = true) ∧ r.pkt.cls = 0 then addDone (dropRx s p) r.link r.pkt eBusy
    else act s r

/-- The packets of a message that have arrived, in their order. -/
def packetsOf (s : State) (r : RxPacket) : List (Nat × RxPacket) :=
  (s.net.rx.filter fun x => x.2.pkt.src == r.pkt.src && x.2.pkt.msgId == r.pkt.msgId && x.2.pkt.ty == r.pkt.ty).mergeSort
    fun a b => decide (a.2.pkt.pkt ≤ b.2.pkt.pkt)

/-- The whole of a message, once every packet of it has arrived: its packets and its bytes (R380). -/
def wholeMsg (s : State) (r : RxPacket) : Option (List (Nat × RxPacket) × Bytes) :=
  let n := fld r.pkt.target 12 4
  let ps := packetsOf s r
  if ps.map (·.2.pkt.pkt) = List.range (packetCount n) then some (ps, (ps.flatMap (·.2.pkt.payload)).take n) else none

/-- The packets of a message are taken and answered. -/
def takeWhole (s : State) (ps : List (Nat × RxPacket)) (status : Nat) : State :=
  ps.foldl (fun s x => addDone (dropRx s x.1) x.2.link x.2.pkt status) s

/-! ### The end of a message at its source -/

/-- The DESC_FWD, data or SYNC message of a descriptor has ended (R354, R359, R388; Table 17-9). -/
def descMsgEnd (s : State) (d id : Nat) (m : Msg) (status : Nat) : State :=
  match mget s.taken d with
  | none => s
  | some t =>
    let op := byteAt t.bytes 0
    let more := s.net.msgs.any fun x => x.2.why == .desc d
    match movingOf s d with
    | some obj => relocateAwayDone s d obj status more
    | none =>
      if mhas s.mem.partner d then
        if status ≠ stOk then finish { s with mem.partner := merase s.mem.partner d } d status
        else if m.ty = 7 then forwardData s d m.dst t.ctx
        else if more then s else exportEnd s d status
      else
      if op = 0x60 then finish s d status
      else if op = 0x61 then
        if status = stOk then s else finish { s with syncOut := merase s.syncOut id } d status
      else if op = 0x90 then
        let s := { s with saves := madj s.saves d fun x => { x with lost := x.lost || status != stOk } }
        if !more && (mget s.saves d).any (·.writing) then endSave s d else s
      else if op = 0x40 then
        if status = stOk then s
        else match s.adapters.find? fun v => v.2.desc == d && v.2.owner == s.net.index with
          | some v => sharePlaced s v.1 m.dst status
          | none => s
      else if op = 0x30 then
        match s.fwds.find? fun f => f.2.desc == d with
        | some (n, f) =>
          match f.stage with
          | .prompt rid =>
            if status = stOk ∧ more then s
            else complete { s with fwds := merase s.fwds n } d status (if status = stOk then rid else 0) 0
          | _ => if status = stOk then s else finish { s with fwds := merase s.fwds n } d status
        | none => s
      else if status = stOk then s
      else finish { s with fwds := mkeep s.fwds fun _ f => f.desc != d } d status

/-- A CXL.mem access to another member's home has ended (Table 13-5, Table 17-9), and those behind it go on (R202). -/
def cxlMsgEnd (s : State) (w : Nat) (m : Msg) (status : Nat) : State :=
  match mget s.waits w with
  | none => s
  | some x =>
    let s := { s with waits := merase s.waits w }
    match x with
    | .cxlRead _ _ _ _ => releaseWaits (answer s (if status = stOk then .data (m.body.drop 32) [] else .poison))
    | .cxlWrite _ _ _ _ => releaseWaits (answer s (if status = stOk then .written else .dropped))
    | _ => s

/-- A message of firmware has ended: a plan may have reached every member (R316), an arrival may follow
the last write (R203), a DEP's question may have failed. -/
def ownMsgEnd (s : State) (id status : Nat) : State :=
  let s := (mkeys s.groups fun _ g => g.plan.any fun p => p.msgs.contains id).foldl (fun s k =>
    planReached { s with groups := madj s.groups k fun g =>
      { g with plan := g.plan.map fun p => { p with msgs := p.msgs.filter (· != id) } } } k) s
  let s := if ownWrites s then s
    else (mkeys s.groups fun _ g => g.owed).foldl (fun s k =>
      groupArrive { s with groups := madj s.groups k ({ · with owed := false }) } k) s
  if status = stOk then s
  else
    let o : Option SyncOut := mget s.syncOut id
    let s := { s with syncOut := merase s.syncOut id }
    match o.map SyncOut.who with
    | some (.fetch e i) => fetchLost s e i status
    | _ => s

/-- A message is delivered, or has ended with another status (R385, R389, R541). -/
def msgEnd (s : State) (id status : Nat) : State :=
  match mget s.net.msgs id with
  | none => s
  | some m =>
    let s := { s with net.msgs := merase s.net.msgs id }
    let s := hwBump s (kNet 4) (b2n (status == eUnreachable))
    flushOut <| match m.why with
      | .firmware => ownMsgEnd s id status
      | .tile t => if status = stOk then s
          else trapLane { s with syncOut := merase s.syncOut id } t (if m.ty = 5 then 2 else 4) status
      | .desc d => descMsgEnd s d id m status
      | .fetch e i => if status = stOk then s else fetchLost s e i status
      | .cxl w => cxlMsgEnd s w m status

/-- One answer to a packet. -/
def msgAnswer (s : State) (id pkt status : Nat) : State :=
  match mget s.net.msgs id with
  | none => s
  | some m =>
    if status ≠ stOk then msgEnd s id status
    else
      let left := m.left.filter (· != pkt)
      let s := { s with net.msgs := mset s.net.msgs id { m with left := left } }
      if left.isEmpty then msgEnd s id stOk else s

/-- GT_DONE: a DONE frame answers packets (R385). -/
def execGtDone (p : Nat) (s : State) : Host.Outcome State Fault Refusal :=
  .next <| unfused s (withRx s p 9 fun s r =>
    let b := r.pkt.payload
    (List.range (min 16 (b.length / 8))).foldl (fun s i => msgAnswer s (fld b (8 * i) 4) (byteAt b (8 * i + 4)) (byteAt b (8 * i + 5)))
      (dropRx s p))

/-- PACKET_TIMEOUT: a message with a packet unanswered for 4,096 treads completes with E_UNREACHABLE (R389). -/
def execPacketTimeout (msg : Nat) (s : State) : Host.Outcome State Fault Refusal :=
  .next <| unfused s <| match mget s.net.msgs msg with
    | none => s
    | some m => if m.sent + 4096 ≤ s.time.tread then msgEnd s msg eUnreachable else s

/-! ### Accesses to homes of this module (R175 to R181) -/

/-- What a home answers to an access over GT. -/
inductive HomeVerdict where
  | refuse (status : Nat)
  | redirect (e : DirEntry)
  | wait
  | serve (e : DirEntry)
  deriving DecidableEq, Repr

/-- The verdict on `n` bytes from `off` of an object for a context, at an epoch (R175, R178, R181). The data of a RELOCATE to this module
land in the range that it holds for it. -/
def homeVerdict (s : State) (ctx obj off n epoch : Nat) (write : Bool) : HomeVerdict :=
  match (mget s.mem.moving obj).filter fun m => m.kind == 5 && write && ctx == 0xFFFF && m.dest.epoch == epoch with
  | some m => .serve m.dest
  | none =>
    match dirGet s obj with
    | none => .refuse ePerm
    | some e =>
      if e.modIx ≠ s.net.index then (if e.absent then .refuse eUnreachable else .redirect e)
      else if epoch < e.epoch then .redirect e
      else if (ctx ≠ 0xFFFF ∧ e.ctx ≠ ctx) ∨ e.size < off + n then .refuse ePerm
      else if e.absent then .refuse eUnreachable
      else if moveHolds s obj write then .wait else .serve e

/-- A REDIRECT that stands in place of an answer (R176, R207, Table 12-5). -/
def sendRedirect (s : State) (p : Packet) (obj : Nat) (e : DirEntry) : State :=
  let id := s.net.msgNext
  sendReply (hwBump { s with net.msgNext := (id + 1) % 2 ^ 32 } (kMem 180) 1) 10 p.src p.ctx id 0 []
    (leBytes 4 p.msgId ++ leBytes 1 p.pkt ++ [0, 0, 0] ++ (entryBytes obj e).take 48) []

/-- Writes a packet's bytes into a home, its poisoned words as poisoned (R219, R386). -/
def landBytes (s : State) (e : DirEntry) (off : Nat) (p : Packet) : State :=
  objLand (countObj s e off p.payload.length true) e off p.payload (p.poison.map (8 * ·))

/-- A packet of partner data for a staging object (Table 12-21 BUFFER). -/
def landStaging (s : State) (k : Nat) (g : Staging) (off : Nat) (p : Packet) : State :=
  { s with mem.staging := mset s.mem.staging k { g with data := putBytes (padTo (max g.data.length (off + p.payload.length)) g.data) off p.payload,
                                                        got := g.got + p.payload.length, bad := g.bad ++ p.poison.map (off + 8 * ·) } }

/-- A packet for a request buffer, whose handle is object 0 with the RID above 32 offset bits (R317;
notes/assumptions/30.md). The request can enter steps when its whole prompt is there. -/
def landPrompt (s : State) (p : Packet) (off : Nat) : State :=
  match groupOfRid s p.ctx (off / 2 ^ 32) with
  | none => s
  | some (g, r) =>
    match g.req? r with
    | none => s
    | some q =>
      let at_ := off % 2 ^ 32 / 4
      let n := p.payload.length / 4
      let toks := q.toks.take at_ ++ tokensOf p.payload n ++ q.toks.drop (at_ + n)
      let q := { q with toks := toks, got := q.got + n }
      setGroup s (g.setReq r (if q.got = toks.length ∧ q.left.isEmpty ∧ q.len = 0 then
        { q with left := toks, openAt := s.time.tread } else q))

/-- GT_WRITE: a packet lands in its home and is answered (R385). While a MOVE holds writes up it waits (R181), and until
no partner holds its lines (R425). -/
def execGtWrite (p : Nat) (s : State) : Host.Outcome State Fault Refusal :=
  .next <| unfused s (withRx s p 1 fun s r =>
    let k := r.pkt
    let h := handleAt k.target 0
    let off := h.2 + 4096 * k.pkt
    if h.1 = 0 then addDone (landPrompt (dropRx s p) k off) r.link k stOk
    else match mget s.mem.staging h.1 with
    | some g => addDone (landStaging (dropRx s p) h.1 g off k) r.link k stOk
    | none => match homeVerdict s k.ctx h.1 off k.payload.length (fld k.target 16 8) true with
      | .wait => s
      | .refuse st => addDone (dropRx s p) r.link k st
      | .redirect e => sendRedirect (dropRx s p) k h.1 e
      | .serve e =>
        if writeHeld s h.1 e off k.payload.length then askLines s h.1 e off k.payload.length
        else addDone (landBytes (usedLines (dropRx s p) h.1 off k.payload.length) e off k) r.link k stOk)

/-- The DATA packets that answer a READ with bytes and the places of their poisoned words (R379, R385, R386). -/
def sendData (s : State) (k : Packet) (bs : Bytes) (bad : List Nat) : State :=
  let cnt := packetCount bs.length
  let ps := (List.range cnt).map fun i =>
    { mkPacket s 3 1 k.src k.ctx k.msgId i cnt (padTo 32 (k.payload.take 32)) (slice bs (4096 * i) 4096) (packetPoison bad i) with pkt := i }
  flushOut { s with net.out := s.net.out ++ ps }

/-- A READ of a staging object, which is gone with the last of its bytes (Table 12-21 BUFFER). -/
def readStaging (s : State) (k : Packet) (obj : Nat) (g : Staging) (off n : Nat) : State :=
  let got := g.got + n
  let s := { s with mem.staging := if g.size ≤ got then merase s.mem.staging obj else mset s.mem.staging obj { g with got := got } }
  sendData s k (slice g.data off n) (placesIn g.bad off n)

/-- GT_READ: the home answers with DATA, or with DONE or REDIRECT in its place (R379, R175, R178). -/
def execGtRead (p : Nat) (s : State) : Host.Outcome State Fault Refusal :=
  .next <| unfused s (withRx s p 2 fun s r =>
    let k := r.pkt
    let h := handleAt k.target 0
    let n := fld k.payload 12 4
    match mget s.mem.staging h.1 with
    | some g => readStaging (dropRx s p) k h.1 g h.2 n
    | none => match homeVerdict s k.ctx h.1 h.2 n (fld k.target 16 8) false with
      | .wait => s
      | .refuse st => addDone (dropRx s p) r.link k st
      | .redirect e => sendRedirect (dropRx s p) k h.1 e
      | .serve e =>
        let x := takeObj (countObj (dropRx s p) e h.2 n false) e h.2 n
        sendData x.2.2 k x.1 x.2.1)

/-! ### Answers with data -/

/-- Lands bytes of a fetch, from byte `off` of it on, in its tile buffer, unit by unit (R196, R219). -/
def landAtTile (s : State) (f : Fetch) (st : Stream) (off : Nat) (bs : Bytes) (bad : List Nat) : State :=
  let u := max 1 st.unitBytes
  let n := bs.length
  let s := (List.range ((off + n + u - 1) / u - off / u)).foldl (fun s j =>
    let i := off / u + j
    let lo := max off (i * u)
    let hi := min (off + n) (i * u + u)
    let dst := unitSlot f st i
    storeTier (countTier s dst.1 (dst.2 + (lo - i * u)) (hi - lo) true) dst.1 (dst.2 + (lo - i * u)) (slice bs (lo - off) (hi - lo))) s
  bad.foldl (fun s w =>
    let dst := unitSlot f st ((off + w) / u)
    poisonRange s dst.1 (dst.2 + (off + w) % u) 8) s

/-- Read data reach their return target (R385): a fetch's tile buffer, the local end of a gallery transfer, a partner's CXL.mem read, partner
memory for an EXPORT; `none` where poison ends the read. -/
def deliverData (s : State) (id : Nat) (m : Msg) (off : Nat) (bs : Bytes) (bad : List Nat) : Option State :=
  match m.why with
  | .fetch e i =>
    match (engineQ s e)[i]? with
    | none => some s
    | some f => match mget s.streams f.key with
      | none => some s
      | some st => some (landAtTile s f st off bs bad)
  | .tile t =>
    match ((tileOf s t).lane 4).op with
    | none => some s
    | some w =>
      let dst := galLocal t w.word
      some (carryPoison (storeTier (countTier s dst.1 (dst.2 + off) bs.length true) dst.1 (dst.2 + off) bs) dst.1 (dst.2 + off) bad)
  | .cxl _ =>
    if !bad.isEmpty then none
    else
      let b := putBytes (padTo (32 + fld m.body 12 4) m.body) (32 + off) bs
      some { s with net.msgs := mset s.net.msgs id { m with body := b } }
  | .desc d =>
    match mget s.taken d with
    | some t => some (if mhas s.mem.partner d then pmLand s t.port ((moveReq t.bytes).host + off) bs bad else s)
    | none => some s
  | _ => some s

/-- GT_DATA: read data reach their return target (R385). -/
def execGtData (p : Nat) (s : State) : Host.Outcome State Fault Refusal :=
  .next <| unfused s (withRx s p 3 fun s r =>
    let k := r.pkt
    let off := fld k.target 4 8 + 4096 * k.pkt
    let s := dropRx s p
    match mget s.net.msgs k.msgId with
    | none => s
    | some m =>
      if m.ty ≠ 2 ∨ m.dst ≠ k.src ∨ !m.left.contains k.pkt then s
      else match deliverData s k.msgId m off k.payload (k.poison.map (8 * ·)) with
        | some s => msgAnswer s k.msgId k.pkt stOk
        | none => msgEnd s k.msgId ePoison)

/-- The part of a message that a REDIRECT answers goes to the home that the copy names, this module among them (R176, R198): a READ whole, a
WRITE by its packet `i`. -/
def reissue (s : State) (id i : Nat) (m : Msg) (e : DirEntry) : State :=
  let h := handleAt m.target 0
  if e.modIx = s.net.index then
    if m.ty = 2 then
      let n := fld m.body 12 4
      if accessStatus s m.ctx h.1 h.2 n ≠ stOk then msgEnd s id (accessStatus s m.ctx h.1 h.2 n)
      else
        let x := takeObj (countObj s e h.2 n false) e h.2 n
        match deliverData x.2.2 id m (fld m.body 4 8) x.1 x.2.1 with
        | some s => msgEnd s id stOk
        | none => msgEnd s id ePoison
    else
      let part := slice m.body (4096 * i) 4096
      let off := h.2 + 4096 * i
      if accessStatus s m.ctx h.1 off part.length ≠ stOk then msgEnd s id (accessStatus s m.ctx h.1 off part.length)
      else msgAnswer (objLand (countObj s e off part.length true) e off part (placesIn m.bad (4096 * i) 4096)) id i stOk
  else
    let left := if m.ty = 2 then [] else m.left.filter (· != i)
    let s := { s with net.msgs := if left.isEmpty then merase s.net.msgs id else mset s.net.msgs id { m with left := left } }
    if m.ty = 2 then newMsg s 2 e.modIx m.ctx m.why (handleTarget h.1 h.2 (fld m.body 12 4) e.epoch) m.body
    else
      let part := slice m.body (4096 * i) 4096
      newMsgP s 1 e.modIx m.ctx m.why (handleTarget h.1 (h.2 + 4096 * i) part.length e.epoch) part (placesIn m.bad (4096 * i) 4096)

/-- GT_REDIRECT: the copy takes the entry when its EPOCH is higher, and the part of the message that it answers is made again against the home
that the copy names; a fetch is counted as reissued once (R176, R198, R207). -/
def execGtRedirect (p : Nat) (s : State) : Host.Outcome State Fault Refusal :=
  .next <| unfused s (withRx s p 10 fun s r =>
    let b := r.pkt.payload
    let s := hwBump (dropRx s p) (kMem 179) 1
    let id := fld b 0 4
    match entryOf (slice b 8 48), mget s.net.msgs id with
    | some (obj, e), some m =>
      let s := if (dirGet s obj).all fun c => decide (c.epoch < e.epoch) then dirSet s obj e else s
      let e := (dirGet s obj).getD e
      let s := match m.why with
        | .fetch en ix =>
          let s := hwBump s (kMem 181) (b2n (((engineQ s en)[ix]?).any fun x => !x.reissued))
          onFetch s en ix fun x =>
            { x with reissued := true, epoch := e.epoch, far := if m.ty = 2 && e.modIx != s.net.index then some e.modIx else x.far }
        | _ => s
      reissue s id (byteAt b 4) m e
    | _, _ => s)

/-! ### Streams (R304, R385, R387) -/

/-- GT_STREAM: the units of a message land in a tile's stream buffer by unit number (R387); a CREDIT goes to its sender's count (R303). A
stream that is not open refuses them. -/
def execGtStream (p : Nat) (s : State) : Host.Outcome State Fault Refusal :=
  .next <| unfused s (withRx s p 4 fun s r =>
    match wholeMsg s r with
    | none => s
    | some (ps, b) =>
      let g := r.pkt.target
      let t := fld g 0 2
      if byteAt b 0 = 3 then takeCredit (takeWhole s ps stOk) t b
      else
        let key := 128 * (t / 64) + 64 * (byteAt g 3 % 2) + byteAt g 2 % 64
        match mget s.streams key with
        | none => takeWhole s ps ePerm
        | some st =>
          if st.tile ≠ t then takeWhole s ps ePerm
          else
            let bad := ps.flatMap fun x => x.2.pkt.poison.map (512 * x.2.pkt.pkt + ·)
            exchangeArrive (takeWhole s ps stOk) key st (fld g 4 4) b bad)

/-! ### Synchronisation and the directory -/

/-- GT_SYNC: the home's sync engine takes the operation (R346, R385); a result or a release is answered with SYNC_RSP
(R359). A REMOTE_BARRIER member is known by its module and virtual ID. -/
def execGtSync (p : Nat) (s : State) : Host.Outcome State Fault Refusal :=
  .next <| unfused s (withRx s p 5 fun s r =>
    let k := r.pkt
    let b := k.payload
    let obj := fld k.target 0 2
    let op := byteAt b 0
    let m := (mget s.objs obj).bind fun o =>
      (o.members.zipIdx.find? fun x => x.1.kind == 2 && x.1.modIx == k.src && x.1.id == fld b 8 2).map (·.2)
    let who : Who := .remote k.src k.msgId
    let s := dropRx s p
    if (mget s.objs obj).any fun o => o.ctx != k.ctx then addDone s r.link k ePerm
    else
      let x := syncOp s obj op (fld b 4 4) who m true none
      match x.1 with
      | .bad => addDone x.2 r.link k ePerm
      | .waits => addDone x.2 r.link k stOk
      | .done v g =>
        let s := addDone x.2 r.link k stOk
        if op = 2 ∨ op = 3 ∨ op = 5 ∨ op = 0 then
          sendReply s 6 k.src k.ctx k.msgId 0 [] (rspBytes v g s.time.tread) []
        else s)

/-- clk lost between a release tread and now (R359). -/
def slipClk (s : State) (tread : Nat) : Nat := (s.time.tread - tread) * freqMhz s.pw.now + (if tread ≤ s.time.tread then s.clk else 0)

/-- GT_SYNC_RSP: the result of a TAKE, a satisfied wait, or the release of a generation with its tread (R359, R362). -/
def execGtSyncRsp (p : Nat) (s : State) : Host.Outcome State Fault Refusal :=
  .next <| unfused s (withRx s p 6 fun s r =>
    let b := r.pkt.payload
    let v := fld b 0 4
    let g := fld b 4 4
    let tread := fld b 8 8
    let s := dropRx s p
    match mget s.syncOut r.pkt.msgId with
    | none => s
    | some o =>
      let s := { s with syncOut := merase s.syncOut r.pkt.msgId }
      match o.who with
      | .tile t =>
        let s := match o.reg with | some reg => takeResult s t reg v g | none => s
        wakeTile s t
      | .child k => syncRun (fwBump s (kSync 6) (slipClk s tread)) [.free k o.gen tread]
      | .fetch e i => onFetch s e i ({ · with dep := none })
      | .firmware => syncSend s r.pkt.ctx o.dst o.obj 6 o.gen 0xFFFF .firmware .firmware none
      | w => wakeWho s v g tread w)

/-- GT_DIR: the copy takes the entry, or loses it where VALID is clear, and a home here is filled with zeros (R177, R182). An entry of a lower
EPOCH than the copy's is an old one; one of the same EPOCH changes of a home here BOUND_COUNT alone (R185). An ABSENT entry stays so until its
home's own module, which has come back, confirms its EPOCH (R534). An entry MOVING to this module
is an offer, which it checks, and takes by holding the range (R180, notes/assumptions/16.md). -/
def execGtDir (p : Nat) (s : State) : Host.Outcome State Fault Refusal :=
  .next <| unfused s (withRx s p 8 fun s r =>
    let b := r.pkt.payload
    let obj := fld b 0 4
    let done (st : Nat) : State := addDone (dropRx s p) r.link r.pkt st
    match entryOf b with
    | some (o, e) =>
      let c := dirGet s o
      if e.modIx = s.net.index ∧ e.moving ∧ (c.all fun c => c.modIx != s.net.index) = true then
        let st := offerStatus s o e
        let s := done st
        if st = stOk then { s with mem.moving := mset s.mem.moving o { kind := 5, desc := 0, dest := e, sent := false } } else s
      else if c.any fun c => decide (e.epoch < c.epoch) then done stOk
      else match c with
        | some c =>
          let e := { e with absent := e.absent || c.absent && c.epoch == e.epoch && r.pkt.src != e.modIx }
          if c.modIx = s.net.index ∧ c.epoch = e.epoch then dirSet (done stOk) o { c with bound := e.bound }
          else
            let s := if e.modIx = s.net.index then { done stOk with mem.moving := mkeep s.mem.moving fun k m => k != o || m.kind != 5 }
              else dropOffer (done stOk) o
            dirSet s o e
        | none => dirSet { done stOk with mem.moving := mkeep s.mem.moving fun k m => k != o || m.kind != 5 } o e
    | none =>
      let s' := done stOk
      match dirGet s' obj with
      | some c =>
        if c.epoch ≤ fld b 8 8 then dirDel (if c.modIx = s'.net.index ∧ !c.absent then objZero s' c else s') obj else s'
      | none => s')

end Sys2Proof.Machine
end

