-- ==== Sys2Proof/Machine/Links.lean ====
section
/-!
DEFINITION. Links: states, the attested hello, frames received, acknowledgement and resending, forwarding (12 R369 to
R397, R402 to R406; Tables 12-1, 12-2, 12-9, 12-25 to 12-27); link states, reachability, detours and the stop of a slice
(12 R409 to R414; 17 R534, R540 to R543, R549, R550).
-/
namespace Sys2Proof.Machine

/-! ### Link states of the members (R409 to R414) -/

/-- The smallest index of an ACTIVE member that is reachable (R543). -/
def firstSurvivor (s : State) : Option Nat :=
  match s.net.record with
  | none => none
  | some r => (List.range r.members.length).find? fun i =>
      (r.members[i]?).any (·.role == 0) && !s.net.gone.contains i

/-- A fault record, KIND 0x09 of Table 17-2, with SECOND_FAULT for one that overlaps an earlier fault (R527, R550). -/
def faultRecord (s : State) (code member earlier : Nat) : State :=
  logEvent (noteW1c { s with flt.cause := code, flt.secondFault := s.flt.secondFault || earlier != 0 } 5 (earlier != 0)) 9 0xFFFF
    (leBytes 1 code ++ [0] ++ leBytes 2 member ++ leBytes 8 earlier)

/-- The body of a SLICE_STOP (Table 12-21). -/
def stopBody (cause member stop earlier : Nat) : Bytes :=
  [0xA] ++ leBytes 1 cause ++ leBytes 2 member ++ leBytes 4 0 ++ leBytes 8 stop ++ leBytes 8 earlier

/-- A member takes a stop: the first one holds (Table 17-11). -/
def takeStop (s : State) (cause member stop earlier : Nat) : State :=
  if s.net.stopTread.isSome then s
  else { s with net.stopTread := some stop, net.stopRx := some (cause, member, earlier),
                net.recovery := some (s.net.recovery.getD s.time.tread) }

/-- The stop of the slice is decided: the lowest-indexed surviving member sends it with STOP_TREAD 16 treads on; in a slice
that is stopped a further loss joins the first (R543, Table 17-11). -/
def decideStop (s : State) (cause member earlier : Nat) : State :=
  if s.flt.sliceStopped || s.net.stopTread.isSome then s
  else if firstSurvivor s = some s.net.index then
    let stop := s.time.tread + 16
    takeStop (broadcast s (stopBody cause member stop earlier)) cause member stop earlier
  else s

/-- The descriptors, requests, adapter shares and sync operations that wait for member `i` end with E_UNREACHABLE
(R541). -/
def loseAnswers (s : State) (i : Nat) : State :=
  let ds := mkeys s.taken fun _ t => t.stage == .sent i
  let s := ds.foldl (fun s d => finish { s with fwds := mkeep s.fwds fun _ f => f.desc != d } d eUnreachable) s
  let s := (mkeys s.adapters fun _ v => v.wait.contains i).foldl (fun s k => sharePlaced s k i eUnreachable) s
  let owner (f : Fwd) : Option Nat :=
    (mget s.taken f.desc).bind fun t =>
      match f.stage with
      | .binding => (namedVersion s t.ctx (fld f.params 8 4) (fld f.params 12 4)).map (·.2.owner)
      | .retiring => (versionOf s t.ctx (fld t.bytes 8 4) (fld t.bytes 12 4)).map (·.2.owner)
      | _ => (mget s.groups (groupKey t.ctx f.group)).map (·.lead)
  let s := (mkeys s.fwds fun _ f => owner f == some i).foldl (fun s n =>
    match mget s.fwds n with
    | some f => finish { s with fwds := merase s.fwds n } f.desc eUnreachable
    | none => s) s
  (s.syncOut.filter fun o => o.2.dst == i).foldl (fun s o =>
    let s := { s with syncOut := merase s.syncOut o.1 }
    match o.2.who with
    | .tile t => trapLane s t 2 eUnreachable
    | .desc d => finish s d eUnreachable
    | .fetch e n => fetchLost s e n eUnreachable
    | _ => s) s

/-- A member is marked unreachable: its homes are ABSENT, what waits for it ends with E_UNREACHABLE, and its slices stop
where it holds an instance or homes (R414, R540, R543). -/
def markGone (s : State) (i : Nat) : State :=
  if s.net.gone.contains i ∨ i = s.net.index then s
  else
    let holds := !s.insts.isEmpty || s.mem.dir.any fun d => d.2.modIx == i
    let s := { s with
      net.gone := s.net.gone ++ [i],
      mem.dir := s.mem.dir.map fun d => (d.1, if d.2.modIx = i then { d.2 with absent := true } else d.2),
      net.out := s.net.out.filter fun p => p.dst != i }
    let s := (mkeys s.net.msgs fun _ m => m.dst == i).foldl (fun s n => msgEnd s n eUnreachable) s
    let s := (s.mem.moving.filter fun m => m.2.kind == 5 && (dirGet s m.1).all (·.absent)).foldl (fun s m => dropOffer s m.1) s
    let s := loseAnswers s i
    if s.flt.sliceStopped then faultRecord s 1 i (s.net.recovery.getD 0)
    else if holds then decideStop s 1 i 0 else faultRecord s 1 i 0

/-- True where some ACTIVE neighbour of member `i` reports an UP link to it (R410). -/
def reportedUp (s : State) (i : Nat) : Bool :=
  s.net.peers.any fun p => p.1 != i && (memberOf s p.1).any (·.role == 0) && p.2.links.any fun l => l.state == 3 && l.peerIndex == i

/-- True where a member is reached over the hall: through this module's hall ports, or those of another member on the torus that is reachable
(R406, R410). -/
def hallReach (s : State) (i : Nat) : Bool :=
  (memberOf s i).any (·.hall) && (!(hallLinks s).isEmpty || (otherMembers s).any fun j =>
    j != i && (memberOf s j).any fun m => m.hall && m.onTorus)

/-- The escape path from a member to a destination, hop by hop, for at most `n` hops (R405). -/
def escapePath (r : SliceRec) (dst : SliceMember) : Nat → Nat → List (Nat × Nat)
  | 0, _ => []
  | n + 1, i =>
    match r.members[i]? with
    | none => []
    | some me =>
      match productive r me dst with
      | [] => []
      | f :: _ =>
        match neighbour r me f with
        | none => []
        | some j => (i, j) :: escapePath r dst n j

/-- True where a member that has reported its links has none UP to another. -/
def hopBroken (s : State) (i j : Nat) : Bool :=
  (mget s.net.peers i).any fun p => !p.links.any fun l => l.state == 3 && l.peerIndex == j

/-- The destinations whose escape path from this module crosses a fault (R411). -/
def crossed (s : State) : List Nat :=
  match s.net.record with
  | none => []
  | some r => (otherMembers s).filter fun i =>
      match r.members[i]? with
      | some m => m.onTorus && (escapePath r m 64 s.net.index).any fun h => hopBroken s h.1 h.2
      | none => false

/-- True where every ACTIVE member on the torus has an UP link to its neighbour in every face (R400). -/
def ringsClosed (s : State) : Bool :=
  match s.net.record with
  | none => true
  | some r => r.members.zipIdx.all fun m =>
      m.1.role != 0 || !m.1.onTorus || (List.range 6).all fun f =>
        match neighbour r m.1 f with
        | none => true
        | some j => j == m.2 || (mget s.net.peers m.2).any fun p => p.links.any fun l => l.state == 3 && l.peerIndex == j

/-- A second fault while detours or ring closing are under way: the slice stops, and both faults are logged (R412, R550). Link
losses within 100 treads of the first belong to it (R411). -/
def secondFault (s : State) (member : Nat) : State :=
  match s.net.recovery with
  | some t =>
    if t + 100 < s.time.tread ∧ (!s.net.detours.isEmpty ∨ s.net.closing) then decideStop s 2 member t else s
  | none => if s.net.closing then decideStop s 2 member 0 else s

/-- A member that has come to be reachable gets the entries of the homes of this module, which its copy is compared with (R534). -/
def compareCopies (s : State) (i : Nat) : State :=
  (s.mem.dir.filter fun d => d.2.modIx == s.net.index && !d.2.absent).foldl (fun s d =>
    newMsg s 8 i 0xFFFF .firmware (leBytes 12 0 ++ leBytes 4 64) (entryBytes d.1 d.2)) s

/-- Takes the reported links of member `j` and recomputes reachability and routes (R410 to R413); a member that was not reachable before and
is now has its directory copy compared with this module's (R534). -/
def applyLinks (s : State) (j seq : Nat) (links : List PeerLink) : State :=
  let old := mgetD s.net.peers j { seq := 0, links := [] }
  let had := (otherMembers s).filter (reportedUp s)
  let lost := (List.zip old.links links).any fun x => x.1.state == 3 && x.2.state == 4
  let s := { s with net.peers := mset s.net.peers j { seq := seq, links := links } }
  let s := { s with net.gone := s.net.gone.filter fun i => !(reportedUp s i && (memberOf s i).any (·.role == 0)) }
  let s := if lost then secondFault s j else s
  let s := (had.filter fun i => !reportedUp s i && !hallReach s i).foldl markGone s
  let s := ((otherMembers s).filter fun i => reportedUp s i && !had.contains i).foldl compareCopies s
  let ds := crossed s
  if s.net.closing ∧ ringsClosed s then
    flushOut { s with net.closing := false, net.detours := [],
                      net.recovery := if s.flt.sliceStopped || s.net.stopTread.isSome then s.net.recovery else none }
  else
    let s := if lost && !ds.isEmpty && s.net.recovery.isNone then { s with net.recovery := some s.time.tread } else s
    let ds := if lost then ds else s.net.detours.filter ds.contains
    flushOut { s with net.detours := ds,
                      net.recovery := if ds.isEmpty && !s.net.closing && !s.flt.sliceStopped && s.net.stopTread.isNone then none
                        else s.net.recovery }

/-- The face of a link is at full width: every FACE link assigned to it is UP (R400, R371). -/
def faceFull (s : State) (face : Nat) : Bool :=
  let ks := (List.range 24).filter fun k => (linkOf s k).en && (linkOf s k).role == 1 && (linkOf s k).face == face
  !ks.isEmpty && ks.all fun k =>
    (linkOf s k).isUp && (linkOf s k).lanes == (if (linkOf s k).mode ≤ 2 then 15 else 3)

/-- The module's own links as it reports them. -/
def ownLinks (s : State) : List PeerLink :=
  (List.range 24).map fun k =>
    let l := linkOf s k
    { state := l.state, lanes := l.lanes, full := l.role == 1 && faceFull s l.face, peerIndex := l.peerIndex, peerLink := l.peerLink }

/-- A LINK_STATE body (Table 12-22). -/
def linkStateBody (s : State) (seq : Nat) : Bytes :=
  [2, 0] ++ leBytes 2 s.net.index ++ leBytes 4 seq ++ leBytes 8 s.time.tread ++
    (ownLinks s).flatMap fun l =>
      leBytes 1 (l.state + 8 * l.lanes + 128 * b2n l.full) ++ leBytes 2 l.peerIndex ++ leBytes 1 l.peerLink

/-- Sends the module's link states to every member, after a link has entered DOWN or UP, and takes them itself (R410). -/
def sendLinkState (s : State) : State :=
  if s.net.record.isNone then s
  else
    let seq := (s.net.stateSeq + 1) % 2 ^ 32
    let s := applyLinks { s with net.stateSeq := seq } s.net.index seq (ownLinks s)
    broadcast s (linkStateBody s seq)

/-! ### Link states (Table 12-9, R392) -/

/-- A link whose session has ended: no keys, full credits, LSNs from 0 (R382, R390). -/
def LinkSt.cleared (l : LinkSt) (k : Nat) : LinkSt :=
  let r := LinkSt.reset k
  { l with an := r.an, keyN := r.keyN, sak := none, pn := 0, rxAn := 0, txLsn := 0, rxLsn := 0, nakSent := false, unacked := 0,
           retry := [], credits := r.credits, owed := r.owed, sendEce := false, rate64 := 64, hello := none, lanes := 0 }

/-- A link leaves UP: what its retry buffer holds goes to other links (R384). -/
def leaveUp (s : State) (k state cause : Nat) : State :=
  let l := linkOf s k
  let s := setLink s k { l.cleared k with state := state, cause := cause, downAt := s.time.tread,
                                          downs := if state = 4 then min 65535 (l.downs + 1) else l.downs }
  { s with net.out := l.retry.map (·.pkt) ++ s.net.out }

/-- A link goes DOWN with a cause: EV_LINK_DOWN, rerouting, link states (R384, R392, R410). -/
def goDown (s : State) (k cause : Nat) : State :=
  let l := linkOf s k
  if !l.isUp then s
  else
    let s := leaveUp s k 4 cause
    let s := raiseModule s 3 (leBytes 1 k ++ leBytes 1 cause ++ leBytes 2 l.peerIndex)
    flushOut (sendLinkState s)

/-- Writes EN of `LINK_CFG` (Table 12-9). -/
def enableLink (s : State) (k : Nat) (en : Bool) : State :=
  let l := linkOf s k
  if en = l.en then s
  else if en then setLink s k { l with en := true, state := 1 }
  else
    let s := setLink s k { l with en := false }
    if l.isUp then
      let s := leaveUp s k 0 4
      flushOut { s with net.peers := madj s.net.peers s.net.index fun p => { p with links := ownLinks s } }
    else setLink s k { ({ l with en := false } : LinkSt).cleared k with state := 0 }

/-- LINK_ENABLE: a write of EN to `LINK_CFG` (R397). -/
def execLinkEnable (k : LinkIx) (en : Bool) (s : State) : Host.Outcome State Fault Refusal :=
  .next <| unfused s (if s.fuses.lc = .scrapped then s else enableLink s k en)

/-! ### The hello (R393 to R396) -/

/-- The digest of the slice record held. -/
def recordDigest (s : State) : Digest := match s.net.record with | some r => r.digest | none => 0

/-- A HELLO_A payload (Table 12-25). -/
def helloABody (s : State) (k : Nat) (nonce ekSeed : Digest) : Bytes :=
  let l := linkOf s k
  let chain := s.store.cert.getD []
  let b := [1] ++ leBytes 1 (l.role + 4 * l.face) ++ leBytes 1 k ++ [0] ++ leBytes 2 s.net.index ++ [0, 0] ++
    leBytes 8 (s.net.record.elim 0 (·.sliceId)) ++ digestBytes nonce ++ digestBytes s.tr.measurement ++
    digestBytes (recordDigest s) ++ leBytes 1184 (kemPublic ekSeed).toNat ++ idkPub s ++ leBytes 4 chain.length ++ chain
  b ++ idkSign s b

/-- Starts a hello with a new nonce and key on a link in HELLO, once a slice record is held (Table 12-9, R396). -/
def startHello (s : State) (k : Nat) : State :=
  if s.net.record.isNone ∨ (linkOf s k).state ≠ 2 then s
  else
    let nonce : Digest := BitVec.ofNat 256 (freeValue s.fv)
    let seed : Digest := BitVec.ofNat 256 (freeValue (s.fv + 1))
    let b := helloABody s k nonce seed
    let h : Hello := { nonce := nonce, ekSeed := seed, txNs := rackNs s, rxNs := 0, peerA := none, shared := none, nonces := [],
                       sentTread := s.time.tread }
    let l := linkOf s k
    hwBump (setLink { s with fv := s.fv + 2 } k { l with hello := some h, sentHello := [b] }) (kLink k 0) (packetCount b.length)

/-- LINK_TRAINED: a link locks on the lanes given, at full width or at the half width of R371, and enters HELLO. -/
def execLinkTrained (k : LinkIx) (lanes : BitVec 4) (s : State) : Host.Outcome State Fault Refusal :=
  let l := linkOf s k
  let full := if l.mode ≤ 2 then lanes == 15 else lanes == 3
  let half := decide (l.mode ≤ 2) && l.degradeEn && (lanes == 3 || lanes == 12)
  .next <| unfused s <| if l.state = 1 ∧ (full || half) then startHello (setLink s k { l with state := 2, lanes := lanes.toNat }) k else s

/-- LINK_DOWN: an UP link loses signal (cause 1) or FEC alignment (cause 2), or has reached its retry limit (cause 3)
(R383, R392). -/
def execLinkDown (k : LinkIx) (cause : Nat) (s : State) : Host.Outcome State Fault Refusal :=
  let spent := ((linkOf s k).retry.head?).any fun f => decide ((linkOf s k).retryLimit + 1 ≤ f.sends)
  .next <| unfused s <| if cause = 1 ∨ cause = 2 ∨ (cause = 3 ∧ spent) then goDown s k cause else s

/-- LINK_RETRAIN: one tread after DOWN a link goes to TRAINING (Table 12-9); a FAULTED module keeps its links DOWN (R555). -/
def execLinkRetrain (k : LinkIx) (s : State) : Host.Outcome State Fault Refusal :=
  let l := linkOf s k
  .next <| unfused s <| if l.state = 4 ∧ l.en ∧ !s.flt.faulted ∧ l.downAt + 1 ≤ s.time.tread then setLink s k { l with state := 1 } else s

/-- A failed hello: QUARANTINE with its cause (R394). -/
def failHello (s : State) (k cause : Nat) : State :=
  setLink s k { (linkOf s k).cleared k with state := 5, cause := cause }

/-- CHAIN_LEN of a HELLO_A. -/
def aChainLen (b : Bytes) : Nat := fld b 0xA30 4

/-- True where a HELLO_A payload has its layout. -/
def helloAForm (b : Bytes) : Bool :=
  byteAt b 0 == 1 && decide (byteAt b 1 < 32) && zeroAt b 3 1 && zeroAt b 6 2 &&
    b.length == 0xA34 + aChainLen b + 2420

/-- The cause that a HELLO_A fails with, 0 when it passes (R394). -/
def helloACause (s : State) (r : SliceRec) (l : LinkSt) (b : Bytes) : Nat :=
  let signed := b.take (0xA34 + aChainLen b)
  let pub := slice b 0x510 1312
  let ix := fld b 4 2
  if !dsaVerify pub signed (b.drop signed.length) || !chainValid (slice b 0xA34 (aChainLen b)) pub then 5
  else if !(r.members[ix]?).any (fun m => m.identity == sha3 pub) then 6
  else if l.role == 1 && !((r.members[s.net.index]?).any fun me => neighbour r me l.face == some ix &&
      byteAt b 1 % 4 == 1 && byteAt b 1 / 4 == l.face ^^^ 1) then 7
  else if digestAt b 0x30 ≠ s.tr.measurement ∨ digestAt b 0x50 ≠ r.digest then 8 else 0

/-- The link's DELAY payload, sent once the shared secret is known (Table 12-27). -/
def sendDelay (s : State) (k : Nat) : State :=
  let l := linkOf s k
  match l.hello with
  | some h =>
    match h.shared with
    | some x =>
      let b := [3] ++ leBytes 7 0 ++ leBytes 8 h.txNs ++ leBytes 8 h.rxNs
      let tag := kdf (kdf x "DYDL" h.nonces) "" b
      hwBump (setLink s k { l with sentHello := l.sentHello ++ [b ++ digestBytes tag] }) (kLink k 0) 1
    | none => s
  | none => s

/-- The lower-index end's HELLO_B (Table 12-26). -/
def sendHelloB (s : State) (k : Nat) (a : Bytes) : State :=
  let l := linkOf s k
  match l.hello with
  | none => s
  | some h =>
    let ek := slice a 0x70 1184
    let e := freeValue s.fv
    let nonces := digestBytes h.nonce ++ slice a 0x10 32
    let b := [2] ++ leBytes 7 0 ++ nonces ++ leBytes 1088 (kemCipher ek e).toNat
    let b := b ++ idkSign s b
    let l := { l with hello := some { h with shared := some (kemShare ek e), nonces := nonces }, sentHello := l.sentHello ++ [b] }
    sendDelay (hwBump (setLink { s with fv := s.fv + 1 } k l) (kLink k 0) 1) k

/-- HELLO_A: the peer's first hello payload arrived at rack time `rxNs` (R393 to R396). -/
def execHelloA (k : LinkIx) (payload : Bytes) (rxNs : Nat) (s : State) : Host.Outcome State Fault Refusal :=
  let l := linkOf s k
  .next <| unfused s <| match l.hello, s.net.record with
    | some h, some r =>
      if l.state ≠ 2 ∨ !helloAForm payload then s
      else
        let s := hwBump s (kLink k 1) (packetCount payload.length)
        let c := helloACause s r l payload
        if c ≠ 0 then failHello s k c
        else
          let ix := fld payload 4 2
          let h := { h with peerA := some payload, rxNs := rxNs, shared := none }
          let s := setLink s k { l with hello := some h, peerIndex := ix, peerLink := byteAt payload 2 }
          if s.net.index < ix then sendHelloB s k payload else s
    | _, _ => s

/-- HELLO_B: the lower-index end's ciphertext arrives (R393). Its nonces must be those of the two HELLO_A. -/
def execHelloB (k : LinkIx) (payload : Bytes) (s : State) : Host.Outcome State Fault Refusal :=
  let l := linkOf s k
  .next <| unfused s <| match l.hello with
    | none => s
    | some h =>
      match h.peerA with
      | none => s
      | some a =>
        let nonces := slice a 0x10 32 ++ digestBytes h.nonce
        if l.state ≠ 2 ∨ s.net.index ≤ l.peerIndex ∨ h.shared.isSome ∨ payload.length ≠ 0x488 + 2420 ∨
            byteAt payload 0 ≠ 2 ∨ !zeroAt payload 1 7 ∨ slice payload 8 64 ≠ nonces then s
        else
          let s := hwBump s (kLink k 1) 1
          if !dsaVerify (slice a 0x510 1312) (payload.take 0x488) (payload.drop 0x488) then failHello s k 5
          else match kemOpen h.ekSeed (slice payload 0x48 1088) with
            | none => s
            | some x =>
              sendDelay (setLink s k { l with hello := some { h with shared := some x, nonces := nonces } }) k

/-- The one-way delay in units of 4 ns, rounded up (R395). -/
def delayUnits (t1 t2 t3 t4 : Int) : Nat := min 4095 (((t4 - t1) - (t3 - t2) + 7) / 8).toNat

/-- HELLO_DELAY: the peer's DELAY arrives under a good tag; DELAY is set and the link is UP (R395). -/
def execHelloDelay (k : LinkIx) (payload : Bytes) (s : State) : Host.Outcome State Fault Refusal :=
  let l := linkOf s k
  .next <| unfused s <| match l.hello with
    | none => s
    | some h =>
      match h.shared with
      | none => s
      | some x =>
        let tag := kdf (kdf x "DYDL" h.nonces) "" (payload.take 0x18)
        if l.state ≠ 2 ∨ payload.length ≠ 0x38 ∨ byteAt payload 0 ≠ 3 ∨ !zeroAt payload 1 7 ∨ digestAt payload 0x18 ≠ tag then s
        else
          let s := hwBump s (kLink k 1) 1
          let d := delayUnits h.txNs (fld payload 0x10 8) (fld payload 8 8) h.rxNs
          let up := { l.cleared k with state := 3, lanes := l.lanes, hello := some h, delay := d }
          flushOut (sendLinkState (setLink s k { up with sak := if macsecOn s l then up.sakN 0 else none }))

/-- HELLO_RETRY: 1 ms after HELLO_A a hello that has not passed starts again (R396). -/
def execHelloRetry (k : LinkIx) (s : State) : Host.Outcome State Fault Refusal :=
  .next <| unfused s <| match (linkOf s k).hello with
    | some h => if (linkOf s k).state = 2 ∧ h.sentTread + 1000 ≤ s.time.tread then startHello s k else s
    | none => s

/-! ### Acknowledgement and resending (R382, R383) -/

/-- LSN `a` is not before LSN `b`. -/
def lsnLe (b a : Nat) : Bool := decide ((a + 2 ^ 32 - b) % 2 ^ 32 < 2 ^ 31)

/-- The acknowledgement advances to LSN `a`; the frames behind it may be sent again from the start (R383). -/
def advanceAck (s : State) (k a : Nat) : State :=
  let l := linkOf s k
  if !lsnLe a ((l.txLsn + 2 ^ 32 - 1) % 2 ^ 32) then s
  else
    let left := l.retry.filter fun f => !lsnLe f.lsn a
    if left.length = l.retry.length then s
    else flushOut (setLink s k { l with retry := left.map fun f => { f with sends := 1 } })

/-- The packet number moves on for `n` frames sent again. -/
def LinkSt.pnBy (l : LinkSt) (secured : Bool) : Nat → LinkSt
  | 0 => l
  | n + 1 => (l.nextPn secured).pnBy secured n

/-- Sends every frame again from the first unacknowledged one; one sent RETRY_LIMIT + 1 times takes the link DOWN (R383). -/
def resend (s : State) (k : Nat) : State :=
  let l := linkOf s k
  match l.retry with
  | [] => s
  | f :: _ =>
    if l.retryLimit + 1 ≤ f.sends then goDown s k 3
    else
      let n := l.retry.length
      let l := { l.pnBy (macsecOn s l) n with retry := l.retry.map fun f => { f with sends := f.sends + 1 } }
      hwBump (hwBump (setLink s k l) (kLink k 4) n) (kLink k 0) n

/-- GT_ACK: an ACK field advances the acknowledgement; a negative one makes the sender send again (R382, R383). -/
def execGtAck (k : LinkIx) (ack : Nat) (negative : Bool) (s : State) : Host.Outcome State Fault Refusal :=
  .next <| unfused s <| if (linkOf s k).isUp then
      let s := advanceAck s k (ack % 2 ^ 32)
      if negative then resend s k else s
    else s

/-- The last LSN accepted from a peer. -/
def LinkSt.lastRx (l : LinkSt) : Nat := (l.rxLsn + 2 ^ 32 - 1) % 2 ^ 32

/-- Sends an ACK frame. -/
def sendAck (s : State) (k : Nat) : State :=
  let l := linkOf s k
  hwBump (setLink s k { l.nextPn (macsecOn s l) with sentAck := some l.lastRx, unacked := 0, sendEce := false }) (kLink k 0) 1

/-- ACK_TIMER: 1 µs after the first frame not acknowledged the receiver sends an ACK frame (R382). -/
def execAckTimer (k : LinkIx) (s : State) : Host.Outcome State Fault Refusal :=
  .next <| unfused s <| if (linkOf s k).isUp ∧ 0 < (linkOf s k).unacked then sendAck s k else s

/-- RETRY_TIMEOUT: RETRY_US pass without the acknowledgement advancing (R383). -/
def execRetryTimeout (k : LinkIx) (s : State) : Host.Outcome State Fault Refusal :=
  .next <| unfused s <| if (linkOf s k).isUp then resend s k else s

/-- ECN_RATE_RAISE: a hall sender raises its rate by 1/64 of the link rate (R375). -/
def execEcnRateRaise (k : LinkIx) (s : State) : Host.Outcome State Fault Refusal :=
  let l := linkOf s k
  .next <| unfused s <| if l.isUp ∧ l.role = 2 ∧ l.rate64 < 64 then setLink s k { l with rate64 := l.rate64 + 1 } else s

/-! ### Frames received (R374 to R376, R380, R382, R384) -/

/-- The reserved fields of a type's target block and payload are zero (Tables 12-5 and 12-6, R380). -/
def fieldsZero (ty : Nat) (t b : Bytes) : Bool :=
  match ty with
  | 4 => zeroAt t 8 4 && zeroAt t 16 8
  | 5 => zeroAt t 2 10 && zeroAt t 16 8 && zeroAt b 1 3 && zeroAt b 10 6
  | 7 | 8 => zeroAt t 0 12 && zeroAt t 16 8
  | 9 => (List.range (b.length / 8)).all fun i => zeroAt b (8 * i + 6) 2
  | 10 => zeroAt b 5 3
  | _ => true

/-- The GT packet that a frame carries; none for one with a reserved type, a reserved field that is not zero, or a length
beyond its frame (R380). -/
def parsePacket (b : Bytes) : Option Packet :=
  let ty := byteAt b 0
  let fl := byteAt b 1
  let vc := byteAt b 2
  let len := fld b 10 2
  let t := if hasTarget ty then 32 else 0
  let pm := if bit fl 3 then 64 else 0
  if b.length < 32 + t + pm + len ∨ ty = 0 ∨ 13 < ty ∨ 4096 < len ∨ 63 < fl ∨ 7 < vc ∨ 63 < byteAt b 3 ∨
      8191 < fld b 4 2 ∨ 8191 < fld b 6 2 ∨ 7 < byteAt b 25 ∨ !zeroAt b 28 4 then none
  else if t = 32 ∧ !zeroAt b 56 8 then none
  else if !fieldsZero ty (slice b 32 t) (slice b (32 + t + pm) len) then none
  else
    let map := slice b (32 + t) pm
    some { ty := ty, first := bit fl 0, last := bit fl 1, ackv := bit fl 2, detoured := bit fl 4, ece := bit fl 5, vck := vc % 4,
           cls := vc / 4, hops := byteAt b 3, dst := fld b 4 2, src := fld b 6 2, ctx := fld b 8 2, lsn := fld b 12 4,
           ack := fld b 16 4, msgId := fld b 20 4, pkt := byteAt b 24, crVc := byteAt b 25, credits := fld b 26 2,
           target := slice b 32 t,
           poison := (List.range (8 * pm)).filter fun w => bit (byteAt map (w / 8)) (w % 8),
           payload := slice b (32 + t + pm) len }

/-- Why a frame does not reach GT: the counter of Table 12-20 that it counts in (R374, R376). -/
def frameDrop (s : State) (k : Nat) (l : LinkSt) (f : Frame) : Option Nat :=
  let secured := macsecOn s l
  if !f.fcsOk then some 6
  else if f.dstMac.toNat ≠ linkMac s k ∨ f.vlan ≠ (if l.vlanEn then some l.vlanId else none) then some 8
  else if secured && (!f.icvOk || !(f.an % 4 == l.rxAn || f.an % 4 == (l.rxAn + 1) % 4)) then some 7
  else if f.etherType ≠ 0x86DD ∨ f.extHeader ∨ f.udpPort ≠ l.udpPort ∨ !f.checksumOk then some 8
  else none

/-- What every GT header brings besides its packet: acknowledgement, credits, ECN (R375, R382, R390). -/
def takeHeader (s : State) (k : Nat) (p : Packet) (ce : Bool) : State :=
  let s := if p.ackv then advanceAck s k p.ack else s
  let l := linkOf s k
  let cap := if p.crVc % 4 = 0 then 832 else 64
  let l := l.setCredit p.crVc (min cap (l.credit p.crVc + p.credits))
  let slow := l.role == 2 && l.ecnEn && p.ece
  let l := { l with rate64 := if slow then max 1 (l.rate64 / 2) else l.rate64, sendEce := l.sendEce || (ce && l.role == 2) }
  flushOut (hwBump (setLink s k l) (kLink k 12) (b2n slow))

/-- The code of a packet in the window of R384. -/
def seenCode (p : Packet) : Nat := (p.ty * 2 ^ 32 + p.msgId) * 256 + p.pkt

/-- The codes of a window, newest first, that belong to its 256 most recent messages (R384). -/
def keepSeen (w : List Nat) : List Nat :=
  let ids := ((w.map (· / 256)).eraseDups).take 256
  w.filter fun c => ids.contains (c / 256)

/-- An accepted packet: it waits for its row, unless it is the second copy of one that is not idempotent, which is dropped,
counted, and answered again (R384). A CTRL message of no known kind is answered with E_PERM (R381). -/
def takePacket (s : State) (k : Nat) (p : Packet) : State :=
  let n := s.net.rxNext
  let s := { s with net.rx := mset s.net.rx n { link := k, pkt := p }, net.rxNext := n + 1 }
  if p.dst ≠ s.net.index ∨ !oneShot p.ty then s
  else
    let w := mgetD s.net.seen p.src []
    if w.contains (seenCode p) then
      let s := hwBump (dropRx s n) (kNet 0) 1
      if p.cls = 0 then addDone s k p stOk else s
    else
      let s := { s with net.seen := mset s.net.seen p.src (keepSeen (seenCode p :: w)) }
      if p.ty = 7 ∧ p.pkt = 0 ∧ (byteAt p.payload 0 = 0 ∨ 11 < byteAt p.payload 0) then addDone (dropRx s n) k p ePerm else s

/-- FRAME_RECEIVE: a frame arrives on an UP link, passes its filters, and is accepted in LSN order or dropped; the first gap
brings a negative acknowledgement (R374, R376, R380, R382). -/
def execFrameReceive (k : LinkIx) (f : Frame) (s : State) : Host.Outcome State Fault Refusal :=
  let l := linkOf s k
  .next <| unfused s <| if !l.isUp then s
    else match frameDrop s k l f with
      | some c => hwBump s (kLink k c) 1
      | none =>
        match parsePacket f.gt with
        | none => hwBump s (kLink k 8) 1
        | some p =>
          if p.ty = 12 ∨ p.ty = 13 then s
          else
            let l := if macsecOn s l then { l with rxAn := f.an % 4 } else l
            let s := hwBump (hwBump (setLink s k l) (kLink k 1) 1) (kLink k 3) p.payload.length
            let s := takeHeader s k p f.ce
            let l := linkOf s k
            if p.ty = 11 then s
            else if p.lsn = l.rxLsn then
              let l := { l with rxLsn := (l.rxLsn + 1) % 2 ^ 32, nakSent := false, unacked := l.unacked + 1 }
              let s := takePacket (setLink s k l) k p
              if 16 ≤ (linkOf s k).unacked then sendAck s k else s
            else if l.nakSent then s
            else hwBump (sendAck (setLink s k { l with nakSent := true }) k) (kLink k 5) 1

/-- The face that a packet came in through. -/
def faceOf (s : State) (k : Nat) : Option Nat := if (linkOf s k).role = 1 then some (linkOf s k).face else none

/-- GT_FORWARD: a packet for another member leaves by the routing rules; one that reaches 63 HOPS, or whose destination is
unreachable, is dropped (R389, R402 to R406, R411, R414). -/
def execGtForward (p : Nat) (s : State) : Host.Outcome State Fault Refusal :=
  .next <| unfused s <| match mget s.net.rx p with
    | none => s
    | some r =>
      if r.pkt.dst = s.net.index then s
      else if 62 ≤ r.pkt.hops then hwBump (dropRx s p) (kNet 1) 1
      else if moduleStatus s r.pkt.dst ≠ stOk then dropRx s p
      else match trySend s { r.pkt with hops := r.pkt.hops + 1 } (faceOf s r.link) with
        | some t => dropRx t p
        | none =>
          let x := countWait s r.pkt
          { x.1 with net.rx := mset x.1.net.rx p { r with pkt := x.2 } }

end Sys2Proof.Machine
end

