-- ==== Sys2Proof/Machine/PowerOps.lean ====
section
/-!
DEFINITION. Operating points, floor requests, caps, average power, ramps, brake, thermal causes (15 R480 to R498, R598;
19 R586).
-/
namespace Sys2Proof.Machine

/-- The highest point for which `p` holds, OP0 when it holds for none. -/
def highestOp (p : Nat → Bool) : Nat := ((List.range 16).filter p).foldl max 0

/-- The cap point: the highest point whose rated power is at most the cap (R490). -/
def capPoint (w : Nat) : Nat := highestOp fun op => decide (ratedW op ≤ w)

/-- The point that a supply voltage meets (R482). -/
def voltPoint (s : State) (mv : Nat) : Nat := highestOp fun op => decide (voltMv s op ≤ mv)

/-- True where firmware forms requests: it runs and Newel is not restarting (R551, R554). -/
def newelRuns (s : State) : Bool := s.tr.fwRunning && !s.flt.restarting

/-- True where a hardware cause holds OP0 (Table 15-3, R492, R497, R553, R554). -/
def hwCause (s : State) : Bool := s.pw.tripOn || s.pw.brake || s.pw.failsafe || s.flt.holdOp0 || s.pw.restartHold

/-- The slice point: the lowest point among the requests in force (R484). -/
def slicePoint (s : State) : Nat := (s.pw.floors.map (·.op)).foldl min 15

/-- The point in force (R483). -/
def pointInForce (s : State) : Nat := if hwCause s then 0 else slicePoint s

/-- Brings OP_NOW to the point in force: down at once, up as far as the supply voltage allows (R482, R483). -/
def settlePoint (s : State) : State :=
  let want := pointInForce s
  let now := if want ≤ s.pw.now then want else max s.pw.now (min want (voltPoint s s.pw.supplyMv))
  let sp := slicePoint s
  let ramp := if voltMv s now = s.pw.supplyMv then s.pw.rampTo
    else if want ≤ s.pw.now then some (voltMv s now) else s.pw.rampTo
  let s := if now = s.pw.now then s else hwBump s (kPow 10) 1
  { s with pw.now := now, pw.sliceOp := sp, pw.rampTo := ramp,
           pw.pulled := s.pw.floors.any fun f => f.cause == 8 && f.op == sp && decide (sp < 15) }

/-- The cap cause's own point: the held point in an overrun, else the cap point (R490, R491). -/
def capCause (s : State) : Nat := if s.pw.overrun then s.pw.holdOp else s.pw.capOp

/-- The module's own causes with their codes (Tables 15-3, 15-4). -/
def ownCauses (s : State) (failsafe : Bool) : List (Nat × Nat) :=
  [(capCause s, if s.pw.overrun then 2 else 1), (s.pw.avgOp, 3), (s.pw.warnOp, 4),
   (if s.pw.tripOn || s.pw.restartHold then 0 else 15, 5), (if s.pw.brake then 0 else 15, 6),
   (if failsafe then 0 else 15, 7)]

/-- The lowest of the module's own causes with its code; OP15 and code 0 when none limits (R485). -/
def lowestCause (s : State) (failsafe : Bool) : Nat × Nat :=
  (ownCauses s failsafe).foldl (fun b c => if c.1 < b.1 then c else b) (15, 0)

/-- The body of a FLOOR_REQ (Table 15-4). -/
def Floor.bytes (f : Floor) : Bytes :=
  [1] ++ leBytes 1 f.op ++ leBytes 1 f.cause ++ [0] ++ leBytes 2 f.member ++ leBytes 2 f.subject ++ leBytes 4 f.seq ++
    leBytes 4 0 ++ leBytes 8 f.adopt ++ leBytes 8 0

/-- Sends a request to every member and holds it for its ADOPT_TREAD; without a slice record it is only held, for the
next tread (R484, R485). -/
def sendFloor (s : State) (subject op cause : Nat) : State :=
  let seq := (s.pw.seq + 1) % 2 ^ 32
  let lead := match s.net.record with
    | none => 1
    | some _ => if op < slicePoint s then s.pw.floorLead else 48
  let f : Floor := { member := s.net.index, subject := subject, op := op, cause := cause, seq := seq,
                     adopt := s.time.ticks + lead }
  let g : Floor := { f with adopt := s.time.tread + lead }
  let s := { s with pw.seq := seq, pw.pending := s.pw.pending ++ [f],
                    pw.lastLower := if op < slicePoint s then some s.time.ticks else s.pw.lastLower }
  match s.net.record with
  | none => s
  | some _ => broadcast (hwBump s (kPow 7) 1) g.bytes

/-- AVG_LIMITED: set while the average-power point is the lowest cause (R493). -/
def avgLowest (s : State) : Bool :=
  decide (s.pw.avgOp < 15) && (ownCauses s s.pw.failsafe).all fun c => decide (s.pw.avgOp ≤ c.1)

/-- The module's request about itself, for the lowest of its own causes (R485). -/
def requestOwn (s : State) : State :=
  let s := { s with pw.avgLimited := avgLowest s }
  if newelRuns s then
    let c := lowestCause s s.pw.failsafe
    sendFloor s s.net.index c.1 c.2
  else s

/-- Takes one request into force, in place of an earlier one of its key (R485). -/
def adopt (fs : List Floor) (f : Floor) : List Floor :=
  if fs.any fun g => g.member == f.member && g.subject == f.subject && decide (f.seq < g.seq) then fs
  else fs.filter (fun g => !(g.member == f.member && g.subject == f.subject)) ++ [f]

/-- After the fail-safe request is in force, firmware replaces it; once the replacement is in force and fits the cap,
FAILSAFE clears (R492). -/
def settleFailsafe (s : State) : State :=
  if !s.pw.failsafe then s
  else match s.pw.floors.find? fun f => f.member == s.net.index && f.subject == s.net.index with
    | none => s
    | some f =>
      if f.cause = 7 then
        if newelRuns s then
          let c := lowestCause s false
          sendFloor s s.net.index c.1 c.2
        else s
      else if ratedW (slicePoint s) ≤ s.pw.capW then { s with pw.failsafe := false } else s

/-- FLOOR_ADOPT: requests whose ADOPT_TREAD has come are in force (R484, R485, R478). -/
def execFloorAdopt (s : State) : Host.Outcome State Fault Refusal :=
  let due := s.pw.pending.filter fun f => decide (f.adopt ≤ s.time.ticks)
  .next <| unfused s <| if due.isEmpty then s
    else
      let s := { s with pw.pending := s.pw.pending.filter fun f => !decide (f.adopt ≤ s.time.ticks),
                        pw.floors := due.foldl adopt s.pw.floors }
      settlePoint (settleFailsafe s)

/-- Sets FAILSAFE: hardware holds OP0, and firmware sends its request with CAUSE 0x07 (R487, R492). -/
def failSafe (s : State) : State :=
  requestOwn (settlePoint (hwBump { s with pw.failsafe := true } (kPow 3) 1))

/-- The caps of the 64 treads up to and including the newest (R491). -/
def recentCaps (s : State) : List CapRx := s.pw.capRecent.filter fun c => decide (s.time.ticks < c.tread + 64)

/-- Firmware's work on the newest cap (R490, R491). -/
def capWork (s : State) (overrun : Bool) : State :=
  let low := ((recentCaps s).map fun c => capPoint c.watts).foldl min 15
  if overrun then
    let held := if s.pw.overrun then min low s.pw.holdOp else low
    let s' := { s with pw.overrun := true, pw.holdOp := held, pw.holdEnd := s.time.ticks + 4096 }
    requestOwn <| if s.pw.overrun then s' else
      raiseModule (hwBump s' (kPow 2) 1) 4 (leBytes 1 held ++ [0, 0, 0] ++ leBytes 4 s.pw.capW)
  else if s.pw.overrun then
    if s.pw.capOp < s.pw.holdOp then requestOwn { s with pw.holdOp := s.pw.capOp } else s
  else requestOwn s

/-- A cap is received: clamped, in force, with its deadline 256 treads on (R489 to R492). -/
def capReceived (s : State) (w seq : Nat) : State :=
  let c := min 2700 (max 900 w)
  let s := hwBump (hwBump s (kPow 0) 1) (kPow 1) (b2n (c != w))
  let overrun := s.pw.capRecent.any fun x => decide (s.time.ticks < x.tread + 64)
  let s := { s with pw.capW := c, pw.capOp := capPoint c, pw.capSeq := seq, pw.capRx := s.time.tread,
                    pw.capRecent := recentCaps s ++ [{ tread := s.time.ticks, watts := c }],
                    pw.capDeadlines := s.pw.capDeadlines ++ [s.time.ticks + 256] }
  if newelRuns s then capWork s overrun else s

/-- CAP_HOLD_END: the overrun hold ends and the cap point of the cap in force is requested (R491). -/
def execCapHoldEnd (s : State) : Host.Outcome State Fault Refusal :=
  .next <| unfused s <| if s.pw.overrun && decide (s.pw.holdEnd ≤ s.time.ticks) then
      requestOwn { s with pw.overrun := false, pw.holdEnd := 0 }
    else s

/-- The point in force once the requests that are due are adopted. -/
def pointDue (s : State) : Nat :=
  pointInForce { s with pw.floors := (s.pw.pending.filter fun f => decide (f.adopt ≤ s.time.ticks)).foldl adopt s.pw.floors }

/-- CAP_DEADLINE_CHECK: at receipt + 256 hardware compares the rated power of the point in force with the cap
(R492); a point of the same tread counts (Table 15-7). -/
def execCapDeadlineCheck (s : State) : Host.Outcome State Fault Refusal :=
  .next <| unfused s <| if s.pw.capDeadlines.any fun t => decide (t ≤ s.time.ticks) then
      let s := { s with pw.capDeadlines := s.pw.capDeadlines.filter fun t => !decide (t ≤ s.time.ticks) }
      if s.pw.capW < ratedW (pointDue s) ∧ !s.pw.failsafe then failSafe s else s
    else s

/-- VOLTAGE_RAMP_START: 40 treads before a raise, or once a raise is in force that the supply does not meet, the
voltage starts to rise (R482). -/
def execVoltageRampStart (s : State) : Host.Outcome State Fault Refusal :=
  let soon := s.pw.pending.filter fun f => decide (f.adopt ≤ s.time.ticks + 40)
  let want := if hwCause s then 0 else ((soon.foldl adopt s.pw.floors).map (·.op)).foldl min 15
  .next <| unfused s <| if s.pw.supplyMv < voltMv s want then { s with pw.rampTo := some (voltMv s want) } else s

/-- OP_VOLTAGE_STEP: the supply voltage has moved to `mv` on its way to the ramp's end; OP_VOLT follows, and the
frequency rises as the voltage allows (R482). -/
def execOpVoltageStep (mv : Nat) (s : State) : Host.Outcome State Fault Refusal :=
  .next <| unfused s <| match s.pw.rampTo with
    | none => s
    | some g =>
      if voltMv s s.pw.now ≤ mv ∧ min g s.pw.supplyMv ≤ mv ∧ mv ≤ max g s.pw.supplyMv then
        settlePoint { s with pw.supplyMv := mv, pw.volt := voltPoint s mv,
                             pw.rampTo := if mv = g then none else some g }
      else s

/-- Flights in the averaging window (R493). -/
def windowFlights (s : State) : Nat := ceilDiv (s.pw.windowS * 1000000) 4096

/-- AVERAGE_POWER_CHECK at a flight boundary (R493). -/
def execAveragePowerCheck (s : State) : Host.Outcome State Fault Refusal :=
  .next <| unfused s <| if !newelRuns s then s
    else
      let n := min (windowFlights s) s.pw.flightEnergy.length
      let old := s.pw.flightEnergy.getD (n - 1) 0
      let span := n * 4096
      let used := s.pw.energyUj - old
      let keep := { s with pw.flightEnergy := (s.pw.energyUj :: s.pw.flightEnergy).take 7325 }
      let others := ((ownCauses s s.pw.failsafe).filter fun c => c.2 != 3).map (·.1)
      let f := s.time.ticks / 4096
      let set := fun (op : Nat) => requestOwn { keep with pw.avgOp := op, pw.avgChange := f }
      if n = 0 then keep
      else if s.pw.pwrLimit * span < used then set (min s.pw.avgOp (pointInForce s) - 1)
      else if used * 100 < s.pw.pwrLimit * span * 97 ∧ s.pw.avgOp < others.foldl min 15 ∧ s.pw.avgChange + 16 ≤ f then
        set (s.pw.avgOp + 1)
      else keep

/-- True where ramp limiting, the gate and the ballast are stopped (R495). -/
def rampStopped (s : State) : Bool := s.pw.brake || s.pw.tripOn || s.pw.failsafe || s.pw.coolantStop

/-- RAMP_ENVELOPE_UPDATE with the draw P of the tread before, in W: the envelope in mW, the ballast and the ramp gate
(R494, R495). The clk that the gate removes are a free count. -/
def execRampEnvelopeUpdate (drawW : Nat) (s : State) : Host.Outcome State Fault Refusal :=
  let p : Int := 1000 * drawW
  .next <| unfused s <| if !s.pw.rampEn || rampStopped s then { s with pw.envelope := p, pw.burnW := 0, pw.drawW := drawW }
    else
      let e := min (max p (s.pw.envelope - s.pw.rampDown)) (s.pw.envelope + s.pw.rampUp)
      if p ≤ e then
        let burn := if s.pw.ballastEn then min 2200 ((e - p) / 1000).toNat else 0
        hwBump { s with pw.envelope := e, pw.burnW := burn, pw.drawW := drawW + burn } (kPow 12) burn
      else
        let (v, s) := useFree s
        hwBump { s with pw.envelope := e, pw.burnW := 0, pw.drawW := (e / 1000).toNat } (kPow 11)
          (v % freqMhz s.pw.now)

/-- A program of `SELFTEST_CTL` is aborted by a coolant stop or PWR_BRAKE_N (Table 16-15). -/
def abortProgram (s : State) : State :=
  if !s.st.ctlBusy then s
  else { s with st := { s.st with ctlBusy := false, ctlQueued := false, running := s.st.running && s.st.ctlQueued, ctlResult := 5 } }

/-- Asserts the brake: OP0 by hardware, BRAKE, BRAKES, and firmware's request (R487, R496, R598). -/
def brakeOn (s : State) : State :=
  requestOwn (settlePoint (hwBump (abortProgram { s with pw.brake := true }) (kPow 4) 1))

/-- PWR_BRAKE_ASSERT, past its filter of 1 µs (R496). During a coolant stop BRAKE is set and acts at resume (Table
15-7). -/
def execPwrBrakeAssert (s : State) : Host.Outcome State Fault Refusal :=
  let s := { s with sup.brakePin := true }
  .next <| unfused s <| if s.pw.brake || !s.sup.pwrgood then s else brakeOn s

/-- PWR_BRAKE_DEASSERT: firmware replaces the brake request (R496). -/
def execPwrBrakeDeassert (s : State) : Host.Outcome State Fault Refusal :=
  let s := { s with sup.brakePin := false }
  .next <| unfused s <| if s.pw.brake then settlePoint (requestOwn { s with pw.brake := false }) else s

/-- Records the hottest sensors of the flight (R513, R586). -/
def senseTemp (s : State) (die hbm : Int) : State :=
  { s with sup.dieC := die, sup.hbmC := hbm, life.flightT := some (max die (s.life.flightT.getD die)) }

/-- True where a sensor has reached its warning threshold (Table 19-9). -/
def atWarning (die hbm : Int) : Bool := decide (95 ≤ die ∨ 90 ≤ hbm)

/-- THERMAL_WARNING: the warning temperature is reached; the cause's own point falls by one (Table 15-3, R586). -/
def execThermalWarning (dieC hbmC : Int) (s : State) : Host.Outcome State Fault Refusal :=
  let s := senseTemp s dieC hbmC
  .next <| unfused s <| if atWarning dieC hbmC && !s.pw.warnOn then
      requestOwn { s with pw.warnOn := true, pw.thermal := true, pw.warnOp := s.pw.warnOp - 1,
                          pw.warnFlights := s.time.ticks / 4096 }
    else s

/-- THERMAL_WARNING_STEP: 16 flights on, the point falls by one above the warning temperature, and rises by one when it
has been 5 °C below it, until OP15 no longer limits (Table 15-3); 16 flights at normal temperature after a coolant stop
its request is withdrawn (R497). -/
def execThermalWarningStep (dieC hbmC : Int) (s : State) : Host.Outcome State Fault Refusal :=
  let u := senseTemp s dieC hbmC
  let f := u.time.ticks / 4096
  let u := if u.pw.restartHold && !atWarning dieC hbmC && !u.pw.tripOn && decide ((u.pw.coolResume.getD f) + 16 ≤ f) then
      requestOwn { u with pw.restartHold := false, pw.coolResume := none }
    else u
  .next <| unfused s <| if u.pw.warnOp = 15 ∧ !u.pw.warnOn ∨ f < u.pw.warnFlights + 16 then u
    else if atWarning dieC hbmC then
      requestOwn { u with pw.warnOn := true, pw.thermal := true, pw.warnOp := u.pw.warnOp - 1, pw.warnFlights := f }
    else if dieC ≤ 90 ∧ hbmC ≤ 85 then
      let op := min 15 (u.pw.warnOp + 1)
      requestOwn { u with pw.warnOn := false, pw.warnOp := op, pw.warnFlights := f,
                          pw.thermal := u.pw.tripOn || decide (op < 15) }
    else { u with pw.warnFlights := f }

/-- The trip: OP0 by hardware, THERMAL, THERMAL_TRIPS, and firmware's request (Table 15-3, R487, R598). -/
def tripNow (s : State) : State :=
  requestOwn (settlePoint (hwBump { s with pw.tripOn := true, pw.thermal := true } (kPow 6) 1))

/-- THERMAL_TRIP at the trip temperature (Table 19-9). -/
def execThermalTrip (dieC hbmC : Int) (s : State) : Host.Outcome State Fault Refusal :=
  let s := senseTemp s dieC hbmC
  .next <| unfused s <| if decide (105 ≤ dieC ∨ 100 ≤ hbmC) && !s.pw.tripOn && s.sup.pwrgood then tripNow s else s

/-- THERMAL_TRIP_CLEAR: the warning temperature is reached again; the cause ends (Table 15-3). -/
def execThermalTripClear (dieC hbmC : Int) (s : State) : Host.Outcome State Fault Refusal :=
  let s := senseTemp s dieC hbmC
  .next <| unfused s <| if s.pw.tripOn && decide (dieC ≤ 95 ∧ hbmC ≤ 90) then
      settlePoint (requestOwn { s with pw.tripOn := false,
                                       pw.thermal := s.pw.warnOn || decide (s.pw.warnOp < 15) })
    else s

/-- Ends every page rebuild in progress, before T2 and T3 enter self-refresh (R497, Table 6-11). -/
def settleRebuilds (s : State) : State :=
  s.mem.rebuilds.foldl endRebuild s

/-- The coolant stop: COOLANT_STOP, COOLANT_STOPS and EV_COOLANT_STOP; the array, the move engines and the control
cores stand still while the flag is set, and links forward (R497, R598). -/
def coolantStopNow (s : State) : State :=
  raiseModule (hwBump (settleRebuilds (abortProgram { s with pw.coolantStop := true })) (kPow 5) 1) 5 []

/-- COOLANT_STOP: COOLANT_FAIL_N is asserted, past its filter of 2 µs (R497). -/
def execCoolantStop (s : State) : Host.Outcome State Fault Refusal :=
  let s := { s with sup.coolantFail := true }
  .next <| unfused s <| if s.pw.coolantStop || !s.sup.pwrgood then s else coolantStopNow s

/-- COOLANT_RESUME: COOLANT_FAIL_N has been deasserted for 4,096 treads, and a flight begins; the module goes on from
where it stopped, at OP0 under a request with CAUSE 0x05 (R497). -/
def execCoolantResume (s : State) : Host.Outcome State Fault Refusal :=
  .next <| unfused s <| if s.pw.coolantStop ∧ (!s.time.loaded ∨ s.time.tread % 4096 = 0) then
      requestOwn (settlePoint { s with sup.coolantFail := false, pw.coolantStop := false, pw.restartHold := true,
                                       pw.coolResume := some (s.time.ticks / 4096) })
    else { s with sup.coolantFail := false }

/-! ### Pulls (R488) -/

/-- The release records of a barrier among its last 16 releases. -/
def lastReleases (s : State) (o : SyncObj) : List RelRec :=
  s.relRecs.filter fun r => r.context == o.ctx && r.vid == o.vid && decide (o.oldest ≤ r.gen + 16)

/-- The member that a barrier's release records single out: SLOWEST at or above SKEW_LIMIT in 8 of the last 16
releases, or late in a timed release (R488). -/
def pullMember (s : State) (o : SyncObj) : Option Nat :=
  let rs := lastReleases s o
  (List.range o.members.length).find? fun m =>
    decide (8 ≤ (rs.filter fun r => r.slowest == m && o.skewLimit != 0 && decide (o.skewLimit ≤ r.skew)).length) ||
      rs.any fun r => r.flags % 2 == 1 && r.late.contains m

/-- PULL: the home of a SLICE barrier pulls a slow member one point down for 16 flights and logs it (R488). -/
def execPull (o : SyncIx) (s : State) : Host.Outcome State Fault Refusal :=
  let quiet : Bool := match s.pw.lastLower with | none => true | some t => decide (t + 64 ≤ s.time.ticks)
  .next <| unfused s <| match mget s.objs o.val with
    | none => s
    | some b =>
      match (pullMember s b).bind fun m => b.members[m]? with
      | none => s
      | some mb =>
        let sp := slicePoint s
        if b.kind = 1 ∧ b.domain = 3 ∧ newelRuns s = true ∧ quiet = true ∧ 0 < sp ∧ s.net.record.isSome then
          let s := sendFloor s mb.modIx (sp - 1) 8
          let s := { s with pw.pullAt := mset s.pw.pullAt mb.modIx (s.time.ticks + s.pw.floorLead + 16 * 4096) }
          hwBump (logEvent s 4 b.ctx (leBytes 2 mb.modIx ++ leBytes 1 (sp - 1) ++ [8])) (kPow 9) 1
        else s

/-- PULL_END: 16 flights after its ADOPT_TREAD a pull is withdrawn under its key (R488). -/
def execPullEnd (s : State) : Host.Outcome State Fault Refusal :=
  .next <| unfused s ((mkeys s.pw.pullAt fun _ t => decide (t ≤ s.time.ticks)).foldl (fun s m =>
    sendFloor { s with pw.pullAt := merase s.pw.pullAt m } m 15 0) s)

end Sys2Proof.Machine
end

