-- ==== Sys2Proof/Machine/Ctrl.lean ====
section
/-!
DEFINITION. CTRL messages received (12 R381, Tables 12-21 to 12-24) and the tread of a slice stop (17 R543, R544).
-/
namespace Sys2Proof.Machine

/-- Acts on a CTRL message of kind `kind` once all of it has arrived and its firmware runs: a message that is too short or
whose reserved bytes are not zero is answered with E_PERM (R381). -/
def withCtrl (s : State) (p kind least : Nat) (runs : Bool) (reserved : List (Nat × Nat))
    (act : State → Packet → Bytes → State) : State :=
  withRx s p 7 fun s r =>
    match wholeMsg s r with
    | none => s
    | some (ps, b) =>
      if byteAt b 0 ≠ kind ∨ !runs then s
      else if b.length < least ∨ !reserved.all fun x => zeroAt b x.1 x.2 then takeWhole s ps ePerm
      else act (takeWhole s ps stOk) r.pkt b

/-! ### Floor requests and link states -/

/-- FLOOR_REQ: a request is held for its ADOPT_TREAD; one that comes after it is applied at once and counted (R485). -/
def execFloorReq (p : Nat) (s : State) : Host.Outcome State Fault Refusal :=
  .next <| unfused s (withCtrl s p 1 32 s.tr.fwRunning [(3, 1), (12, 4), (24, 8)] fun s _ b =>
    let adopt := fld b 16 8
    let f : Floor := { member := fld b 4 2, subject := fld b 6 2, op := byteAt b 1 % 16, cause := byteAt b 2, seq := fld b 8 4,
                       adopt := s.time.ticks + (adopt - s.time.tread) }
    if adopt < s.time.tread then settlePoint (hwBump { s with pw.floors := Machine.adopt s.pw.floors f } (kPow 8) 1)
    else { s with pw.pending := s.pw.pending ++ [f] })

/-- The links of a LINK_STATE body (Table 12-22). -/
def linksOf (b : Bytes) : List PeerLink :=
  (List.range 24).map fun k =>
    let x := byteAt b (16 + 4 * k)
    { state := x % 8, lanes := x / 8 % 16, full := bit x 7, peerIndex := fld b (17 + 4 * k) 2, peerLink := byteAt b (19 + 4 * k) }

/-- LINK_STATE: the states of a member's links; one whose SEQ is not above the last is ignored (R410, Table 12-22). -/
def execLinkState (p : Nat) (s : State) : Host.Outcome State Fault Refusal :=
  .next <| unfused s (withCtrl s p 2 112 s.tr.fwRunning [(1, 1)] fun s k b =>
    if (mget s.net.peers k.src).any fun x => decide (fld b 4 4 ≤ x.seq) then s else applyLinks s k.src (fld b 4 4) (linksOf b))

/-! ### Descriptors -/

/-- DESC_FWD: the descriptor is taken here, to be executed here; BUFFER names the staging object of its partner data (R179). -/
def execDescFwd (p : Nat) (s : State) : Host.Outcome State Fault Refusal :=
  .next <| unfused s (withCtrl s p 3 128 (coresRun s) [(3, 5), (20, 44)] fun s k b =>
    let t : Taken := { origin := some k.src, port := byteAt b 1, qp := byteAt b 2, ctx := k.ctx, enable := 0,
                       tread := s.time.tread, bytes := slice b 64 64, stage := .taken }
    let k := fld b 8 4
    let s := match partnerPart t with
      | some (n, _) => if k = 0 then s else
          { s with mem.staging := mset s.mem.staging k { desc := s.takes, data := [], size := n, got := 0, bad := [], status := 0, result := 0 } }
      | none => s
    rejectReserved { s with taken := mset s.taken s.takes t, takes := s.takes + 1 })

/-- What the completion of a forwarded request descriptor changes at the admitting module: a sealed append goes on to its
turn, a closed request is known no longer (R343, R468). -/
def fwdEnded (s : State) (d : Nat) (t : Taken) (status : Nat) : State :=
  if t.op = 0x31 then
    match s.fwds.find? fun f => f.2.desc == d with
    | some (n, f) =>
      let s := { s with fwds := merase s.fwds n }
      match f.stage with
      | .append rid => if status = stOk then
          { s with admits := madj s.admits (admitKey t.ctx rid) ({ · with sealing := f.sealing }) } else s
      | _ => s
    | none => s
  else if t.op = 0x33 ∧ status = stOk then { s with admits := merase s.admits (admitKey t.ctx (fld t.bytes 8 4)) }
  else s

/-- DESC_DONE: a forwarded descriptor has completed (Table 12-21). -/
def execDescDone (p : Nat) (s : State) : Host.Outcome State Fault Refusal :=
  .next <| unfused s (withCtrl s p 4 40 (coresRun s) [(3, 5)] fun s k b =>
    match s.taken.find? fun t => t.2.stage == .sent k.src && t.2.origin.isNone && t.2.port == byteAt b 1 && t.2.qp == byteAt b 2 &&
        slice t.2.bytes 4 4 == slice b 8 4 && t.2.op == byteAt b 14 with
    | some (d, t) =>
      let st := byteAt b 15
      match exportRead s d k.src st (fld b 16 8) (fld b 24 8) with
      | some s => s
      | none => complete (fwdEnded { s with mem.partner := merase s.mem.partner d } d t st) d st (fld b 16 8) (fld b 24 8)
    | none => s)

/-! ### Requests -/

/-- The body of a REQ_ACK (Table 12-21). BUFFER is the request buffer's handle (notes/assumptions/30.md). -/
def reqAckBody (status fwd rid : Nat) : Bytes :=
  [6] ++ leBytes 1 status ++ [0, 0] ++ leBytes 4 fwd ++ leBytes 4 rid ++
    (if status = stOk then leBytes 4 0 ++ leBytes 8 (rid * 2 ^ 32) else leBytes 12 0) ++ leBytes 8 0

/-- REQ_FWD: the lead makes its checks, records the request and answers (R316, Table 10-2). -/
def execReqFwd (p : Nat) (s : State) : Host.Outcome State Fault Refusal :=
  .next <| unfused s (withCtrl s p 5 160 (coresRun s) [(1, 3), (21, 11)] fun s k b =>
    let fwd := fld b 4 4
    let n := fld b 16 4
    let prm := slice b 32 128
    let refuse (st : Nat) : State := sendCtrl s k.src k.ctx .firmware (reqAckBody st fwd 0)
    match mget s.groups (groupKey k.ctx (byteAt b 20)) with
    | none => refuse ePerm
    | some g =>
      if g.lead ≠ s.net.index then refuse ePerm
      else if s.flt.sliceStopped then refuse eBusy
      else
        let st := leadStatus s g prm n (fld b 8 8)
        if st ≠ stOk then refuse st
        else
          let v := if fld prm 8 4 = 0 then none else (versionOf s g.ctx (fld prm 8 4) (fld prm 12 4)).map (·.1)
          let x := openAt s g prm n (fld b 8 8) k.src none v
          sendCtrl x.2 k.src k.ctx .firmware (reqAckBody stOk fwd x.1))

/-- REQ_ACK: the lead has recorded the request, and the prompt is written to its buffer; or it has refused it (R316,
R317). -/
def execReqAck (p : Nat) (s : State) : Host.Outcome State Fault Refusal :=
  .next <| unfused s (withCtrl s p 6 32 (coresRun s) [(2, 2), (24, 8)] fun s k b =>
    let n := fld b 4 4
    let rid := fld b 8 4
    match mget s.fwds n with
    | none => s
    | some f =>
      match f.stage, mget s.taken f.desc with
      | .asked, some t =>
        if byteAt b 1 ≠ stOk then
          finish (unbindVersion { s with fwds := merase s.fwds n } t.ctx f.params) f.desc (byteAt b 1)
        else
          let s := admitReq { s with fwds := mset s.fwds n { f with stage := .prompt rid } } t.ctx rid t f.sealing
          let h := handleAt b 12
          writeFar s k.src t.ctx (.desc f.desc) h.1 h.2 0 f.prompt []
      | _, _ => s)

/-- STEP_PLAN_RECEIVE: a step's lengths tables, frame records and new requests (R316, R323, Table 12-23). -/
def execStepPlanReceive (p : Nat) (s : State) : Host.Outcome State Fault Refusal :=
  .next <| unfused s (withCtrl s p 7 64 (coresRun s) [(2, 2), (40, 24)] fun s k b => takePlan s k.ctx k.src b)

/-- SETTLE: the settled tokens of a step reach the admitting module (R340, Table 12-24). -/
def execSettle (p : Nat) (s : State) : Host.Outcome State Fault Refusal :=
  .next <| unfused s (withCtrl s p 8 32 (coresRun s) [(2, 2), (28, 4)] fun s k b => takeSettle s k.ctx b)

/-! ### Binds -/

/-- An instance's bind ends with a status: its switch or unbind, its requests where it is the last of its group, its bays
(R381). -/
def endBind (s : State) (k status : Nat) : State :=
  match mget s.insts k with
  | none => s
  | some i =>
    let s := abandonSwitch s k status
    let s := match i.unbind with | some u => finish s u.desc status | none => s
    let s := match mget s.groups (groupKey i.ctx i.group) with
      | some g => if (groupInsts s g).length ≤ 1 then endAll s g status else s
      | none => s
    removeInst (leaveArrive (leaveGroup s k i.ctx i.group false) (groupKey i.ctx i.group) k) k false

/-- BIND: a member's bind or unbind; one that differs from this module's bind of the same group and instance ends it with
E_PERM, whichever comes first (R381). -/
def execBind (p : Nat) (s : State) : Host.Outcome State Fault Refusal :=
  .next <| unfused s (withCtrl s p 9 64 (coresRun s) [(52, 12)] fun s k b =>
    let x : BindRx := { ctx := k.ctx, group := byteAt b 3, inst := byteAt b 2, uid := fld b 4 16, table := digestAt b 20 }
    let rest := s.net.binds.filter fun y => !(y.ctx == x.ctx && y.group == x.group && y.inst == x.inst)
    if bit (byteAt b 1) 0 then { s with net.binds := rest }
    else
      let s := { s with net.binds := rest ++ [x] }
      match mget s.insts x.inst with
      | some i =>
        if i.ctx = x.ctx ∧ i.group = x.group ∧ bindDiffers s i.ctx i.group x.inst i.uid i.table then endBind s x.inst ePerm else s
      | none => s)

/-! ### The slice stop -/

/-- SLICE_STOP: the tread at which every member stops (R543). -/
def execSliceStop (p : Nat) (s : State) : Host.Outcome State Fault Refusal :=
  .next <| unfused s (withCtrl s p 0xA 24 s.tr.fwRunning [(4, 4)] fun s _ b =>
    if s.flt.sliceStopped then s else takeStop s (byteAt b 1) (fld b 2 2) (fld b 8 8) (fld b 16 8))

/-- A CTX_RESTORE in progress is abandoned: its bays are cleared, and it completes with E_UNREACHABLE (R161,
Table 17-11). -/
def abandonRestore (s : State) (d : Nat) (r : Restore) : State :=
  let s := r.insts.foldl (fun s k => removeInst s k false) { s with rests := merase s.rests d }
  let gs := s.groups.filter fun g => g.2.ctx == r.ctx && (groupInsts s g.2).isEmpty
  finish (gs.foldl (fun s g => dropGroup s g.2) s) d eUnreachable

/-- The instances of the module stop: frozen, their steps commit nothing (R282, R543). -/
def stopInsts (s : State) : State :=
  let s := s.rests.foldl (fun s r => abandonRestore s r.1 r.2) s
  let s := s.insts.foldl (fun s i => abandonStep (freezeTiles s (instTiles i.2)) i.1 none) s
  { s with groups := mmap s.groups fun _ g => { g with plan := none, run := none, release := none } }

/-- SLICE_STOP_TREAD: at STOP_TREAD, or later when the message came later, the member's instances stop, SLICE_STOPPED is set,
a fault record written and the stop counted (R543, R556). -/
def execSliceStopTread (s : State) : Host.Outcome State Fault Refusal :=
  .next <| unfused s <| match s.net.stopTread, s.net.stopRx with
    | some t, some (cause, member, earlier) =>
      if s.time.tread < t ∨ !s.tr.fwRunning then s
      else
        let s := stopInsts { s with net.stopTread := none, net.stopRx := none }
        let s := { s with flt.sliceStopped := !s.insts.isEmpty, flt.stopTread := t % 2 ^ 32 }
        let s := fwBump (faultRecord s cause member earlier) (kLife 11) 1
        if s.insts.isEmpty && !s.net.closing then { s with net.recovery := none } else s
    | _, _ => s

/-! ### Adapter versions (R309 to R312) -/

/-- The owner's answer to a binding or a retirement (R310, R312). -/
def adapterResult (s : State) (k : Packet) (b : Bytes) : State :=
  let n := fld b 12 4
  let st := byteAt b 2
  match mget s.fwds n with
  | none => s
  | some f =>
    let s := { s with fwds := merase s.fwds n }
    match f.stage, mget s.taken f.desc with
    | .binding, some t =>
      if st ≠ stOk then finish s f.desc st
      else match mget s.groups (groupKey t.ctx f.group) with
        | some g => openBound s f.desc t g (withVersion f.params (fld b 8 4)) (fld t.bytes 32 4) f.prompt f.sealing
        | none => finish (sendCtrl s k.src k.ctx .firmware (adapterMsg 2 0 (fld b 4 4) (fld b 8 4) 0)) f.desc ePerm
    | .retiring, some _ => finish s f.desc st
    | .binding, none =>
      if st = stOk then sendCtrl s k.src k.ctx .firmware (adapterMsg 2 0 (fld b 4 4) (fld b 8 4) 0) else s
    | _, _ => s

/-- ADAPTER_CTRL: an adapter operation at a version's owner, or its answer (R309 to R312, Table 12-21). -/
def execAdapterCtrl (p : Nat) (s : State) : Host.Outcome State Fault Refusal :=
  .next <| unfused s (withCtrl s p 0xB 32 (coresRun s) [(3, 1), (16, 16)] fun s k b =>
    let op := byteAt b 1
    let id := fld b 4 4
    let ver := fld b 8 4
    let rid := fld b 12 4
    let own := (versionOf s k.ctx id ver).map (·.1)
    if op = 1 then
      let x := bindVersion s k.ctx id ver
      sendCtrl x.2.2 k.src k.ctx .firmware (adapterMsg 6 x.1 id (x.2.1.elim ver (·.2.version)) rid)
    else if op = 2 then own.elim s (releaseRef s)
    else if op = 3 then
      let x := retireVersion s k.ctx id ver
      sendCtrl x.2 k.src k.ctx .firmware (adapterMsg 6 x.1 id ver rid)
    else if op = 4 then own.elim s fun v => sharePlaced s v k.src (byteAt b 2)
    else if op = 5 then own.elim s (dropVersion s)
    else if op = 6 then adapterResult s k b
    else s)

end Sys2Proof.Machine
end

