-- ==== Sys2Proof/Machine/Trust.lean ====
section
/-!
DEFINITION. The security mailbox: firmware, slice record, context grants, tokens and counts (14 R448 to R458, R471, R595,
Tables 14-2 to 14-12; 12 R378, R398 to R401, R412 to R414; 13 R419 to R421; 17 R537 to R539).
-/
namespace Sys2Proof.Machine

/-! ### The mailbox (R458, R595) -/

/-- STATUS and RESULT of the command that has ended. -/
def mbReply (s : State) (status result : Nat) : State := { s with mb.status := status, mb.result := result }

/-- A write of GO with a command and a LEN. Nothing acts in SCRAPPED; before the ROM accepts commands, and for anything but
FW_LOAD before firmware runs, STATUS is E_BUSY (R595). -/
def withMailbox (s : State) (cmd len : Nat) (act : State → State) : State :=
  if s.fuses.lc = .scrapped then s
  else
    let s := { s with mb.cmd := cmd, mb.len := len }
    if !s.sup.booted then { s with mb.status := eBusy }
    else if !s.tr.fwRunning && cmd != 1 then mbReply s eBusy 0
    else act s

/-- Writes a command's output at ADDR through port 0; a LEN too small gives E_CAPACITY and writes nothing (R595). -/
def mbOutput (s : State) (out : Bytes) : State :=
  if s.mb.len < out.length then mbReply s eCapacity 0 else mbReply (pmWrite s 0 s.mb.addr out) stOk out.length

/-! ### FW_LOAD (R448 to R450) -/

/-- Check 1 of Table 14-3. -/
def fwHeadOk (b : Bytes) : Bool :=
  let body (o n : Nat) : Bool := decide (0x1000 ≤ o) && decide (o + n ≤ b.length)
  decide (4096 ≤ b.length) && fld b 0 4 == 0x57465944 && fld b 4 2 == 1 && fld b 8 4 == b.length && decide (b.length ≤ 2 ^ 24) &&
    body (fld b 0x10 4) (fld b 0x14 4) && body (fld b 0x18 4) (fld b 0x1C 4) && zeroAt b 0xC 4 && zeroAt b 0x60 32 &&
    zeroAt b 0xF14 236 && decide (byteAt b 7 ≤ steppingA1)

/-- STATUS of the checks of Table 14-3. -/
def fwStatus (s : State) (b : Bytes) : Nat :=
  let pub := slice b 0x80 1312
  if !fwHeadOk b then ePerm
  else if !(List.finRange 4).any fun i => romSigners i == sha3 pub then eAuth
  else if !dsaVerify pub (b.take 0x5A0) (slice b 0x5A0 2420) then eAuth
  else if sha3 (slice b (fld b 0x10 4) (fld b 0x14 4)) ≠ digestAt b 0x20 ∨
      sha3 (slice b (fld b 0x18 4) (fld b 0x1C 4)) ≠ digestAt b 0x40 then eAuth
  else if byteAt b 6 < s.fuses.svnUsed then eAuth else stOk

/-- Firmware starts: it requests the point that the module's causes give, where one limits it (R485, R487, R490;
notes/assumptions/79.md). -/
def firmwareStart (s : State) : State := if (lowestCause s s.pw.failsafe).1 = 15 then s else requestOwn s

/-- FW_LOAD: the checks of Table 14-3; on a pass the measurement is fixed, the bundle overwrites the control SRAM and Newel's, whose wrong and
poisoned words are gone (R218), and the firmware runs (R449, R450). -/
def execFwLoad (bundle : Bytes) (s : State) : Host.Outcome State Fault Refusal :=
  .next <| unfused s (withMailbox s 1 bundle.length fun s =>
    if s.tr.fwRunning then mbReply s eBusy 0
    else if fwStatus s bundle ≠ stOk then mbReply s (fwStatus s bundle) 0
    else firmwareStart (mbReply { s with tr.fwRunning := true, tr.fwSvn := byteAt bundle 6,
                                         tr.measurement := sha3 (bundle.take 0x80),
                                         tr.newelDigest := digestAt bundle 0x40,
                                         mem.sramBad := mkeep s.mem.sramBad fun w _ => decide (w < sramKey),
                                         mem.sramPoison := s.mem.sramPoison.filter fun w => decide (w < sramKey) } stOk 0))

/-! ### SLICE_RECORD (R398 to R401) -/

/-- Member entry `i` of a record. -/
def recMember (b : Bytes) (i : Nat) : SliceMember :=
  let o := 0x80 + 48 * i
  { identity := digestAt b o, role := byteAt b (o + 32), x := byteAt b (o + 33), y := byteAt b (o + 34), z := byteAt b (o + 35),
    hall := bit (byteAt b (o + 36)) 0 }

/-- The record that bytes spell (Table 12-15). -/
def recordOf (b : Bytes) : SliceRec :=
  { digest := sha3 b, plain := bit (fld b 6 2) 0, sliceId := fld b 8 8, epoch := fld b 0x40 8, dx := byteAt b 0x14,
    dy := byteAt b 0x15, dz := byteAt b 0x16, hallPrefix := fld b 0x18 8, measurement := digestAt b 0x20,
    members := (List.range (fld b 0x10 2)).map (recMember b) }

/-- Layout, ranges and reserved fields of a record. -/
def recordForm (b : Bytes) : Bool :=
  let n := fld b 0x10 2
  let dim (o : Nat) : Bool := decide (1 ≤ byteAt b o ∧ byteAt b o ≤ 32)
  decide (128 ≤ b.length) && fld b 0 4 == 0x4C535944 && fld b 4 2 == 1 && decide (fld b 6 2 ≤ 1) && fld b 8 8 != 0 &&
    decide (1 ≤ n ∧ n ≤ 8192) && b.length == 128 + 48 * n && dim 0x14 && dim 0x15 && dim 0x16 && zeroAt b 0x17 1 &&
    zeroAt b 0x48 56 && (List.range n).all fun i =>
      let o := 0x80 + 48 * i
      decide (byteAt b (o + 32) ≤ 2 ∧ byteAt b (o + 36) ≤ 1) && zeroAt b (o + 37) 11

/-- The members of a record stand where R398 lets them. -/
def membersOk (r : SliceRec) : Bool :=
  let act := r.members.filter fun m => m.role == 0 && m.onTorus
  act.all (fun m => decide (m.x < r.dx ∧ m.y < r.dy ∧ m.z < r.dz)) &&
    decide (act.map fun m => (m.x, m.y, m.z)).Nodup && r.members.all fun m => m.role == 0 || !m.onTorus

/-- True where a record of the same slice follows the one held (R398, R399). -/
def followsRecord (old r : SliceRec) : Bool :=
  r.sliceId == old.sliceId && decide (old.epoch < r.epoch) && decide (old.members.length ≤ r.members.length) &&
    (List.zip old.members r.members).all fun m => m.1.identity == m.2.identity

/-- The checks of a record (R398, R399); one with PLAIN is refused while a context is sealed (Table 14-22). -/
def sliceRecordOk (s : State) (b : Bytes) : Bool :=
  let r := recordOf b
  recordForm b && (r.members.filter fun m => m.identity == deviceId s).length == 1 &&
    fld b 0x12 2 == (r.members.filter (·.role == 0)).length && membersOk r && r.measurement == s.tr.measurement &&
    (match s.net.record with | some old => followsRecord old r | none => true) && !(r.plain && s.ctxs.any (·.2.isSealed))

/-- The index of this module in a record. -/
def ownIndex (s : State) (r : SliceRec) : Nat := r.members.findIdx fun m => m.identity == deviceId s

/-- The neighbour that a record gives this module in a face. -/
def faceNeighbour (s : State) (r : Option SliceRec) (face : Nat) : Option Digest :=
  r.bind fun r => (r.members[ownIndex s r]?).bind fun me => (neighbour r me face).bind fun i => (r.members[i]?).map (·.identity)

/-- The links that a new record sends to TRAINING: those of a face whose neighbour changes, with cause 9, and those in
QUARANTINE (R401, Table 12-9). -/
def retrainLinks (s : State) (old : Option SliceRec) : State :=
  (List.range 24).foldl (fun s k =>
    let l := linkOf s k
    let changed := l.role == 1 && old.isSome && faceNeighbour s old l.face != faceNeighbour s s.net.record l.face
    if changed ∧ (l.state = 2 ∨ l.state = 3 ∨ l.state = 5) then
      if l.isUp then leaveUp s k 1 9 else setLink s k { l.cleared k with state := 1, cause := 9 }
    else if l.state = 5 then setLink s k { l with state := 1 }
    else s) s

/-- The index that takes the place of 0x1FFF, in a sync object, in the virtual IDs of a context, in a serving group, in an adapter
version. -/
def BMember.renumber (r : Nat → Nat) (m : BMember) : BMember := { m with modIx := r m.modIx, id := if m.kind = 3 then r m.id else m.id }
def SyncObj.renumber (r : Nat → Nat) (o : SyncObj) : SyncObj :=
  { o with members := o.members.map (·.renumber r), parent := o.parent.map fun p => { p with home := r p.home } }
def renumberVids (r : Nat → Nat) (v : AMap (Nat × Nat × Nat)) : AMap (Nat × Nat × Nat) := mmap v fun _ x => (x.1, r x.2.1, x.2.2)
def Group.renumber (r : Nat → Nat) (g : Group) : Group :=
  { g with lead := r g.lead, reqs := mmap g.reqs fun _ q => { q with admitter := r q.admitter } }
def AdVer.renumber (r : Nat → Nat) (v : AdVer) : AdVer := { v with owner := r v.owner, homes := v.homes.map fun h => (r h.1, h.2) }
def CcState.renumber (r : Nat → Nat) (c : CcState) : CcState :=
  { c with group := c.group.map (·.renumber r), adapters := mmap c.adapters fun _ v => v.renumber r,
           objs := mmap c.objs fun _ o => o.renumber r, vids := renumberVids r c.vids }

/-- Every directory entry, home and sync object that a module without a record holds under index 0x1FFF names the index `ix` that its first
record gives (R170). -/
def renumber (s : State) (ix : Nat) : State :=
  let r (n : Nat) : Nat := if n = 0x1FFF then ix else n
  { s with
    mem.dir := mmap s.mem.dir fun _ e => { e with modIx := r e.modIx },
    mem.moving := mmap s.mem.moving fun _ m => { m with dest := { m.dest with modIx := r m.dest.modIx } },
    objs := mmap s.objs fun _ o => o.renumber r,
    ctxs := mmap s.ctxs fun _ c => { c with vids := renumberVids r c.vids },
    groups := mmap s.groups fun _ g => g.renumber r,
    adapters := mmap s.adapters fun _ v => v.renumber r,
    ccs := mmap s.ccs fun _ c => c.renumber r }

/-- The module takes a record: its index, its links, the members that are gone or have come, the closing of its rings; a
record that arrives during closing is a second fault (R400, R401, R412 to R414, R539, Table 12-19). -/
def takeRecord (s : State) (r : SliceRec) : State :=
  let old := s.net.record
  let again := s.net.closing
  let s := if old.isNone then renumber s (ownIndex s r) else s
  let s := { s with net.record := some r, net.index := ownIndex s r }
  let role (i : Nat) : Nat := (memberOf s i).elim 2 (·.role)
  let s := { s with net.gone := s.net.gone.filter fun i => role i == 2, net.peers := mkeep s.net.peers fun i _ => role i == 0 }
  let s := ((List.range r.members.length).filter fun i => role i == 2).foldl markGone s
  let s := retrainLinks s old
  let s := (List.range 24).foldl (fun s k => if (linkOf s k).hello.isNone then startHello s k else s) s
  let s := if again then decideStop s 2 s.net.index (s.net.recovery.getD 0) else s
  let s := { s with net.closing := old.isSome && !ringsClosed s }
  if (List.range 24).any fun k => (linkOf s k).isUp then sendLinkState s else s

/-- SLICE_RECORD: the checks of R398 and R399; the outcome is OK with the slice index, or E_PERM; E_BUSY until the module has its tread number
(R474). -/
def execSliceRecord (record : Bytes) (s : State) : Host.Outcome State Fault Refusal :=
  .next <| unfused s (withMailbox s 2 record.length fun s =>
    if !s.time.loaded then mbReply s eBusy 0
    else if sliceRecordOk s record then
      let s := takeRecord s (recordOf record)
      mbReply s stOk s.net.index
    else mbReply s ePerm 0)

/-! ### Context grants (R419 to R421) -/

/-- Bytes that a tier has for homes (R5, R139). -/
def homeCapacity (s : State) (tier : Nat) : Nat := if tier = 1 then 2048 * 8126464 else t3Bytes s

/-- Layout and ranges of a grant (Table 13-3). -/
def grantForm (b : Bytes) : Bool :=
  b.length == 64 && decide (fld b 0 2 ≤ 255 ∧ byteAt b 2 ≤ 3) && (byteAt b 3 == 1 || byteAt b 3 == 2) && zeroAt b 4 4 &&
    zeroAt b 34 30

/-- The queue pairs of a mask. -/
def grantQps (b : Bytes) : List Nat := (List.range 64).filter fun q => bit (fld b 8 8) q
/-- The windows of a mask. -/
def grantWins (b : Bytes) : List Nat := (List.range 16).filter fun n => bit (fld b 32 2) n

/-- True where a grant takes what is in use or another's (R420). -/
def grantTaken (s : State) (c p : Nat) (b : Bytes) : Bool :=
  (grantQps b).any (fun q => (qpOf s p q).en || (mget s.qpOwner (qpKey p q)).any (· != c)) ||
    (grantWins b).any fun n => (mget s.winOwn (p * 16 + n)).any (· != c) || ((hdmOf s p n).en && (hdmOf s p n).context != c)

/-- True where an allocation is too small, or all of them pass the capacity (R420). -/
def grantRoom (s : State) (c : Nat) (b : Bytes) : Bool :=
  let t2 := fld b 16 8
  let t3 := fld b 24 8
  let others := s.ctxs.filter (·.1 != c)
  decide (ctxBytes s c 1 ≤ t2 ∧ ctxBytes s c 2 ≤ t3 ∧ (others.map (·.2.t2Alloc)).sum + t2 ≤ homeCapacity s 1 ∧
    (others.map (·.2.t3Alloc)).sum + t3 ≤ homeCapacity s 2)

/-- A grant accepted: queue pairs, windows, allocations, and the context's EK at its first one (R419, R459). -/
def giveGrant (s : State) (c p : Nat) (b : Bytes) : State :=
  let x := ctxOf s c
  let (e, s) := match x.ek with
    | some k => (k, s)
    | none => let y := useFree s; (BitVec.ofNat 256 y.1, y.2)
  { s with ctxs := mset s.ctxs c { x with t2Alloc := fld b 16 8, t3Alloc := fld b 24 8, ek := some e },
           qpOwner := (grantQps b).foldl (fun m q => mset m (qpKey p q) c) s.qpOwner,
           winOwn := (grantWins b).foldl (fun m n => mset m (p * 16 + n) c) s.winOwn }

/-- CONTEXT_GRANT with ACTION GRANT; a malformed grant gives E_PERM (R420). A grant whose ACTION is REVOKE is not this row's. -/
def execContextGrant (grant : Bytes) (s : State) : Host.Outcome State Fault Refusal :=
  .next <| unfused s <| if byteAt grant 3 = 2 ∧ grantForm grant then s
    else withMailbox s 3 grant.length fun s =>
      let c := fld grant 0 2
      let p := byteAt grant 2
      if !grantForm grant || grantTaken s c p grant then mbReply s ePerm 0
      else if !grantRoom s c grant then mbReply s eCapacity 0
      else mbReply (giveGrant s c p grant) stOk 0

/-- Takes a context's queue pairs and windows on a port; token records held for them go to nobody else (R422). -/
def revokeOn (s : State) (c p : Nat) : State :=
  let mine (k v : Nat) : Bool := v == c && k / 64 == p
  endContexts { s with qps := mmap s.qps fun k q => if (mget s.qpOwner k).any (mine k) then { q with held := [] } else q,
                       qpOwner := mkeep s.qpOwner fun k v => !mine k v,
                       winOwn := mkeep s.winOwn fun k v => !(v == c && k / 16 == p) }

/-- CONTEXT_GRANT with ACTION REVOKE: E_BUSY while a queue pair of the context on the port is enabled (R421). -/
def execContextRevoke (grant : Bytes) (s : State) : Host.Outcome State Fault Refusal :=
  .next <| unfused s <| if byteAt grant 3 ≠ 2 ∨ !grantForm grant then s
    else withMailbox s 3 grant.length fun s =>
      let c := fld grant 0 2
      let p := byteAt grant 2
      if s.qpOwner.any fun o => o.2 == c && o.1 / 64 == p && (qpOf s p (o.1 % 64)).en then mbReply s eBusy 0
      else mbReply (revokeOn s c p) stOk 0

/-! ### Reads and the certificate -/

/-- CERT_READ: the three certificates, each preceded by its length (R595). -/
def execCertRead (s : State) : Host.Outcome State Fault Refusal :=
  .next <| unfused s (withMailbox s 4 s.mb.len fun s => mbOutput s (s.store.cert.getD []))

/-- LOG_READ: the written entries of the fused log (R595). -/
def execLogRead (s : State) : Host.Outcome State Fault Refusal :=
  .next <| unfused s (withMailbox s 5 s.mb.len fun s => mbOutput s (fusedLogBytes s))

/-- CHALLENGE: a fresh challenge of 32 bytes (Table 14-12). -/
def execChallenge (s : State) : Host.Outcome State Fault Refusal :=
  .next <| unfused s (withMailbox s 6 s.mb.len fun s =>
    if s.mb.len < 32 then mbReply s eCapacity 0
    else
      let y := useFree s
      let c : Digest := BitVec.ofNat 256 y.1
      mbOutput { y.2 with tr.challenge := some c } (digestBytes c))

/-- CERT_INSTALL: in MANUFACTURE, a chain that ends in the Kereno root and names the IDK public key; E_AUTH for another, and
E_LIFECYCLE in another state (Table 14-12). -/
def execCertInstall (chain : Bytes) (s : State) : Host.Outcome State Fault Refusal :=
  .next <| unfused s (withMailbox s 7 chain.length fun s =>
    if s.fuses.lc ≠ .manufacture then mbReply s eLifecycle 0
    else if !chainValid chain (idkPub s) then mbReply s eAuth 0
    else mbReply { s with store.cert := some chain, store.identity := some (nowTread s, (utcNow s).getD 0) } stOk 0)

/-! ### Tokens (R451 to R454) -/

/-- Layout of a token (Table 14-6). -/
def tokenForm (b : Bytes) : Bool :=
  let a := byteAt b 6
  b.length == 3860 && fld b 0 4 == 0x55415944 && fld b 4 2 == 1 && decide (1 ≤ a ∧ a ≤ 7 ∧ byteAt b 7 ≤ 1) &&
    (a == 1 || a == 2 || zeroAt b 0x48 32) && zeroAt b 0x68 24

/-- True where the present state allows an action (Table 14-5). -/
def tokenState (s : State) (action : Nat) : Bool :=
  match s.fuses.lc with
  | .blank => action == 7 || action == 5
  | .manufacture => (action == 6 && s.store.cert.isSome) || action == 5
  | .provisioned => action == 1 || action == 5
  | .deployed => action == 2 || (action == 3 && !s.ctxs.any (·.2.isSealed)) || action == 4 || action == 5
  | .returned => action == 5
  | .scrapped => false

/-- True where the signer is right for the action and state (R453, R454, Table 14-5). -/
def tokenSigner (s : State) (b : Bytes) : Bool :=
  let a := byteAt b 6
  let pub := sha3 (slice b 0x80 1312)
  let owner := ownerHeld s == some pub
  let kereno := pub == romAuthority
  if byteAt b 7 = 0 then
    kereno && (a == 7 || a == 6 || (a == 5 && s.fuses.lc != .deployed) || (a == 4 && (ownerHeld s).isNone))
  else if a = 1 then pub == digestAt b 0x48
  else if a = 2 ∨ a = 3 ∨ a = 4 then owner
  else a == 5 && owner && (s.fuses.lc == .deployed || s.fuses.lc == .returned)

/-- True where the count that an action consumes is used up (Table 14-7). -/
def tokenSpent (s : State) (action : Nat) : Bool :=
  ((action == 1 || action == 2) && decide (15 ≤ s.fuses.ownerUsed)) || (action == 3 && decide (4 ≤ s.fuses.debugUsed))

/-- STATUS of the checks of a token. -/
def tokenStatus (s : State) (b : Bytes) : Nat :=
  let a := byteAt b 6
  if !tokenForm b then ePerm
  else if digestAt b 8 ≠ deviceId s ∨ s.tr.challenge ≠ some (digestAt b 0x28) then eAuth
  else if !tokenState s a then eLifecycle
  else if !tokenSigner s b || !dsaVerify (slice b 0x80 1312) (b.take 0x5A0) (slice b 0x5A0 2420) then eAuth
  else if tokenSpent s a then eCapacity
  else if (a = 4 ∨ a = 5) ∧ !allQpsOff s then eBusy
  else stOk

/-- A TOKEN command whose ACTION is `action`, or a reserved one; it consumes the challenge either way (R453). A token of
another action is not this row's. -/
def withToken (s : State) (action : Nat) (b : Bytes) (act : State → State) : State :=
  if byteAt b 6 ≠ action ∧ 1 ≤ byteAt b 6 ∧ byteAt b 6 ≤ 7 then s
  else withMailbox s 0x10 b.length fun s =>
    let st := tokenStatus s b
    let s := { s with tr.challenge := none }
    if st ≠ stOk then mbReply s st 0 else mbReply (act s) stOk 0

/-- The numbers of the states (Table 14-9). -/
def LcState.code : LcState → Nat
  | .blank => 0
  | .manufacture => 1
  | .provisioned => 2
  | .deployed => 3
  | .returned => 4
  | .scrapped => 5

/-- The state changes, with its fused entry first (R451, R455). -/
def enterLc (s : State) (lc : LcState) (token : Bytes) : State :=
  { fuseLog s 1 lc.code (sha3 token) with fuses.lc := lc }

/-- One more owner transfer used: its count, entry and limit, then the new owner digest (R454, R455). -/
def useOwner (s : State) (owner : Digest) : State :=
  let n := s.fuses.ownerUsed + 1
  let s := fuseLog { s with fuses.ownerUsed := n } 2 n owner
  countLimit { s with store.owner := some owner } 1 n 15

/-- What the contexts of the module hold is gone: every descriptor, request, instance, harness, package, sync object and
object, with the grants and the contexts themselves. Members are told of the homes (R452). -/
def dropAll (s : State) : State :=
  let s := (mkeys s.taken fun _ _ => true).foldl (fun s d => finish s d eCancelled) s
  let s := (s.mem.dir.filter fun d => d.2.modIx == s.net.index).foldl (fun s d => announceGone s d.1 d.2) s
  { s with ctxs := [], pkgs := [], qpOwner := [], winOwn := [], taken := [], movers := [], streams := [], harn := [],
           tiles := mmap s.tiles fun _ _ => .empty,
           overs := [], insts := [], saves := [], rests := [], ccs := [], groups := [], admits := [], adapters := [],
           everLoaded := [], graphs := [], fwds := [], objs := [], syncOut := [], waves := [], snaps := [], waits := [], credits := [],
           mem.dir := [], mem.moving := [], mem.staging := [], mem.partner := [], net.binds := [] }

/-- The wipe at entry to RETURN and SCRAPPED, and the commit of the lifetime record there (R452, R511). -/
def wipe (s : State) : State :=
  let y := useFree (dropAll (commitLife s false))
  let t := y.2
  unfused s
    { t with mem.t1 := [], mem.t2 := [], mem.t3 := [], mem.poison1 := [], mem.poison2 := [], mem.poison3 := [], mem.bad1 := [],
             mem.bad2 := [], mem.bad3 := [], mem.check2 := [], mem.check3 := [], mem.skew2 := [], mem.skew3 := [], mem.rebuilds := [], tr.t3Key := some (BitVec.ofNat 256 y.1) }

/-- TOKEN 0x07: BLANK to MANUFACTURE; the UDS is generated and fused (Table 14-5). -/
def execToManufacture (token : Bytes) (s : State) : Host.Outcome State Fault Refusal :=
  .next <| queued s (withToken s 7 token fun s =>
    let y := useFree s
    enterLc { y.2 with fuses.uds := BitVec.ofNat 256 y.1 } .manufacture token)

/-- TOKEN 0x06: MANUFACTURE to PROVISIONED, once a device certificate is installed (Table 14-5). -/
def execToProvisioned (token : Bytes) (s : State) : Host.Outcome State Fault Refusal :=
  .next <| queued s (withToken s 6 token fun s => enterLc s .provisioned token)

/-- TOKEN 0x01: PROVISIONED to DEPLOYED with the new owner's digest (Table 14-5, R451). -/
def execOwnerClaim (token : Bytes) (s : State) : Host.Outcome State Fault Refusal :=
  .next <| queued s (withToken s 1 token fun s => useOwner (enterLc s .deployed token) (digestAt token 0x48))

/-- TOKEN 0x02: a new owner; a debug unlock ends (Table 14-5, R471). -/
def execOwnerTransfer (token : Bytes) (s : State) : Host.Outcome State Fault Refusal :=
  .next <| queued s (withToken s 2 token fun s => useOwner { s with tr.debugUnlocked := false } (digestAt token 0x48))

/-- TOKEN 0x03: one debug unlock is consumed and DEBUG_UNLOCKED set (R471). -/
def execDebugUnlock (token : Bytes) (s : State) : Host.Outcome State Fault Refusal :=
  .next <| queued s (withToken s 3 token fun s =>
    let n := s.fuses.debugUsed + 1
    let s := fuseLog { s with fuses.debugUsed := n } 5 n (sha3 token)
    countLimit { s with tr.debugUnlocked := true } 4 n 4)

/-- TOKEN 0x04: DEPLOYED to RETURN, with the wipe (R452). -/
def execToReturn (token : Bytes) (s : State) : Host.Outcome State Fault Refusal :=
  .next <| queued s (withToken s 4 token fun s => enterLc (wipe { s with tr.debugUnlocked := false }) .returned token)

/-- TOKEN 0x05: to SCRAPPED, with the wipe, and the UDS fuses overwritten with ones; no firmware runs there (R452,
Table 14-4). -/
def execToScrapped (token : Bytes) (s : State) : Host.Outcome State Fault Refusal :=
  .next <| queued s (withToken s 5 token fun s =>
    let s := enterLc (wipe { s with tr.debugUnlocked := false }) .scrapped token
    { s with fuses.uds := BitVec.allOnes 256, tr.fwRunning := false })

/-! ### SVN_COMMIT and DEBUG_LOCK -/

/-- STATUS of SVN_COMMIT (R456). -/
def svnStatus (s : State) : Nat :=
  if s.mb.arg ≠ s.fuses.svnUsed + 1 then ePerm
  else if 63 ≤ s.fuses.svnUsed then eCapacity
  else if s.tr.fwSvn < s.mb.arg then ePerm else stOk

/-- SVN_COMMIT: the fused minimum rises by one (R455, R456). -/
def execSvnCommit (s : State) : Host.Outcome State Fault Refusal :=
  .next <| queued s (withMailbox s 0x11 s.mb.len fun s =>
    if svnStatus s ≠ stOk then mbReply s (svnStatus s) 0
    else
      let n := s.fuses.svnUsed + 1
      let s := fuseLog { s with fuses.svnUsed := n } 3 n (sha3 (digestBytes s.tr.measurement))
      mbReply (countLimit s 2 n 63) stOk 0)

/-- DEBUG_LOCK: a debug unlock ends (R471). -/
def execDebugLock (s : State) : Host.Outcome State Fault Refusal :=
  .next <| unfused s (withMailbox s 0x12 s.mb.len fun s => mbReply { s with tr.debugUnlocked := false } stOk 0)

end Sys2Proof.Machine
end

