-- ==== Sys2Proof/Machine/Keys.lean ====
section
/-!
DEFINITION. ATTEST, KEY_IMPORT and sealed contexts (14 R447, R459 to R461, Tables 14-10, 14-14, 14-15; 13 R425).
-/
namespace Sys2Proof.Machine

/-- `LC_COUNTS` (Table 14-10). -/
def lcCounts (s : State) : Nat :=
  s.fuses.ownerUsed + s.fuses.svnUsed * 2 ^ 4 + s.fuses.repairUsed * 2 ^ 10 + s.fuses.debugUsed * 2 ^ 14 +
    s.fuses.log.length * 2 ^ 17

/-- True where a slice record with PLAIN set is held (R378). -/
def plainHeld (s : State) : Bool := s.net.record.any (·.plain)

/-- The encapsulation key of a context, 1,184 bytes (R459). -/
def ekBytes (s : State) (c : Nat) : Bytes := leBytes 1184 (kemPublic ((ctxOf s c).ek.getD 0)).toNat

/-- The fingerprint of a key (Table 14-14). -/
def keyPrint (k : KeySlot) : Bytes := leBytes 8 (head8 (sha3 ([0x44, 0x59, 0x4B, 0x46] ++ digestBytes k.key))).toNat

/-- PKG_DIGEST of a context; zero when it has no package (Table 14-14). -/
def pkgDigest (s : State) (c : Nat) : Bytes :=
  let ps := s.pkgs.filter (·.2.ctx == c)
  if ps.isEmpty then leBytes 32 0
  else digestBytes (sha3 (ps.flatMap fun p => leBytes 4 p.1 ++ digestBytes p.2.manifest))

/-- Bytes 0x000 to 0x69F of the report (Table 14-14). -/
def reportBody (s : State) (c : Nat) (nonce : Bytes) : Bytes :=
  let x := ctxOf s c
  let flags := b2n (plainHeld s) + 2 * b2n s.tr.debugUnlocked + 4 * b2n x.isSealed + 8 * b2n s.net.record.isSome +
    16 * b2n s.time.holdover
  leBytes 4 0x54415944 ++ leBytes 2 1 ++ leBytes 1 s.fuses.lc.code ++ leBytes 1 flags ++ leBytes 8 (nowTread s) ++ nonce ++
    digestBytes (deviceId s) ++ digestBytes ((ownerHeld s).getD 0) ++ digestBytes romDigest ++ digestBytes s.tr.measurement ++
    digestBytes ((s.net.record.map (·.digest)).getD 0) ++ leBytes 2 s.net.index ++ leBytes 1 steppingA1 ++
    leBytes 1 s.tr.fwSvn ++ leBytes 4 (lcCounts s) ++ leBytes 2 c ++
    leBytes 2 (x.slots.map fun k => 2 ^ k.1).sum ++ leBytes 4 (s.pkgs.filter (·.2.ctx == c)).length ++
    digestBytes (sha3 (fusedLogBytes s)) ++ digestBytes (sha3 (repairMapBytes s.store.repairMap)) ++ pkgDigest s c ++
    digestBytes (sha3 (ekBytes s c)) ++
    ((List.range 16).flatMap fun k => ((mget x.slots k).map keyPrint).getD (leBytes 8 0)) ++
    leBytes 2 (t3Gib s) ++ leBytes 30 0 ++ ekBytes s c

/-- The attestation report, 4,116 bytes (Table 14-14). -/
def report (s : State) (c : Nat) (nonce : Bytes) : Bytes :=
  let b := reportBody s c nonce
  b ++ idkSign s b

/-- ATTEST requests taken before `d` and not completed (R459). -/
def attestHeld (s : State) (d : Nat) : Nat := (s.taken.filter fun t => t.2.op == 0x80 && decide (t.1 < d)).length

/-- ATTEST (R459). -/
def execAttest (d : Nat) (s : State) : Host.Outcome State Fault Refusal :=
  .next <| unfused s (withDesc s d (·.op == 0x80) [(8, 12), (24, 32)] fun t =>
    if 16 ≤ attestHeld s d then finish s d eBusy
    else if fld t.bytes 16 4 < 4116 then finish s d eCapacity
    else complete (pmWrite s t.port (fld t.bytes 8 8) (report s t.ctx (slice t.bytes 24 32))) d stOk 4116 0)

/-! ### KEY_IMPORT (R460, R461) -/

/-- The slot that a KEY_IMPORT names. -/
def keySlot (t : Taken) : Nat := fld t.bytes 20 4

/-- Form of an import blob of a context (Table 14-15). -/
def blobForm (b : Bytes) (c : Nat) : Bool :=
  fld b 0 4 == 0x494B5944 && fld b 4 2 == 1 && decide (1 ≤ byteAt b 6 ∧ byteAt b 6 ≤ 3) && zeroAt b 7 1 && fld b 8 2 == c &&
    zeroAt b 10 6 && zeroAt b 0x47C 4

/-- The key that a blob wraps, when it opens under the context's present EK (Table 14-15). -/
def blobKey (s : State) (c : Nat) (b : Bytes) : Option Bytes :=
  (ctxOf s c).ek.bind fun seed =>
    if digestAt b 0x10 ≠ sha3 (ekBytes s c) then none
    else (kemOpen seed (slice b 0x30 1088)).bind fun shared =>
      gcmOpen (kdf shared "DYKW" (b.take 0x30)) (slice b 0x470 12) (b.take 0x30) (slice b 0x480 32) (slice b 0x4A0 16)

/-- Checks 1 to 3 of R460 but for the blob, which an import and a clear share. -/
def keyHeadStatus (s : State) (t : Taken) : Nat :=
  if plainHeld s then ePerm
  else if s.tr.debugUnlocked then eLifecycle
  else if 15 < keySlot t ∨ (fld t.bytes 16 4 ≠ 1200 ∧ fld t.bytes 16 4 ≠ 0) then ePerm
  else stOk

/-- STATUS of the checks of R460; a blob shorter than CT_LEN was read poisoned (notes/assumptions/7.md). -/
def keyStatus (s : State) (t : Taken) (b : Bytes) : Nat :=
  if keyHeadStatus s t ≠ stOk then keyHeadStatus s t
  else if b.length < 1200 then ePoison
  else if !blobForm b t.ctx then ePerm
  else if (blobKey s t.ctx b).isNone then eAuth
  else if mhas (ctxOf s t.ctx).slots (keySlot t) then eBusy
  else stOk

/-- The context becomes sealed: every object it has is SEALED from now on, and members hear of the homes that this module
holds (R461, R177). -/
def sealContext (s : State) (c : Nat) : State :=
  let s := { s with ctxs := mset s.ctxs c { ctxOf s c with isSealed := true } }
  (s.mem.dir.filter fun e => e.2.ctx == c).foldl (fun s e =>
    let e' := { e.2 with isSealed := true }
    if e'.modIx = s.net.index then commitEntry s e.1 e' else dirSet s e.1 e') s

/-- The key goes into its slot, and the context is sealed (R460, R461). -/
def importKey (s : State) (d : Nat) (t : Taken) (b : Bytes) : State :=
  if keyStatus s t b ≠ stOk then finish s d (keyStatus s t b)
  else
    let s := if (ctxOf s t.ctx).isSealed then s else sealContext s t.ctx
    let k : KeySlot := { kind := byteAt b 6, key := digestAt ((blobKey s t.ctx b).getD []) 0 }
    let x := ctxOf s t.ctx
    finish { s with ctxs := mset s.ctxs t.ctx { x with slots := mset x.slots (keySlot t) k } } d stOk

/-- KEY_IMPORT: the lines of the objects that it seals are snooped first, and it waits for the responses (R425, R460). -/
def execKeyImport (d : Nat) (blob : Bytes) (s : State) : Host.Outcome State Fault Refusal :=
  .next <| unfused s (withDesc s d (fun t => t.op == 0x81 && fld t.bytes 16 4 != 0) [(8, 16)] fun t =>
    let b := blob.take 1200
    let ls := (s.mem.dir.filter fun e => e.2.ctx == t.ctx && !e.2.isSealed).flatMap fun e => homeLines s e.2
    if keyStatus s t b = stOk ∧ !(ctxOf s t.ctx).isSealed ∧ !ls.isEmpty then (addWait (snoop (holdDesc s d) ls) (.biKey d b)).2
    else importKey s d t b)

/-- KEY_IMPORT with CT_LEN 0: clears the slot (R460). -/
def execKeyClear (d : Nat) (s : State) : Host.Outcome State Fault Refusal :=
  .next <| unfused s (withDesc s d (fun t => t.op == 0x81 && fld t.bytes 16 4 == 0) [(8, 16)] fun t =>
    if keyHeadStatus s t ≠ stOk then finish s d (keyHeadStatus s t)
    else
      let x := ctxOf s t.ctx
      finish { s with ctxs := mset s.ctxs t.ctx { x with slots := merase x.slots (keySlot t) } } d stOk)

end Sys2Proof.Machine
end

