-- ==== Sys2Proof/Machine/Packages.lean ====
section
/-!
DEFINITION. Packages: staging, admission, eviction (14 R462 to R467, Tables 14-16 to 14-19; 17 R536).
-/
namespace Sys2Proof.Machine

/-! ### PKG_STAGE (R463) -/

/-- A PKG_STAGE as the MOVE IMPORT whose rules it follows. -/
def stageReq (b : Bytes) : MoveReq :=
  { kind := 1, obj := fld b 24 4, dst := fld b 28 8, stripes := 1, tileStep := 0, stripeSize := fld b 16 8 % 2 ^ 32,
    size := fld b 16 8, host := fld b 8 8 }

/-- STATUS of a PKG_STAGE; bytes fewer than LENGTH were read poisoned (notes/assumptions/7.md). -/
def stageStatus (s : State) (t : Taken) (data : Bytes) : Nat :=
  let r := stageReq t.bytes
  if gaTier r.dst ≠ 2 ∨ fld data 0 4 ≠ 0x4B505944 ∨ fld data 4 2 ≠ 1 ∨ fld data 8 8 ≠ r.size then ePerm
  else if createStatus s t.ctx r ≠ stOk then createStatus s t.ctx r
  else if data.length < r.size then ePoison else stOk

/-- The staged package becomes a T3 object of the context, still encrypted (R463). -/
def stagePackage (s : State) (d : Nat) (t : Taken) (data : Bytes) : State :=
  let r := stageReq t.bytes
  let e := { moveDest s t.ctx r r.size 0 with isSealed := (ctxOf s t.ctx).isSealed }
  finish (commitEntry (countHome (objFill s e (cellsOf (data.take r.size)) []) e true) r.obj e) d stOk

/-- PKG_STAGE (R463). -/
def execPkgStage (d : Nat) (data : Bytes) (s : State) : Host.Outcome State Fault Refusal :=
  .next <| unfused s (withDesc s d (·.op == 0x10) [(8, 28)] fun t =>
    match partnerData s d data with
    | some (data, s) =>
      atModule s d (gaModule (stageReq t.bytes).dst) t data
        (if stageStatus s t data ≠ stOk then finish s d (stageStatus s t data) else stagePackage s d t data)
    | none => s)

/-! ### The form of a package (Tables 14-16, 14-17) -/

/-- Number of entries. -/
def pkgCount (b : Bytes) : Nat := fld b 0x30 4

/-- Bytes of the signed part. -/
def signedLen (b : Bytes) : Nat := 0x100 + 64 * pkgCount b

/-- Manifest entry `e`. -/
def pkgEntry (b : Bytes) (e : Nat) : Bytes := slice b (0x100 + 64 * e) 64

/-- Units of an entry (R462). -/
def entryUnits (e : Bytes) : Nat := ceilDiv (fld e 16 8) 4096

/-- First byte of an entry in the package. -/
def entryAt (b e : Bytes) : Nat := fld b 0x38 8 + fld e 8 8

/-- Form of a manifest entry (Table 14-17); its units lie in the package. -/
def entryOk (b e : Bytes) : Bool :=
  decide (1 ≤ byteAt e 0 ∧ byteAt e 0 ≤ 4) && (decide (byteAt e 1 ≤ 0xB) || byteAt e 1 == 0xFF) && zeroAt e 2 6 &&
    fld e 8 8 % 4096 == 0 && decide (1 ≤ fld e 16 8) && zeroAt e 56 8 &&
    decide (entryAt b e + 4096 * entryUnits e ≤ fld b 8 8)

/-- Form of the header and its entries, in an object of `size` bytes (Tables 14-16 and 14-17). -/
def pkgForm (b : Bytes) (size : Nat) : Bool :=
  fld b 0 4 == 0x4B505944 && fld b 4 2 == 1 && zeroAt b 7 1 && fld b 8 8 == size && decide (size ≤ 2 ^ 40) &&
    decide (1 ≤ pkgCount b ∧ pkgCount b ≤ 65536) && zeroAt b 0x34 4 && fld b 0x38 8 % 4096 == 0 && zeroAt b 0x4C 4 &&
    zeroAt b 0xA0 96 && decide (signedLen b + 1312 + 2420 ≤ size) &&
    (List.range (pkgCount b)).all fun e => entryOk b (pkgEntry b e)

/-! ### Targets (Table 14-18) -/

/-- Target `i` of a table. -/
def targetAt (tab : Bytes) (i : Nat) : Bytes := slice tab (16 + 32 * i) 32

/-- The targets of a table. -/
def targetsOf (tab : Bytes) : List Bytes := (List.range (fld tab 0 4)).map (targetAt tab)

/-- The object that a target creates, and its home, of SIZE LENGTH (R464). -/
def targetHome (s : State) (ctx : Nat) (b t : Bytes) : Nat × DirEntry :=
  let r : MoveReq := { kind := 1, obj := fld t 4 4, dst := fld t 8 8, stripes := fld t 16 2, tileStep := fld t 18 2,
                       stripeSize := fld t 20 4, size := fld (pkgEntry b (fld t 0 4)) 16 8, host := 0 }
  (r.obj, { moveDest s ctx r r.size 0 with isSealed := (ctxOf s ctx).isSealed })

/-- True where no two homes of a list share a byte. -/
def apart : List DirEntry → Bool
  | [] => true
  | e :: es => !es.any (overlap e) && apart es

/-- Form of the targets table and of each target (R464, Table 14-18, R172, R183). -/
def targetsOk (s : State) (ctx : Nat) (b tab : Bytes) : Bool :=
  let ts := targetsOf tab
  let hs := ts.map (targetHome s ctx b)
  decide (1 ≤ ts.length ∧ ts.length ≤ pkgCount b) && zeroAt tab 4 12 &&
    ts.all (fun t => decide (fld t 0 4 < pkgCount b) && zeroAt t 24 8) && decide (ts.map fun t => fld t 0 4).Nodup &&
    decide (hs.map (·.1)).Nodup && apart (hs.map (·.2)) &&
    hs.all fun h => h.1 != 0 && h.1 != 0xFFFFFFFF && (dirGet s h.1).isNone && !destBad s h.1 h.2

/-- The homes of a list that this module holds in a tier, in bytes. -/
def tierSum (s : State) (hs : List (Nat × DirEntry)) (tier : Nat) : Nat :=
  ((hs.filter fun h => h.2.modIx == s.net.index && h.2.tier == tier).map (·.2.size)).sum

/-- Check 4 of Table 14-19. -/
def targetsFit (s : State) (ctx : Nat) (hs : List (Nat × DirEntry)) : Bool :=
  allocFits s ctx 1 (tierSum s hs 1) 0 && allocFits s ctx 2 (tierSum s hs 2) 0 &&
    hs.all (fun h => h.2.modIx != s.net.index || h.2.tier != 2 || decide (h.2.base + h.2.size ≤ t3Bytes s)) &&
    decide (s.mem.dir.length + hs.length ≤ 4194304) && decide (s.pkgs.length < 4096)

/-! ### Keys and contents -/

/-- The CEK, when the slot holds a PKG_KEY that opens it (Table 14-16). -/
def pkgCek (s : State) (ctx slot : Nat) (b : Bytes) : Option Bytes :=
  (mget (ctxOf s ctx).slots slot).bind fun k =>
    if k.kind ≠ 1 then none else gcmOpen k.key (slice b 0x40 12) (b.take 0x40) (slice b 0x50 64) (slice b 0x90 16)

/-- Check 3 of Table 14-19. -/
def pkgAuth (s : State) (ctx slot : Nat) (b : Bytes) : Bool :=
  let n := signedLen b
  let pub := slice b n 1312
  (mget (ctxOf s ctx).slots (byteAt b 6)).any (fun k => k.kind == 3 && k.key == sha3 pub) &&
    dsaVerify pub (b.take n) (slice b (n + 1312) 2420) && (pkgCek s ctx slot b).isSome

/-- The decrypted units of entry `e` (R462). -/
def plainUnits (cek b : Bytes) (e : Nat) : List Bytes :=
  let x := pkgEntry b e
  (List.range (entryUnits x)).map fun i =>
    leBytes 4096 (xtsOpen cek (e * 2 ^ 40 + i) (slice b (entryAt b x + 4096 * i) 4096)).toNat

/-- True where an entry's digest matches (R462). -/
def digestOk (cek b : Bytes) (e : Nat) : Bool :=
  sha3 ((plainUnits cek b e).flatMap fun u => digestBytes (sha3 u)) == digestAt (pkgEntry b e) 24

/-- The plaintext of an entry. -/
def plainEntry (cek b : Bytes) (e : Nat) : Bytes := ((plainUnits cek b e).flatMap id).take (fld (pkgEntry b e) 16 8)

/-! ### PKG_ADMIT (R464, R465) -/

/-- The staged object's bytes: from its home here, or `far` when another member holds it (notes/assumptions/7.md). -/
def stagedBytes (s : State) (e : DirEntry) (far : Bytes) : Bytes :=
  if e.modIx = s.net.index then objRead s e 0 e.size else far.take e.size

/-- True where bytes of a staged object that an admission reads are poisoned; `far` bytes fewer than the object's were. -/
def stagedPoison (s : State) (e : DirEntry) (far : Bytes) (off n : Nat) : Bool :=
  if e.modIx = s.net.index then (List.range n).any fun i => poisoned s e.tier (homeAt e (off + i)) 1
  else decide (far.length < off + n)

/-- STATUS of the checks of Table 14-19 up to the fourth, of the staged object `e` with bytes `b` and the targets `tab`. -/
def admitStatus (s : State) (t : Taken) (e : DirEntry) (b tab far : Bytes) : Nat :=
  let hs := (targetsOf tab).map (targetHome s t.ctx b)
  if !pkgForm b e.size || !targetsOk s t.ctx b tab then
    (if stagedPoison s e far 0 (min e.size (signedLen b + 3732)) then ePoison else ePerm)
  else if stagedPoison s e far 0 (signedLen b + 3732) then ePoison
  else if !pkgAuth s t.ctx (fld t.bytes 12 4) b then eAuth
  else if !targetsFit s t.ctx hs then eCapacity
  else if hs.any fun h => notReady s h.2 then eBusy
  else if hs.any fun h => moduleStatus s h.2.modIx ≠ stOk then eUnreachable
  else if (targetsOf tab).any fun x =>
      let p := pkgEntry b (fld x 0 4)
      stagedPoison s e far (entryAt b p) (4096 * entryUnits p) then ePoison
  else stOk

/-- One object of an admission is created with its plaintext, here or at the member of its home (R464, R177). -/
def createTarget (s : State) (h : Nat × DirEntry) (data : Bytes) : State :=
  if h.2.modIx = s.net.index then commitEntry (countHome (objFill s h.2 (cellsOf data) []) h.2 true) h.1 h.2
  else
    let s := newMsg s 8 h.2.modIx 0xFFFF .firmware (leBytes 12 0 ++ leBytes 4 64) (entryBytes h.1 { h.2 with moving := true })
    let s := writeFar s h.2.modIx 0xFFFF .firmware h.1 0 0 data []
    commitEntry s h.1 h.2

/-- A PKG_ID that no package has: one of firmware's choice. -/
def freshPkg (s : State) : Nat :=
  let f := freeValue s.fv % 2 ^ 32
  if mhas s.pkgs f then ((List.range (s.pkgs.length + 1)).find? fun i => !mhas s.pkgs i).getD 0 else f

/-- The admission itself: every named entry is decrypted and hashed; all objects are committed, or none is (R464, R465). -/
def admitPackage (s : State) (d : Nat) (t : Taken) (e : DirEntry) (b tab : Bytes) : State :=
  let cek := (pkgCek s t.ctx (fld t.bytes 12 4) b).getD []
  let ts := targetsOf tab
  let s := if e.modIx = s.net.index then countHome s e false else s
  if ts.all fun x => digestOk cek b (fld x 0 4) then
    let id := freshPkg s
    let s := ts.foldl (fun s x => createTarget s (targetHome s t.ctx b x) (plainEntry cek b (fld x 0 4))) s
    let os := ts.map fun x =>
      { obj := fld x 4 4, entry := fld x 0 4, kind := byteAt (pkgEntry b (fld x 0 4)) 0,
        digest := digestAt (pkgEntry b (fld x 0 4)) 24 }
    let p : Pkg := { ctx := t.ctx, manifest := sha3 (b.take (signedLen b)), objs := os }
    complete { s with pkgs := mset s.pkgs id p, fv := s.fv + 1 } d stOk id 0
  else
    let s := ts.foldl (fun s x =>
      let h := targetHome s t.ctx b x
      if h.2.modIx = s.net.index then countHome (objZero s h.2) h.2 true else s) s
    finish s d eAuth

/-- The targets table, `far` where another member holds its home. -/
def targetTable (s : State) (t : Taken) (far : Bytes) : Nat × Bytes :=
  let h := handleAt t.bytes 16
  match dirGet s h.1 with
  | none => (ePerm, [])
  | some e =>
    let get (n : Nat) : Bytes := if e.modIx = s.net.index then objRead s e h.2 n else far.take n
    let n := 16 + 32 * fld (get 4) 0 4
    if e.ctx ≠ t.ctx ∨ e.size < h.2 + 16 ∨ e.size < h.2 + n then (ePerm, [])
    else if e.absent ∨ moduleStatus s e.modIx ≠ stOk then (eUnreachable, [])
    else if (if e.modIx = s.net.index then (List.range n).any fun i => poisoned s e.tier (homeAt e (h.2 + i)) 1
        else decide (far.length < n)) then (ePoison, [])
    else (stOk, get n)

/-- Reads the targets table. -/
def demandTargets (s : State) (t : Taken) : State :=
  let h := handleAt t.bytes 16
  let s := demandOwn s t.ctx h 16
  match dirGet s h.1 with
  | none => s
  | some e => demandOwn s t.ctx h (16 + 32 * fld (objRead s e h.2 4) 0 4)

/-- PKG_ADMIT (R464, Table 14-19). `pkg` and `table` are the bytes of a staged object and a targets table whose homes other
members hold (notes/assumptions/7.md). -/
def execPkgAdmit (d : Nat) (pkg table : Bytes) (s : State) : Host.Outcome State Fault Refusal :=
  .next <| unfused s (withDesc s d (·.op == 0x11) [(8, 20)] fun t =>
    if plainHeld s then finish s d ePerm
    else match dirGet s (fld t.bytes 8 4) with
      | none => finish s d ePerm
      | some e =>
        if e.ctx ≠ t.ctx then finish s d ePerm
        else if e.absent ∨ moduleStatus s e.modIx ≠ stOk then finish s d eUnreachable
        else
          let s := demandTargets s t
          let tab := targetTable s t table
          if tab.1 ≠ stOk then finish s d tab.1
          else
            let s := if e.modIx = s.net.index then demandHome s e else s
            let b := stagedBytes s e pkg
            let st := admitStatus s t e b tab.2 pkg
            if st ≠ stOk then finish s d st else admitPackage s d t e b tab.2)

/-! ### PKG_EVICT (R466) -/

/-- The objects of a package that still exist. -/
def pkgLive (s : State) (p : Pkg) : List (Nat × DirEntry) :=
  p.objs.filterMap fun o => (dirGet s o.obj).map fun e => (o.obj, e)

/-- STATUS of a PKG_EVICT of package `id` (R466); an object in a MOVE is busy, as for a FREE (Table 5-7). -/
def evictStatus (s : State) (ctx id : Nat) : Nat :=
  match mget s.pkgs id with
  | none => ePerm
  | some p =>
    if p.ctx ≠ ctx then ePerm
    else if (pkgLive s p).any (fun o => o.2.bound != 0 || o.2.moving) ||
        s.harn.any (fun h => h.2.pkg == some id && harnessBusy s h.2.ctx h.2.uid) then eBusy
    else stOk

/-- Frees an object: its home is filled with zeros and the entry removed; the member of a home elsewhere fills its own
(R182, R177). -/
def dropHome (s : State) (o : Nat × DirEntry) : State :=
  let s := if o.2.modIx = s.net.index ∧ !o.2.absent then countHome (objZero s o.2) o.2 true else s
  announceGone (dirDel s o.1) o.1 o.2

/-- The eviction: harnesses and overlays of the package, its objects and its record go (R466). -/
def evictPackage (s : State) (d id : Nat) : State :=
  match mget s.pkgs id with
  | none => finish s d ePerm
  | some p =>
    let s := (mkeys s.harn fun _ h => h.pkg == some id).foldl dropHarness s
    let s := { s with overs := mkeep s.overs fun _ o => o.pkg != some id }
    let s := (pkgLive s p).foldl dropHome s
    finish (endContexts { s with pkgs := merase s.pkgs id }) d stOk

/-- PKG_EVICT (R466); lines that partners hold of its objects are snooped first (R425). -/
def execPkgEvict (d : Nat) (s : State) : Host.Outcome State Fault Refusal :=
  .next <| unfused s (withDesc s d (·.op == 0x12) [(8, 4)] fun t =>
    let id := fld t.bytes 8 4
    let st := evictStatus s t.ctx id
    let ls := ((mget s.pkgs id).elim [] (pkgLive s)).flatMap fun o => homeLines s o.2
    if st ≠ stOk then finish s d st
    else if ls.isEmpty then evictPackage s d id
    else (addWait (snoop (holdDesc s d) ls) (.biEvict d)).2)

/-- BACK_INVALIDATE_RESPONSE: the partners have answered; what waited for them goes on (R425). -/
def execBackInvalidateResponse (w : Nat) (s : State) : Host.Outcome State Fault Refusal :=
  let t := { s with waits := merase s.waits w }
  .next <| unfused s <| match mget s.waits w with
    | some (.biWrite p n off data) => biWriteEnd s w p n off data
    | some (.biRange o off n) => { s with waits := mset s.waits w (.biClear o off n) }
    | some (.biMove d) => moveResume t d
    | some (.biKey d blob) => match mget t.taken d with
      | some x => importKey t d x blob
      | none => t
    | some (.biEvict d) => match mget t.taken d with
      | some x =>
        let st := evictStatus t x.ctx (fld x.bytes 8 4)
        if st ≠ stOk then finish t d st else evictPackage t d (fld x.bytes 8 4)
      | none => t
    | _ => s

end Sys2Proof.Machine
end

