-- ==== Sys2Proof/Machine/Time.lean ====
section
/-!
DEFINITION. The time base: TREAD edges, numbering, holdover, beacons received, the anchor (15 R472 to R479, R596, R597;
19 R578; 12 R407, R408).
-/
namespace Sys2Proof.Machine

/-- Sets MISMATCH and counts TREAD_MISMATCH (R473, R475). -/
def mismatch (s : State) : State := hwBump (noteW1c { s with time.mismatch := true } 1 true) (kPow 15) 1

/-- Counts TREAD_WIDTH_ERR. -/
def widthErr (s : State) : State := hwBump s (kPow 16) 1

/-- True where an edge came 1.000 µs ± 20 ns after the one before (R477, R596). -/
def goodGap (ns : Nat) : Bool := decide (980 ≤ ns ∧ ns ≤ 1020)

/-- The offset of an edge against the nearest boundary, in (−500, 500] (R477, R597). -/
def nearOffset (d : Int) : Int := if d ≤ 500 then d else d - 1000

/-- An edge while the module is locked (R597): `d` ns after the boundary of the present tread. -/
def lockedEdge (s : State) (d : Int) : State :=
  let late := decide (d ≤ 500)
  if (if late then s.time.edgeSeen else s.time.edgeEarly) then widthErr s
  else
    let s := { s with time.pulseTread := some (if late then s.time.tread else s.time.tread + 1) }
    if late then { s with time.edgeSeen := true } else { s with time.edgeEarly := true }

/-- An edge while the module is not locked: the run of good edges grows or starts again; the first edge of a module
without a tread number sets its boundary; after 16 good edges a module with one, or one in holdover, slews to the pulse
(R477, R596). -/
def freeEdge (s : State) (d : Int) (gap : Nat) : State :=
  let t := s.time
  let clk := if !t.loaded && !t.firstEdge then 0 else s.clk
  let good := if t.firstEdge && goodGap gap then t.goodEdges + 1 else 0
  let align := (t.loaded || t.holdover) && decide (16 ≤ good)
  let off := nearOffset d
  { s with clk := clk, time.firstEdge := true, time.goodEdges := good,
           time.relock := if align then some off else none,
           time.slewPpm := if align then (if off < 0 then -100 else 100) else if t.relock.isSome then 0 else t.slewPpm,
           time.pulseTread := some (if d ≤ 500 then t.tread else t.tread + 1) }

/-- TREAD_EDGE: a rising edge `offsetNs` after the present tread's boundary, `sinceLastNs` after the edge before it
(R472, R596, R597). -/
def execTreadEdge (offsetNs : Int) (sinceLastNs : Nat) (s : State) : Host.Outcome State Fault Refusal :=
  .next <| unfused s (if s.time.pulseOk then lockedEdge s offsetNs else freeEdge s offsetNs sinceLastNs)

/-- True where the pulse edge lies within 20 ns of the module's own (R477). -/
def aligned (s : State) : Bool :=
  match s.time.relock with
  | some d => decide (-20 ≤ d ∧ d ≤ 20)
  | none => false

/-- The module locks to the pulse. -/
def lockPulse (s : State) : State :=
  { s with time.pulseOk := true, time.everLocked := true, time.relock := none, time.slewPpm := 0 }

/-- TREAD_LOCK: outside holdover, after 16 consecutive good edges, and with a tread number once aligned (R596). -/
def execTreadLock (s : State) : Host.Outcome State Fault Refusal :=
  .next <| unfused s <| if !s.time.pulseOk && !s.time.holdover && decide (16 ≤ s.time.goodEdges) && (!s.time.loaded || aligned s) then
      lockPulse s
    else s

/-- TREAD_HOLDOVER_ENTRY: no edge within 1.5 µs of the one expected. Before the first lock of a module without a tread
number only the run of good edges ends (R476, R596). -/
def execTreadHoldoverEntry (s : State) : Host.Outcome State Fault Refusal :=
  .next <| unfused s <|
    if s.time.holdover then { s with time.goodEdges := 0, time.relock := none }
    else if s.time.everLocked || s.time.loaded then
      let s := { s with time.holdover := true, time.pulseOk := false, time.holdTreads := 0, time.goodEdges := 0,
                        time.relock := none, time.slewPpm := 0 }
      raiseModule (hwBump s (kPow 13) 1) 6 [1]
    else { s with time.goodEdges := 0 }

/-- TREAD_RELOCK: in holdover the slew has brought the pulse within 20 ns; the module locks and leaves holdover
(R477). -/
def execTreadRelock (s : State) : Host.Outcome State Fault Refusal :=
  .next <| unfused s <| if s.time.holdover && aligned s then raiseModule { lockPulse s with time.holdover := false } 6 [0] else s

/-- The tread number that a TREAD_LOAD of flight `f` should meet in the module's own count (R474, R475). -/
def loadTarget (s : State) : Nat :=
  let b := (s.time.tread / 4096 + 1) * 4096
  if b - s.time.tread ≤ 16 then b + 4096 else b

/-- TREAD_LOAD received: it is held for its wide pulse, and a later one is compared with the module's own count; a
source received earlier stands (R474, R475, R596). -/
def loadFlight (s : State) (f : Nat) : State :=
  if s.time.loaded then (if f * 4096 = loadTarget s then s else mismatch s)
  else if s.time.beaconFor.isSome then s
  else { s with time.load := some { flight := f, treads := 0 } }

/-- TREAD_NUMBER_LOADED: the wide pulse comes that a TREAD_LOAD, more than 16 treads old, or a beacon numbers
(R474). -/
def execTreadNumberLoaded (s : State) : Host.Outcome State Fault Refusal :=
  let set (s : State) (f src : Nat) : State :=
    { s with time.loaded := true, time.tread := f * 4096 % 2 ^ 64, time.source := src, time.load := none,
             time.beaconFor := none, clk := 0 }
  .next <| unfused s <| if s.time.loaded then s
    else match s.time.load, s.time.beaconFor with
      | some w, _ => if 16 < w.treads then set s w.flight 1 else s
      | none, some f => set s f 2
      | none, none => s

/-- The middle of a list of offsets: the mean of the two middle ones when their number is even. -/
def median (xs : List Int) : Int :=
  let ys := xs.mergeSort fun a b => decide (a ≤ b)
  let n := ys.length
  if n % 2 = 1 then ys.getD (n / 2) 0 else (ys.getD (n / 2 - 1) 0 + ys.getD (n / 2) 0) / 2

/-- Offsets of the beacons of UP links for which `p` holds. -/
def offsetsOf (s : State) (p : Beacon → Bool) : List Int :=
  (s.time.beacons.filter fun b => (linkOf s b.1).isUp && p b.2).map (·.2.offset)

/-- FLIGHT_BOUNDARY_TIME_CHECK: at a flight boundary OFFSET takes the median beacon offset; a whole tread of
difference is a mismatch; in holdover the treads are slewed towards peers locked and not in holdover (R475, R476). -/
def execFlightBoundaryTimeCheck (s : State) : Host.Outcome State Fault Refusal :=
  .next <| unfused s <| if !s.time.loaded || s.time.tread % 4096 != 0 then s
    else
      let xs := offsetsOf s (·.pulseOk)
      let m := median xs
      let s := if xs.isEmpty then s else
        let s := { s with time.offset := clampInt 32767 m }
        if 1000 ≤ m ∨ m ≤ -1000 then mismatch s else s
      let hs := offsetsOf s fun b => b.pulseOk && !b.holdover
      if s.time.holdover && !hs.isEmpty && s.time.relock.isNone then
        let h := median hs
        { s with time.slewPpm := if h = 0 then 0 else if 0 < h then -100 else 100 }
      else s

/-- TREAD_FALLING_EDGE: the pulse whose high time ends is classified (Table 19-12); a glitch's edge is taken back; a
wide pulse off a flight's first tread, or a narrow one on it, is a mismatch (R473, R578). A high time of 1,000 ns or
more stands for no falling edge before the next edge is due. -/
def execTreadFallingEdge (highNs : Nat) (s : State) : Host.Outcome State Fault Refusal :=
  .next <| unfused s <| match s.time.pulseTread with
    | none => s
    | some t =>
      let own := decide (t = s.time.tread)
      let s := { s with time.pulseTread := none }
      if highNs < 150 then
        widthErr (if own then { s with time.edgeSeen := false } else { s with time.edgeEarly := false })
      else
        let odd := highNs < 200 ∨ (300 < highNs ∧ highNs < 700) ∨ 800 < highNs
        let s := if odd then widthErr s else s
        if !s.time.loaded || decide (1000 ≤ highNs) then s
        else if (decide (500 ≤ highNs)) != (t % 4096 == 0) then mismatch s else s

/-- TREAD_ANCHOR_WRITE: a write of word 1, UTC_NS, through port 0 brings the new pair into force and is logged (R418,
R479, R559). -/
def execTreadAnchorWrite (port : Port) (value : W64) (s : State) : Host.Outcome State Fault Refusal :=
  .next <| unfused s <| if port.val ≠ 0 ∨ s.fuses.lc = .scrapped then s
    else
      let s := { s with time.anchorTread := s.time.anchorWord0, time.anchorUtc := value.toNat }
      let s := logEvent s 3 0xFFFF (leBytes 8 s.time.anchorTread ++ leBytes 8 s.time.anchorUtc)
      if s.life.cur.firstOnUtcS = 0 then
        { s with life.cur.firstOnUtcS := ((utcNow s).getD 0 - 1000 * s.time.ticks) / 1000000000 }
      else s

/-- The STATUS byte of a beacon (Table 12-16). -/
def beaconStatus (s : State) : Nat := b2n s.time.pulseOk + 2 * b2n s.time.holdover + 4 * b2n s.time.loaded

/-- BEACON_SEND: at the first tread of a flight every link in HELLO or UP sends a beacon (R407, Table 12-16). -/
def execBeaconSend (s : State) : Host.Outcome State Fault Refusal :=
  .next <| unfused s <| if s.time.tread % 4096 ≠ 0 then s
    else ((List.range 24).filter fun k => (linkOf s k).state == 2 || (linkOf s k).isUp).foldl (fun s k =>
      let body := leBytes 8 s.time.tread ++ leBytes 4 (s.clk * 1000 / freqMhz s.pw.now) ++ leBytes 1 (beaconStatus s) ++ [0, 0, 0]
      hwBump (setLink s k { linkOf s k with sentBeacon := some body }) (kLink k 0) 1) s

/-- BEACON: a beacon arrives on link `k`, `arrivalNs` on the module's rack time (R408, R474). A bad payload is dropped
as FOREIGN (R380). -/
def execBeacon (k : LinkIx) (payload : Bytes) (arrivalNs : Nat) (s : State) : Host.Outcome State Fault Refusal :=
  let l := linkOf s k
  .next <| unfused s <| if l.state ≠ 2 ∧ l.state ≠ 3 then s
    else if payload.length ≠ 16 ∨ !zeroAt payload 13 3 ∨ 7 < byteAt payload 12 then hwBump s (kLink k 8) 1
    else
      let tx := fld payload 0 8
      let st := byteAt payload 12
      let b : Beacon := { offset := (arrivalNs : Int) - (1000 * tx + fld payload 8 4 + 4 * l.delay : Nat),
                          pulseOk := bit st 0, holdover := bit st 1, loaded := bit st 2 }
      let s := hwBump { s with time.beacons := mset s.time.beacons k b } (kLink k 1) 1
      if !s.time.loaded && s.time.load.isNone && s.time.beaconFor.isNone && b.loaded && b.pulseOk then
        { s with time.beaconFor := some (tx / 4096 + 1) }
      else s

end Sys2Proof.Machine
end

