-- ==== Sys2Proof/Machine/I3cOps.lean ====
section
/-!
DEFINITION. The I3C target: registers, notifications, command codes (19 R581, R583 to R585, Tables 19-13, 19-14; 15 R474,
R489; 16 R518; 17 R538, Table 17-8).
-/
namespace Sys2Proof.Machine

/-- Sends an in-band interrupt, where the interface has an address and interrupts are enabled (R583, R585). -/
def sendIbi (s : State) (code : Nat) : State :=
  if s.i3c.ibiEn && s.i3c.dynAddr.isSome then { s with i3c.sent := s.i3c.sent ++ [code] } else s

/-- Notifies the tray controller; the notification stands until STATUS is read (R585). -/
def notify (s : State) (code : Nat) : State :=
  sendIbi (if s.i3c.notes.contains code then s else { s with i3c.notes := s.i3c.notes ++ [code] }) code

/-- An I3C message that the module answers: PWRGOOD is asserted (R581). -/
def withI3c (s : State) (act : State → State) : State := if s.sup.pwrgood then act s else s

/-- A write that changes nothing and is counted in I3C_ERR (R584). -/
def i3cRefuse (s : State) : State := fwBump s (kLife 14) 1

/-- A private write of a register of `size` bytes (R584). -/
def i3cWrite (s : State) (index size : Nat) (data : Bytes) (act : State → State) : State :=
  withI3c s fun s =>
    let s := { s with i3c.index := index }
    if data.length = size then act s else i3cRefuse s

/-- TREAD_LOAD: a flight number for a wide pulse to come (R474). -/
def execTreadLoad (data : Bytes) (s : State) : Host.Outcome State Fault Refusal :=
  .next <| unfused s (i3cWrite s 2 8 data fun s => loadFlight s (fld data 0 6))

/-- CAP: a rack cap in W with its sequence number (R489). -/
def execCap (data : Bytes) (s : State) : Host.Outcome State Fault Refusal :=
  .next <| unfused s (i3cWrite s 3 4 data fun s => capReceived s (fld data 0 2 % 4096) (fld data 2 2))

/-- REMOVE_PENDING is answered with REMOVE_OK in A2, whose entry has committed the lifetime record, and otherwise with
REMOVE_NOT_READY (R538, Table 19-14). -/
def answerRemove (s : State) : State :=
  if s.ps.state = 2 then notify { s with i3c.removeOk := true, i3c.removeNot := false } 1
  else notify { s with i3c.removeOk := false, i3c.removeNot := true } 2

/-- SLOT: the tray slot and the hot-swap state (R518, R538). -/
def execSlot (data : Bytes) (s : State) : Host.Outcome State Fault Refusal :=
  .next <| unfused s (i3cWrite s 4 1 data fun s =>
    let v := fld data 0 1
    let s := { s with st.slot := v % 4, st.slotValid := true, i3c.remove := bit v 2 }
    if bit v 2 then answerRemove s else { s with i3c.removeOk := false, i3c.removeNot := false })

/-- STATUS (Table 19-13). -/
def i3cStatus (s : State) : Bytes :=
  leBytes 4 (b2n s.tr.fwRunning + 2 * b2n s.time.loaded + 4 * s.ps.state + 16 * b2n s.i3c.removeOk + 32 * b2n s.i3c.removeNot +
    64 * b2n s.flt.newelWdog + 128 * b2n s.flt.warmReq + 256 * b2n s.flt.faulted + 512 * b2n s.pw.coolantStop +
    1024 * b2n s.st.slotValid + 65536 * s.pw.now)

/-- I3C_STATUS_READ: STATUS is returned, and no notification that came before it is repeated any more (R585). -/
def execI3cStatusRead (s : State) : Host.Outcome State Fault Refusal :=
  .next <| unfused s (withI3c s fun s => { s with i3c.index := 1, i3c.answer := i3cStatus s, i3c.notes := [] })

/-- I3C_NOTIFY_REPEAT: 10 ms without a read of STATUS (R585). -/
def execI3cNotifyRepeat (s : State) : Host.Outcome State Fault Refusal :=
  .next <| unfused s (withI3c s fun s => s.i3c.notes.foldl sendIbi s)

/-- Size of a register that may be written, by index (Table 19-13). -/
def i3cWritable (index : Nat) : Option Nat :=
  if index = 2 then some 8 else if index = 3 then some 4 else if index = 4 then some 1 else none

/-- I3C_WRITE_REFUSED: a write of a wrong length, or of a reserved or read-only index, is counted (R584). A write of the index
alone only selects a register for a read; a write that is none of these is another row's. -/
def execI3cWriteRefused (index : Nat) (data : Bytes) (s : State) : Host.Outcome State Fault Refusal :=
  .next <| unfused s (withI3c s fun s =>
    if data = [] ∧ index ≤ 6 then { s with i3c.index := index }
    else if i3cWritable index = some data.length then s
    else i3cRefuse s)

/-- I3C_CCC: address assignment, event enable and disable, and target reset, which resets the interface only (R583). -/
def execI3cCommand (c : I3cCcc) (s : State) : Host.Outcome State Fault Refusal :=
  let give (s : State) (a : Nat) : State :=
    if s.i3c.dynAddr.isNone ∧ a < 128 then { s with i3c.dynAddr := some a } else s
  .next <| unfused s (withI3c s fun s =>
    match c with
    | .entdaa a => give s a
    | .setdasa a => give s a
    | .enec => { s with i3c.ibiEn := true }
    | .disec => { s with i3c.ibiEn := false }
    | .rstact => { s with i3c.dynAddr := none, i3c.ibiEn := true, i3c.index := 0 })

end Sys2Proof.Machine
end

