-- ==== Sys2Proof/Machine/Pstates.lean ====
section
/-!
DEFINITION. Power states A0, A1, A2 (17 R527, R529, R530, Tables 17-2, 17-4, 17-5; 16 R511).
-/
namespace Sys2Proof.Machine

/-- Writes the record of a reset or of a change of power state (R527, Table 17-2). -/
def logReset (s : State) (code port cause : Nat) : State :=
  logEvent s 8 0xFFFF (leBytes 1 code ++ leBytes 1 port ++ leBytes 1 cause)

/-- A1_ENTRY: IDLE_TREADS consecutive idle treads have passed with AUTO_A1 set; counted, not logged (R527, R529). -/
def execA1Entry (s : State) : Host.Outcome State Fault Refusal :=
  .next <| unfused s <| if s.ps.autoA1 && s.ps.state == 0 && decide (s.ps.idleTreads ≤ s.ps.idle) then
      fwBump { s with ps.state := 1 } (kLife 13) 1
    else s

/-- A1_EXIT: work for the array has come (R529). -/
def execA1Exit (s : State) : Host.Outcome State Fault Refusal :=
  .next <| unfused s <| if s.ps.state = 1 then { s with ps.state := 0, ps.idle := 0 } else s

/-- What R530 asks for: no instance bound, no request open, no descriptor taken and not completed. -/
def quiet (s : State) : Bool :=
  s.insts.isEmpty && s.taken.isEmpty && s.admits.isEmpty && s.fwds.isEmpty && s.groups.all fun g => g.2.reqs.isEmpty

/-- A change of power state that GO asks for; in SCRAPPED nothing acts, and a coolant stop in force refuses it (Table 17-5,
R567). -/
def withGo (s : State) (target : Nat) (act : State → State) : State :=
  if s.fuses.lc = .scrapped then s
  else
    let s := { s with ps.target := target }
    if s.pw.coolantStop then { s with ps.result := 3 } else act s

/-- A2_ENTRY: page rebuilds end, the lifetime record is committed as a clean off, the control cores stop (R511, R530, Table
6-11); a removal that was asked for is now in order (R538). -/
def execA2Entry (s : State) : Host.Outcome State Fault Refusal :=
  .next <| unfused s (withGo s 2 fun s =>
    if s.ps.state = 2 then { s with ps.result := 0 }
    else if !quiet s then { s with ps.result := 1 }
    else
      let s := commitLife (settleRebuilds s) true
      let s := logReset { s with ps.state := 2, ps.result := 0, ps.idle := 0 } 0x12 0xFF 0
      if s.i3c.remove then answerRemove s else s)

/-- A2_EXIT: GO with TARGET 0 returns to A0 (R530). -/
def execA2Exit (s : State) : Host.Outcome State Fault Refusal :=
  .next <| unfused s (withGo s 0 fun s =>
    let t := { s with ps.state := 0, ps.result := 0, ps.idle := 0 }
    if s.ps.state = 2 then logReset t 0x13 0xFF 0 else t)

end Sys2Proof.Machine
end

