-- ==== Sys2Proof/Machine/Resets.lean ====
section
/-!
DEFINITION. Power, boot and the resets (17 R526 to R536, R599, Tables 17-1 to 17-3, 17-6, 17-7; 19 R572, R573, R580, R582,
R586, R587; 14 R449; 16 R512; 15 R598; 13 R417, Table 13-21).
-/
namespace Sys2Proof.Machine

/-! ### Supply (R572, R573, R587) -/

/-- The count of forced actions, which no reset clears (R366). -/
def forcedCount (s : State) : AMap Nat :=
  match mget s.fwc (kSync 10) with
  | none => []
  | some n => [(kSync 10, n)]

/-- The module with its converter off: fuses, the record store, the count of forced actions and what partners have received
stay, and nothing else (R366, R573). -/
def poweredOff (s : State) (cause : OffCause) (fell : Bool) : State :=
  { State.reset with
    fuses := s.fuses, store := s.store, fwc := forcedCount s, pmem := s.pmem, pmemBad := s.pmemBad, msix := s.msix, fv := s.fv, pending := s.pending,
    sup := { s.sup with on := false, pwrgood := false, off := cause, inputFell := fell, perst := true, coldBoot := true,
                        booted := false } }

/-- The lifetime record at a cold power-on: the record in force is that of the store, with one more cold boot, and one more
unclean off when CLEAN_OFF is clear (R512). A store that holds none has nothing to count against. -/
def bootLife (s : State) : LifeRec :=
  let r := s.store.life
  { r with coldBoots := r.coldBoots + 1,
           uncleanOffs := r.uncleanOffs + b2n (!r.cleanOff && decide (0 < s.store.lifeWrites)) }

/-- The hardware causes whose inputs or sensors stand asserted act as assertions (R598). -/
def standingCauses (s : State) : State :=
  let s := if s.sup.brakePin then brakeOn s else s
  let s := if s.sup.coolantFail then coolantStopNow s else s
  if 105 ≤ s.sup.dieC ∨ 100 ≤ s.sup.hbmC then tripNow s else s

/-- A cold power-on: PWRGOOD is asserted while the tray holds PERST_N (R527, R572, Table 17-7). -/
def powerOn (s : State) : State :=
  let s := poweredOff s .none false
  let s := { s with sup.on := true, sup.pwrgood := true, life.cur := bootLife s }
  standingCauses (logEvent s 7 0xFFFF [])

/-- COLD_POWER_ON: the input reaches the rising threshold. After an overvoltage or thermal shut-off the input must have fallen
below the lockout first (R572, R573, R587). -/
def execColdPowerOn (s : State) : Host.Outcome State Fault Refusal :=
  .next <| unfused s <| if s.sup.on then s
    else if (s.sup.off = .overvoltage ∨ s.sup.off = .thermal) ∧ !s.sup.inputFell then s
    else powerOn s

/-- INPUT_UNDERVOLTAGE_LOCKOUT: the module goes off, with nothing recorded; a module that is off has seen its input fall
(R573, R587). -/
def execInputUndervoltageLockout (s : State) : Host.Outcome State Fault Refusal :=
  .next <| unfused s <| if s.sup.on then poweredOff s .undervoltage true else { s with sup.inputFell := true }

/-- INPUT_OVERVOLTAGE_SHUTOFF (R573). -/
def execInputOvervoltageShutoff (s : State) : Host.Outcome State Fault Refusal :=
  .next <| unfused s <| if s.sup.on then poweredOff s .overvoltage false else s

/-- INPUT_OVERVOLTAGE_RECOVERY: the input is back at 60.0 V or below without having fallen through the lockout (R573). -/
def execInputOvervoltageRecovery (s : State) : Host.Outcome State Fault Refusal :=
  .next <| unfused s <| if !s.sup.on ∧ s.sup.off = .overvoltage then powerOn s else s

/-- THERMAL_SHUTOFF at the shut-off threshold, in hardware (R586, R587, Table 19-9). -/
def execThermalShutoff (dieC hbmC : Int) (s : State) : Host.Outcome State Fault Refusal :=
  let s := { s with sup.dieC := dieC, sup.hbmC := hbmC }
  .next <| unfused s <| if s.sup.on ∧ (120 ≤ dieC ∨ 110 ≤ hbmC) then poweredOff s .thermal false else s

/-! ### Warm reset (R532, R533, R599, Table 17-6) -/

/-- Every MOVE in progress is settled: a FREE is completed, a RELOCATE not committed is abandoned (R599). -/
def settleMoves (s : State) : State :=
  s.mem.moving.foldl (fun s m =>
    match dirGet s m.1 with
    | none => s
    | some e =>
      if m.2.kind = 5 then objZero s m.2.dest
      else if m.2.kind = 4 then dirDel (objZero s { e with moving := false }) m.1 else dirSet s m.1 { e with moving := false })
    { s with mem.moving := [], mem.staging := [], mem.partner := [] }

/-- Every sealed context ends: its homes here are filled with zeros and freed, its harnesses, overlays, package records, key
slots and EK are gone (R533). -/
def clearSealed (s : State) : State :=
  let cs := (s.ctxs.filter (·.2.isSealed)).map (·.1)
  let mine := s.mem.dir.filter fun d => cs.contains d.2.ctx && d.2.modIx == s.net.index
  let s := mine.foldl (fun s d => dirDel (objZero s d.2) d.1) s
  { s with ctxs := mkeep s.ctxs fun c _ => !cs.contains c, harn := mkeep s.harn fun _ h => !cs.contains h.ctx,
           overs := mkeep s.overs fun _ o => !cs.contains o.ctx, pkgs := mkeep s.pkgs fun _ p => !cs.contains p.ctx }

/-- T1, its poison and every configuration reserve are cleared (R528, Table 17-6). -/
def clearArray (s : State) : State :=
  let out (a : Nat) : Bool := decide (a % 2 ^ 23 < reserveOff)
  { s with mem.t1 := [], mem.poison1 := [], mem.bad1 := [], mem.sramBad := mkeep s.mem.sramBad fun w _ => decide (sramKey ≤ w),
           mem.sramPoison := s.mem.sramPoison.filter fun w => decide (sramKey ≤ w), mem.t2 := s.mem.t2.filter fun c => out c.1,
           mem.poison2 := s.mem.poison2.filter fun w => out (8 * w), mem.bad2 := mkeep s.mem.bad2 fun w _ => out (8 * w),
           tiles := mmap s.tiles fun _ x => { TileSt.empty with seq := x.seq }, streams := [], movers := [] }

/-- The module's own requests for its cap point, which a warm reset keeps with the cap; the module has no slice index then
(Table 17-6; notes/assumptions/63.md). -/
def capRequests (index : Nat) (fs : List Floor) : List Floor :=
  (fs.filter fun f => f.member == index && f.subject == index && (f.cause == 1 || f.cause == 2)).map fun f =>
    { f with member := Net.reset.index, subject := Net.reset.index }

/-- What a warm reset leaves of operating points and caps: the cap in force, the power settings, the energy and the hardware
causes; requests of the slice and firmware's other causes go (Table 17-6). -/
def warmPower (index : Nat) (p : Power) : Power :=
  { Power.reset with
    floors := capRequests index p.floors, pending := capRequests index p.pending, seq := p.seq,
    now := p.now, volt := p.volt, sliceOp := p.sliceOp, supplyMv := p.supplyMv, rampTo := p.rampTo, capW := p.capW,
    capOp := p.capOp, capSeq := p.capSeq, capRx := p.capRx, capRecent := p.capRecent, capDeadlines := p.capDeadlines,
    failsafe := p.failsafe, brake := p.brake, coolantStop := p.coolantStop, tripOn := p.tripOn, thermal := p.tripOn,
    pwrLimit := p.pwrLimit, windowS := p.windowS, floorLead := p.floorLead, rampEn := p.rampEn, rampDown := p.rampDown,
    rampUp := p.rampUp, ballastEn := p.ballastEn, burnW := p.burnW, envelope := p.envelope, drawW := p.drawW,
    energyUj := p.energyUj, flightEnergy := p.flightEnergy }

/-- The state that a warm reset leaves, its MOVEs settled and its sealed contexts ended (Table 17-6, R531). -/
def warmState (s : State) : State :=
  { State.reset with
    fuses := s.fuses, store := s.store, time := s.time, life := s.life, pw := warmPower s.net.index s.pw, split := s.split,
    sup := { s.sup with perst := true, coldBoot := false, booted := false },
    st := { s.st with running := false, ctlBusy := false, ctlQueued := false },
    tr := { Trust.reset with t3Key := s.tr.t3Key, challenge := s.tr.challenge }, mb := s.mb,
    ctxs := mmap s.ctxs fun _ c => { c with t2Alloc := 0, t3Alloc := 0, vids := [] },
    mem := { s.mem with buckets2 := [], buckets3 := [], rebuilds := [], dir := mmap s.mem.dir fun _ e => { e with bound := 0 } },
    pkgs := s.pkgs, harn := s.harn, overs := s.overs, takes := s.takes, msix := s.msix, pmem := s.pmem, pmemBad := s.pmemBad, sf := s.sf, i3c := s.i3c,
    flt := { Faults.reset with lastReset := 1, newelWdog := s.flt.newelWdog, secondFault := s.flt.secondFault,
                               cause := s.flt.cause, stopTread := s.flt.stopTread },
    dbg := { s.dbg with scanBusy := false, scanResult := if s.dbg.scanBusy then 6 else s.dbg.scanResult },
    fwc := forcedCount s, evPend := s.evPend, clk := s.clk, fv := s.fv, pending := s.pending }

/-- WARM_RESET: PERST_N is held for at least 100 µs while PWRGOOD stays asserted. The ROM's settling of MOVEs and of sealed
contexts is part of it (R533, R599; notes/assumptions/31.md). -/
def execWarmReset (s : State) : Host.Outcome State Fault Refusal :=
  .next <| unfused s <| if s.sup.pwrgood then
      logReset (warmState (clearArray (endContexts (clearSealed (settleMoves (settleRebuilds s)))))) 1 0xFF 1
    else s

/-! ### Boot (R417, R449, R580, R598) -/

/-- PERST_DEASSERT_BOOT: the split is sampled, and the ROM boots up to where it accepts FW_LOAD; in SCRAPPED it goes no
further (R417, R449). At a cold boot the T3 key is generated (R190); after a warm reset the inputs and sensors are taken
again (R598). -/
def execPerstDeassertBoot (s : State) : Host.Outcome State Fault Refusal :=
  .next <| unfused s <| if !s.sup.pwrgood ∨ !s.sup.perst then s
    else
      let cold := s.sup.coldBoot
      let s := { s with sup.perst := false, sup.coldBoot := false }
      if s.fuses.lc = .scrapped then s
      else
        let s := { s with splitOn := s.split, sup.booted := true }
        let s := [0, 1, 2, 3].foldl (fun s p => setPort s p { portOf s p with present := portLanes s p != 0 }) s
        if cold then
          let y := useFree s
          { y.2 with tr.t3Key := some (BitVec.ofNat 256 y.1) }
        else standingCauses { s with pw.brake := false, pw.tripOn := false, pw.coolantStop := false, pw.thermal := false }

/-- T2_INIT_COMPLETE: T2 and module-owned T3 are initialised after FW_LOAD has passed (Table 17-7 step 5). -/
def execT2InitComplete (s : State) : Host.Outcome State Fault Refusal :=
  .next <| unfused s <| if s.tr.fwRunning ∧ !s.mem.t2Ready then { s with mem.t2Ready := true } else s

/-- The words of T3 that rest in failed stacks (R188, Table 18-9). -/
def failedWords (s : State) (failed : List (Fin 24)) : List Nat :=
  (List.range (t3Bytes s / 8)).filter fun w => failed.any fun k => decide (unitOf 2 (8 * w) / 64 = k.val)

/-- T3_INIT_COMPLETE: initialisation of T3 has reached its end; READY is set when every stack passed, and the lines of a stack
that failed are poisoned (R536, Tables 17-7, 18-9). -/
def execT3InitComplete (failed : List (Fin 24)) (s : State) : Host.Outcome State Fault Refusal :=
  .next <| unfused s <| if s.tr.fwRunning ∧ s.mem.t2Ready ∧ !s.mem.t3Ready ∧ s.mem.initGib = 0 then
      let bad := failed.eraseDups
      let s := { s with mem.stacksOk := 24 - bad.length, mem.t3Ready := bad.isEmpty, mem.initGib := t3Gib s }
      if bad.isEmpty then s else { s with mem.poison3 := (failedWords s bad).foldl addWord s.mem.poison3 }
    else s

/-! ### Port reset and function-level reset (Tables 13-21, 17-6) -/

/-- The live requests of a local lead that port `p` of this module has lost: they end at the next step end, or at once where no
step runs (Table 13-21). -/
def loseLocal (s : State) (p : Nat) (k : Nat) : State :=
  match mget s.groups k with
  | none => s
  | some g =>
    if g.lead ≠ s.net.index then s
    else
      let mine (r : Nat) (q : Req) : Bool :=
        q.live && q.admitter == s.net.index && (mget s.admits (admitKey g.ctx (g.rid r))).any (·.port == p)
      let g := { g with reqs := mmap g.reqs fun r q => if mine r q then { q with lost := true } else q }
      let now := mkeys g.reqs fun r q => mine r q && !stepRuns s q
      endNow (setGroup s g) g now

/-- The requests admitted here whose lead is another member: it is sent a REQ_CANCEL (R179, Table 13-21). -/
def loseFar (s : State) (p : Nat) : State :=
  (s.admits.filter fun a => a.2.port == p).foldl (fun s a =>
    let ctx := a.1 / 2 ^ 32
    match groupOfRid s ctx (a.1 % 2 ^ 32) with
    | some (g, _) =>
      if g.lead = s.net.index then s
      else sendCtrl s g.lead ctx .firmware ([3] ++ leBytes 1 p ++ leBytes 1 a.2.qp ++ leBytes 61 0 ++
        padTo 64 ([0x32] ++ leBytes 7 0 ++ leBytes 4 (a.1 % 2 ^ 32)))
    | none => s) s

/-- What a reset of a port takes: requests opened through it end, completions owed to it are dropped, its grants are revoked,
its queue pairs and `PORT_CFG` are reset (Table 17-6). SPLIT is kept. -/
def resetPort (s : State) (p : Nat) (po : PortSt) : State :=
  let s := loseFar ((s.groups.map (·.1)).foldl (fun s k => loseLocal s p k) s) p
  let s := { s with qps := mmap s.qps fun k q => if k / 64 = p then { QpSt.reset with enable := q.enable + 1 } else q,
                    qpOwner := mkeep s.qpOwner fun k _ => k / 64 != p, winOwn := mkeep s.winOwn fun k _ => k / 16 != p }
  endContexts (setPort s p po)

/-- The port of a CXL.mem access that waits. -/
def Wait.port? : Wait → Option Nat
  | .cxlRead p _ _ _ => some p
  | .cxlWrite p _ _ _ => some p
  | .biWrite p _ _ _ => some p
  | _ => none

/-- Logs a reset of a port, with LAST of `RESET_CTL` (R527, Tables 17-2, 17-3). -/
def portLogged (s : State) (code p cause : Nat) : State := logReset { s with flt.lastReset := code } code p cause

/-- PORT_RESET: a hot reset, a link disable, or the loss of the port's link (R526). -/
def execPortReset (port : Port) (cause : PortResetCause) (s : State) : Host.Outcome State Fault Refusal :=
  .next <| unfused s <| if !s.sup.booted ∨ !(portOf s port).present then s
    else
      let s := resetPort s port { PortSt.reset with present := true }
      let s := { s with hdm := mkeep s.hdm fun k _ => k / 16 != port.val, waits := mkeep s.waits fun _ w => w.port? != some port.val }
      portLogged s 2 port (match cause with | .linkLoss => 2 | _ => 0)

/-- FUNCTION_LEVEL_RESET: as a port reset, but the HDM decoders and the link are kept (R526, Table 17-6). -/
def execFunctionLevelReset (port : Port) (s : State) : Host.Outcome State Fault Refusal :=
  .next <| unfused s <| if !s.sup.booted ∨ !(portOf s port).present then s
    else
      let po := portOf s port
      portLogged (resetPort s port { PortSt.reset with present := true, up := po.up, width := po.width, speed := po.speed }) 3 port 0

/-! ### Array reset (R528) -/

/-- The descriptors that act on a discarded instance: a switch ends, a bound unbind completes, its step's work goes. -/
def discardInst (s : State) (k : Nat) : State :=
  match mget s.insts k with
  | none => s
  | some i =>
    let s := abandonStep (abandonSwitch s k eCancelled) k none
    let s := match i.unbind with
      | some u => complete s u.desc stOk (bindResult0 k i.first) (bindResult1 (baySum s i 0 - u.stale) (baySum s i 1 - u.discard))
      | none => s
    removeInst s k false

/-- The saves and restores of contexts whose instances are discarded end; their save areas stay as they were (R161, Table
17-11). -/
def dropPreempt (s : State) : State :=
  let s := s.rests.foldl (fun s r => abandonRestore s r.1 r.2) s
  s.saves.foldl (fun s v => finish { s with saves := merase s.saves v.1 } v.1 eCancelled) s

/-- An array reset: every instance is discarded, T1 and the reserves are cleared, a scan command is abandoned, and the slices of
the instances stop (R528, R543, Table 18-15). -/
def resetArray (s : State) : State :=
  let had := !s.insts.isEmpty
  let was := s.flt.sliceStopped
  let earlier := s.net.recovery.getD 0
  let s := (s.insts.map (·.1)).foldl discardInst (dropPreempt s)
  let s := clearArray { s with insts := [], groups := mmap s.groups fun _ g => { g with plan := none, run := none, release := none } }
  let s := s.groups.foldl (fun s g => if g.2.reqs.isEmpty then dropGroup s g.2 else s) s
  let s := { s with dbg.scanBusy := false, dbg.scanResult := if s.dbg.scanBusy then 6 else s.dbg.scanResult, flt.lastReset := 4 }
  let s := logReset s 4 0xFF 0
  if !had then s
  else if was then faultRecord (unstop s) 3 s.net.index earlier
  else if firstSurvivor s = some s.net.index then decideStop s 3 s.net.index earlier
  else takeStop s 3 s.net.index s.time.tread earlier

/-- ARRAY_RESET: ARRAY of `RESET_CTL`, written through port 0 (R526, R528, R567). -/
def execArrayReset (port : Port) (s : State) : Host.Outcome State Fault Refusal :=
  .next <| unfused s <| if port.val ≠ 0 ∨ !s.sup.booted ∨ s.fuses.lc = .scrapped then s else resetArray s

end Sys2Proof.Machine
end

