-- ==== Sys2Proof/Machine/Newel.lean ====
section
/-!
DEFINITION. Newel's watchdog and restart, control-core heartbeats, FAULTED (17 R553 to R556, Tables 17-11, 17-14; 15 R492).
-/
namespace Sys2Proof.Machine

/-- The tray is told that only a warm reset helps (R554, R555). -/
def warmRequest (s : State) : State := notify { s with flt.warmReq := true } 4

/-- NEWEL_WATCHDOG_EXPIRY: OP0 and FAILSAFE by hardware, NEWEL_WDOG, and Newel restarts in its ROM; a second expiry within a
flight of the restart sends WARM_REQ and holds OP0 (R553, R554). -/
def execNewelWatchdogExpiry (s : State) : Host.Outcome State Fault Refusal :=
  .next <| unfused s <| if !s.tr.fwRunning then s
    else
      let soon := s.flt.restarted.any fun t => decide (s.time.ticks ≤ t + 4096)
      let earlier := s.net.recovery.getD 0
      let s := noteW1c s 4 true
      let s := hwBump { s with flt.newelWdog := true, flt.restarting := true, flt.restarted := some s.time.ticks,
                               flt.holdOp0 := s.flt.holdOp0 || soon, pw.failsafe := true } (kPow 3) (b2n !s.pw.failsafe)
      let s := faultRecord (fwBump (notify (settlePoint s) 3) (kLife 10) 1) 4 s.net.index earlier
      if soon then warmRequest s else s

/-- NEWEL_RESTART_DONE: the copy in control SRAM matches NEWEL_DIGEST and Newel resumes, with its request for OP0; or it does
not, and the module holds OP0 and sends WARM_REQ (R492, R554). -/
def execNewelRestartDone (copyOk : Bool) (s : State) : Host.Outcome State Fault Refusal :=
  .next <| unfused s <| if !s.flt.restarting then s
    else if copyOk then requestOwn { s with flt.restarting := false, flt.restarted := some s.time.ticks }
    else warmRequest (settlePoint { s with flt.holdOp0 := true })

/-- Takes a link DOWN with cause 4, unless it is disabled (R555). -/
def faultLink (s : State) (k : Nat) : State :=
  let l := linkOf s k
  if l.isUp then goDown s k 4
  else if l.state = 0 then s
  else setLink s k { l.cleared k with state := 4, cause := 4, downAt := s.time.tread }

/-- The module enters FAULTED: the queue pairs are disabled, descriptors taken receive no completion, the module's instances
stop, the links go DOWN, the tray is told (R436, R543, R555). -/
def enterFaulted (s : State) (code : Nat) : State :=
  if !s.tr.fwRunning ∨ s.flt.faulted then s
  else
    let earlier := s.net.recovery.getD 0
    let s := { s with qps := mmap s.qps fun _ q => { q with en := false }, taken := [], graphs := [], fwds := [] }
    let s := stopInsts { s with net.recovery := some (s.net.recovery.getD s.time.tread), net.stopTread := none, net.stopRx := none }
    let s := faultRecord { s with flt.faulted := true, flt.sliceStopped := !s.insts.isEmpty } code s.net.index earlier
    let s := fwBump s (kLife 11) (b2n !s.insts.isEmpty)
    warmRequest ((List.range 24).foldl faultLink s)

/-- HEARTBEAT_MISSED: a control core sent no heartbeat for 16 treads (R555). -/
def execHeartbeatMissed (_core : Fin 32) (s : State) : Host.Outcome State Fault Refusal :=
  .next <| unfused s (enterFaulted s 5)

/-- A word of the control SRAM, of its 2^20, cannot be corrected and is poisoned at once (R208, Table 6-1); which one is free. -/
def poisonSram (s : State) : State :=
  { s with fv := s.fv + 1, mem.sramPoison := addWord s.mem.sramPoison (sramKey + freeValue s.fv % 2 ^ 20) }

/-- FIRMWARE_POISON: a poisoned firmware structure of Table 6-4 is met (R555). -/
def execFirmwarePoison (s : State) : Host.Outcome State Fault Refusal :=
  .next <| unfused s (if !s.tr.fwRunning ∨ s.flt.faulted then s else enterFaulted (poisonSram s) 6)

end Sys2Proof.Machine
end

