-- ==== Sys2Proof/Machine/SelfTests.lean ====
section
/-!
DEFINITION. In-field self-test slices and the full test engine (16 R517 to R524, Tables 16-9, 16-11 to 16-15).
-/
namespace Sys2Proof.Machine

/-! ### Results (R521) -/

/-- The verdict on one unit: 0 PASS, 1 MARGINAL, 2 FAIL, 3 SKIPPED (R519, R521). -/
def verdictOf (r : UnitResult) : Nat :=
  if r.absent then 3
  else if 0 < r.errors ∨ r.margin.any (decide <| · < 3) then 2
  else if r.margin.any (decide <| · ≤ 7) then 1 else 0

/-- Adds a record to the self-test result log, whose ring of 32,768 loses its oldest sector of 128 (R521). -/
def pushResult (log : List ResultRec) (r : ResultRec) : List ResultRec :=
  if 32768 ≤ log.length then r :: log.take (32768 - 128) else r :: log

/-- Reports one unit: counted, logged unless it passed, flagged (R521, Table 16-13). -/
def reportUnit (program tread : Nat) (s : State) (r : UnitResult) : State :=
  let v := verdictOf r
  let s := fwBump s (kLife (if v = 0 then 5 else if v = 1 then 6 else if v = 2 then 7 else 8)) 1
  let s := noteW1c (noteW1c { s with st.fail := s.st.fail || v == 2, st.marginal := s.st.marginal || v == 1 } 2 (v == 2)) 3 (v == 1)
  if v = 0 ∨ !storeOpen s then s
  else
    let x : ResultRec := { tread := tread, target := r.target, verdict := v, program := program, unit := r.unit,
                           address := r.address, bit := r.bit, margin := r.margin.getD 0, errors := min r.errors (2 ^ 32 - 1) }
    { s with store.resultLog := pushResult s.store.resultLog x }

/-! ### In-field slices (R517 to R520) -/

/-- True at the start tread of a slice (R518). -/
def sliceDue (s : State) : Bool :=
  s.st.slotValid && s.time.loaded && s.tr.fwRunning && (s.fuses.lc == .provisioned || s.fuses.lc == .deployed) &&
    decide (0 < s.st.period) && flight s % s.st.period == 0 && s.time.tread % 4096 == 1024 * s.st.slot + 256

/-- True where a slice is deferred (R519). -/
def sliceDeferred (s : State) : Bool :=
  s.ps.state == 2 || s.pw.coolantStop || s.pw.brake || s.pw.tripOn || s.pw.failsafe || !s.st.en

/-- SELFTEST_SLICE_START: at its start tread the next slice runs, or is deferred and the program does not advance. -/
def execSelftestSliceStart (s : State) : Host.Outcome State Fault Refusal :=
  .next <| unfused s <| if !sliceDue s ∨ s.st.running then s
    else if sliceDeferred s then fwBump s (kLife 3) 1
    else fwBump { s with st.running := true, st.sliceTread := s.time.tread } (kLife 2) 1

/-- The port whose lanes 4k to 4k + 3 a host slice tests, under the split in force (Table 16-9). -/
def lanePort (s : State) (k : Nat) : Nat := if s.splitOn = 0 then 0 else if s.splitOn = 1 then k / 2 else k

/-- The target and, for a link or port, the unit of slice `n`; absent where it is not UP or not trained (R519, Table 16-9). -/
def sliceTarget (s : State) (n : Nat) : Nat × Option Nat × Bool :=
  if n < 24 then (1, some n, !(linkOf s n).isUp)
  else if n < 28 then (4, some (lanePort s (n - 24)), !(portOf s (lanePort s (n - 24))).up)
  else if n < 108 then (2, none, false) else (3, none, false)

/-- True where a result is one of slice `n` (Table 16-9). -/
def inSlice (s : State) (n : Nat) (r : UnitResult) : Bool :=
  let t := sliceTarget s n
  r.target == t.1 &&
    if n < 28 then some r.unit == t.2.1
    else if n < 108 then decide (r.unit < 2048) && r.address / 4 == n - 28
    else r.unit % 64 == (n - 108) % 32 && r.unit / 64 / 8 == (n - 108) / 32

/-- Pads that a pad slice leaves untested: those of the group with no repair, beyond the spare pads that no repair holds
(R520). -/
def padsUntested (s : State) (g : Nat) : Nat :=
  let reps := (s.store.repairMap ++ s.mem.soft).filter (·.kind == 2)
  (((reps.map (·.unit)).eraseDups).map fun t =>
    let mine := reps.filter (·.unit == t)
    let left := 4 - (mine.filter fun r => r.address / 4 == g).length
    left - min left (4 - mine.length)).sum

/-- SELFTEST_SLICE_END: the results of the slice are reported and the program advances; a queued program starts (R517, R519,
R521, Table 16-16). -/
def execSelftestSliceEnd (results : List UnitResult) (s : State) : Host.Outcome State Fault Refusal :=
  .next <| unfused s <| if !s.st.running ∨ (s.st.ctlBusy ∧ !s.st.ctlQueued) then s
    else
      let n := s.st.nextSlice
      let t := sliceTarget s n
      let skip : UnitResult := { target := t.1, unit := t.2.1.getD 0, address := 0, bit := 0, margin := none, errors := 0, absent := true }
      let rs := if t.2.2 then [skip] else results.filter (inSlice s n)
      let s := rs.foldl (reportUnit 1 s.st.sliceTread) s
      let s := fwBump s (kLife 4) (b2n (decide (s.st.sliceTread + 200 < s.time.tread)))
      let s := if 28 ≤ n ∧ n < 108 then fwBump s (kLife 9) (padsUntested s (n - 28)) else s
      { s with st.running := s.st.ctlQueued, st.ctlQueued := false,
               st.sliceTread := if s.st.ctlQueued then s.time.tread else s.st.sliceTread, st.nextSlice := (n + 1) % 204,
               st.passes := if n = 203 then satAdd (2 ^ 32 - 1) s.st.passes 1 else s.st.passes }

/-- SELFTEST_CFG_WRITE: EN and PERIOD; a PERIOD of 0 is ignored, and a change is logged (Table 16-12). DETAIL of that record is
not stated: a free value. -/
def execSelftestCfgWrite (value : W64) (s : State) : Host.Outcome State Fault Refusal :=
  let v := value.toNat
  let en := bit v 0
  let period := if bits v 31 16 = 0 then s.st.period else bits v 31 16
  .next <| unfused s <| if s.fuses.lc = .scrapped ∨ (en = s.st.en ∧ period = s.st.period) then s
    else
      let y := useFree { s with st.en := en, st.period := period }
      logEvent y.2 5 0xFFFF (leBytes 16 y.1)

/-! ### The full test engine (R523, R524) -/

/-- Units of a kind that a UNIT field selects; 0x7FF selects every one (Table 16-15). -/
def unitsOf (unit n : Nat) : List Nat := if unit = 0x7FF then List.range n else if unit < n then [unit] else []

/-- GO of `SELFTEST_CTL`: refused by life-cycle state, or with a queue pair enabled for a destructive program; otherwise the
program starts, or waits for the end of an in-field slice (R523, R524, Tables 16-14 to 16-16). -/
def startProgram (s : State) (program unit : Nat) (effect : State → State) : State :=
  if s.fuses.lc = .scrapped ∨ s.st.ctlBusy ∨ !s.sup.booted then s
  else
    let s := { s with st.ctlProgram := program, st.ctlUnit := unit % 2048 }
    if s.fuses.lc = .provisioned ∨ s.fuses.lc = .deployed then { s with st.ctlResult := 2 }
    else if program ≠ 1 ∧ !allQpsOff s then { s with st.ctlResult := 3 }
    else if s.pw.coolantStop ∨ s.pw.brake then { s with st.ctlResult := 5 }
    else effect { s with st.ctlBusy := true, st.ctlQueued := s.st.running, st.running := true, st.ctlResult := 0,
                         st.sliceTread := if s.st.running then s.st.sliceTread else s.time.tread }

/-- IN_FIELD_PASS: one pass at once (Table 16-14). -/
def execInFieldPass (unit : Nat) (s : State) : Host.Outcome State Fault Refusal := .next <| unfused s (startProgram s 1 unit id)

/-- Fills T2 of a slice with zeros. -/
def zeroSlice (s : State) (t : Nat) : State :=
  let s := zeroTier s 1 (t * 2 ^ 23) (2 ^ 23)
  { s with mem.check2 := mkeep s.mem.check2 fun k _ => k / 2 / 4096 != t, mem.skew2 := s.mem.skew2.filter fun p => p / 4096 != t }

/-- T2_MARCH: the contents of the selected slices are gone; they are left filled with zeros (R524). -/
def execT2March (unit : Nat) (s : State) : Host.Outcome State Fault Refusal :=
  .next <| unfused s (startProgram s 0x10 unit fun s => (unitsOf (unit % 2048) 2048).foldl zeroSlice s)

/-- Fills a stack of T3 with zeros. -/
def zeroStack (s : State) (k : Nat) : State :=
  let out (a : Nat) : Bool := unitOf 2 a / 64 != k
  { s with mem.t3 := s.mem.t3.filter fun c => out c.1, mem.poison3 := s.mem.poison3.filter fun w => out (8 * w),
           mem.bad3 := mkeep s.mem.bad3 fun w _ => out (8 * w),
           mem.check3 := mkeep s.mem.check3 fun p _ => p / 2 / 2 ^ 20 / 64 != k,
           mem.skew3 := s.mem.skew3.filter fun p => p / 2 ^ 20 / 64 != k }

/-- T3_MARCH: the contents of the selected stacks are gone; they are left filled with zeros (R524). -/
def execT3March (unit : Nat) (s : State) : Host.Outcome State Fault Refusal :=
  .next <| unfused s (startProgram s 0x11 unit fun s => (unitsOf (unit % 2048) 24).foldl zeroStack s)

/-- PAD_SWEEP: T2 traffic stops while it runs (Table 16-14). -/
def execPadSweep (unit : Nat) (s : State) : Host.Outcome State Fault Refusal := .next <| unfused s (startProgram s 0x12 unit id)

/-- A link leaves UP for a loopback and is left to train again (R524, Table 12-9). -/
def loopLink (s : State) (k : Nat) : State :=
  let s := goDown s k 1
  if (linkOf s k).state = 0 then s else setLink s k { (linkOf s k).cleared k with state := 1 }

/-- LINK_LOOPBACK: the selected links leave UP (Table 16-14). -/
def execLinkLoopback (unit : Nat) (s : State) : Host.Outcome State Fault Refusal :=
  .next <| unfused s (startProgram s 0x13 unit fun s => (unitsOf (unit % 2048) 24).foldl loopLink s)

/-- A port's link goes down for a loopback: as the loss of its link (R526). -/
def loopPort (s : State) (p : Nat) : State :=
  if !(portOf s p).present then s
  else
    let s := resetPort s p { PortSt.reset with present := true }
    portLogged { s with hdm := mkeep s.hdm fun k _ => k / 16 != p, waits := mkeep s.waits fun _ w => w.port? != some p } 2 p 2

/-- HOST_LOOPBACK: the selected port's link goes down (Table 16-14). -/
def execHostLoopback (unit : Nat) (s : State) : Host.Outcome State Fault Refusal :=
  .next <| unfused s (startProgram s 0x14 unit fun s => (unitsOf (unit % 2048) 4).foldl loopPort s)

/-- T1, registers and queues of a tile are gone. -/
def zeroTile (s : State) (t : Nat) : State :=
  setTile (zeroTier s 0 (t * 2 ^ 19) (2 ^ 19)) t { tileOf s t with core := .empty }

/-- TILE_BIST: T1, registers and queues of the selected tiles are gone; T1 is left filled with zeros (R524). -/
def execTileBist (unit : Nat) (s : State) : Host.Outcome State Fault Refusal :=
  .next <| unfused s (startProgram s 0x15 unit fun s => (unitsOf (unit % 2048) 2048).foldl zeroTile s)

/-- SELFTEST_PROGRAM_DONE: the program's results are reported with its number; RESULT is 1 when a failure was logged (R524,
Table 16-15). -/
def execSelftestProgramDone (results : List UnitResult) (s : State) : Host.Outcome State Fault Refusal :=
  .next <| unfused s <| if !s.st.ctlBusy ∨ s.st.ctlQueued then s
    else
      let p := s.st.ctlProgram
      let s := results.foldl (reportUnit p s.st.sliceTread) s
      { s with st.ctlBusy := false, st.running := false, st.ctlResult := b2n (results.any fun r => verdictOf r == 2),
               st.passes := if p = 1 then satAdd (2 ^ 32 - 1) s.st.passes 1 else s.st.passes }

end Sys2Proof.Machine
end

