-- ==== Sys2Proof/Machine/Scan.lean ====
section
/-!
DEFINITION. `SCAN_CTL` and queue-depth sampling (03 R122 to R128, Tables 3-11, 3-12; 18 R565, R566, Tables 18-11, 18-12,
18-14).
-/
namespace Sys2Proof.Machine

/-! ### SCAN_CTL (R566) -/

/-- The tiles that SCOPE selects, in tile-index order. -/
def scanTiles (s : State) : List Nat :=
  if s.dbg.scanBay then (List.range 2048).filter fun t => bayOf t == s.dbg.scanBayIx else [s.dbg.scanTile]

/-- True in the life-cycle states that accept GO (Table 18-14). -/
def scanAllowed (s : State) : Bool :=
  s.fuses.lc == .blank || s.fuses.lc == .manufacture || s.fuses.lc == .returned || (s.fuses.lc == .deployed && s.tr.debugUnlocked)

/-- True where the image range of ADDR stands in tier 1 or 2 of this module, on a 64-byte boundary, outside every configuration
reserve and inside the tier (R566). -/
def scanAddrOk (s : State) : Bool :=
  let g := s.dbg.scanAddr
  let n := scanBytes * (scanTiles s).length
  gaModule g == s.net.index && (gaTier g == 1 || gaTier g == 2) && g % 64 == 0 &&
    decide (gaOff g + n ≤ tierExtent s (gaTier g)) && (gaTier g == 2 || outsideReserve (gaOff g) n)

/-- RESULT of a GO that is refused, 0 where it starts (R566). -/
def scanResult (s : State) (cmd : Nat) : Nat :=
  if !scanAllowed s then 1
  else if 3 < cmd then 4
  else if (cmd = 1 ∨ cmd = 2) ∧ !(scanTiles s).all (fun t => (tileOf s t).frozen) then 3
  else if (cmd = 1 ∨ cmd = 2) ∧ !scanAddrOk s then 5
  else 0

/-- GO with a command: refused at once, or busy until SCAN_COMMAND_DONE; ignored while BUSY is set and in SCRAPPED. -/
def scanGo (s : State) (cmd : Nat) : State :=
  if s.dbg.scanBusy ∨ s.fuses.lc = .scrapped ∨ !s.sup.booted then s
  else
    let s := { s with dbg.scanCmd := cmd }
    let r := scanResult s cmd
    { s with dbg.scanBusy := decide (r = 0), dbg.scanResult := r }

/-- SCAN_FREEZE. -/
def execScanFreeze (s : State) : Host.Outcome State Fault Refusal := .next <| unfused s (scanGo s 0)

/-- SCAN_OUT. -/
def execScanOut (s : State) : Host.Outcome State Fault Refusal := .next <| unfused s (scanGo s 1)

/-- SCAN_IN. -/
def execScanIn (s : State) : Host.Outcome State Fault Refusal := .next <| unfused s (scanGo s 2)

/-- SCAN_RELEASE. -/
def execScanRelease (s : State) : Host.Outcome State Fault Refusal := .next <| unfused s (scanGo s 3)

/-- Writes the images of tiles one after another from an offset of a tier. -/
def scanOutAll (s : State) (tier : Nat) : Nat → List Nat → State
  | _, [] => s
  | a, t :: ts => scanOutAll (writeTier s tier a (scanImage s t (tileOf s t).core)) tier (a + scanBytes) ts

/-- Restores tiles one after another; from the first image refused on, tiles are left frozen and empty, and RESULT is 2. A
poisoned image is refused (R128, R566). -/
def scanInAll (s : State) (tier : Nat) : Nat → List Nat → State
  | _, [] => s
  | a, t :: ts =>
    let s := demand s tier a scanBytes 1
    let x := if poisoned s tier a scanBytes then (s, false) else scanInto s t (readTier s tier a scanBytes)
    if x.2 then scanInAll x.1 tier (a + scanBytes) ts
    else
      let s := (t :: ts).foldl (fun s t => setCore s t (scanRefused (tileOf s t).core)) x.1
      { s with dbg.scanResult := 2 }

/-- SCAN_COMMAND_DONE: the command in progress has had its effect (R566). -/
def execScanCommandDone (s : State) : Host.Outcome State Fault Refusal :=
  .next <| unfused s <| if !s.dbg.scanBusy then s
    else
      let ts := scanTiles s
      let g := s.dbg.scanAddr
      let s := { s with dbg.scanBusy := false, dbg.scanResult := 0 }
      if s.dbg.scanCmd = 0 then freezeTiles s ts
      else if s.dbg.scanCmd = 1 then scanOutAll s (gaTier g) (gaOff g) ts
      else if s.dbg.scanCmd = 2 then scanInAll s (gaTier g) (gaOff g) ts
      else thawTiles s ts

/-! ### Queue-depth samples (R122, R123, R565) -/

/-- Sets EN of `QDEPTH_SAMPLE_CFG`: HEAD and TAIL are 0; a ring that is not aligned leaves EN clear (R565). -/
def qdEnable (s : State) : State :=
  if s.dbg.qdEn ∨ s.dbg.qdAddr % 4096 ≠ 0 then s else { s with dbg.qdEn := true, dbg.qdHead := 0, dbg.qdTail := 0 }

/-- QDEPTH_SAMPLE_ENABLE (R565). -/
def execQdepthSampleEnable (s : State) : Host.Outcome State Fault Refusal :=
  .next <| unfused s <| if s.fuses.lc = .scrapped ∨ !s.sup.booted then s else qdEnable s

/-- Entries of a queue and its ring. -/
def Queue.depth (v : Queue) : Nat := v.hw.length + v.ringCnt + v.returns.length

/-- A queue-depth record (Table 3-11). -/
def sampleRecord (s : State) (t : Nat) : Bytes :=
  let x := tileOf s t
  let ds := (List.range 24).map fun q => (x.core.queue q).depth
  let sat := b2n (ds.any (decide <| 255 < ·))
  let spill := b2n ((List.range 24).any fun q => (x.core.queue q).ringCnt != 0)
  padTo 64 (leBytes 6 s.time.tread ++ leBytes 2 0 ++ leBytes 2 t ++ [8] ++ leBytes 1 (sat + 2 * spill) ++ leBytes 4 x.seq ++
    ds.flatMap fun d => leBytes 1 (min 255 d))

/-- One tile takes a sample: SEQ advances; a full ring drops the record (R122, R123). -/
def sampleTile (s : State) (t : Nat) : State :=
  let r := sampleRecord s t
  let x := tileOf s t
  let s := setTile s t { x with seq := (x.seq + 1) % 2 ^ 32 }
  let next := (s.dbg.qdTail + 1) % 2 ^ s.dbg.qdLog2
  if next = s.dbg.qdHead then s
  else { pmWrite s 0 (s.dbg.qdAddr + 64 * s.dbg.qdTail) r with dbg := { s.dbg with qdTail := next } }

/-- QDEPTH_SAMPLE: the first clk of a tread whose number is a multiple of the period (R122). -/
def execQdepthSample (s : State) : Host.Outcome State Fault Refusal :=
  .next <| unfused s <| if s.dbg.qdEn ∧ s.clk = 0 ∧ s.time.tread % s.dbg.qdPeriod = 0 ∧ s.dbg.qdLast ≠ some s.time.ticks then
      let ts := if s.dbg.qdAll then List.range 2048 else [s.dbg.qdTile]
      ts.foldl sampleTile { s with dbg.qdLast := some s.time.ticks }
    else s

end Sys2Proof.Machine
end

