-- ==== Sys2Proof/Machine/Regs.lean ====
section
/-!
DEFINITION. Host writes to BAR0 and BAR2 (00 R14, R20, R21; 13 R417, R418, R430, R431, Tables 13-4, 13-7 to 13-9; 18 R557
to R568, Tables 18-2, 18-10 to 18-15). A write is merged with the other half of its word first (R558), so that each register
is written by one function of its word's value; action bits and W1C bits of the half not written read 0 there.
-/
namespace Sys2Proof.Machine

/-- The state that a command leads to. -/
def landed (s : State) : Host.Outcome State Fault Refusal → State
  | .next t => t
  | _ => s

/-- `x` where it lies in a range, else the old value (Table 18-13). -/
def ranged (old x lo hi : Nat) : Nat := if lo ≤ x ∧ x ≤ hi then x else old

/-! ### What a word reads in the fields that are written -/

/-- RW fields of a word of a port's page at `o` (Tables 13-4, 13-8, 13-9). -/
def portWord (s : State) (p o : Nat) : Nat :=
  let po := portOf s p
  if o = 0 then s.split + b2n po.cacheEn * 4 + b2n po.eqEn * 8 + po.eqVector * 2 ^ 16 + b2n po.eqIrq * 2 ^ 23 + po.evMask.toNat * 2 ^ 24
  else if o = 8 then po.eqLog2 + po.eqAddr
  else if 0x100 ≤ o ∧ o < 0x300 then
    let v := hdmOf s p ((o - 0x100) / 0x20)
    match o % 0x20 / 8 with
    | 0 => b2n v.en + b2n v.write * 2 + b2n v.cache * 4 + v.context * 256
    | 1 => v.target
    | 2 => v.size
    | _ => 0
  else if 0x400 ≤ o then
    let v := qpOf s p ((o - 0x400) / 0x30)
    match (o - 0x400) % 0x30 / 8 with
    | 0 => v.sqAddr
    | 1 => v.sqLog2 + b2n v.en * 2 ^ 31
    | 2 => v.cqAddr
    | 3 => v.cqLog2
    | 4 => v.tqLog2 + v.tqAddr * 4096
    | _ => v.cqVector + b2n v.cqIrq * 128 + v.tqVector * 256 + b2n v.tqIrq * 2 ^ 15 + v.count * 2 ^ 16 + v.delayUs * 2 ^ 24
  else 0

/-- RW fields of a word of link `k`'s page at `o` (Tables 12-10 to 12-14). -/
def linkWord (s : State) (k o : Nat) : Nat :=
  let l := linkOf s k
  if o = 0 then b2n l.en + l.mode * 2 + b2n l.degradeEn * 16 + b2n l.vlanEn * 32 + l.vlanId * 64 + l.pcp * 2 ^ 18 +
    b2n l.ecnEn * 2 ^ 21 + l.retryUs * 2 ^ 32 + l.retryLimit * 2 ^ 48
  else if o = 8 then l.role + l.face * 4
  else if o = 0x18 then l.udpPort + l.srcBase * 2 ^ 16
  else if o = 0x20 then b2n l.msEn + l.replayWin * 2 ^ 16
  else 0

/-- RW fields of a word of a module-wide block at `a`. -/
def moduleWord (s : State) (a : Nat) : Nat :=
  let m := s.mem
  let d := s.dbg
  match a with
  | 0x10008 => s.time.anchorWord0
  | 0x10010 => s.time.anchorUtc
  | 0x20080 => s.pw.pwrLimit
  | 0x20088 => s.pw.windowS + s.pw.floorLead * 256
  | 0x200A0 => b2n s.pw.rampEn + s.pw.rampDown * 2 ^ 16 + s.pw.rampUp * 2 ^ 32
  | 0x200A8 => b2n s.pw.ballastEn
  | 0x200B8 => s.ps.target + b2n s.ps.autoA1 * 8 + s.ps.idleTreads * 2 ^ 16
  | 0x30010 => b2n m.t2Scrub + b2n m.t3Scrub * 2 + m.t2Pass * 2 ^ 16 + m.t3Pass * 2 ^ 32
  | 0x30018 => m.t2Size + m.t3Size * 2 ^ 16
  | 0x30020 => m.t2Leak + m.t3Leak * 2 ^ 16
  | 0x30030 => m.repKind + m.repUnit * 2 ^ 16 + m.repAddr * 2 ^ 27
  | 0x50020 => s.mb.cmd + s.mb.len * 2 ^ 32
  | 0x50028 => s.mb.addr
  | 0x50030 => s.mb.arg
  | 0x60000 => d.stallTile
  | 0x60020 => b2n d.qdEn + b2n d.qdAll * 2 + d.qdPeriod * 2 ^ 16 + d.qdTile * 2 ^ 32 + d.qdLog2 * 2 ^ 48
  | 0x60028 => d.qdAddr
  | 0x60030 => d.qdHead
  | 0x60040 => d.logSel + d.logIndex * 2 ^ 16
  | 0x60088 => b2n s.st.en + s.st.period * 2 ^ 16
  | 0x70000 => s.sf.object + s.sf.action * 2 ^ 12 + s.sf.value * 2 ^ 32
  | 0x70020 => d.scanCmd + b2n d.scanBay * 256 + d.scanTile * 2 ^ 9 + d.scanBayIx * 2 ^ 20
  | 0x70028 => d.scanAddr
  | 0x70040 => s.st.ctlProgram + s.st.ctlUnit * 2 ^ 16
  | _ => 0

/-- The value of the whole word that a write gives: its other half keeps what it reads (R558). -/
def mergeHalf (old off size v : Nat) : Nat :=
  if size = 8 then v
  else if off % 8 = 0 then old / 2 ^ 32 * 2 ^ 32 + v % 2 ^ 32 else old % 2 ^ 32 + v % 2 ^ 32 * 2 ^ 32

/-! ### A port's page -/

/-- `PORT_CFG` (Table 13-8): SPLIT through port 0 only; EQ_EN is set only with a LOG2 in range, and then starts its ring
afresh; EQ_VECTOR is written only while it is clear (R417, R431, Table 18-13). -/
def writePortCfg (s : State) (p v : Nat) : State :=
  let s := if p = 0 ∧ bits v 1 0 ≠ 3 then { s with split := bits v 1 0 } else s
  let po := portOf s p
  let vec := if po.eqEn then po.eqVector else bits v 22 16
  let po := { po with cacheEn := bit v 2, eqVector := vec, eqIrq := bit v 23, evMask := BitVec.ofNat 8 (bits v 31 24) }
  let po := if bit v 3 = false then { po with eqEn := false }
    else if po.eqEn ∨ ¬ (4 ≤ po.eqLog2 ∧ po.eqLog2 ≤ 16) then po
    else { po with eqEn := true, eqHead := 0, eqTail := 0, eqPhase := true }
  setPort s p po

/-- A word of `HDM_WINn`, written while decoder n is uncommitted (Table 13-4, R423). -/
def writeWindow (s : State) (p n w v : Nat) : State :=
  let x := hdmOf s p n
  if x.committed then s
  else match w with
    | 0 => setHdm s p n { x with en := bit v 0, write := bit v 1, cache := bit v 2, context := bits v 15 8 }
    | 1 => setHdm s p n { x with target := v }
    | 2 => setHdm s p n { x with size := v }
    | _ => s

/-- A queue-pair register (Table 13-9): all but QP_EN are written only while QP_EN is clear (R431), and a LOG2 or COUNT out of
its range keeps its value (Table 18-13). -/
def writeQp (s : State) (p q w v : Nat) : State :=
  let x := qpOf s p q
  match w with
  | 1 =>
    let s := if x.en then s else setQp s p q { x with sqLog2 := ranged x.sqLog2 (bits v 4 0) 4 16 }
    if bit v 31 then enableQp s p q else disableQp s p q
  | 0 => if x.en then s else setQp s p q { x with sqAddr := v / 4096 * 4096 }
  | 2 => if x.en then s else setQp s p q { x with cqAddr := v / 4096 * 4096 }
  | 3 => if x.en then s else setQp s p q { x with cqLog2 := ranged x.cqLog2 (bits v 4 0) 4 16 }
  | 4 => if x.en then s else setQp s p q { x with tqLog2 := ranged x.tqLog2 (bits v 4 0) 4 20, tqAddr := v / 4096 }
  | _ =>
    if x.en then s
    else setQp s p q { x with cqVector := bits v 6 0, cqIrq := bit v 7, tqVector := bits v 14 8, tqIrq := bit v 15,
                              count := ranged x.count (bits v 23 16) 1 255, delayUs := bits v 39 24 }

/-- A write of the word at `o` of port `p`'s page (Table 18-2). -/
def writePort (s : State) (p o v : Nat) : State :=
  if o = 0 then writePortCfg s p v
  else if o = 8 then
    let po := portOf s p
    if po.eqEn then s else setPort s p { po with eqLog2 := ranged po.eqLog2 (bits v 4 0) 4 16, eqAddr := v / 4096 * 4096 }
  else if 0x100 ≤ o ∧ o < 0x300 then writeWindow s p ((o - 0x100) / 0x20) (o % 0x20 / 8) v
  else if 0x400 ≤ o then writeQp s p ((o - 0x400) / 0x30) ((o - 0x400) % 0x30 / 8) v
  else s

/-! ### Module-wide blocks -/

/-- A write of the word at `o` of link `k`'s page (R378, R397, Tables 12-10 to 12-14). -/
def writeLink (s : State) (k o v : Nat) : State :=
  let l := linkOf s k
  if o = 0 then
    let s := if l.en then s else setLink s k
      { l with mode := ranged l.mode (bits v 3 1) 0 5, degradeEn := bit v 4, vlanEn := bit v 5, vlanId := bits v 17 6,
               pcp := bits v 20 18, ecnEn := bit v 21, retryUs := ranged l.retryUs (bits v 47 32) 1 65535,
               retryLimit := ranged l.retryLimit (bits v 55 48) 1 255 }
    enableLink s k (bit v 0)
  else if o = 8 then
    if l.en then s else setLink s k { l with role := ranged l.role (bits v 1 0) 0 2, face := ranged l.face (bits v 4 2) 0 5 }
  else if o = 0x18 then setLink s k { l with udpPort := bits v 15 0, srcBase := bits v 31 16 }
  else if o = 0x20 then
    let open_ := s.fuses.lc == .manufacture || s.fuses.lc == .returned
    setLink s k { l with msEn := if open_ then bit v 0 else l.msEn, replayWin := bits v 31 16 }
  else s

/-- `CE_BUCKET_SIZE` and `CE_LEAK_FLIGHTS`; a write of 0 is ignored (R226, Tables 6-7, 6-8). -/
def writeCe (s : State) (a v : Nat) : State :=
  let m := s.mem
  if a = 0x30018 then
    { s with mem.t2Size := ranged m.t2Size (bits v 15 0) 1 65535, mem.t3Size := ranged m.t3Size (bits v 31 16) 1 65535 }
  else if a = 0x30020 then
    { s with mem.t2Leak := ranged m.t2Leak (bits v 15 0) 1 65535, mem.t3Leak := ranged m.t3Leak (bits v 31 16) 1 65535 }
  else s

/-- Power registers (Table 15-5) and `PSTATE_CTL` (Table 17-5). -/
def writePower (s : State) (a v : Nat) : State :=
  let p := s.pw
  match a with
  | 0x20080 => { s with pw.pwrLimit := ranged p.pwrLimit (bits v 11 0) 900 2700 }
  | 0x20088 => { s with pw.windowS := ranged p.windowS (bits v 4 0) 1 30, pw.floorLead := ranged p.floorLead (bits v 15 8) 8 255 }
  | 0x200A0 => { s with pw.rampEn := bit v 0, pw.rampDown := ranged p.rampDown (bits v 31 16) 50 65535,
                        pw.rampUp := ranged p.rampUp (bits v 47 32) 50 65535 }
  | 0x200A8 => { s with pw.ballastEn := bit v 0 }
  | 0x200B8 =>
    let s := { s with ps.target := bits v 1 0, ps.autoA1 := bit v 3,
                      ps.idleTreads := ranged s.ps.idleTreads (bits v 31 16) 1 65535 }
    if !bit v 2 then s
    else if bits v 1 0 = 2 then landed s (execA2Entry s)
    else if bits v 1 0 = 0 then landed s (execA2Exit s)
    else { s with ps.result := 2 }
  | _ => s

/-- `SCRUB_CFG`, `POISON_LOG` and `REPAIR_CTL` (Tables 6-6, 6-10, 6-13). -/
def writeTiers (s : State) (a v : Nat) : State :=
  let m := s.mem
  match a with
  | 0x30010 => { s with mem.t2Scrub := bit v 0, mem.t3Scrub := bit v 1, mem.t2Pass := ranged m.t2Pass (bits v 31 16) 60 65535,
                        mem.t3Pass := ranged m.t3Pass (bits v 63 32) 3600 2592000 }
  | 0x30028 => { s with mem.poisonLost := w1cKept s 0 m.poisonLost (bit v 9) }
  | 0x30030 =>
    if m.repBusy then s
    else if bit v 3 then landed s (execRepairGo (BitVec.ofNat 64 v) s)
    else if bit v 4 then landed s (execRepairCommit (BitVec.ofNat 64 v) s)
    else repairFields s (BitVec.ofNat 64 v)
  | _ => writeCe s a v

/-- `SEC_MAILBOX` (Table 14-11). GO with a command that reads no partner memory acts as its row; the others, whose bytes
are no part of a register write, are commanded through their rows (notes/assumptions/7.md); a reserved CMD gives E_PERM
(R595). -/
def writeMailbox (s : State) (a v : Nat) : State :=
  match a with
  | 0x50020 =>
    let s := { s with mb.cmd := bits v 7 0, mb.len := bits v 63 32 }
    if !bit v 8 then s
    else match bits v 7 0 with
      | 0x04 => landed s (execCertRead s)
      | 0x05 => landed s (execLogRead s)
      | 0x06 => landed s (execChallenge s)
      | 0x11 => landed s (execSvnCommit s)
      | 0x12 => landed s (execDebugLock s)
      | 0x01 => s
      | 0x02 => s
      | 0x03 => s
      | 0x07 => s
      | 0x10 => s
      | c => withMailbox s c s.mb.len fun s => mbReply s ePerm 0
  | 0x50028 => { s with mb.addr := v }
  | 0x50030 => { s with mb.arg := v }
  | _ => s

/-- `QDEPTH_SAMPLE_CFG` word 0 (R565, Table 18-11). -/
def writeQdepth (s : State) (v : Nat) : State :=
  let d := s.dbg
  let s := if d.qdEn then s else
    { s with dbg.qdAll := bit v 1, dbg.qdPeriod := ranged d.qdPeriod (bits v 31 16) 1 65535, dbg.qdTile := bits v 42 32,
             dbg.qdLog2 := ranged d.qdLog2 (bits v 52 48) 4 20 }
  if bit v 0 then qdEnable s else { s with dbg.qdEn := false }

/-- The telemetry block (Tables 16-6, 16-12, 16-13, 18-10, 18-11). -/
def writeTelemetry (s : State) (a v : Nat) : State :=
  match a with
  | 0x60000 => { s with dbg.stallTile := bits v 10 0 }
  | 0x60020 => writeQdepth s v
  | 0x60028 => if s.dbg.qdEn then s else { s with dbg.qdAddr := v }
  | 0x60030 => { s with dbg.qdHead := bits v 31 0 }
  | 0x60040 => { s with dbg.logSel := bits v 1 0, dbg.logIndex := bits v 47 16 }
  | 0x60088 => landed s (execSelftestCfgWrite (BitVec.ofNat 64 v) s)
  | 0x60090 => { s with st.fail := w1cKept s 2 s.st.fail (bit v 9), st.marginal := w1cKept s 3 s.st.marginal (bit v 10) }
  | _ => s

/-- GO with a reserved ACTION: it is not allowed for any kind, and every GO is recorded (R365, R366, Table 11-9). -/
def forceReserved (s : State) (ob act x : Nat) : State :=
  let res := if !forceAllowed s then 2 else if mhas s.objs ob then 3 else 1
  forceRecord { s with sf := { object := ob, action := act, result := res, value := x } } ob act res 0 x

/-- `SYNC_FORCE` (Table 11-9). -/
def writeSyncForce (s : State) (v : Nat) : State :=
  let ob := bits v 11 0
  let x := bits v 63 32
  if !bit v 14 then { s with sf.object := ob, sf.action := bits v 13 12, sf.value := x }
  else if 2 ≤ bits v 13 12 then forceReserved s ob (bits v 13 12) x
  else if bits v 13 12 = 0 then landed s (execSyncForceSetValue (Fin.ofNat 4096 ob) (BitVec.ofNat 32 x) s)
  else landed s (execSyncForceRelease (Fin.ofNat 4096 ob) (BitVec.ofNat 32 x) s)

/-- `SCAN_CTL` (Table 18-12); both words are ignored while BUSY is set. -/
def writeScan (s : State) (a v : Nat) : State :=
  if s.dbg.scanBusy then s
  else if a = 0x70028 then { s with dbg.scanAddr := v }
  else
    let s := { s with dbg.scanCmd := bits v 2 0, dbg.scanBay := bit v 8, dbg.scanTile := bits v 19 9, dbg.scanBayIx := bits v 22 20 }
    if bit v 3 then scanGo s (bits v 2 0) else s

/-- `SELFTEST_CTL` (Table 16-15); a reserved program gives RESULT 4, after the life-cycle check. -/
def writeSelftestCtl (s : State) (v : Nat) : State :=
  let u := bits v 26 16
  if s.st.ctlBusy then s
  else if !bit v 8 then { s with st.ctlProgram := bits v 7 0, st.ctlUnit := u }
  else match bits v 7 0 with
    | 0x01 => landed s (execInFieldPass u s)
    | 0x10 => landed s (execT2March u s)
    | 0x11 => landed s (execT3March u s)
    | 0x12 => landed s (execPadSweep u s)
    | 0x13 => landed s (execLinkLoopback u s)
    | 0x14 => landed s (execHostLoopback u s)
    | 0x15 => landed s (execTileBist u s)
    | c =>
      let closed := s.fuses.lc == .provisioned || s.fuses.lc == .deployed
      { s with st.ctlProgram := c, st.ctlUnit := u, st.ctlResult := if closed then 2 else 4 }

/-- A write of the word at `a` of a module-wide block (Table 18-2); read-only and reserved offsets ignore it (R560). -/
def writeModule (s : State) (a v : Nat) : State :=
  if 0x40000 ≤ a ∧ a < 0x46000 then writeLink s ((a - 0x40000) / 0x400) (a % 0x400) v
  else match a with
  | 0x100 => if bit v 0 then resetArray s else s
  | 0x108 => { s with flt.newelWdog := w1cKept s 4 s.flt.newelWdog (bit v 2), flt.secondFault := w1cKept s 5 s.flt.secondFault (bit v 4) }
  | 0x10008 => { s with time.anchorWord0 := v }
  | 0x10010 => landed s (execTreadAnchorWrite 0 (BitVec.ofNat 64 v) s)
  | 0x10018 => { s with time.mismatch := w1cKept s 1 s.time.mismatch (bit v 3) }
  | 0x70000 => writeSyncForce s v
  | 0x70020 => writeScan s a v
  | 0x70028 => writeScan s a v
  | 0x70040 => writeSelftestCtl s v
  | _ =>
    if 0x20000 ≤ a ∧ a < 0x30000 then writePower s a v
    else if 0x30000 ≤ a ∧ a < 0x40000 then writeTiers s a v
    else if 0x50000 ≤ a ∧ a < 0x60000 then writeMailbox s a v
    else if 0x60000 ≤ a ∧ a < 0x70000 then writeTelemetry s a v else s

/-! ### The rows -/

/-- A write to BAR0 through port `p` (R418, R557, R558, R567). -/
def writeBar0 (s : State) (p off size v : Nat) : State :=
  let a := off / 8 * 8
  if ¬ (size = 4 ∨ size = 8) ∨ off % size ≠ 0 then s
  else if 0x4000 ≤ a ∧ a < 0x8000 then
    if (a - 0x4000) / 0x1000 = p then writePort s p (a % 0x1000) (mergeHalf (portWord s p (a % 0x1000)) off size v) else s
  else if p ≠ 0 then s
  else if 0x40000 ≤ a ∧ a < 0x46000 then
    writeModule s a (mergeHalf (linkWord s ((a - 0x40000) / 0x400) (a % 0x400)) off size v)
  else writeModule s a (mergeHalf (moduleWord s a) off size v)

/-- A write to BAR2: a doorbell of its page; one at a reserved offset is counted (R430, R568, Table 13-7). -/
def writeBar2 (s : State) (p : Port) (off size v : Nat) : State :=
  let page : Fin 256 := Fin.ofNat 256 (off / 0x1000)
  if off % 0x1000 = 0 then landed s (execDoorbellSqTail p page size v s)
  else if off % 0x1000 = 4 then landed s (execDoorbellCqHead p page size v s)
  else if off % 0x1000 = 8 then landed s (execDoorbellTqHead p page size v s)
  else if off % 0x1000 = 12 then landed s (execDoorbellEqHead p page size v s)
  else dbErr s p

/-- True where host writes reach registers that act: the port is there, and the module is not SCRAPPED (R567). -/
def hostWrites (s : State) (p : Nat) : Bool := s.sup.booted && (portOf s p).present && s.fuses.lc != .scrapped

/-- CE_SETTING_WRITE: a new bucket size or leak setting applies from the next clk (R226). -/
def execCeSettingWrite (offset : Nat) (value : W64) (s : State) : Host.Outcome State Fault Refusal :=
  .next <| unfused s <| if s.fuses.lc = .scrapped then s else writeCe s offset value.toNat

/-- REGISTER_WRITE: a host write of `size` bytes at an offset of BAR0 or BAR2 of a port (R20, R418, R557 to R568). Of what it can
command, only SVN_COMMIT in the mailbox's first word fuses. -/
def execRegisterWrite (port : Port) (bar : Nat) (offset size : Nat) (value : W64) (s : State) :
    Host.Outcome State Fault Refusal :=
  .next <| queued s <| if !hostWrites s port then s
    else if bar = 0 then
      let t := writeBar0 s port offset size value.toNat
      if offset / 8 * 8 = 0x50020 then t else unfused s t
    else if bar = 2 then unfused s (writeBar2 s port offset size value.toNat)
    else s

end Sys2Proof.Machine
end

