-- ==== Sys2Proof/Machine/Telemetry.lean ====
section
/-!
DEFINITION. TELEMETRY_SNAP: what each set of counters and records holds, and its latch (13 R440, R441, Tables 13-20, 13-22; 16
R501, R504, R525; 17 R556; 19 R584).
-/
namespace Sys2Proof.Machine

/-- Architected values of hardware-extended counters, 8 B each (R502, R504). -/
def hwWords (s : State) (ks : List Nat) : Bytes := ks.flatMap fun k => leBytes 8 (mgetD s.hwc k .zero).value

/-- Firmware-kept counters, 8 B each. -/
def fwWords (s : State) (ks : List Nat) : Bytes := ks.flatMap fun k => leBytes 8 (mgetD s.fwc k 0)

/-- `n` keys from `k` on. -/
def keysFrom (k n : Nat) : List Nat := (List.range n).map (k + ·)

/-- A poison record (Table 6-5). -/
def PoisonRec.bytes (r : PoisonRec) : Bytes :=
  padTo 32 (leBytes 8 r.tread ++ leBytes 8 r.addr ++ leBytes 1 r.cause ++ leBytes 1 r.words ++ leBytes 2 r.unit ++ leBytes 2 r.context)

/-- A release record (Table 11-8). -/
def RelRec.bytes (r : RelRec) : Bytes :=
  padTo 32 (leBytes 8 r.tread ++ leBytes 2 r.context ++ leBytes 2 r.vid ++ leBytes 4 r.gen ++
    leBytes 8 ((r.late.map (2 ^ ·)).sum) ++ leBytes 2 (min r.skew 65535) ++ leBytes 2 (min r.maxLate 65535) ++
    leBytes 1 r.flags ++ leBytes 1 r.slowest)

/-- True where records of context `c` go to a snapshot of context `ctx`: its own, unless it is sealed, and those of no context
(R441, R461). -/
def snapSees (s : State) (ctx c : Nat) : Bool :=
  c == 0xFFFF || (c == ctx && !(mget s.ctxs ctx).any (·.isSealed))

/-- True where instance `i` is one whose data goes to a snapshot of context `ctx`. -/
def snapInst (s : State) (ctx i : Nat) : Bool := (mget s.insts i).any fun x => x.ctx == ctx && snapSees s ctx ctx

/-- The tile block of a tile: zeros where it is not bound to the issuing context (R441). -/
def snapTile (s : State) (ctx t : Nat) : Bytes :=
  if (tileOf s t).inst.any (snapInst s ctx) then tileCounters s HwCtr.value t else padTo 1536 []

/-- The bytes of set `b` for context `ctx` (Table 13-20). -/
def snapSet (s : State) (ctx b : Nat) : Bytes :=
  match b with
  | 0 => (List.range 2048).flatMap (snapTile s ctx)
  | 1 => hwWords s (keysFrom (kMem 0) 184)
  | 2 => hwWords s (keysFrom (kProt 0) 21) ++ fwWords s (keysFrom (kLife 0) 15)
  | 3 => (s.mem.poisonLog.filter fun r => snapSees s ctx r.context).flatMap PoisonRec.bytes
  | 4 => fwWords s (keysFrom (kKv 0) 11)
  | 5 => fwWords s (keysFrom (kExp 0) 11)
  | 6 => (List.range 8).flatMap fun i => if snapInst s ctx i then fwWords s (keysFrom (kSrv i 0) 12) else padTo 96 []
  | 7 => fwWords s (keysFrom (kSync 0) 12) ++ (s.relRecs.filter fun r => snapSees s ctx r.context).flatMap RelRec.bytes
  | 8 => hwWords s ((List.range 24).flatMap (fun k => keysFrom (kLink k 0) 13) ++ keysFrom (kNet 0) 5)
  | _ => hwWords s ((List.range 4).flatMap fun p => keysFrom (kPort p 0) 8)

/-- Appends a set on the next 64-byte boundary, preceded by its length (R440). -/
def addSet (s : State) (ctx sets : Nat) (out : Bytes) (b : Nat) : Bytes :=
  if bit sets b then
    let x := snapSet s ctx b
    padTo (ceilDiv out.length 64 * 64) out ++ leBytes 8 x.length ++ x
  else out

/-- The whole result: the header and the selected sets (R440). -/
def snapBytes (s : State) (ctx sets : Nat) : Bytes :=
  (List.range 10).foldl (addSet s ctx sets) (padTo 64 (leBytes 8 s.time.tread ++ leBytes 4 sets))

/-- The set that holds a hardware-extended counter. -/
def setOfCtr (k : Nat) : Nat :=
  if k < 600000 then 0 else if k < 601000 then 1 else if k < 602000 then 2 else if k < 603000 then 9 else if k < 605000 then 8 else 31

/-- Firmware services the counters of the selected sets whose HALF is set, before it writes them (R501, the coinciding happenings of 16). -/
def serviceSets (s : State) (sets : Nat) : State :=
  (mkeys s.hwc fun k c => c.half && bit sets (setOfCtr k)).foldl serviceCtr s

/-- Frees the records that have been copied (R441). -/
def freeRecords (s : State) (ctx sets : Nat) : State :=
  let keepP := s.mem.poisonLog.filter fun r => !snapSees s ctx r.context
  let keepR := s.relRecs.filter fun r => !snapSees s ctx r.context
  { s with mem.poisonLog := if bit sets 3 then keepP else s.mem.poisonLog, relRecs := if bit sets 7 then keepR else s.relRecs }

/-- TELEMETRY_SNAP: the latch waits for its tread; TREAD 0, or one that has passed, is the next tread (R440, R478). A reserved set
gives E_PERM (R15). -/
def execTelemetrySnap (d : Nat) (s : State) : Host.Outcome State Fault Refusal :=
  .next <| unfused s (withDesc s d (·.op == 0xA0) [(8, 8), (16, 4), (20, 4), (24, 8)] fun t =>
    if 2 ^ 10 ≤ fld t.bytes 20 4 then finish s d ePerm
    else
      let due := s.time.ticks + if s.time.loaded then max 1 (fld t.bytes 24 8 - s.time.tread) else 1
      holdDesc { s with snaps := mset s.snaps d due } d)

/-- TELEMETRY_LATCH: in the first clk of the tread, or of the first one that the command comes to, the sets are latched and written, or nothing
is where LENGTH is too small (R121, R440). -/
def execTelemetryLatch (d : Nat) (s : State) : Host.Outcome State Fault Refusal :=
  .next <| unfused s <| match mget s.snaps d, mget s.taken d with
    | some due, some t =>
      if s.time.ticks < due ∨ s.clk ≠ 0 ∨ !coresRun s then s
      else
        let sets := fld t.bytes 20 4
        let s := serviceSets { s with snaps := merase s.snaps d } sets
        let out := snapBytes s t.ctx sets
        if fld t.bytes 16 4 < out.length then finish s d eCapacity
        else complete (pmWrite (freeRecords s t.ctx sets) t.port (fld t.bytes 8 8) out) d stOk out.length 0
    | _, _ => s

end Sys2Proof.Machine
end

