-- ==== Sys2Proof/Machine/Dispatch.lean ====
section
/-! DEFINITION. Each command and its meaning. -/
namespace Sys2Proof.Machine

def exec (i : Instr) (s : State) : Host.Outcome State Fault Refusal :=
  match i with
  | .coldPowerOn => Sys2Proof.Machine.execColdPowerOn s
  | .inputUndervoltageLockout => Sys2Proof.Machine.execInputUndervoltageLockout s
  | .inputOvervoltageShutoff => Sys2Proof.Machine.execInputOvervoltageShutoff s
  | .thermalShutoff dieC hbmC => Sys2Proof.Machine.execThermalShutoff dieC hbmC s
  | .perstDeassertBoot => Sys2Proof.Machine.execPerstDeassertBoot s
  | .warmReset => Sys2Proof.Machine.execWarmReset s
  | .portReset port cause => Sys2Proof.Machine.execPortReset port cause s
  | .functionLevelReset port => Sys2Proof.Machine.execFunctionLevelReset port s
  | .arrayReset port => Sys2Proof.Machine.execArrayReset port s
  | .t3InitComplete failed => Sys2Proof.Machine.execT3InitComplete failed s
  | .fwLoad bundle => Sys2Proof.Machine.execFwLoad bundle s
  | .sliceRecord record => Sys2Proof.Machine.execSliceRecord record s
  | .contextGrant grant => Sys2Proof.Machine.execContextGrant grant s
  | .contextRevoke grant => Sys2Proof.Machine.execContextRevoke grant s
  | .certRead => Sys2Proof.Machine.execCertRead s
  | .logRead => Sys2Proof.Machine.execLogRead s
  | .challenge => Sys2Proof.Machine.execChallenge s
  | .certInstall chain => Sys2Proof.Machine.execCertInstall chain s
  | .toManufacture token => Sys2Proof.Machine.execToManufacture token s
  | .toProvisioned token => Sys2Proof.Machine.execToProvisioned token s
  | .ownerClaim token => Sys2Proof.Machine.execOwnerClaim token s
  | .ownerTransfer token => Sys2Proof.Machine.execOwnerTransfer token s
  | .debugUnlock token => Sys2Proof.Machine.execDebugUnlock token s
  | .toReturn token => Sys2Proof.Machine.execToReturn token s
  | .toScrapped token => Sys2Proof.Machine.execToScrapped token s
  | .svnCommit => Sys2Proof.Machine.execSvnCommit s
  | .debugLock => Sys2Proof.Machine.execDebugLock s
  | .doorbellSqTail port page size value => Sys2Proof.Machine.execDoorbellSqTail port page size value s
  | .doorbellCqHead port page size value => Sys2Proof.Machine.execDoorbellCqHead port page size value s
  | .doorbellTqHead port page size value => Sys2Proof.Machine.execDoorbellTqHead port page size value s
  | .doorbellEqHead port page size value => Sys2Proof.Machine.execDoorbellEqHead port page size value s
  | .descriptorTake port qp slot => Sys2Proof.Machine.execDescriptorTake port qp slot s
  | .qpEnable port qp => Sys2Proof.Machine.execQpEnable port qp s
  | .qpDisable port qp => Sys2Proof.Machine.execQpDisable port qp s
  | .ringInterruptDelay port qp token => Sys2Proof.Machine.execRingInterruptDelay port qp token s
  | .hdmDecoderCommit port n => Sys2Proof.Machine.execHdmDecoderCommit port n s
  | .cxlMemRead port n offset len => Sys2Proof.Machine.execCxlMemRead port n offset len s
  | .cxlMemWrite port n offset data => Sys2Proof.Machine.execCxlMemWrite port n offset data s
  | .nop d => Sys2Proof.Machine.execNop d s
  | .fence d => Sys2Proof.Machine.execFence d s
  | .pkgStage d data => Sys2Proof.Machine.execPkgStage d data s
  | .pkgAdmit d pkg table => Sys2Proof.Machine.execPkgAdmit d pkg table s
  | .pkgEvict d => Sys2Proof.Machine.execPkgEvict d s
  | .harnessLoad d image => Sys2Proof.Machine.execHarnessLoad d image s
  | .harnessRelease d => Sys2Proof.Machine.execHarnessRelease d s
  | .overlayRegister d image => Sys2Proof.Machine.execOverlayRegister d image s
  | .overlaySwitch d => Sys2Proof.Machine.execOverlaySwitch d s
  | .overlayStagingDone inst => Sys2Proof.Machine.execOverlayStagingDone inst s
  | .overlayCommitTread inst => Sys2Proof.Machine.execOverlayCommitTread inst s
  | .regionDrained inst => Sys2Proof.Machine.execRegionDrained inst s
  | .drainLimitExpiry inst => Sys2Proof.Machine.execDrainLimitExpiry inst s
  | .switchFreezeDone inst => Sys2Proof.Machine.execSwitchFreezeDone inst s
  | .switchParkDone inst => Sys2Proof.Machine.execSwitchParkDone inst s
  | .bayApplyDone inst => Sys2Proof.Machine.execBayApplyDone inst s
  | .harnessBind d table => Sys2Proof.Machine.execHarnessBind d table s
  | .harnessUnbind d => Sys2Proof.Machine.execHarnessUnbind d s
  | .reqOpen d params prompt => Sys2Proof.Machine.execReqOpen d params prompt s
  | .reqAppend d prompt => Sys2Proof.Machine.execReqAppend d prompt s
  | .reqCancel d => Sys2Proof.Machine.execReqCancel d s
  | .reqClose d => Sys2Proof.Machine.execReqClose d s
  | .adapterLoad d image => Sys2Proof.Machine.execAdapterLoad d image s
  | .adapterRetire d => Sys2Proof.Machine.execAdapterRetire d s
  | .runGraph d far => Sys2Proof.Machine.execRunGraph d far s
  | .syncSetArrive d => Sys2Proof.Machine.execSyncSetArrive d s
  | .syncSetAdd d => Sys2Proof.Machine.execSyncSetAdd d s
  | .syncSetPost d => Sys2Proof.Machine.execSyncSetPost d s
  | .syncSetBase d => Sys2Proof.Machine.execSyncSetBase d s
  | .syncWaitWait d => Sys2Proof.Machine.execSyncWaitWait d s
  | .syncWaitAcquire d => Sys2Proof.Machine.execSyncWaitAcquire d s
  | .syncWaitTimeout d => Sys2Proof.Machine.execSyncWaitTimeout d s
  | .syncWaitSatisfied d => Sys2Proof.Machine.execSyncWaitSatisfied d s
  | .moveRelocate d => Sys2Proof.Machine.execMoveRelocate d s
  | .moveImport d data => Sys2Proof.Machine.execMoveImport d data s
  | .moveExport d => Sys2Proof.Machine.execMoveExport d s
  | .moveAlloc d => Sys2Proof.Machine.execMoveAlloc d s
  | .moveFree d => Sys2Proof.Machine.execMoveFree d s
  | .attest d => Sys2Proof.Machine.execAttest d s
  | .keyImport d blob => Sys2Proof.Machine.execKeyImport d blob s
  | .keyClear d => Sys2Proof.Machine.execKeyClear d s
  | .ctxSave d => Sys2Proof.Machine.execCtxSave d s
  | .ctxSaveFreeze d => Sys2Proof.Machine.execCtxSaveFreeze d s
  | .sendFenceSatisfied d => Sys2Proof.Machine.execSendFenceSatisfied d s
  | .ctxRestore d area => Sys2Proof.Machine.execCtxRestore d area s
  | .resumeTreadRelease d => Sys2Proof.Machine.execResumeTreadRelease d s
  | .telemetrySnap d => Sys2Proof.Machine.execTelemetrySnap d s
  | .telemetryLatch d => Sys2Proof.Machine.execTelemetryLatch d s
  | .eventLogWrite => Sys2Proof.Machine.execEventLogWrite s
  | .instrNop t l => Sys2Proof.Machine.execInstrNop t l s
  | .setlc t l => Sys2Proof.Machine.execSetlc t l s
  | .setf t l => Sys2Proof.Machine.execSetf t l s
  | .clrf t l => Sys2Proof.Machine.execClrf t l s
  | .jump t l => Sys2Proof.Machine.execJump t l s
  | .halt t l => Sys2Proof.Machine.execHalt t l s
  | .send t l => Sys2Proof.Machine.execSend t l s
  | .eos t l => Sys2Proof.Machine.execEos t l s
  | .syncArrive t => Sys2Proof.Machine.execSyncArrive t s
  | .syncAdd t => Sys2Proof.Machine.execSyncAdd t s
  | .syncWait t => Sys2Proof.Machine.execSyncWait t s
  | .take t => Sys2Proof.Machine.execTake t s
  | .complete t => Sys2Proof.Machine.execComplete t s
  | .acquire t => Sys2Proof.Machine.execAcquire t s
  | .post t => Sys2Proof.Machine.execPost t s
  | .setBase ctx vid base => Sys2Proof.Machine.execSetBase ctx vid base s
  | .newStep ctx vid n => Sys2Proof.Machine.execNewStep ctx vid n s
  | .restart ctx vid n => Sys2Proof.Machine.execRestart ctx vid n s
  | .barrierTimedRelease o => Sys2Proof.Machine.execBarrierTimedRelease o s
  | .barrierTimeout o => Sys2Proof.Machine.execBarrierTimeout o s
  | .barrierFloorRelease o => Sys2Proof.Machine.execBarrierFloorRelease o s
  | .generationRetire o => Sys2Proof.Machine.execGenerationRetire o s
  | .riserWaveStart o wave => Sys2Proof.Machine.execRiserWaveStart o wave s
  | .mxeOp t => Sys2Proof.Machine.execMxeOp t s
  | .merge t => Sys2Proof.Machine.execMerge t s
  | .mxeOpComplete t => Sys2Proof.Machine.execMxeOpComplete t s
  | .vop t => Sys2Proof.Machine.execVop t s
  | .sop t => Sys2Proof.Machine.execSop t s
  | .t2Read t => Sys2Proof.Machine.execT2Read t s
  | .t2Write t => Sys2Proof.Machine.execT2Write t s
  | .t2MoveComplete t => Sys2Proof.Machine.execT2MoveComplete t s
  | .galGet t => Sys2Proof.Machine.execGalGet t s
  | .galPut t => Sys2Proof.Machine.execGalPut t s
  | .galleryTransferDone t => Sys2Proof.Machine.execGalleryTransferDone t s
  | .spillReturn t q => Sys2Proof.Machine.execSpillReturn t q s
  | .fabricWatchdogExpiry t => Sys2Proof.Machine.execFabricWatchdogExpiry t s
  | .fetchIssue engine => Sys2Proof.Machine.execFetchIssue engine s
  | .fetchUnitLanded engine index => Sys2Proof.Machine.execFetchUnitLanded engine index s
  | .pageRebuild tier word => Sys2Proof.Machine.execPageRebuild tier word s
  | .pageRebuildDone tier page => Sys2Proof.Machine.execPageRebuildDone tier page s
  | .ceBucketLeak tier => Sys2Proof.Machine.execCeBucketLeak tier s
  | .patrolScrubPage tier unit => Sys2Proof.Machine.execPatrolScrubPage tier unit s
  | .repairGo value => Sys2Proof.Machine.execRepairGo value s
  | .repairCommit value => Sys2Proof.Machine.execRepairCommit value s
  | .repairDone => Sys2Proof.Machine.execRepairDone s
  | .stepPlan group => Sys2Proof.Machine.execStepPlan group s
  | .stepStart group => Sys2Proof.Machine.execStepStart group s
  | .groupFirstStep group => Sys2Proof.Machine.execGroupFirstStep group s
  | .stepSettle group outs routing => Sys2Proof.Machine.execStepSettle group outs routing s
  | .periodEstimateUpdate group => Sys2Proof.Machine.execPeriodEstimateUpdate group s
  | .roleEvaluation group => Sys2Proof.Machine.execRoleEvaluation group s
  | .linkEnable k en => Sys2Proof.Machine.execLinkEnable k en s
  | .linkTrained k lanes => Sys2Proof.Machine.execLinkTrained k lanes s
  | .linkDown k cause => Sys2Proof.Machine.execLinkDown k cause s
  | .linkRetrain k => Sys2Proof.Machine.execLinkRetrain k s
  | .helloA k payload rxNs => Sys2Proof.Machine.execHelloA k payload rxNs s
  | .helloB k payload => Sys2Proof.Machine.execHelloB k payload s
  | .helloDelay k payload => Sys2Proof.Machine.execHelloDelay k payload s
  | .helloRetry k => Sys2Proof.Machine.execHelloRetry k s
  | .frameReceive k f => Sys2Proof.Machine.execFrameReceive k f s
  | .gtAck k ack negative => Sys2Proof.Machine.execGtAck k ack negative s
  | .ackTimer k => Sys2Proof.Machine.execAckTimer k s
  | .retryTimeout k => Sys2Proof.Machine.execRetryTimeout k s
  | .gtWrite p => Sys2Proof.Machine.execGtWrite p s
  | .gtRead p => Sys2Proof.Machine.execGtRead p s
  | .gtData p => Sys2Proof.Machine.execGtData p s
  | .gtStream p => Sys2Proof.Machine.execGtStream p s
  | .gtSync p => Sys2Proof.Machine.execGtSync p s
  | .gtSyncRsp p => Sys2Proof.Machine.execGtSyncRsp p s
  | .gtDir p => Sys2Proof.Machine.execGtDir p s
  | .gtDone p => Sys2Proof.Machine.execGtDone p s
  | .gtRedirect p => Sys2Proof.Machine.execGtRedirect p s
  | .gtForward p => Sys2Proof.Machine.execGtForward p s
  | .packetTimeout msg => Sys2Proof.Machine.execPacketTimeout msg s
  | .ecnRateRaise k => Sys2Proof.Machine.execEcnRateRaise k s
  | .floorReq p => Sys2Proof.Machine.execFloorReq p s
  | .linkState p => Sys2Proof.Machine.execLinkState p s
  | .descFwd p => Sys2Proof.Machine.execDescFwd p s
  | .descDone p => Sys2Proof.Machine.execDescDone p s
  | .reqFwd p => Sys2Proof.Machine.execReqFwd p s
  | .reqAck p => Sys2Proof.Machine.execReqAck p s
  | .stepPlanReceive p => Sys2Proof.Machine.execStepPlanReceive p s
  | .settle p => Sys2Proof.Machine.execSettle p s
  | .bind p => Sys2Proof.Machine.execBind p s
  | .sliceStop p => Sys2Proof.Machine.execSliceStop p s
  | .sliceStopTread => Sys2Proof.Machine.execSliceStopTread s
  | .adapterCtrl p => Sys2Proof.Machine.execAdapterCtrl p s
  | .beaconSend => Sys2Proof.Machine.execBeaconSend s
  | .beacon k payload arrivalNs => Sys2Proof.Machine.execBeacon k payload arrivalNs s
  | .treadEdge offsetNs sinceLastNs => Sys2Proof.Machine.execTreadEdge offsetNs sinceLastNs s
  | .treadLock => Sys2Proof.Machine.execTreadLock s
  | .treadHoldoverEntry => Sys2Proof.Machine.execTreadHoldoverEntry s
  | .treadRelock => Sys2Proof.Machine.execTreadRelock s
  | .flightBoundaryTimeCheck => Sys2Proof.Machine.execFlightBoundaryTimeCheck s
  | .treadLoad data => Sys2Proof.Machine.execTreadLoad data s
  | .treadNumberLoaded => Sys2Proof.Machine.execTreadNumberLoaded s
  | .treadAnchorWrite port value => Sys2Proof.Machine.execTreadAnchorWrite port value s
  | .treadFallingEdge highNs => Sys2Proof.Machine.execTreadFallingEdge highNs s
  | .cap data => Sys2Proof.Machine.execCap data s
  | .capHoldEnd => Sys2Proof.Machine.execCapHoldEnd s
  | .capDeadlineCheck => Sys2Proof.Machine.execCapDeadlineCheck s
  | .floorAdopt => Sys2Proof.Machine.execFloorAdopt s
  | .opVoltageStep mv => Sys2Proof.Machine.execOpVoltageStep mv s
  | .averagePowerCheck => Sys2Proof.Machine.execAveragePowerCheck s
  | .rampEnvelopeUpdate drawW => Sys2Proof.Machine.execRampEnvelopeUpdate drawW s
  | .pull o => Sys2Proof.Machine.execPull o s
  | .pullEnd => Sys2Proof.Machine.execPullEnd s
  | .thermalWarning dieC hbmC => Sys2Proof.Machine.execThermalWarning dieC hbmC s
  | .thermalWarningStep dieC hbmC => Sys2Proof.Machine.execThermalWarningStep dieC hbmC s
  | .thermalTrip dieC hbmC => Sys2Proof.Machine.execThermalTrip dieC hbmC s
  | .pwrBrakeAssert => Sys2Proof.Machine.execPwrBrakeAssert s
  | .pwrBrakeDeassert => Sys2Proof.Machine.execPwrBrakeDeassert s
  | .coolantStop => Sys2Proof.Machine.execCoolantStop s
  | .coolantResume => Sys2Proof.Machine.execCoolantResume s
  | .slot data => Sys2Proof.Machine.execSlot data s
  | .i3cStatusRead => Sys2Proof.Machine.execI3cStatusRead s
  | .i3cNotifyRepeat => Sys2Proof.Machine.execI3cNotifyRepeat s
  | .i3cWriteRefused index data => Sys2Proof.Machine.execI3cWriteRefused index data s
  | .a1Entry => Sys2Proof.Machine.execA1Entry s
  | .a1Exit => Sys2Proof.Machine.execA1Exit s
  | .a2Entry => Sys2Proof.Machine.execA2Entry s
  | .a2Exit => Sys2Proof.Machine.execA2Exit s
  | .newelWatchdogExpiry => Sys2Proof.Machine.execNewelWatchdogExpiry s
  | .newelRestartDone copyOk => Sys2Proof.Machine.execNewelRestartDone copyOk s
  | .heartbeatMissed core => Sys2Proof.Machine.execHeartbeatMissed core s
  | .firmwarePoison => Sys2Proof.Machine.execFirmwarePoison s
  | .counterHalfWrapService counter => Sys2Proof.Machine.execCounterHalfWrapService counter s
  | .counterSweep => Sys2Proof.Machine.execCounterSweep s
  | .lifetimeAccumulate => Sys2Proof.Machine.execLifetimeAccumulate s
  | .lifetimeCommit => Sys2Proof.Machine.execLifetimeCommit s
  | .selftestSliceStart => Sys2Proof.Machine.execSelftestSliceStart s
  | .selftestSliceEnd results => Sys2Proof.Machine.execSelftestSliceEnd results s
  | .selftestCfgWrite value => Sys2Proof.Machine.execSelftestCfgWrite value s
  | .inFieldPass unit => Sys2Proof.Machine.execInFieldPass unit s
  | .t2March unit => Sys2Proof.Machine.execT2March unit s
  | .t3March unit => Sys2Proof.Machine.execT3March unit s
  | .padSweep unit => Sys2Proof.Machine.execPadSweep unit s
  | .linkLoopback unit => Sys2Proof.Machine.execLinkLoopback unit s
  | .hostLoopback unit => Sys2Proof.Machine.execHostLoopback unit s
  | .tileBist unit => Sys2Proof.Machine.execTileBist unit s
  | .selftestProgramDone results => Sys2Proof.Machine.execSelftestProgramDone results s
  | .syncForceSetValue object value => Sys2Proof.Machine.execSyncForceSetValue object value s
  | .syncForceRelease object gen => Sys2Proof.Machine.execSyncForceRelease object gen s
  | .scanFreeze => Sys2Proof.Machine.execScanFreeze s
  | .scanOut => Sys2Proof.Machine.execScanOut s
  | .scanIn => Sys2Proof.Machine.execScanIn s
  | .scanRelease => Sys2Proof.Machine.execScanRelease s
  | .scanCommandDone => Sys2Proof.Machine.execScanCommandDone s
  | .qdepthSampleEnable => Sys2Proof.Machine.execQdepthSampleEnable s
  | .qdepthSample => Sys2Proof.Machine.execQdepthSample s
  | .ceSettingWrite offset value => Sys2Proof.Machine.execCeSettingWrite offset value s
  | .registerWrite port bar offset size value => Sys2Proof.Machine.execRegisterWrite port bar offset size value s
  | .inputOvervoltageRecovery => Sys2Proof.Machine.execInputOvervoltageRecovery s
  | .thermalTripClear dieC hbmC => Sys2Proof.Machine.execThermalTripClear dieC hbmC s
  | .portLinkTrained port width speed => Sys2Proof.Machine.execPortLinkTrained port width speed s
  | .hdmDecoderUncommit port n => Sys2Proof.Machine.execHdmDecoderUncommit port n s
  | .backInvalidateResponse w => Sys2Proof.Machine.execBackInvalidateResponse w s
  | .doneRecordHoldExpiry k => Sys2Proof.Machine.execDoneRecordHoldExpiry k s
  | .t2InitComplete => Sys2Proof.Machine.execT2InitComplete s
  | .voltageRampStart => Sys2Proof.Machine.execVoltageRampStart s
  | .i3cCommand c => Sys2Proof.Machine.execI3cCommand c s

end Sys2Proof.Machine
end

