-- ==== Sys2Proof/Machine/Tick.lean ====
section
/-!
DEFINITION. One clk of ACLK, which passes where no command waits (notes/assumptions/5.md): hops, pass-through moves and spill
returns of the fabric (03 R81 to R84, R101 to R105, R124), its counters and watchdog (R110, R117 to R119), and at a tread's end
the time base, energy and idle count (15 R472 to R476, R498; 16 R513; 17 R529, Table 17-13).
-/
namespace Sys2Proof.Machine

/-! ### Entries on the move -/

/-- True where a tile's queues move: it is not frozen (R124). -/
def moves (s : State) (t : Nat) : Bool := !(tileOf s t).frozen

/-- Output queue indices, and input queue indices. -/
def outQueues : List Nat := [4, 5, 6, 7, 12, 13, 14, 15, 20, 21, 22, 23]
def inQueues : List Nat := [0, 1, 2, 3, 8, 9, 10, 11, 16, 17, 18, 19]

/-- Marks progress of a tile. -/
def progressed (s : State) (t : Nat) : State := setTile s t { tileOf s t with progress := true }

/-- The banks of T1 that an entry arriving at a queue takes: its ring slot's, where it goes to the ring (R102). -/
def ringBanks (v : Queue) (q : Nat) : Nat :=
  if v.spills q then slotBanks v q ((v.ringHead + v.ringCnt) % v.ringSize) else 0

/-- The head of output queue `q` crosses its hop when the queue it feeds had space in `pre`, the state at the clk's end before
anything moves (R81, R84). An entry that goes to a ring waits for the ring's bank of T1 (R38, R103). -/
def hopOut (pre s : State) (t q : Nat) : State :=
  let u := nextTile t (q % 4)
  match ((tileOf pre t).core.queue q).seen with
  | [] => s
  | e :: _ =>
    if !(moves pre t && moves pre u) || !((tileOf pre u).core.queue (facing q)).accepts (facing q) then s
    else
      let m := ringBanks ((tileOf pre u).core.queue (facing q)) (facing q)
      if (takenBanks s u 4 ||| (tileOf s u).usedBy 4) &&& m ≠ 0 then s
      else
        let s := useBanks s u 4 m
        let c := (tileOf s t).core
        let v := c.queue q
        progressed (progressed (arriveQueue (setCore s t (c.setQueue q { v with hw := v.hw.drop 1 })) u (facing q) e) t) u

/-- The head of input queue `q` moves on to output queue `d` when that had space in `pre` (R82 to R84). -/
def passOn (pre s : State) (t q d : Nat) : State :=
  let x := tileOf pre t
  match ((x.core.queue q).forDest x.core.epoch d) with
  | [] => s
  | e :: _ =>
    if qDepth d ≤ (x.core.queue d).hw.length then s
    else
      let c := (tileOf s t).core
      let c := c.setQueue q ((c.queue q).take (destsOf x.cfg q) d 1)
      progressed (hwBump (setCore s t (putOut c d e.val e.poison)) (kTile t (85 + d)) 1) t

/-- Every hop and pass-through move of a tile. -/
def moveTile (pre s : State) (t : Nat) : State :=
  if !moves pre t then s
  else
    let s := outQueues.foldl (fun s q => hopOut pre s t q) s
    inQueues.foldl (fun s q =>
      ((destsOf (tileOf pre t).cfg q).filter (· != 24)).foldl (fun s d => passOn pre s t q d) s) s

/-! ### A tile's clk ends -/

/-- A queue at the end of a clk: a return whose time has come lands at the tail, the others come nearer, an entry of the ring is
owed a return where a hardware entry is free beyond those reserved, and what arrived becomes visible (R90, R104). -/
def Queue.settle (v : Queue) (q : Nat) : Queue :=
  let landed := (v.returns.filter (·.2 == 0)).map (·.1)
  let left := (v.returns.filter (·.2 != 0)).map fun r => (r.1, r.2 - 1)
  let hw := (v.hw ++ landed).map ({ · with fresh := false })
  { v with hw := hw, returns := left, owed := decide (0 < v.ringCnt ∧ hw.length + left.length < qDepth q) }

/-- True where a lane waits with a cause that the fabric watchdog counts (R110). -/
def LaneSt.fabricWait (l : LaneSt) : Bool := l.evaluated && l.cause.any (decide <| · ≤ 4)

/-- What a lane counts for a clk, by the numbers of Table 3-10 (R117): 0 FIRE, 1 IDLE, 2 + c cause c. A lane that is evaluated counts what it
waits for, a wait on another lane as R118 gives, or FIRE; one that is not counts SCAN or CONFIG where its tile is frozen, and IDLE where it
is halted, trapped, or waits for a step to start. -/
def laneTally (x : TileSt) (l : Nat) : Nat :=
  let lane := x.lane l
  if lane.evaluated && !lane.trapped then
    match firstCause (lane.waits.map (waitCause x 5)) with
    | some c => 2 + c
    | none => 0
  else if x.frozen && !lane.evaluated then (if x.config then 14 else 15)
  else 1

/-- Counts every lane of a tile once, and keeps the cause that it counted. -/
def countLanes (s : State) (t : Nat) : State :=
  let x := tileOf s t
  let s := (List.range 5).foldl (fun s l => hwBump s (kTile t (17 * l + laneTally x l)) 1) s
  setTile s t { x with core.lanes := x.core.lanes.zipIdx.map fun p =>
    { p.1 with cause := if 2 ≤ laneTally x p.2 then some (laneTally x p.2 - 2) else none } }

/-- Counts a queue that is full or empty (Table 3-10). -/
def countQueue (t : Nat) (x : TileSt) (s : State) (q : Nat) : State :=
  let n := (x.core.queue q).hw.length
  let s := hwBump s (kTile t (109 + q)) (b2n (decide (qDepth q ≤ n)))
  hwBump s (kTile t (133 + q)) (b2n (n == 0))

/-- The tile after the clk: `stalled` holds while every clk of the tread so far was without fabric progress (R90, R93, R110). -/
def TileSt.endClk (x : TileSt) : TileSt :=
  let still := !x.progress && x.core.lanes.any LaneSt.fabricWait
  let core := { x.core with lanes := x.core.lanes.map ({ · with evaluated := false, waits := [] }), lc0 := x.core.lc, flags0 := x.core.flags,
                            queues := mmap x.core.queues fun q v => v.settle q, wdog := if x.progress then 0 else x.core.wdog }
  { x with core := core, stalled := x.stalled && still, progress := false, pre := none, used := [] }

/-- True where a lane of a tile fired in this clk. -/
def TileSt.fired (x : TileSt) : Bool := x.core.lanes.any fun l => l.evaluated && l.waits.isEmpty && !l.trapped

/-- A lane that waits for its unit counts what holds the unit's operation back, where something does (R38, R41, R117). -/
def addWaits (s : State) (t l : Nat) (c : Option Nat) : State :=
  match c with
  | none => s
  | some c => setLane s t l fun y => if y.waits.contains 0xE then { y with waits := y.waits ++ [c] } else y

/-- One clk of the units of a tile: the matrix engine, the vector unit, the T2 path and the gallery port (R37). -/
def unitsTick (s : State) (t : Nat) : State :=
  let m := mxeTick s t
  let s := setLane (addWaits m.1 t 0 m.2) t 1 fun y => { y with busy := y.busy - 1 }
  let p := t2Tick s t
  let g := galTick (addWaits p.1 t 3 p.2) t
  addWaits g.1 t 4 g.2

/-- What a tile does in a clk: every lane evaluates its instruction, if no command has named it (R89; DESIGN CHOICE,
notes/assumptions/5.md), spill returns that are owed start, and the units go on. -/
def runTile (s : State) (t : Nat) : State :=
  let s := (List.range 5).foldl (runLane t) s
  if unitRuns s t then unitsTick (inQueues.foldl (fun s q => startReturn s t q) s) t else s

/-- A tile of the first stage whose lanes have all halted is rearmed for the next micro-batch, its step flags kept (R132, R205). -/
def nextMicro (s : State) (k : Nat) (i : Inst) : State :=
  let ts := instTiles i
  i.work.micro.foldl (fun s m =>
    let t := ts.getD m.1 0
    let x := tileOf s t
    if x.frozen || x.core.drain.isSome || x.core.lanes.any fun l => !l.halted || l.trapped || l.op.isSome then s
    else
      let s := setTile s t (rearmKeep x)
      { s with insts := madj s.insts k fun i =>
          { i with work.micro := if m.2 = 1 then merase i.work.micro m.1 else mset i.work.micro m.1 (m.2 - 1) } }) s

/-- A region that has drained with layer-group passes left is rearmed for the next one: the initial scalar that holds the weight base takes
the pass's value first, and the pass's work lists are written (R132, R247; notes/assumptions/99.md). -/
def nextPass (s : State) (k : Nat) (i : Inst) : State :=
  let ts := instTiles i
  if i.work.passes = 0 ∨ !i.work.micro.isEmpty ∨ i.stalled ∨ !regionDrained s i ∨ ts.any fun t => (tileOf s t).frozen then s
  else
    let pass := layerPasses i.uid - i.work.passes
    let s := ts.zipIdx.foldl (fun s t =>
      let x := rearmKeep (tileOf s t.1)
      setTile s t.1 { x with core.s := mset x.core.s (passReg i.uid % 32) (passBase i.uid pass t.2) }) s
    let s := { s with insts := mset s.insts k { i with work := { passes := i.work.passes - 1, micro := (stepWork s i).micro } } }
    (mget s.groups (groupKey i.ctx i.group)).elim s fun g => expandPass s g k i pass

/-- Firmware carries the steps of the instances on: micro-batches, then layer-group passes (R132, R205). -/
def carryOn (s : State) : State :=
  if !coresRun s then s
  else (s.insts.filter fun i => i.2.running).foldl (fun s i =>
    let s := nextMicro s i.1 i.2
    (mget s.insts i.1).elim s (nextPass s i.1)) s

/-- One clk of every tile that holds anything (R89, R117). -/
def clkArray (s : State) : State :=
  let s := (s.tiles.map (·.1)).foldl runTile s
  let s := { s with busy := s.busy || s.tiles.any (·.2.fired) }
  let s := (s.tiles.map (·.1)).foldl (fun s t =>
    (List.range 24).foldl (countQueue t (tileOf s t)) (countLanes s t)) s
  let s := (s.tiles.map (·.1)).foldl (moveTile s) s
  carryOn { s with tiles := mmap s.tiles fun _ x => x.endClk, clks := s.clks + 1 }

/-! ### Links -/

/-- True where a packet that waits could leave through link `k` but for its credits (Table 12-20 CREDIT_WAIT). -/
def creditWait (s : State) (k : Nat) : Bool :=
  let l := linkOf s k
  l.isUp && s.net.out.any fun p =>
    decide (l.credit (4 * p.cls) < frameCredits s l p) &&
      match s.net.record with
      | none => false
      | some r =>
        match r.members[s.net.index]?, r.members[p.dst]? with
        | some me, some m => if m.onTorus then l.role == 1 && (productive r me m).contains l.face else l.role == 2
        | _, _ => false

/-- Counts the links that hold a packet back for credits. -/
def clkLinks (s : State) : State :=
  if s.net.out.isEmpty then s
  else ((List.range 24).filter (creditWait s)).foldl (fun s k => hwBump s (kLink k 11) 1) s

/-! ### A tread's end -/

/-- A tile at a tread's end: one more whole tread without fabric progress (R110). -/
def TileSt.endTread (x : TileSt) : TileSt :=
  { x with core.wdog := x.core.wdog + b2n x.stalled, stalled := true }

/-- The next tread of the time base (R472, R474, R476). -/
def TimeBase.next (t : TimeBase) : TimeBase :=
  { t with ticks := t.ticks + 1, tread := if t.loaded then (t.tread + 1) % 2 ^ 64 else t.tread, edgeSeen := t.edgeEarly,
           edgeEarly := false, load := t.load.map fun w => { w with treads := w.treads + 1 },
           holdTreads := if t.holdover then satAdd (2 ^ 32 - 1) t.holdTreads 1 else t.holdTreads }

/-- True where a step started in the present tread, a lane fired or a scan ran (R529). -/
def treadBusy (s : State) : Bool :=
  s.busy || s.dbg.scanBusy

/-- Newel's load over the last flight, in thousandths by class, which the spec leaves to the firmware: free values that sum to
at most 1,000 (Table 17-13). -/
def newelLoad (s : State) : State :=
  let a := freeValue s.fv % 1001
  let b := freeValue (s.fv + 1) % (1001 - a)
  let c := freeValue (s.fv + 2) % (1001 - a - b)
  let d := freeValue (s.fv + 3) % (1001 - a - b - c)
  { s with tr.loadPm := [a, b, c, d], fv := s.fv + 4 }

/-- A tread ends and the next begins (R473, R498, R513, R529). -/
def endTread (s : State) : State :=
  let idle := if treadBusy s then 0 else s.ps.idle + 1
  let s := hwBump s (kPow 14) (b2n s.time.holdover)
  let s := { s with clk := 0, time := s.time.next, ps.idle := idle, busy := false, pw.energyUj := s.pw.energyUj + s.pw.drawW,
                    life.flightMv := max s.life.flightMv (voltMv s s.pw.now), tiles := mmap s.tiles fun _ x => x.endTread }
  if s.time.loaded ∧ s.time.tread % 4096 = 0 ∧ s.tr.fwRunning then newelLoad s else s

/-- One clk. A module without its supply does nothing. Descriptors of reserved opcodes that have come up complete (R433). -/
def tick (s : State) : State :=
  unfused s <| if !s.sup.on then s
  else
    let s := clkLinks (if arrayRuns s then clkArray s else s)
    let s := if coresRun s then rejectReserved s else s
    let s := { s with w1c := [] }
    if freqMhz s.pw.now ≤ s.clk + 1 then endTread s else { s with clk := s.clk + 1 }

end Sys2Proof.Machine
end

