-- ==== Sys2Proof/Machine/Reads.lean ====
section
/-!
DEFINITION. What a host read of BAR0 or BAR2, and a private read on I3C, return (00 R7, R14, R20; 13 R418, R430; 16 R510; 18 R557 to R567,
Tables 18-1 to 18-12; 19 R584, Table 19-13). The command
table has a row for STATUS alone, and a read changes nothing: `readBar0` and `readI3c` say what each register shows in a state.
-/
namespace Sys2Proof.Machine

/-- A self-test result record (Table 16-11). -/
def ResultRec.image (r : ResultRec) : Bytes :=
  let b := leBytes 8 r.tread ++ leBytes 1 r.target ++ leBytes 1 r.verdict ++ leBytes 1 r.program ++ [0] ++ leBytes 2 r.unit ++
    leBytes 2 0 ++ leBytes 4 r.address ++ leBytes 2 r.bit ++ leBytes 2 (ofInt 16 r.margin) ++ leBytes 4 (min (2 ^ 32 - 1) r.errors)
  b ++ leBytes 4 (crc32 b)

/-- The records of the log that LOG_CTL selects, newest first (Table 16-6); the lifetime record shows as four (R510). -/
def logShown (s : State) : List Bytes :=
  match s.dbg.logSel with
  | 0 => s.store.eventLog.map LogRec.bytes
  | 1 => s.store.resultLog.map ResultRec.image
  | 2 => (List.range 4).map fun k => slice (LifeRec.bytes s.life.cur) (32 * k) 32
  | _ => s.store.forceLog.map LogRec.bytes

/-- Records held in the selected log; one lifetime record (Table 16-6). -/
def logHeld (s : State) : Nat := if s.dbg.logSel = 2 then 1 else (logShown s).length

/-- Fewest spares of one kind left in any slice (Table 18-8). -/
def sparesLeft (s : State) (kind : Nat) : Nat :=
  ((s.store.repairMap ++ s.store.stackRows ++ s.mem.soft).filter (·.kind == kind)).foldl (fun m r => min m (spares kind - repairsOf s kind r.unit)) (spares kind)

/-- A word of port `p`'s page through that port (Tables 13-4, 13-8, 13-9). -/
def readPortWord (s : State) (p o : Nat) : Nat :=
  let po := portOf s p
  if o = 0 then
    portWord s p o + po.width * 2 ^ 8 + po.speed * 2 ^ 13 + b2n (decide (p = 0)) * 2 ^ 15 + po.dbErr * 2 ^ 48
  else if 0x400 ≤ o ∧ (o - 0x400) % 0x30 / 8 = 1 then portWord s p o + (qpOf s p ((o - 0x400) / 0x30)).sqHead * 2 ^ 32
  else portWord s p o

/-- A word of link `k`'s registers (Tables 12-10 to 12-14). -/
def readLinkWord (s : State) (k o : Nat) : Nat :=
  let l := linkOf s k
  if o = 0x10 then
    l.state + l.lanes * 2 ^ 3 + b2n (macsecOn s l && l.sak.isSome) * 2 ^ 7 + l.cause * 2 ^ 8 + l.peerIndex * 2 ^ 12 +
      l.peerLink * 2 ^ 25 + l.delay * 2 ^ 32 + l.downs * 2 ^ 48
  else if o = 0x20 then linkWord s k o + l.an * 2 + l.keyN * 2 ^ 32
  else linkWord s k o

/-- `DEV_ID` to `CAP_LINK` (R7, Tables 18-3 to 18-7). -/
def readIdWord (s : State) (a : Nat) : Nat :=
  match a with
  | 0x00 => 0x0D24 + 1 * 2 ^ 16 + (match s.fuses.order with | .lx => 1 | .ls => 2) * 2 ^ 32
  | 0x08 => 0x11 + 1 * 2 ^ 8
  | 0x10 => 0x20 + 0x40 * 2 ^ 8 + 8 * 2 ^ 16 + 0xF * 2 ^ 20 + 0xFF * 2 ^ 24 + 0x20 * 2 ^ 32 + 0x10 * 2 ^ 40 + 0x1000 * 2 ^ 48
  | 0x18 => 0x200 + 8 * 2 ^ 16 + 0x18 * 2 ^ 32 + t3Gib s / 24 * 2 ^ 40 + t3Gib s * 2 ^ 48
  | 0x20 => 0x18 + 0x3F * 2 ^ 8 + 4 * 2 ^ 16 + 0x10 * 2 ^ 24 + 0x40 * 2 ^ 32 + 0x80 * 2 ^ 40
  | _ => 0

/-- Resets, faults, time, power and cooling (Tables 15-1, 15-5, 17-3, 17-5, 17-14). -/
def readPlantWord (s : State) (a : Nat) : Nat :=
  let p := s.pw
  if 0x20000 ≤ a ∧ a < 0x20080 then
    let n := (a - 0x20000) / 8
    freqMhz n + voltMv s n * 2 ^ 16 + ratedW n * 2 ^ 32
  else match a with
  | 0x100 => s.flt.lastReset * 2 ^ 8
  | 0x108 =>
    b2n s.flt.sliceStopped + b2n s.flt.faulted * 2 + b2n s.flt.newelWdog * 2 ^ 2 + b2n s.flt.warmReq * 2 ^ 3 +
      b2n s.flt.secondFault * 2 ^ 4 + s.flt.cause * 2 ^ 8 + s.flt.stopTread % 2 ^ 32 * 2 ^ 32
  | 0x10000 => nowTread s
  | 0x10018 =>
    b2n s.time.pulseOk + b2n s.time.holdover * 2 + b2n s.time.loaded * 2 ^ 2 + b2n s.time.mismatch * 2 ^ 3 + s.time.source * 2 ^ 4 +
      ofInt 16 s.time.offset * 2 ^ 16 + s.time.holdTreads * 2 ^ 32
  | 0x10020 => 0x1000
  | 0x20090 => p.capW + p.capOp * 2 ^ 12 + p.capSeq * 2 ^ 16 + p.capRx % 2 ^ 32 * 2 ^ 32
  | 0x20098 =>
    p.now + p.volt * 2 ^ 4 + p.sliceOp * 2 ^ 8 + b2n p.overrun * 2 ^ 12 + b2n p.failsafe * 2 ^ 13 + b2n p.brake * 2 ^ 14 +
      b2n p.coolantStop * 2 ^ 15 + b2n p.avgLimited * 2 ^ 16 + b2n p.thermal * 2 ^ 17 + b2n p.pulled * 2 ^ 18 +
      (if p.overrun then (nowTread s + (p.holdEnd - s.time.ticks)) % 2 ^ 32 else 0) * 2 ^ 32
  | 0x200A8 => moduleWord s a + 0x898 * 2 ^ 16 + p.burnW * 2 ^ 32
  | 0x200B0 => p.energyUj
  | 0x200B8 => moduleWord s a + s.ps.state * 2 ^ 4 + s.ps.result * 2 ^ 7
  | _ => moduleWord s a

/-- Tiers, codes, security and life cycle (Tables 6-6 to 6-13, 14-9 to 14-11, 18-8, 18-9). -/
def readStoreWord (s : State) (a : Nat) : Nat :=
  let m := s.mem
  let f := s.fuses
  match a with
  | 0x30000 =>
    b2n m.t2Ready + sparesLeft s 0 * 2 ^ 8 + sparesLeft s 1 * 2 ^ 14 + sparesLeft s 2 * 2 ^ 19 + 0x7C0000 * 2 ^ 32
  | 0x30008 => b2n m.t3Ready + b2n s.tr.t3Key.isSome * 2 + m.stacksOk * 2 ^ 8 + m.initGib * 2 ^ 32
  | 0x30028 =>
    m.poisonLog.length + b2n m.poisonLost * 2 ^ 9 + (m.poisonLog.getLast?.elim 0 fun r => r.tread % 2 ^ 48) * 2 ^ 16
  | 0x30030 => moduleWord s a + b2n m.repBusy * 2 ^ 5 + m.repResult * 2 ^ 6
  | 0x50000 =>
    f.lc.code + b2n s.tr.fwRunning * 2 ^ 3 + b2n s.tr.debugUnlocked * 2 ^ 4 + b2n (ownerHeld s).isSome * 2 ^ 5 +
      b2n (s.ctxs.any fun c => c.2.isSealed) * 2 ^ 6 + b2n (s.store.cert.isSome && f.lc != .blank && f.lc != .scrapped) * 2 ^ 7 +
      s.tr.fwSvn * 2 ^ 8
  | 0x50008 => f.ownerUsed + f.svnUsed * 2 ^ 4 + f.repairUsed * 2 ^ 10 + f.debugUsed * 2 ^ 14 + f.log.length * 2 ^ 17
  | 0x50020 => moduleWord s a + s.mb.status * 2 ^ 16
  | 0x50038 => s.mb.result
  | _ => moduleWord s a

/-- Telemetry and debug (R510, R564, Tables 11-9, 16-6, 16-12 to 16-15, 17-13, 18-10 to 18-12). -/
def readDebugWord (s : State) (a : Nat) : Nat :=
  let d := s.dbg
  if 0x60060 ≤ a ∧ a < 0x60080 then leNat (slice ((logShown s).getD d.logIndex []) (a - 0x60060) 8)
  else if 0x61000 ≤ a ∧ a < 0x61600 then
    let k := (a - 0x61000) / 8
    if k < 181 then (tileCtr s d.stallTile k).raw else 0
  else match a with
  | 0x60030 => moduleWord s a + d.qdTail * 2 ^ 32
  | 0x60048 => logHeld s
  | 0x60080 =>
    (s.tr.loadPm.zipIdx.map fun x => x.1 * 2 ^ (10 * x.2)).sum + (s.taken.filter fun t => t.2.op == 0x80).length * 2 ^ 40
  | 0x60088 => moduleWord s a + s.st.slot * 2 ^ 32 + b2n s.st.slotValid * 2 ^ 34
  | 0x60090 =>
    s.st.nextSlice + b2n s.st.running * 2 ^ 8 + b2n s.st.fail * 2 ^ 9 + b2n s.st.marginal * 2 ^ 10 + s.st.passes * 2 ^ 32
  | 0x70000 => moduleWord s a + s.sf.result * 2 ^ 16
  | 0x70020 => moduleWord s a + b2n d.scanBusy * 2 ^ 4 + d.scanResult * 2 ^ 5
  | 0x70040 => moduleWord s a + b2n s.st.ctlBusy * 2 ^ 9 + s.st.ctlResult * 2 ^ 10
  | _ => moduleWord s a

/-- The word at `a`, a multiple of 8, as port `p` reads it (R418, R560, R567, Table 18-1). -/
def readWord (s : State) (p a : Nat) : Nat :=
  if s.fuses.lc = .scrapped then if a = 0x50000 then s.fuses.lc.code else 0
  else if 0x4000 ≤ a ∧ a < 0x8000 then if (a - 0x4000) / 0x1000 = p then readPortWord s p (a % 0x1000) else 0
  else if 0x60000 ≤ a ∧ p ≠ 0 then 0
  else if a < 0x100 then readIdWord s a
  else if a < 0x30000 then readPlantWord s a
  else if 0x40000 ≤ a ∧ a < 0x46000 then readLinkWord s ((a - 0x40000) / 0x400) (a % 0x400)
  else if a < 0x60000 then readStoreWord s a
  else readDebugWord s a

/-- A host read of BAR0 through a port: none where the access is unsupported, that is neither 4 nor 8 bytes or not aligned (R557);
a 4-byte read gives the half that it addresses (R558). -/
def readBar0 (s : State) (p : Port) (off size : Nat) : Option W64 :=
  if ¬ (size = 4 ∨ size = 8) ∨ off % size ≠ 0 then none
  else
    let w := readWord s p (off / 8 * 8) % 2 ^ 64
    some (BitVec.ofNat 64 (if size = 8 then w else if off % 8 = 0 then w % 2 ^ 32 else w / 2 ^ 32))

/-- A host read of BAR2: doorbells are write-only (R430). -/
def readBar2 (_s : State) (_p : Port) (_off : Nat) : W64 := 0

/-- A private read on I3C: the register that the last write indexed, from byte 0; none while the module does not answer, and for an
index without a register that may be read (R581, R584, Table 19-13). -/
def readI3c (s : State) : Option Bytes :=
  if !s.sup.pwrgood then none
  else match s.i3c.index with
    | 0 => some (leBytes 4 (readIdWord s 0 % 2 ^ 32))
    | 1 => some (i3cStatus s)
    | 5 => some (leBytes 8 (nowTread s))
    | 6 => some (leBytes 4 (s.pw.drawW % 2 ^ 12 + ofInt 8 s.sup.dieC * 2 ^ 12))
    | _ => none

end Sys2Proof.Machine
end

