-- ==== Sys2Proof/Safety.lean ====
section
/-!
DEFINITION. What the claims speak of: the memory's canonical form, the module's one-way fuses, and safe runs.
-/
namespace Sys2Proof.Machine

/-- Memories in canonical form (notes/assumptions/4.md). -/
def Memory.wf (m : Memory) : Bool := memWf m.t1 && memWf m.t2 && memWf m.t3

/-- The bytes of the memories. -/
def State.bytes (s : State) : Mem × Mem × Mem := (s.mem.t1, s.mem.t2, s.mem.t3)

/-- Partner memory, as far as the module has written it, in canonical form. -/
def State.partnersWf (s : State) : Bool := s.pmem.all fun p => memWf p.2

/-- How far along its states a module is: no more transitions lie behind it (Table 14-5). -/
def LcState.rank : LcState → Nat
  | .blank => 0
  | .manufacture => 1
  | .provisioned => 2
  | .deployed => 3
  | .returned => 4
  | .scrapped => 5

/-- The transitions of Table 14-5 that change the state. -/
def LcState.leadsTo (a b : LcState) : Bool :=
  match a, b with
  | .blank, .manufacture => true
  | .manufacture, .provisioned => true
  | .provisioned, .deployed => true
  | .deployed, .returned => true
  | .blank, .scrapped => true
  | .manufacture, .scrapped => true
  | .provisioned, .scrapped => true
  | .deployed, .scrapped => true
  | .returned, .scrapped => true
  | _, _ => false

/-- The fuses hold no more than there are: each limited count is within Table 14-7, and the fused log has an entry for each count
and for no more transitions than lead to the state (R457). -/
def Fuses.wf (f : Fuses) : Prop :=
  f.ownerUsed ≤ 15 ∧ f.svnUsed ≤ 63 ∧ f.repairUsed ≤ 8 ∧ f.debugUsed ≤ 4 ∧
    f.log.length ≤ f.lc.rank + f.ownerUsed + f.svnUsed + f.repairUsed + f.debugUsed

/-- Fuses only move forward (R451, R455): the state stands or takes a transition of Table 14-5, no count falls, and no entry of the
fused log is lost or changed. -/
def Fuses.forward (a b : Fuses) : Prop :=
  (b.lc = a.lc ∨ a.lc.leadsTo b.lc = true) ∧ a.ownerUsed ≤ b.ownerUsed ∧ a.svnUsed ≤ b.svnUsed ∧ a.repairUsed ≤ b.repairUsed ∧
    a.debugUsed ≤ b.debugUsed ∧ a.log <+: b.log ∧ a.order = b.order ∧ a.voltMv = b.voltMv

/-! ### Descriptors -/

/-- Descriptor `d`, which is `t`, may start, and passes the checks that come before an opcode's own: opcode, life-cycle state, reserved
bits outside `named` (R15, R433, R435, R437). -/
def State.starts (s : State) (d : Nat) (t : Taken) (named : List (Nat × Nat)) : Prop :=
  mget s.taken d = some t ∧ mayStart s d t = true ∧ coresRun s = true ∧ headStatus s t named = stOk

/-- The descriptor that a command stands for: its number, what the row asks of it, and the body fields that its opcode names
(Tables 13-10 and 13-11). -/
def descriptorOf : Instr → Option (Nat × (Taken → Bool) × List (Nat × Nat))
  | .nop d => some (d, (·.op == 0x01), [])
  | .fence d => some (d, (·.op == 0x02), [])
  | .pkgStage d _ => some (d, (·.op == 0x10), [(8, 28)])
  | .pkgAdmit d _ _ => some (d, (·.op == 0x11), [(8, 20)])
  | .pkgEvict d => some (d, (·.op == 0x12), [(8, 4)])
  | .harnessLoad d _ => some (d, (fun t => t.op == 0x20 && byteAt t.bytes 8 % 2 == 0), loadFields)
  | .harnessRelease d => some (d, (fun t => t.op == 0x20 && byteAt t.bytes 8 % 2 == 1), loadFields)
  | .overlayRegister d _ => some (d, (fun t => t.op == 0x21 && byteAt t.bytes 8 == 0), registerFields)
  | .overlaySwitch d => some (d, (fun t => t.op == 0x21 && byteAt t.bytes 8 == 1), switchFields)
  | .harnessBind d _ => some (d, (fun t => t.op == 0x22 && byteAt t.bytes 8 % 2 == 0), bindFields)
  | .harnessUnbind d => some (d, (fun t => t.op == 0x22 && byteAt t.bytes 8 % 2 == 1), bindFields)
  | .reqOpen d _ _ => some (d, (·.op == 0x30), openFields)
  | .reqAppend d _ => some (d, (·.op == 0x31), appendFields)
  | .reqCancel d => some (d, (·.op == 0x32), ridFields)
  | .reqClose d => some (d, (·.op == 0x33), ridFields)
  | .adapterLoad d _ => some (d, (·.op == 0x40), adLoadFields)
  | .adapterRetire d => some (d, (·.op == 0x41), adRetireFields)
  | .runGraph d _ => some (d, (·.op == 0x50), graphFields)
  | .syncSetArrive d => some (d, isSync 0x60 0, setFields)
  | .syncSetAdd d => some (d, isSync 0x60 1, setFields)
  | .syncSetPost d => some (d, isSync 0x60 6, setFields)
  | .syncSetBase d => some (d, isSync 0x60 7, setFields)
  | .syncWaitWait d => some (d, isSync 0x61 2, waitFields)
  | .syncWaitAcquire d => some (d, isSync 0x61 5, waitFields)
  | .moveRelocate d => some (d, isMove 0, moveFields)
  | .moveImport d _ => some (d, isMove 1, moveFields)
  | .moveExport d => some (d, isMove 2, moveFields)
  | .moveAlloc d => some (d, isMove 3, moveFields)
  | .moveFree d => some (d, isMove 4, moveFields)
  | .attest d => some (d, (·.op == 0x80), [(8, 12), (24, 32)])
  | .keyImport d _ => some (d, (fun t => t.op == 0x81 && fld t.bytes 16 4 != 0), [(8, 16)])
  | .keyClear d => some (d, (fun t => t.op == 0x81 && fld t.bytes 16 4 == 0), [(8, 16)])
  | .ctxSave d => some (d, (·.op == 0x90), saveFields)
  | .ctxRestore d _ => some (d, (·.op == 0x91), restoreFields)
  | .telemetrySnap d => some (d, (·.op == 0xA0), [(8, 8), (16, 4), (20, 4), (24, 8)])
  | _ => none

/-! ### Lanes -/

/-- The tile, the lane and the instructions that a lane command stands for (Tables 3-2 and 3-15, Table 11-6). -/
def laneOf : Instr → Option (Nat × Nat × (InstrWord → Bool))
  | .instrNop t l => some (t, laneIx l, (opcodeOf · == 0x00))
  | .setlc t l => some (t, laneIx l, (opcodeOf · == 0x01))
  | .setf t l => some (t, laneIx l, (opcodeOf · == 0x02))
  | .clrf t l => some (t, laneIx l, (opcodeOf · == 0x03))
  | .jump t l => some (t, laneIx l, (opcodeOf · == 0x04))
  | .halt t l => some (t, laneIx l, (opcodeOf · == 0x05))
  | .send t l => some (t, laneIx l, (opcodeOf · == 0x06))
  | .eos t l => some (t, laneIx l, (opcodeOf · == 0x07))
  | .mxeOp t => some (t, 0, (opcodeOf · == 0x10))
  | .merge t => some (t, 0, (opcodeOf · == 0x11))
  | .vop t => some (t, 1, (opcodeOf · == 0x20))
  | .sop t => some (t, 2, (opcodeOf · == 0x30))
  | .syncArrive t => some (t, 2, fun w => opcodeOf w == 8 && (iw w 83 80 == 0 || decide (7 ≤ iw w 83 80)))
  | .syncAdd t => some (t, 2, fun w => opcodeOf w == 8 && iw w 83 80 == 1)
  | .syncWait t => some (t, 2, fun w => opcodeOf w == 8 && iw w 83 80 == 2)
  | .take t => some (t, 2, fun w => opcodeOf w == 8 && iw w 83 80 == 3)
  | .complete t => some (t, 2, fun w => opcodeOf w == 8 && iw w 83 80 == 4)
  | .acquire t => some (t, 2, fun w => opcodeOf w == 8 && iw w 83 80 == 5)
  | .post t => some (t, 2, fun w => opcodeOf w == 8 && iw w 83 80 == 6)
  | .t2Read t => some (t, 3, (opcodeOf · == 0x40))
  | .t2Write t => some (t, 3, (opcodeOf · == 0x41))
  | .galGet t => some (t, 4, (opcodeOf · == 0x50))
  | .galPut t => some (t, 4, (opcodeOf · == 0x51))
  | _ => none

/-- Lane `l` of tile `t` has instruction `w` at its program counter and evaluates it in this clk: tiles run and its step is under way, the tile is not frozen, the
lane is neither halted nor done for this clk (R89, R124). -/
def State.evaluates (s : State) (t l : Nat) (w : InstrWord) : Prop :=
  mhas s.tiles t = true ∧ lanesRun s t = true ∧ (tileOf s t).frozen = false ∧ ((tileOf s t).lane l).halted = false ∧
    ((tileOf s t).lane l).evaluated = false ∧ mget (tileOf s t).cfg.prog ((tileOf s t).lane l).pc = some w

/-- Lane `l` evaluates instruction `w` and reads it from the program store, which leaves the state `r` (R89, R208). -/
def State.reads (s r : State) (t l : Nat) (w : InstrWord) : Prop :=
  s.evaluates t l w ∧ progRead s t ((tileOf s t).lane l).pc = (.val 0, r)

/-- What the T1 accesses of instruction `w` have been served after this clk, and the banks that they take in it (R38). -/
def State.served (r : State) (t l : Nat) (w : InstrWord) : Nat × Nat :=
  serveBanks (t1Needs (tileOf r t).core w) ((tileOf r t).lane l).served (takenBanks r t (l + 1))

/-- What keeps instruction `w` waiting for T1 (R38). -/
def State.bankWaits (r : State) (t l : Nat) (w : InstrWord) : List Nat :=
  bankCauses (t1Needs (tileOf r t).core w) ((tileOf r t).lane l).served (takenBanks r t (l + 1))

/-- Lane `l` fires instruction `w` in this clk, and its action starts from the state `u`: nothing of Table 3-9 holds it back, and T1 serves the
last of its accesses (R89, R90, R117). -/
def State.fires (s u : State) (t l : Nat) (w : InstrWord) : Prop :=
  ∃ r, s.reads r t l w ∧ laneCauses r t l w = [] ∧ r.bankWaits t l w = [] ∧ u = useBanks r t (l + 1) (r.served t l w).2

/-- The end of an instruction that has fired: consumed tokens leave, DEC and BR act, the lane moves on (R91). -/
def State.fired (s : State) (t l : Nat) (w : InstrWord) : State := advanceLane (consumeTokens s t w) t l w

/-! ### Views that leave out what a shared operation writes -/

/-- The state but for what an event writes: event rings, partner memory, interrupts, the log to be written, counters (R439). -/
def State.butEvents (s : State) : State := { s with ports := [], pmem := [], pmemBad := [], msix := [], hwc := [], evPend := [] }

/-- The state but for the network and its counters: what sending a message writes (R380). -/
def State.butNet (s : State) : State := { s with net := .reset, hwc := [] }

/-- The state but for what a completion or token record writes: queue pairs, partner memory, interrupts, counters (R427, R438). -/
def State.butRings (s : State) : State := { s with qps := [], pmem := [], pmemBad := [], msix := [], hwc := [] }

/-- The state but for what the end of a descriptor writes: the descriptors taken, and what records and messages write (R179, R428). -/
def State.butDesc (s : State) : State := { s with taken := [], net := .reset, qps := [], pmem := [], pmemBad := [], msix := [], hwc := [] }

/-- The state but for the memories with what protects them, the W1C note of a full poison log, and events: what a read, a write or a rebuild
writes (R21, R212 to R225). -/
def State.butMemory (s : State) : State :=
  { s with mem := .reset, ports := [], pmem := [], pmemBad := [], msix := [], hwc := [], evPend := [], w1c := [] }

/-- The state but for the tiles and the counters: what a lane that only works on its own tile writes (R89, R117). -/
def State.butTiles (s : State) : State := { s with tiles := [], hwc := [] }

/-- The state but for the tiles, the counters and what reading a program store corrects or poisons in it (R208). -/
def State.butLane (s : State) : State := { s with tiles := [], hwc := [], mem.sramBad := [], mem.sramPoison := [] }

/-- The plant of a module, apart from its serving work: record store, supply, time base, power, lifetime, self-test, trust, mailbox,
ownership of queue pairs and windows, the split, memory windows, SYNC_FORCE and the power state. -/
structure Plant where
  store : Store
  sup : Supply
  time : TimeBase
  pw : Power
  life : Life
  st : SelfTest
  tr : Trust
  mb : Mailbox
  qpOwner : AMap Nat
  winOwn : AMap Nat
  split : Nat
  splitOn : Nat
  hdm : AMap HdmSt
  sf : SyncForce
  ps : Pstate

/-- The plant of a state. -/
def State.plant (s : State) : Plant := ⟨s.store, s.sup, s.time, s.pw, s.life, s.st, s.tr, s.mb, s.qpOwner, s.winOwn, s.split, s.splitOn, s.hdm, s.sf, s.ps⟩

/-- A run of `n` steps that meets no fault and no refusal. -/
def State.safeFor (s : State) (n : Nat) : Prop := ∃ t, Sys2Proof.core.run n s = .next t

end Sys2Proof.Machine
end

