-- ==== Sys2Proof/Certificates/Slice0/Obligations.lean ====
section
/-!
DEFINITION. The statements for the provers, from the numbered rules and tables of the spec: what each command does, where it completes,
and what no command changes.
-/
open Sys2Proof Sys2Proof.Machine

/-- One step takes the command at the front of the queue and runs it on the state with the queue's rest. The queue is the model's own
(notes/assumptions/5.md). -/
def Obligations.step_runs_front : Prop :=
  ∀ (c : Sys2Proof.Instr) (cs : List Sys2Proof.Instr) (s : Sys2Proof.Machine.State),
    Sys2Proof.Machine.step { s with pending := c :: cs } = Sys2Proof.Machine.exec c { s with pending := cs }

/-- The converter goes off at an undervoltage, an overvoltage and the shut-off temperature (R573, R587): fuses, the record store and
what partners hold stay, everything else is lost. -/
def Obligations.converter_goes_off : Prop :=
  ∀ (s : State) (dieC hbmC : Int), s.sup.on = true →
    let off (cause : OffCause) (fell : Bool) (d h : Int) : State :=
      { State.reset with
        fuses := s.fuses, store := s.store, fwc := forcedCount s, pmem := s.pmem, pmemBad := s.pmemBad, msix := s.msix, fv := s.fv, pending := s.pending,
        sup := { s.sup with on := false, pwrgood := false, off := cause, inputFell := fell, perst := true, coldBoot := true,
                            booted := false, dieC := d, hbmC := h } }
    exec .inputUndervoltageLockout s = .next (off .undervoltage true s.sup.dieC s.sup.hbmC) ∧
      exec .inputOvervoltageShutoff s = .next (off .overvoltage false s.sup.dieC s.sup.hbmC) ∧
      (120 ≤ dieC ∨ 110 ≤ hbmC → exec (.thermalShutoff dieC hbmC) s = .next (off .thermal false dieC hbmC))

/-- A module that is off comes on (R512, R572, R573, R587, R598). -/
def Obligations.cold_power_on_result : Prop :=
  ∀ (s : State), s.sup.on = false →
    let r := s.store.life
    let up : State := standingCauses
      { State.reset with
        fuses := s.fuses, store := s.store, fwc := forcedCount s, pmem := s.pmem, pmemBad := s.pmemBad, msix := s.msix, fv := s.fv, pending := s.pending,
        sup := { s.sup with on := true, pwrgood := true, off := .none, inputFell := false, perst := true, coldBoot := true,
                            booted := false },
        life := { Life.reset with cur := { r with
          coldBoots := r.coldBoots + 1,
          uncleanOffs := if r.cleanOff = false ∧ 0 < s.store.lifeWrites then r.uncleanOffs + 1 else r.uncleanOffs } },
        evPend := [{ tread := 0, kind := 7, flags := 0, context := 0xFFFF, detail := List.replicate 16 0 }] }
    ((s.sup.off ≠ .overvoltage ∧ s.sup.off ≠ .thermal) ∨ s.sup.inputFell = true →
      exec .coldPowerOn s = .next (unfused s up)) ∧
    (s.sup.off = .overvoltage → exec .inputOvervoltageRecovery s = .next (unfused s up))

/-- Boot (R417, R449, R190, Table 17-7 steps 4 to 6). The T3 key is a free value (notes/assumptions/10.md). -/
def Obligations.boot_samples_split : Prop :=
  ∀ (s : State),
    (s.sup.pwrgood = true → s.sup.perst = true →
      (s.fuses.lc = .scrapped →
        exec .perstDeassertBoot s = .next { s with sup.perst := false, sup.coldBoot := false }) ∧
      (s.fuses.lc ≠ .scrapped →
        ∃ ports : AMap PortSt,
          (∀ p : Port, mgetD ports p .reset =
            { portOf s p with present := decide ((s.split = 0 ∧ p.val = 0) ∨ (s.split = 1 ∧ p.val < 2) ∨ s.split = 2) }) ∧
          let u := { s with sup.perst := false, sup.coldBoot := false, sup.booted := true, splitOn := s.split, ports := ports }
          exec .perstDeassertBoot s = .next (unfused s (
            if s.sup.coldBoot = true then { u with tr.t3Key := some (BitVec.ofNat 256 (freeValue s.fv)), fv := s.fv + 1 }
            else standingCauses { u with pw.brake := false, pw.tripOn := false, pw.coolantStop := false, pw.thermal := false })))) ∧
    (s.tr.fwRunning = true → s.mem.t2Ready = false → exec .t2InitComplete s = .next { s with mem.t2Ready := true }) ∧
    (s.tr.fwRunning = true → s.mem.t2Ready = true → s.mem.t3Ready = false → s.mem.initGib = 0 →
      ∀ failed : List (Fin 24),
        exec (.t3InitComplete failed) s =
          .next { s with
            mem.stacksOk := 24 - failed.eraseDups.length, mem.t3Ready := failed.isEmpty,
            mem.initGib := (match s.fuses.order with | .lx => 1152 | .ls => 768),
            mem.poison3 := (failedWords s failed.eraseDups).foldl addWord s.mem.poison3 })

/-- What a warm reset keeps and what it clears (R531, R533, Tables 17-2, 17-3, 17-6). -/
def Obligations.warm_reset_keeps_and_clears : Prop :=
  ∀ (s : State), s.sup.pwrgood = true →
    ∃ t, exec .warmReset s = .next t ∧
      (t.fuses = s.fuses ∧ t.store = s.store ∧ t.time = s.time ∧ t.life = s.life ∧ t.split = s.split ∧ t.tr.t3Key = s.tr.t3Key ∧
        t.pw.capW = s.pw.capW ∧ t.pw.capSeq = s.pw.capSeq ∧ t.pw.now = s.pw.now ∧ t.pw.floors = capRequests s.net.index s.pw.floors ∧
        t.st.en = s.st.en ∧ t.st.period = s.st.period ∧ t.st.running = false) ∧
      t.sup = { s.sup with perst := true, coldBoot := false, booted := false } ∧
      (t.tr.fwRunning = false ∧ t.tr.debugUnlocked = false ∧ t.mem.t1 = [] ∧ t.mem.poison1 = [] ∧
        (∀ a, reserveOff ≤ a % 2 ^ 23 → ∀ b, (a, b) ∉ t.mem.t2)) ∧
      (t.ports = [] ∧ t.qps = [] ∧ t.hdm = [] ∧ t.qpOwner = [] ∧ t.winOwn = [] ∧ t.taken = [] ∧ t.waits = [] ∧ t.insts = [] ∧
        t.groups = [] ∧ t.admits = [] ∧ t.adapters = [] ∧ t.objs = [] ∧ t.syncOut = [] ∧ t.tiles = [] ∧ t.streams = [] ∧
        t.movers = [] ∧ t.net = .reset ∧ t.hwc = [] ∧ t.fwc = forcedCount s) ∧
      (∀ c ∈ t.ctxs, c.2.isSealed = false) ∧ t.flt.lastReset = 1 ∧
      ∃ older, t.evPend = older ++ [⟨nowTread s, 8, 0, 0xFFFF, padTo 16 [1, 0xFF, 1]⟩]

/-- Tables 6-6 to 6-8, 6-10, 12-10 to 12-14, 13-8, 13-9, 14-9, 17-5 and R170, R561, R583. -/
def Obligations.reset_values : Prop :=
  let s := State.reset
  (∀ k : LinkIx, let l := linkOf s k
    l.en = false ∧ l.state = 0 ∧ l.role = 1 ∧ l.face = k.val / 4 ∧ l.degradeEn = true ∧ l.retryUs = 4 ∧ l.retryLimit = 8 ∧
      l.udpPort = 0xD24D ∧ l.srcBase = 0xC000 ∧ l.msEn = true ∧ l.ecnEn = true) ∧
    (∀ p : Port, portOf s p = .reset ∧ (portOf s p).eqLog2 = 0 ∧ (portOf s p).evMask = 0xFE ∧ (portOf s p).eqPhase = true) ∧
    (∀ k, (mgetD s.qps k .reset).en = false) ∧
    (s.mem.t2Size = 0x10 ∧ s.mem.t3Size = 0x40 ∧ s.mem.t2Leak = 0x100 ∧ s.mem.t3Leak = 0x10 ∧ s.mem.t2Scrub = true ∧
      s.mem.t3Scrub = true ∧ s.mem.t2Pass = 3600 ∧ s.mem.t3Pass = 86400) ∧
    (s.ps.autoA1 = true ∧ s.ps.idleTreads = 64 ∧ s.ps.state = 0) ∧ s.net.index = 0x1FFF ∧ s.net.record = none ∧
    s.tr.fwRunning = false ∧ s.tr.debugUnlocked = false ∧ s.time.loaded = false ∧ s.time.pulseOk = false ∧ s.hdm = [] ∧ s.i3c.ibiEn = true ∧
    s.mem.wf = true ∧ s.partnersWf = true ∧ (∀ tier a, readTier s tier a 1 = [0]) ∧ s.pending = []

/-- The commands of Table 14-12 but for grants, tokens and SVN_COMMIT (R449, R450, R458, R595; 16 Table 16-4). The challenge is a free value
(notes/assumptions/10.md); what firmware requests when it starts is notes/assumptions/79.md. -/
def Obligations.mailbox_commands_complete : Prop :=
  ∀ (s : State), s.fuses.lc ≠ .scrapped → s.sup.booted = true →
    let done (cmd len result : Nat) : Mailbox := { s.mb with cmd := cmd, len := len, status := stOk, result := result }
    let wrote (m : Mailbox) (out : Bytes) : State := pmWrite { s with mb := m } 0 s.mb.addr out
    (∀ b : Bytes, s.tr.fwRunning = false → fwStatus s b = stOk →
      exec (.fwLoad b) s = .next (unfused s (firmwareStart { s with
        mb := done 1 b.length 0,
        tr.fwRunning := true, tr.fwSvn := byteAt b 6, tr.measurement := sha3 (b.take 0x80), tr.newelDigest := digestAt b 0x40,
        mem.sramBad := mkeep s.mem.sramBad fun w _ => decide (w < sramKey),
        mem.sramPoison := s.mem.sramPoison.filter fun w => decide (w < sramKey) }))) ∧
    (s.tr.fwRunning = true →
      (∀ b : Bytes, s.time.loaded = false → exec (.sliceRecord b) s = .next { s with mb := { done 2 b.length 0 with status := eBusy } }) ∧
      (∀ b : Bytes, s.time.loaded = true → sliceRecordOk s b = true →
        ∃ t, exec (.sliceRecord b) s = .next t ∧
          t = unfused s (mbReply (takeRecord { s with mb.cmd := 2, mb.len := b.length } (recordOf b)) stOk
            (takeRecord { s with mb.cmd := 2, mb.len := b.length } (recordOf b)).net.index)) ∧
      ((s.store.cert.getD []).length ≤ s.mb.len →
        exec .certRead s = .next (wrote (done 4 s.mb.len (s.store.cert.getD []).length) (s.store.cert.getD []))) ∧
      ((fusedLogBytes s).length ≤ s.mb.len →
        exec .logRead s = .next (wrote (done 5 s.mb.len (fusedLogBytes s).length) (fusedLogBytes s))) ∧
      (32 ≤ s.mb.len →
        ∃ c : Digest, exec .challenge s = .next { wrote (done 6 s.mb.len 32) (leBytes 32 c.toNat) with
          tr.challenge := some c, fv := s.fv + 1 }) ∧
      (∀ b : Bytes, s.fuses.lc = .manufacture → chainValid b (idkPub s) = true →
        exec (.certInstall b) s = .next { s with
          mb := done 7 b.length 0, store.cert := some b, store.identity := some (nowTread s, (utcNow s).getD 0) }) ∧
      exec .debugLock s = .next { s with mb := done 0x12 s.mb.len 0, tr.debugUnlocked := false })

/-- When the mailbox does not serve (R567, R595). The rows of one command act on what is theirs (notes/assumptions/11.md):
CONTEXT_GRANT and CONTEXT_REVOKE, and the TOKEN rows, by ACTION. -/
def Obligations.mailbox_not_served : Prop :=
  ∀ (s : State) (c : Instr) (cmd len : Nat),
    (match c with
      | .fwLoad b => cmd = 1 ∧ len = b.length
      | .sliceRecord b => cmd = 2 ∧ len = b.length
      | .contextGrant b => cmd = 3 ∧ len = b.length ∧ byteAt b 3 ≠ 2
      | .contextRevoke b => cmd = 3 ∧ len = b.length ∧ byteAt b 3 = 2 ∧ grantForm b = true
      | .certRead => cmd = 4 ∧ len = s.mb.len
      | .logRead => cmd = 5 ∧ len = s.mb.len
      | .challenge => cmd = 6 ∧ len = s.mb.len
      | .certInstall b => cmd = 7 ∧ len = b.length
      | .toManufacture b => cmd = 0x10 ∧ len = b.length ∧ byteAt b 6 = 7
      | .toProvisioned b => cmd = 0x10 ∧ len = b.length ∧ byteAt b 6 = 6
      | .ownerClaim b => cmd = 0x10 ∧ len = b.length ∧ byteAt b 6 = 1
      | .ownerTransfer b => cmd = 0x10 ∧ len = b.length ∧ byteAt b 6 = 2
      | .debugUnlock b => cmd = 0x10 ∧ len = b.length ∧ byteAt b 6 = 3
      | .toReturn b => cmd = 0x10 ∧ len = b.length ∧ byteAt b 6 = 4
      | .toScrapped b => cmd = 0x10 ∧ len = b.length ∧ byteAt b 6 = 5
      | .svnCommit => cmd = 0x11 ∧ len = s.mb.len
      | .debugLock => cmd = 0x12 ∧ len = s.mb.len
      | _ => False) →
    (s.fuses.lc = .scrapped → exec c s = .next s) ∧
      (s.fuses.lc ≠ .scrapped → s.sup.booted = false →
        exec c s = .next { s with mb.cmd := cmd, mb.len := len, mb.status := eBusy }) ∧
      (s.fuses.lc ≠ .scrapped → s.sup.booted = true → s.tr.fwRunning = false → cmd ≠ 1 →
        exec c s = .next { s with mb.cmd := cmd, mb.len := len, mb.status := eBusy, mb.result := 0 })

/-- CONTEXT_GRANT (R419 to R422, R459). A context's first EK is a free value (notes/assumptions/10.md). -/
def Obligations.grants_and_revokes : Prop :=
  ∀ (s : State) (b : Bytes), s.fuses.lc ≠ .scrapped → s.sup.booted = true → s.tr.fwRunning = true →
    let c := fld b 0 2
    let p := byteAt b 2
    let done (st : Nat) : Mailbox := { s.mb with cmd := 3, len := b.length, status := st, result := 0 }
    (byteAt b 3 = 1 →
      (grantForm b = false ∨ grantTaken s c p b = true → exec (.contextGrant b) s = .next { s with mb := done ePerm }) ∧
      (grantForm b = true → grantTaken s c p b = false →
        (grantRoom s c b = false → exec (.contextGrant b) s = .next { s with mb := done eCapacity }) ∧
        (grantRoom s c b = true →
          ∃ (e : Digest) (fv : Nat),
            ((ctxOf s c).ek = some e ∧ fv = s.fv ∨ (ctxOf s c).ek = none ∧ fv = s.fv + 1) ∧
            exec (.contextGrant b) s = .next { s with
              mb := done stOk, fv := fv,
              ctxs := mset s.ctxs c { ctxOf s c with t2Alloc := fld b 16 8, t3Alloc := fld b 24 8, ek := some e },
              qpOwner := (grantQps b).foldl (fun m q => mset m (qpKey p q) c) s.qpOwner,
              winOwn := (grantWins b).foldl (fun m n => mset m (p * 16 + n) c) s.winOwn }))) ∧
    (byteAt b 3 = 2 → grantForm b = true →
      let on := s.qpOwner.any fun o => o.2 == c && o.1 / 64 == p && (qpOf s p (o.1 % 64)).en
      (on = true → exec (.contextRevoke b) s = .next { s with mb := done eBusy }) ∧
      (on = false → exec (.contextRevoke b) s = .next (unfused s (revokeOn { s with mb := done stOk } c p))))

/-- Tokens (R451 to R457, R471) and SVN_COMMIT (R456). The UDS is a free value (notes/assumptions/10.md). -/
def Obligations.tokens_and_svn : Prop :=
  ∀ (s : State) (b : Bytes), s.fuses.lc ≠ .scrapped → s.sup.booted = true → s.tr.fwRunning = true →
    let entry (kind value : Nat) (subject : Digest) : FusedEntry :=
      { kind := kind, value := value, tread := nowTread s % 2 ^ 48, subject := head8 subject }
    let moved (lc : LcState) : Fuses :=
      { s.fuses with lc := lc, log := s.fuses.log ++ [entry 1 lc.code (sha3 b)] }
    let after (t : State) (f : Fuses) : Prop :=
      t.fuses = f ∧ t.tr.challenge = none ∧ t.mb.status = stOk ∧ t.mb.result = 0 ∧ t.mb.cmd = 0x10 ∧ t.mb.len = b.length
    (tokenStatus s b = stOk →
      (byteAt b 6 = 7 → ∃ t uds, exec (.toManufacture b) s = .next t ∧ after t { moved .manufacture with uds := uds }) ∧
      (byteAt b 6 = 6 → ∃ t, exec (.toProvisioned b) s = .next t ∧ after t (moved .provisioned)) ∧
      (byteAt b 6 = 1 → ∃ t, exec (.ownerClaim b) s = .next t ∧ t.store.owner = some (digestAt b 0x48) ∧
        after t { moved .deployed with
          ownerUsed := s.fuses.ownerUsed + 1,
          log := (moved .deployed).log ++ [entry 2 (s.fuses.ownerUsed + 1) (digestAt b 0x48)] }) ∧
      (byteAt b 6 = 2 → ∃ t, exec (.ownerTransfer b) s = .next t ∧ t.store.owner = some (digestAt b 0x48) ∧
        t.tr.debugUnlocked = false ∧
        after t { s.fuses with
          ownerUsed := s.fuses.ownerUsed + 1,
          log := s.fuses.log ++ [entry 2 (s.fuses.ownerUsed + 1) (digestAt b 0x48)] }) ∧
      (byteAt b 6 = 3 → ∃ t, exec (.debugUnlock b) s = .next t ∧ t.tr.debugUnlocked = true ∧
        after t { s.fuses with
          debugUsed := s.fuses.debugUsed + 1, log := s.fuses.log ++ [entry 5 (s.fuses.debugUsed + 1) (sha3 b)] }) ∧
      (let wiped (t : State) : Prop :=
        t.ctxs = [] ∧ t.mem.dir = [] ∧ t.mem.t1 = [] ∧ t.mem.t2 = [] ∧ t.mem.t3 = [] ∧ t.insts = [] ∧ t.groups = [] ∧
          t.qpOwner = [] ∧ t.winOwn = [] ∧ t.taken = [] ∧ t.tr.t3Key.isSome = true ∧ t.tr.debugUnlocked = false
       (byteAt b 6 = 4 → ∃ t, exec (.toReturn b) s = .next t ∧ wiped t ∧ after t (moved .returned)) ∧
       (byteAt b 6 = 5 → ∃ t, exec (.toScrapped b) s = .next t ∧ wiped t ∧ t.tr.fwRunning = false ∧
         after t { moved .scrapped with uds := BitVec.allOnes 256 }))) ∧
    (tokenStatus s b ≠ stOk →
      let refused : State :=
        { s with tr.challenge := none, mb := { s.mb with cmd := 0x10, len := b.length, status := tokenStatus s b, result := 0 } }
      (byteAt b 6 = 7 → exec (.toManufacture b) s = .next refused) ∧ (byteAt b 6 = 6 → exec (.toProvisioned b) s = .next refused) ∧
      (byteAt b 6 = 1 → exec (.ownerClaim b) s = .next refused) ∧ (byteAt b 6 = 2 → exec (.ownerTransfer b) s = .next refused) ∧
      (byteAt b 6 = 3 → exec (.debugUnlock b) s = .next refused) ∧ (byteAt b 6 = 4 → exec (.toReturn b) s = .next refused) ∧
      (byteAt b 6 = 5 → exec (.toScrapped b) s = .next refused)) ∧
    (s.mb.arg = s.fuses.svnUsed + 1 → s.fuses.svnUsed < 63 → s.mb.arg ≤ s.tr.fwSvn →
      ∃ t, exec .svnCommit s = .next t ∧ t.mb.status = stOk ∧ t.mb.result = 0 ∧
        t.fuses = { s.fuses with
          svnUsed := s.fuses.svnUsed + 1,
          log := s.fuses.log ++ [entry 3 (s.fuses.svnUsed + 1) (sha3 (digestBytes s.tr.measurement))] })

/-- The fuse invariant (R457, Table 14-7) at reset; the fuses of a module never used are a choice (notes/assumptions/2.md). -/
def Obligations.reset_fuses_wf : Prop := Fuses.wf State.reset.fuses

/-- Whatever the command, fuses stay within the limits of Table 14-7 and R457 and move only forward (R451, R455). -/
def Obligations.fuses_only_forward : Prop :=
  ∀ (s t : State), Fuses.wf s.fuses → step s = .next t → Fuses.wf t.fuses ∧ Fuses.forward s.fuses t.fuses

/-- What writes fuses (R232, R451, R455); the queue is the model's own (notes/assumptions/5.md). -/
def Obligations.only_tokens_and_counts_fuse : Prop :=
  ∀ (c : Instr) (s t : State), exec c s = .next t →
    t.pending = s.pending ∧
    ((match c with
      | .toManufacture _ | .toProvisioned _ | .ownerClaim _ | .ownerTransfer _ | .debugUnlock _ | .toReturn _ | .toScrapped _
      | .svnCommit | .repairDone | .registerWrite .. => False
      | _ => True) → t.fuses = s.fuses)

/-- The four doorbells (R418, R430, R432, R438). -/
def Obligations.doorbells : Prop :=
  ∀ (s : State) (p : Port) (page : Fin 256) (size value : Nat),
    let v := qpOf s p page
    let po := portOf s p
    let counted : State := setPort s p { po with dbErr := min 65535 (po.dbErr + 1) }
    (size = 4 → page.val < 64 → v.en = true →
      (value < 2 ^ v.sqLog2 → exec (.doorbellSqTail p page size value) s = .next (setQp s p page { v with sqTail := value })) ∧
      (value < 2 ^ v.cqLog2 →
        exec (.doorbellCqHead p page size value) s =
          .next (setQp s p page { v with cqHead := value, cqUnsig := min v.cqUnsig (ringUsed v.cqLog2 value v.cqTail) })) ∧
      (value < 2 ^ v.tqLog2 →
        exec (.doorbellTqHead p page size value) s = .next (unfused s (drainHeld (setQp s p page
          { v with tqHead := value, tqUnsig := min v.tqUnsig (ringUsed v.tqLog2 value v.tqTail) }) p page v.held.length)))) ∧
    (size = 4 → page.val = 0 → po.eqEn = true → value < 2 ^ po.eqLog2 →
      exec (.doorbellEqHead p page size value) s = .next (setPort s p { po with eqHead := value })) ∧
    (size ≠ 4 ∨ 64 ≤ page.val ∨ v.en = false →
      exec (.doorbellSqTail p page size value) s = .next counted ∧ exec (.doorbellCqHead p page size value) s = .next counted ∧
        exec (.doorbellTqHead p page size value) s = .next counted) ∧
    (2 ^ v.sqLog2 ≤ value → exec (.doorbellSqTail p page size value) s = .next counted) ∧
    (2 ^ v.cqLog2 ≤ value → exec (.doorbellCqHead p page size value) s = .next counted) ∧
    (2 ^ v.tqLog2 ≤ value → exec (.doorbellTqHead p page size value) s = .next counted) ∧
    (size ≠ 4 ∨ page.val ≠ 0 ∨ po.eqEn = false ∨ 2 ^ po.eqLog2 ≤ value →
      exec (.doorbellEqHead p page size value) s = .next counted) ∧
    (∀ (off : Nat) (w : W64), s.sup.booted = true → po.present = true → s.fuses.lc ≠ .scrapped →
      (off % 4096 = 0 → exec (.registerWrite p 2 off size w) s = exec (.doorbellSqTail p (Fin.ofNat 256 (off / 4096)) size w.toNat) s) ∧
      (off % 4096 = 4 → exec (.registerWrite p 2 off size w) s = exec (.doorbellCqHead p (Fin.ofNat 256 (off / 4096)) size w.toNat) s) ∧
      (off % 4096 = 8 → exec (.registerWrite p 2 off size w) s = exec (.doorbellTqHead p (Fin.ofNat 256 (off / 4096)) size w.toNat) s) ∧
      (off % 4096 = 12 → exec (.registerWrite p 2 off size w) s = exec (.doorbellEqHead p (Fin.ofNat 256 (off / 4096)) size w.toNat) s) ∧
      (off % 4096 ≠ 0 → off % 4096 ≠ 4 → off % 4096 ≠ 8 → off % 4096 ≠ 12 → exec (.registerWrite p 2 off size w) s = .next counted)) ∧
    (∀ off, readBar2 s p off = 0)

/-- Queue pairs and port links (R416, R428 to R432). -/
def Obligations.queue_pairs_and_ports : Prop :=
  ∀ (s : State) (p : Port) (q : Qp),
    let v := qpOf s p q
    (v.en = false → mayEnable s p q = true →
      exec (.qpEnable p q) s = .next (unfused s (drainHeld (setQp s p q
        { v with en := true, sqHead := 0, sqTail := 0, cqHead := 0, cqTail := 0, cqPhase := true, cqUnsig := 0,
                 tqHead := 0, tqTail := 0, tqPhase := true, tqUnsig := 0, enable := v.enable + 1 }) p q v.held.length))) ∧
    (mayEnable s p q = false → exec (.qpEnable p q) s = .next s) ∧
    exec (.qpDisable p q) s = .next (setQp s p q { v with en := false }) ∧
    (∀ slot : Bytes,
      (canTake s p q = true →
        exec (.descriptorTake p q slot) s = .next (unfused s (rejectReserved (hwBump
          { s with
            qps := mset s.qps (qpKey p q) { v with sqHead := (v.sqHead + 1) % 2 ^ v.sqLog2 },
            taken := mset s.taken s.takes
              { origin := none, port := p, qp := q, ctx := mgetD s.qpOwner (qpKey p q) 0, enable := v.enable,
                tread := s.time.tread, bytes := padTo 64 slot, stage := .taken },
            takes := s.takes + 1 } (kPort p 0) 1)))) ∧
      (2 ^ v.cqLog2 ≤ ringUsed v.cqLog2 v.cqHead v.cqTail + outstanding s p q + 1 → exec (.descriptorTake p q slot) s = .next s)) ∧
    (0 < v.delayUs →
      (v.cqIrq = true → 0 < v.cqUnsig →
        exec (.ringInterruptDelay p q false) s =
          .next { s with qps := mset s.qps (qpKey p q) { v with cqUnsig := 0 }, msix := s.msix ++ [(p.val, v.cqVector)] }) ∧
      (v.tqIrq = true → 0 < v.tqUnsig →
        exec (.ringInterruptDelay p q true) s =
          .next { s with qps := mset s.qps (qpKey p q) { v with tqUnsig := 0 }, msix := s.msix ++ [(p.val, v.tqVector)] })) ∧
    (∀ width speed : Nat, s.sup.booted = true → (width = 4 ∨ width = 8 ∨ width = 16) → width ≤ portLanes s p →
      (speed = 1 ∨ speed = 2) →
      exec (.portLinkTrained p width speed) s =
        .next (setPort s p { portOf s p with present := true, up := true, width := width, speed := speed }))

/-- Memory windows (R202, R423 to R425, Table 13-5). The list of answers holds those of the latest access only. -/
def Obligations.memory_windows : Prop :=
  ∀ (s : State) (p : Port) (n : Fin 16),
    let v := hdmOf s p n
    let a : State := { s with cxlResp := [] }
    let put (w : HdmSt) : State := { s with hdm := mset s.hdm (p.val * 16 + n.val) w }
    let waits (s : State) (w : Wait) : State := let x := addWait s w; answer x.2 (.waiting x.1)
    (v.committed = false → exec (.hdmDecoderCommit p n) s = .next (put { v with committed := true, en := v.en && windowOk s v })) ∧
    (v.committed = true → exec (.hdmDecoderCommit p n) s = .next s) ∧
    exec (.hdmDecoderUncommit p n) s = .next (put { v with committed := false }) ∧
    (∀ off len : Nat, v.committed = true → 0 < len →
      (behind s p (windowGa s p n off) len false = true →
        exec (.cxlMemRead p n off len) s = .next (unfused s (waits a (.cxlRead p n off len)))) ∧
      (behind s p (windowGa s p n off) len false = false →
        (∀ obj e, verdict s p n off len false = .serve obj e →
          exec (.cxlMemRead p n off len) s = .next (unfused s (serveRead a e (windowByte s p n off e) len))) ∧
        (verdict s p n off len false = .refused →
          exec (.cxlMemRead p n off len) s = .next (unfused s (answer (hwBump a (kPort p 5) 1) .poison))) ∧
        (verdict s p n off len false = .sealedHome →
          exec (.cxlMemRead p n off len) s = .next (unfused s (answer (hwBump a (kPort p 6) 1) .poison))))) ∧
    (∀ (off : Nat) (data : Bytes), v.committed = true → data ≠ [] →
      (∀ obj e, verdict s p n off data.length true = .serve obj e →
        (cachedLines s p (v.target + off) data.length ≠ [] →
          exec (.cxlMemWrite p n off data) s =
            .next (unfused s (waits (snoop a (cachedLines s p (v.target + off) data.length)) (.biWrite p n off data)))) ∧
        (cachedLines s p (v.target + off) data.length = [] →
          (behind s p (windowGa s p n off) data.length true = false →
            exec (.cxlMemWrite p n off data) s = .next (unfused s (serveWrite a e (windowByte s p n off e) data))) ∧
          (behind s p (windowGa s p n off) data.length true = true →
            exec (.cxlMemWrite p n off data) s = .next (unfused s (waits a (.cxlWrite p n off data)))))) ∧
      (verdict s p n off data.length true = .refused → behind s p (windowGa s p n off) data.length true = false →
        exec (.cxlMemWrite p n off data) s = .next (unfused s (answer (hwBump a (kPort p 5) 1) .dropped)))) ∧
    (∀ (w off : Nat) (data : Bytes), mget s.waits w = some (.biWrite p n off data) →
      exec (.backInvalidateResponse w) s =
        .next (unfused s (releaseWaits { s with waits := mset s.waits w (.cxlWrite p n off data) }))) ∧
    (∀ (w off : Nat) (data : Bytes) (obj : Nat) (e : DirEntry), s.waits = [(w, .biWrite p n off data)] → s.net.msgs = [] →
      verdict s p n off data.length true = .serve obj e →
      exec (.backInvalidateResponse w) s =
        .next (unfused s (serveWrite { s with waits := [] } e (windowByte s p n off e) data)))

/-- The order and the checks of R15, R433, R435 and R437, for all 35 rows of descriptors; the names of their rows and fields are in
`descriptorOf`. No row has a reserved opcode: taking such a descriptor ends it. -/
def Obligations.descriptor_heads : Prop :=
  (∀ (c : Instr) (d : Nat) (row : Taken → Bool) (named : List (Nat × Nat)) (s : State) (t : Taken),
    descriptorOf c = some (d, row, named) → mget s.taken d = some t →
    (row t = false ∨ mayStart s d t = false ∨ coresRun s = false → exec c s = .next (unfused s s)) ∧
    (row t = true → mayStart s d t = true → coresRun s = true →
      (opAllowed s t = false → exec c s = .next (unfused s (finish s d eLifecycle))) ∧
      (opAllowed s t = true → reservedOk t named = false → exec c s = .next (unfused s (finish s d ePerm))))) ∧
  ∀ (s : State) (p : Port) (q : Qp) (slot : Bytes), canTake s p q = true → s.taken = [] →
    let v := qpOf s p q
    let t : Taken := { origin := none, port := p, qp := q, ctx := mgetD s.qpOwner (qpKey p q) 0, enable := v.enable,
                       tread := s.time.tread, bytes := padTo 64 slot, stage := .taken }
    knownOp t = false → exec (.descriptorTake p q slot) s = .next (unfused s (finish (hwBump
      { setQp s p q { v with sqHead := (v.sqHead + 1) % 2 ^ v.sqLog2 } with taken := [(s.takes, t)], takes := s.takes + 1 } (kPort p 0) 1)
      s.takes ePerm))

/-- NOP and FENCE (R433, R435), ATTEST (R459), KEY_IMPORT (R425, R460, R461). -/
def Obligations.plain_and_key_descriptors : Prop :=
  ∀ (s : State) (d : Nat) (t : Taken),
    (s.starts d t [] → t.op = 1 → exec (.nop d) s = .next (unfused s (finish s d stOk))) ∧
    (s.starts d t [] → t.op = 2 → exec (.fence d) s = .next (unfused s (rejectReserved (finish s d stOk)))) ∧
    (s.starts d t [(8, 12), (24, 32)] → t.op = 0x80 →
      (16 ≤ attestHeld s d → exec (.attest d) s = .next (unfused s (finish s d eBusy))) ∧
      (attestHeld s d < 16 → 4116 ≤ fld t.bytes 16 4 →
        exec (.attest d) s = .next (unfused s
          (complete (pmWrite s t.port (fld t.bytes 8 8) (report s t.ctx (slice t.bytes 24 32))) d stOk 4116 0)))) ∧
    (∀ blob : Bytes, s.starts d t [(8, 16)] → t.op = 0x81 → fld t.bytes 16 4 ≠ 0 →
      keyStatus s t (blob.take 1200) = stOk →
      let lines := (s.mem.dir.filter fun e => e.2.ctx == t.ctx && !e.2.isSealed).flatMap fun e => homeLines s e.2
      let u := if (ctxOf s t.ctx).isSealed = true then s else sealContext s t.ctx
      let key : KeySlot :=
        { kind := byteAt (blob.take 1200) 6, key := digestAt ((blobKey u t.ctx (blob.take 1200)).getD []) 0 }
      ((ctxOf s t.ctx).isSealed = true ∨ lines = [] →
        exec (.keyImport d blob) s = .next (unfused s (finish
          { u with ctxs := mset u.ctxs t.ctx { ctxOf u t.ctx with slots := mset (ctxOf u t.ctx).slots (fld t.bytes 20 4) key } }
          d stOk))) ∧
      ((ctxOf s t.ctx).isSealed = false → lines ≠ [] →
        exec (.keyImport d blob) s =
          .next (unfused s (addWait (snoop (holdDesc s d) lines) (.biKey d (blob.take 1200))).2))) ∧
    (s.starts d t [(8, 16)] → t.op = 0x81 → fld t.bytes 16 4 = 0 → keyHeadStatus s t = stOk →
      exec (.keyClear d) s = .next (unfused s (finish
        { s with ctxs := mset s.ctxs t.ctx { ctxOf s t.ctx with slots := merase (ctxOf s t.ctx).slots (fld t.bytes 20 4) } }
        d stOk)))

/-- MOVE (R179 to R186, R425, Tables 5-5 and 5-7). -/
def Obligations.moves : Prop :=
  ∀ (s : State) (d : Nat) (t : Taken), s.starts d t moveFields → t.op = 0x70 →
    let r := moveReq t.bytes
    let own := s.net.index
    (gaModule r.dst = own → createStatus s t.ctx r = stOk →
      (byteAt t.bytes 8 = 1 → stagingOf s d = none → ∀ data : Bytes,
        (r.size ≤ data.length → exec (.moveImport d data) s = .next (unfused s (moveCreate s d t r data))) ∧
        (data.length < r.size → exec (.moveImport d data) s = .next (unfused s (finish s d ePoison)))) ∧
      (byteAt t.bytes 8 = 1 → ∀ (k : Nat) (g : Staging), stagingOf s d = some (k, g) → g.got < g.size → ∀ data : Bytes,
        exec (.moveImport d data) s = .next (unfused s s)) ∧
      (byteAt t.bytes 8 = 3 → exec (.moveAlloc d) s = .next (unfused s (moveCreate s d t r [])))) ∧
    (∀ e : DirEntry, dirGet s r.obj = some e → e.ctx = t.ctx → e.modIx = own →
      (homeStatus s r e = stOk →
        (byteAt t.bytes 8 = 2 → exec (.moveExport d) s = .next (unfused s (moveExport s d t r e))) ∧
        (homeLines s e = [] →
          (byteAt t.bytes 8 = 4 → exec (.moveFree d) s = .next (unfused s (moveFreeEnd s d r.obj e))) ∧
          (byteAt t.bytes 8 = 0 → gaModule r.dst = own → sameHome (moveDest s e.ctx r e.size 0) e = false →
            exec (.moveRelocate d) s = .next (unfused s
              (relocateHere s d r.obj e { moveDest s e.ctx r e.size (e.epoch + 1) with bound := e.bound })))) ∧
        (homeLines s e ≠ [] → e.absent = false → byteAt t.bytes 8 = 4 →
          exec (.moveFree d) s = .next (unfused s
            (let u := dirSet s r.obj { e with moving := true }
             let m : Moving := { kind := r.kind, desc := d, dest := e, sent := false }
             (addWait (snoop (holdDesc { u with mem.moving := mset u.mem.moving r.obj m } d) (homeLines s e)) (.biMove d)).2)))) ∧
      (homeStatus s r e ≠ stOk → byteAt t.bytes 8 = 4 →
        exec (.moveFree d) s = .next (unfused s (finish s d (homeStatus s r e))))) ∧
    (∀ e : DirEntry, dirGet s r.obj = some e → e.ctx = t.ctx → e.absent = false → e.modIx ≠ own →
      moduleStatus s e.modIx = stOk → byteAt t.bytes 8 = 2 →
      exec (.moveExport d) s = .next (unfused s (forwardDesc s d e.modIx t [])))

/-- HARNESS_LOAD, OVERLAY_LOAD REGISTER, HARNESS_BIND (R134 to R146, R314). -/
def Obligations.harness_descriptors : Prop :=
  ∀ (s : State) (d : Nat) (t : Taken),
    (∀ image : Bytes, s.starts d t loadFields → t.op = 0x20 → byteAt t.bytes 8 = 0 → zeroAt t.bytes 40 16 = true →
      let r := demandImage s t
      let src := imageSource r t 2 image
      let img := src.2.1
      src.1 = stOk → imageStatus img src.2.2.2 = stOk →
      (∀ k h, harnessOf r t.ctx (fld img 0x20 16) = some (k, h) →
        exec (.harnessLoad d image) s =
          .next (unfused s (finish r d (if fld h.image 0x40 32 = fld img 0x40 32 then stOk else ePerm)))) ∧
      (harnessOf r t.ctx (fld img 0x20 16) = none → ∀ k, mfresh r.harn 512 = some k →
        (allocFits r t.ctx 2 (fld img 8 4) 0 = true →
          let h : Harness := { ctx := t.ctx, uid := fld img 0x20 16, image := img.take (fld img 8 4), pkg := src.2.2.1 }
          exec (.harnessLoad d image) s = .next (unfused s (finish { r with harn := mset r.harn k h } d stOk))) ∧
        (allocFits r t.ctx 2 (fld img 8 4) 0 = false →
          exec (.harnessLoad d image) s = .next (unfused s (finish r d eCapacity))))) ∧
    (∀ k h, s.starts d t loadFields → t.op = 0x20 → byteAt t.bytes 8 = 1 → zeroAt t.bytes 9 31 = true →
      harnessOf s t.ctx (fld t.bytes 40 16) = some (k, h) →
      exec (.harnessRelease d) s = .next (unfused s (
        if harnessBusy s t.ctx h.uid = true then finish s d eBusy else finish (endContexts (dropHarness s k)) d stOk))) ∧
    (∀ image : Bytes, s.starts d t registerFields → t.op = 0x21 → byteAt t.bytes 8 = 0 →
      let r := demandImage s t
      let src := imageSource r t 3 image
      let img := src.2.1
      ∀ kh hb ko, harnessOf r t.ctx (fld img 0x10 16) = some (kh, hb) → src.1 = stOk →
        overlayStatus img (some (himgOf hb.image)) src.2.2.2 = stOk →
        overlayRegionsOk (himgOf hb.image) (patched (himgOf hb.image) img) = true →
        overlayOf r t.ctx (fld img 0x20 16) = none → mfresh r.overs 4096 = some ko →
        let o : Overlay :=
          { ctx := t.ctx, base := fld img 0x10 16, uid := fld img 0x20 16, image := img.take (fld img 8 4), pkg := src.2.2.1 }
        exec (.overlayRegister d image) s = .next (unfused s (finish { r with overs := mset r.overs ko o } d stOk))) ∧
    (∀ table : Bytes, s.starts d t bindFields → t.op = 0x22 → byteAt t.bytes 8 = 0 → byteAt t.bytes 10 = 0 →
      let num := byteAt t.bytes 11
      let uid := fld t.bytes 12 16
      let len := fld t.bytes 36 4
      let tab := padTo len (table.take len)
      128 ≤ len → len = 128 + 16 * fld tab 0 4 → s.time.loaded = true →
      ∀ kh h k, harnessOf s t.ctx uid = some (kh, h) →
        let hi := himgOf h.image
        let c := bindCheck s t.ctx (byteAt t.bytes 9) hi (rolesOf tab) (table.drop len)
        mfresh s.insts 8 = some k →
        c.1 = stOk → groupStatus s t.ctx num h (slice tab 0 128) c.2.2 = stOk → bindDiffers s t.ctx num k uid (sha3 tab) = false →
        let r := demandBound s t.ctx hi (rolesOf tab)
        let x := (bindCheck r t.ctx c.2.1 hi (rolesOf tab) (table.drop len)).2.2
        let u := placeInst r k t.ctx uid num c.2.1 hi (rolesOf tab) x
        let u := enterGroup { u with insts := madj u.insts k ({ · with table := sha3 tab }) } t.ctx num h (slice tab 0 128) x
        exec (.harnessBind d table) s =
          .next (unfused s (complete (broadcast u (bindBody false k num uid tab)) d stOk (bindResult0 k c.2.1) 0))) ∧
    (∀ i : Inst, s.starts d t bindFields → t.op = 0x22 → byteAt t.bytes 8 = 1 → mget s.insts (byteAt t.bytes 10) = some i →
      i.ctx = t.ctx → i.sw = none → i.unbind = none → s.saves.any (fun x => x.2.ctx == i.ctx) = false →
      let k := byteAt t.bytes 10
      let b : Unbind := { desc := d, stale := baySum s i 0, discard := baySum s i 1 }
      let u := holdDesc { s with insts := mset s.insts k { i with unbind := some b } } d
      exec (.harnessUnbind d) s = .next (unfused s (if unbindReady u i = true then finishUnbind u k else u)))

/-- Overlay switches (R147 to R156, Tables 4-10 to 4-13). -/
def Obligations.overlay_switches : Prop :=
  ∀ (s : State),
    (∀ (d : Nat) (t : Taken) (i : Inst), s.starts d t switchFields → t.op = 0x21 → byteAt t.bytes 8 = 1 →
      let k := byteAt t.bytes 9
      let mode := byteAt t.bytes 10
      let fb := byteAt t.bytes 11
      let uid := fld t.bytes 16 16
      mget s.insts k = some i → i.ctx = t.ctx → mode ≤ 3 → fb ≤ 2 →
      (∃ ko o, overlayOf s t.ctx uid = some (ko, o) ∧ o.base = i.uid) →
      (i.sw.isSome = true ∨ i.unbind.isSome = true ∨ s.saves.any (fun x => x.2.ctx == i.ctx) = true →
        exec (.overlaySwitch d) s = .next (unfused s (finish s d eBusy))) ∧
      (i.sw = none → i.unbind = none → s.saves.any (fun x => x.2.ctx == i.ctx) = false →
        (mode = 3 → i.parked ≠ some uid → exec (.overlaySwitch d) s = .next (unfused s (finish s d ePerm))) ∧
        ((mode = 2 ∨ mode = 0 ∧ fb = 2) → i.parked.isSome = true →
          exec (.overlaySwitch d) s = .next (unfused s (finish s d eBusy))) ∧
        ((mode = 3 → i.parked = some uid) → ((mode = 2 ∨ mode = 0 ∧ fb = 2) → i.parked = none) →
          exec (.overlaySwitch d) s =
            .next (unfused s (startSwitch (holdDesc s d) k i uid mode fb (fld t.bytes 12 2) (fld t.bytes 32 8) d))))) ∧
    (∀ (k : InstIx) (i : Inst) (w : Switch), mget s.insts k.val = some i → i.sw = some w →
      let put (w : Switch) : State := { s with insts := madj s.insts k.val ({ · with sw := some w }) }
      (w.state = .staging →
        exec (.overlayStagingDone k) s = .next (put { w with state := .armed, commit := max w.commit s.time.tread })) ∧
      (w.state = .armed → w.commit ≤ s.time.tread →
        (w.mode ≠ 0 → exec (.overlayCommitTread k) s = .next (put { w with state := .freezing })) ∧
        (w.mode = 0 →
          exec (.overlayCommitTread k) s =
            .next (unfused s (reassignIdle (put { w with state := .draining, since := s.time.tread }) k)))) ∧
      (w.state = .draining → i.unbind = none → stepDone s i = true →
        (i.running = false → exec (.regionDrained k) s = .next (unfused s (applyNext s k i w))) ∧
        (i.running = true → ∀ j, mget (endInst s k i).insts k.val = some j →
          exec (.regionDrained k) s = .next (unfused s (applyNext (endInst s k i) k j w)))) ∧
      (w.state = .draining → w.limit ≠ 0 → w.commit + w.limit ≤ s.time.tread → stepDone s i = false →
        (w.fallback ≠ 0 → exec (.drainLimitExpiry k) s = .next (put { w with state := .freezing, mode := w.fallback })) ∧
        (w.fallback = 0 →
          exec (.drainLimitExpiry k) s =
            .next (unfused s (complete { s with insts := madj s.insts k.val ({ · with sw := none }) } w.desc eBusy 0
              (switchResult1 s i w))))) ∧
      (w.state = .freezing → exec (.switchFreezeDone k) s = .next (unfused s (switchFrozen s k i w))) ∧
      (w.state = .parking →
        let u := parkStep (onTiles s (instTiles i) parkTile) k i
        let u := { u with insts := madj u.insts k.val ({ · with parked := some i.overlay }) }
        ∀ j, mget u.insts k.val = some j → exec (.switchParkDone k) s = .next (unfused s (applyNext u k j w))) ∧
      (w.state = .applying →
        let u := applyBayTiles s i w.overlay (applyBay s i w) (w.mode == 3)
        let w' := { w with applied := w.applied + 1 }
        exec (.bayApplyDone k) s = .next (unfused s (if w.applied + 1 < i.bays then applyNext u k i w' else endSwitch u k w')))) ∧
    (∀ (k : InstIx) (i : Inst), mget s.insts k.val = some i → i.unbind.isSome = true → unbindReady s i = true →
      exec (.regionDrained k) s = .next (unfused s (finishUnbind s k)))

/-- Packages (R462 to R466, Table 14-19). -/
def Obligations.packages : Prop :=
  ∀ (s : State) (d : Nat) (t : Taken),
    (∀ data : Bytes, s.starts d t [(8, 28)] → t.op = 0x10 → gaModule (stageReq t.bytes).dst = s.net.index → stagingOf s d = none →
      (stageStatus s t data = stOk → exec (.pkgStage d data) s = .next (unfused s (stagePackage s d t data))) ∧
      (stageStatus s t data ≠ stOk → exec (.pkgStage d data) s = .next (unfused s (finish s d (stageStatus s t data))))) ∧
    (∀ (pkg table : Bytes) (e : DirEntry), s.starts d t [(8, 20)] → t.op = 0x11 → plainHeld s = false →
      dirGet s (fld t.bytes 8 4) = some e → e.ctx = t.ctx → e.absent = false → moduleStatus s e.modIx = stOk →
      let r := demandTargets s t
      (targetTable r t table).1 = stOk →
      let tab := (targetTable r t table).2
      let u := if e.modIx = r.net.index then demandHome r e else r
      let b := stagedBytes u e pkg
      (admitStatus u t e b tab pkg = stOk → exec (.pkgAdmit d pkg table) s = .next (unfused s (admitPackage u d t e b tab))) ∧
      (admitStatus u t e b tab pkg ≠ stOk →
        exec (.pkgAdmit d pkg table) s = .next (unfused s (finish u d (admitStatus u t e b tab pkg))))) ∧
    (∀ p : Pkg, s.starts d t [(8, 4)] → t.op = 0x12 → mget s.pkgs (fld t.bytes 8 4) = some p →
      let id := fld t.bytes 8 4
      let lines := (pkgLive s p).flatMap fun o => homeLines s o.2
      (evictStatus s t.ctx id ≠ stOk → exec (.pkgEvict d) s = .next (unfused s (finish s d (evictStatus s t.ctx id)))) ∧
      (evictStatus s t.ctx id = stOk →
        (lines = [] → exec (.pkgEvict d) s = .next (unfused s (evictPackage s d id))) ∧
        (lines ≠ [] →
          exec (.pkgEvict d) s = .next (unfused s (addWait (snoop (holdDesc s d) lines) (.biEvict d)).2))))

/-- REQ_OPEN, REQ_APPEND, REQ_CANCEL, REQ_CLOSE (R315 to R318, R342, R343). -/
def Obligations.requests : Prop :=
  ∀ (s : State) (d : Nat) (t : Taken),
    (∀ (params prompt : Bytes) (g : Group), s.starts d t openFields → t.op = 0x30 → s.flt.sliceStopped = false →
      mget s.groups (groupKey t.ctx (byteAt t.bytes 8)) = some g → g.lead = s.net.index →
      let n := fld t.bytes 32 4
      let p := padTo 128 (params.take 128)
      let r := readPrompt s t.ctx t.sealedFlag n prompt
      openStatus s g t p n = stOk → fld p 8 4 = 0 →
      (leadStatus s g p n t.tread = eCapacity →
        exec (.reqOpen d params prompt) s = .next (unfused s (finish s d eCapacity))) ∧
      (leadStatus s g p n t.tread = stOk → r.1 = stOk →
        let x := openAt s g p n t.tread s.net.index (some (tokensOf r.2.1 n)) none
        exec (.reqOpen d params prompt) s =
          .next (unfused s (complete (admitReq x.2 g.ctx x.1 t r.2.2) d stOk x.1 0)))) ∧
    (∀ (prompt : Bytes) (g : Group) (k : Nat) (q : Req), s.starts d t appendFields → t.op = 0x31 → s.flt.sliceStopped = false →
      groupOfRid s t.ctx (fld t.bytes 8 4) = some (g, k) → g.lead = s.net.index → g.req? k = some q → t.origin = none →
      let n := fld t.bytes 24 4
      let m := fld t.bytes 28 4
      let a := admitKey g.ctx (g.rid k)
      let sl := (mget s.admits a).bind (·.sealing)
      let x := readAppend sl t.sealedFlag n prompt
      sl.isSome = t.sealedFlag →
      (appendStatus s g q n m ≠ stOk →
        exec (.reqAppend d prompt) s = .next (unfused s (finish s d (appendStatus s g q n m)))) ∧
      (appendStatus s g q n m = stOk → x.1 = stOk →
        let u := { s with admits := madj s.admits a ({ · with sealing := x.2.2 }) }
        exec (.reqAppend d prompt) s = .next (unfused s
          (finish (setGroup u (g.setReq k (appended u g q (tokensOf x.2.1 n) m t.tread))) d stOk)))) ∧
    (s.starts d t ridFields → t.op = 0x32 →
      (groupOfRid s t.ctx (fld t.bytes 8 4) = none → exec (.reqCancel d) s = .next (unfused s (finish s d ePerm))) ∧
      (∀ g k q, groupOfRid s t.ctx (fld t.bytes 8 4) = some (g, k) → g.lead = s.net.index → g.req? k = some q →
        let h := g.setReq k { q with cancels := [d] }
        (q.live = false → exec (.reqCancel d) s = .next (unfused s (finish s d stOk))) ∧
        (q.live = true → q.cancels = [] → q.closer = none →
          (stepRuns (holdDesc s d) q = true →
            exec (.reqCancel d) s = .next (unfused s (setGroup (holdDesc s d) h))) ∧
          (stepRuns (holdDesc s d) q = false →
            exec (.reqCancel d) s = .next (unfused s (endNow (holdDesc s d) h [k])))))) ∧
    (s.starts d t ridFields → t.op = 0x33 →
      (groupOfRid s t.ctx (fld t.bytes 8 4) = none → exec (.reqClose d) s = .next (unfused s (finish s d ePerm))) ∧
      (∀ g k q, groupOfRid s t.ctx (fld t.bytes 8 4) = some (g, k) → g.lead = s.net.index → g.req? k = some q →
        q.closer = none →
        let h := g.setReq k { q with closer := some d }
        (q.state ≠ .ended → stepRuns (holdDesc s d) q = true →
          exec (.reqClose d) s = .next (unfused s (setGroup (holdDesc s d) h))) ∧
        (q.state = .ended ∨ stepRuns (holdDesc s d) q = false →
          exec (.reqClose d) s = .next (unfused s (endNow (holdDesc s d) h [k])))))

/-- ADAPTER_LOAD, ADAPTER_RETIRE, RUN_GRAPH (R255, R309 to R312). -/
def Obligations.adapters_and_graphs : Prop :=
  ∀ (s : State) (d : Nat) (t : Taken),
    (∀ image : Bytes, s.starts d t adLoadFields → t.op = 0x40 →
      (∀ m, t.origin = some m → exec (.adapterLoad d image) s = .next (unfused s (takeShare s d m t image))) ∧
      (t.origin = none → (byteAt t.bytes 9 = 1 ∨ byteAt t.bytes 9 = 2) → mhas s.groups (groupKey t.ctx (byteAt t.bytes 8)) = true →
        let x := adImage s t image
        (x.1 ≠ stOk → exec (.adapterLoad d image) s = .next (unfused s (finish x.2.2 d x.1))) ∧
        (x.1 = stOk → adStatus x.2.2 t.ctx x.2.1 ≠ stOk →
          exec (.adapterLoad d image) s = .next (unfused s (finish x.2.2 d (adStatus x.2.2 t.ctx x.2.1)))) ∧
        (x.1 = stOk → adStatus x.2.2 t.ctx x.2.1 = stOk →
          exec (.adapterLoad d image) s = .next (unfused s (loadVersion (holdDesc x.2.2 d) d t x.2.1))))) ∧
    (∀ k (v : AdVer), s.starts d t adRetireFields → t.op = 0x41 →
      versionOf s t.ctx (fld t.bytes 8 4) (fld t.bytes 12 4) = some (k, v) → v.owner = s.net.index →
      (v.state = 0 → exec (.adapterRetire d) s = .next (unfused s (finish s d eBusy))) ∧
      (v.state = 1 → v.refs = 0 → exec (.adapterRetire d) s = .next (unfused s (finish (dropVersion s k) d stOk))) ∧
      (v.state = 1 → v.refs ≠ 0 → exec (.adapterRetire d) s = .next (unfused s (finish
        (fwBump { s with adapters := mset s.adapters k { v with state := 2 } } (kExp 10) 1) d stDeferred)))) ∧
    (∀ (far : List Bytes) (i : Inst), s.starts d t graphFields → t.op = 0x50 →
      mget s.insts (byteAt t.bytes 8) = some i → i.ctx = t.ctx → i.stalled = false → i.unbind = none →
      s.flt.sliceStopped = false →
      let p := instShape s i
      let h := handleAt t.bytes 12
      let n := 128 * p.ops.length
      let r := readTables s t.ctx p h (far.getD 0 [])
      let recs := tableBytes r h n (far.getD 0 [])
      let tabs := graphTables r p recs far
      tableStatus r t.ctx h n = stOk →
      (graphStatus r t.ctx p recs tabs ≠ stOk →
        exec (.runGraph d far) s = .next (unfused s (finish r d (graphStatus r t.ctx p recs tabs)))) ∧
      (graphStatus r t.ctx p recs tabs = stOk →
        let g : Graph := { inst := byteAt t.bytes 8, start := max (fld t.bytes 24 8) (r.time.tread + 1), records := recs,
                           tables := tabs, running := false, parked := false }
        exec (.runGraph d far) s = .next (unfused s { holdDesc r d with graphs := mset r.graphs d g })))

/-- CTX_SAVE and CTX_RESTORE (R157 to R161, R388). -/
def Obligations.preemption : Prop :=
  ∀ (s : State) (d : Nat),
    (∀ (t : Taken) (e : DirEntry), s.starts d t saveFields → t.op = 0x90 →
      let h := handleAt t.bytes 12
      let is := ctxInsts s t.ctx
      let cc := ccSizes s is
      let size := (is.map fun i => areaSize i.2 (mgetD cc i.1 0)).sum
      dirGet s h.1 = some e → byteAt t.bytes 8 ≤ 1 → e.ctx = t.ctx → h.2 ≤ e.size → e.absent = false →
      moduleStatus s e.modIx = stOk → s.flt.sliceStopped = false →
      (s.saves.any fun x => x.2.ctx == t.ctx) = false → (is.any fun i => i.2.unbind.isSome) = false →
      (e.size < h.2 + size → exec (.ctxSave d) s = .next (unfused s (finish s d eCapacity))) ∧
      (h.2 + size ≤ e.size →
        let sv : Save := { ctx := t.ctx, obj := h.1, off := h.2, freeze := fld t.bytes 24 8, unbind := byteAt t.bytes 8 == 1,
                           frozen := false, writing := false, lost := false, poison := false, msgs := [],
                           base := is.map fun i => (i.1, baySum s i.2 0, baySum s i.2 1), cc := cc }
        let u := holdDesc { s with fv := s.fv + is.length } d
        exec (.ctxSave d) s = .next (unfused s
          (is.foldl (fun s i => abandonEarly s i.1 i.2) { u with saves := mset u.saves d sv })))) ∧
    (∀ sv : Save, mget s.saves d = some sv →
      (sv.frozen = false → sv.freeze ≤ s.time.tread → ((ctxInsts s sv.ctx).any fun i => i.2.sw.isSome) = false →
        copying s sv.ctx = false →
        let full := (dirGet s sv.obj).any fun e => decide (e.size < sv.off + saveSize sv (ctxInsts s sv.ctx))
        (full = true → exec (.ctxSaveFreeze d) s = .next (unfused s (finish { s with saves := merase s.saves d } d eCapacity))) ∧
        (full = false → ∃ u, exec (.ctxSaveFreeze d) s = .next u ∧
          mget u.saves d = some { sv with frozen := true, freeze := s.time.tread, msgs := mkeys s.net.msgs fun _ m => m.ctx == sv.ctx } ∧
          { u with saves := [], fwc := [], groups := [] }.butTiles = { s with saves := [], fwc := [], groups := [] }.butTiles)) ∧
      (sv.frozen = true → sv.writing = false → inFlight s sv.ctx = false → (sv.msgs.any fun m => mhas s.net.msgs m) = false → ∀ e, dirGet s sv.obj = some e →
        exec (.sendFenceSatisfied d) s = .next (unfused s (writeSave s d sv e)))) ∧
    (∀ (t : Taken) (e : DirEntry) (area : Bytes), s.starts d t restoreFields → t.op = 0x91 →
      let h := handleAt t.bytes 12
      dirGet s h.1 = some e → e.ctx = t.ctx → h.2 ≤ e.size → (s.saves.any fun x => x.2.ctx == t.ctx) = false →
      (s.rests.any fun x => x.2.ctx == t.ctx) = false → e.absent = false → moduleStatus s e.modIx = stOk →
      (e.modIx = s.net.index →
        let n := areasLen (objRead s e h.2 (e.size - h.2))
        let u := objDemand s e h.2 n
        exec (.ctxRestore d area) s =
          .next (unfused s (restoreCtx u d t (objRead u e h.2 n) area (!(objPoisonAt u e h.2 n).isEmpty)))) ∧
      (e.modIx ≠ s.net.index →
        (area.length < 4096 → exec (.ctxRestore d area) s = .next (unfused s (finish s d ePoison))) ∧
        (4096 ≤ area.length → exec (.ctxRestore d area) s = .next (unfused s
          (restoreCtx s d t (area.take (e.size - h.2)) (area.drop (e.size - h.2)) (decide (area.length < e.size - h.2))))))) ∧
    (∀ r : Restore, mget s.rests d = some r → r.resume ≤ s.time.tread → s.flt.sliceStopped = false → s.net.closing = false →
      exec (.resumeTreadRelease d) s = .next (unfused s (
        let u := r.insts.foldl (fun s k => (mget s.insts k).elim s fun i =>
          if i.stalled then s else thawTiles s (instTiles i)) { s with rests := merase s.rests d }
        complete { u with flt.sliceStopped := false, net.recovery := none } d stOk (instMask r.insts) 0)))

/-- TELEMETRY_SNAP (R440, R441, R501) and the event log (R508). -/
def Obligations.telemetry_and_log : Prop :=
  ∀ (s : State) (d : Nat) (t : Taken),
    (s.starts d t [(8, 8), (16, 4), (20, 4), (24, 8)] → t.op = 0xA0 →
      (2 ^ 10 ≤ fld t.bytes 20 4 → exec (.telemetrySnap d) s = .next (unfused s (finish s d ePerm))) ∧
      (fld t.bytes 20 4 < 2 ^ 10 →
        let due := s.time.ticks + if s.time.loaded then max 1 (fld t.bytes 24 8 - s.time.tread) else 1
        exec (.telemetrySnap d) s = .next (unfused s (holdDesc { s with snaps := mset s.snaps d due } d)))) ∧
    (∀ due, mget s.snaps d = some due → mget s.taken d = some t → due ≤ s.time.ticks → s.clk = 0 → coresRun s = true →
      let sets := fld t.bytes 20 4
      let u := serviceSets { s with snaps := merase s.snaps d } sets
      let out := snapBytes u t.ctx sets
      (fld t.bytes 16 4 < out.length → exec (.telemetryLatch d) s = .next (unfused s (finish u d eCapacity))) ∧
      (out.length ≤ fld t.bytes 16 4 → exec (.telemetryLatch d) s = .next (unfused s
        (complete (pmWrite (freeRecords u t.ctx sets) t.port (fld t.bytes 8 8) out) d stOk out.length 0)))) ∧
    (s.tr.fwRunning = true → ∃ u, exec .eventLogWrite s = .next u ∧ u.evPend = [] ∧
      u.store.eventLog = if storeOpen s = true then s.evPend.foldl pushLog s.store.eventLog else s.store.eventLog)

/-- SYNC_SET and SYNC_WAIT (R347 to R357, Table 11-5). -/
def Obligations.sync_descriptors : Prop :=
  ∀ (s : State) (d : Nat) (t : Taken) (k kind : Nat), vidOf s t.ctx (fld t.bytes 8 2) = some (k, s.net.index, kind) →
    let u := fwBump s (kSync 0) 1
    (∀ (c : Instr) (op : Nat), (c, op) ∈ [(.syncSetArrive d, 0), (.syncSetAdd d, 1), (.syncSetPost d, 6), (.syncSetBase d, 7)] →
      partnerWrites s t.port = false → s.starts d t setFields → t.op = 0x60 → byteAt t.bytes 10 = op → opFits op kind = false →
      exec c s = .next (unfused s (finish s d ePerm))) ∧
    (∀ (c : Instr) (op : Nat), (c, op) ∈ [(.syncSetArrive d, 0), (.syncSetAdd d, 1), (.syncSetPost d, 6), (.syncSetBase d, 7)] →
      partnerWrites s t.port = true → s.starts d t setFields → t.op = 0x60 → byteAt t.bytes 10 = op → exec c s = .next (unfused s s)) ∧
    (∀ o, mget s.objs k = some o → o.kind = kind → partnerWrites s t.port = false → s.starts d t setFields → t.op = 0x60 →
      let n := fld t.bytes 16 8
      (byteAt t.bytes 10 = 1 → kind = 0 → n < 2 ^ 32 → exec (.syncSetAdd d) s =
        .next (unfused s (finish (serveCounter (setObj u k { o with value := (o.value + n) % 2 ^ 32 }) k) d stOk))) ∧
      (byteAt t.bytes 10 = 6 → kind = 2 → n < 2 ^ 32 → exec (.syncSetPost d) s =
        .next (unfused s (finish (serveSem (setObj (fwBump u (kSync 9) (b2n (decide (o.limit < o.value + n)))) k
          { o with value := min o.limit (o.value + n) }) k o.waiters.length) d stOk))) ∧
      (byteAt t.bytes 10 = 7 → kind = 1 → exec (.syncSetBase d) s =
        .next (unfused s (finish (syncRun (setObj u k { o with base := some n }) [.settle k]) d stOk))) ∧
      (byteAt t.bytes 10 = 0 → kind = 1 → n < 2 ^ 32 → ∀ m x, memberLeast o 4 = some m → o.members[m]? = some x →
        x.arrivals < o.oldest + 16 →
        let v := syncRun u [.arrive k m s.time.tread]
        ((mget v.objs k).any fun y => y.waiters.any fun w => w.who == .desc d && w.want == .gen (x.arrivals % 2 ^ 32)) = false →
        exec (.syncSetArrive d) s = .next (unfused s (finish v d stOk)))) ∧
    (∀ o, mget s.objs k = some o → o.kind = kind → s.starts d t waitFields → t.op = 0x61 →
      let n := fld t.bytes 12 4
      let limit := fld t.bytes 16 4
      let hold (w : WaitFor) : State := setObj u k { o with waiters := o.waiters ++ [{ who := .desc d, want := w, expiry := if limit = 0 then none else some (t.tread + limit) }] }
      (byteAt t.bytes 10 = 2 → kind = 0 → reached o.value n = true →
        exec (.syncWaitWait d) s = .next (unfused s (complete u d stOk o.value 0))) ∧
      (byteAt t.bytes 10 = 2 → kind = 0 → reached o.value n = false →
        exec (.syncWaitWait d) s = .next (unfused s (holdDesc (hold (.value n)) d))) ∧
      (byteAt t.bytes 10 = 2 → kind = 1 → o.released n = true →
        exec (.syncWaitWait d) s = .next (unfused s (complete u d stOk n 0))) ∧
      (byteAt t.bytes 10 = 2 → kind = 1 → o.released n = false →
        exec (.syncWaitWait d) s = .next (unfused s (holdDesc (hold (.gen n)) d))) ∧
      (byteAt t.bytes 10 = 5 → kind = 2 → o.waiters = [] → n ≤ o.value → exec (.syncWaitAcquire d) s =
        .next (unfused s (complete (setObj u k { o with value := o.value - n }) d stOk (o.value - n) 0))) ∧
      (byteAt t.bytes 10 = 5 → kind = 2 → (o.waiters ≠ [] ∨ o.value < n) →
        exec (.syncWaitAcquire d) s = .next (unfused s (holdDesc (hold (.count n)) d)))) ∧
    (mget s.taken d = some t → t.op = 0x61 → t.stage = .waiting → fld t.bytes 16 4 ≠ 0 → t.tread + fld t.bytes 16 4 ≤ s.time.tread →
      let v := dropWaits s (· == .desc d)
      let v := { v with syncOut := (if byteAt t.bytes 10 = 5 then
          mmap v.syncOut fun _ (o : SyncOut) => if o.who == Who.desc d then { o with who := Who.firmware } else o
        else mkeep v.syncOut fun _ (o : SyncOut) => o.who != Who.desc d) }
      exec (.syncWaitTimeout d) s = .next (unfused s (finish
        ((v.objs.map (·.1)).foldl (fun s k => serveSem s k ((mget s.objs k).elim 0 (·.waiters.length))) v) d eBusy))) ∧
    (∀ v, mget s.taken d = some t → t.stage = .satisfied v → t.op = 0x61 →
      exec (.syncWaitSatisfied d) s = .next (unfused s (complete s d stOk v 0)))

/-- R357, R358, R362, R365 to R367, Table 11-7. -/
def Obligations.barriers : Prop :=
  ∀ (s : State) (k : SyncIx) (o : SyncObj), mget s.objs k.val = some o →
    (∀ (ctx vid n : Nat) (w : W32), coresRun s = true → vidOf s ctx vid = some (k.val, s.net.index, o.kind) →
      let u := fwBump s (kSync 0) 1
      (ownWrites s = true → ∀ c ∈ [Instr.setBase ctx vid n, .newStep ctx vid w, .restart ctx vid w],
        opFits (match c with | .setBase .. => 7 | .newStep .. => 8 | _ => 9) o.kind = true → exec c s = .next (unfused s s)) ∧
      (ownWrites s = false → o.kind = 1 → exec (.setBase ctx vid n) s =
        .next (unfused s (syncRun (setObj u k { o with base := some (n % 2 ^ 64) }) [.settle k]))) ∧
      (ownWrites s = false → o.kind = 3 → exec (.newStep ctx vid w) s = .next (unfused s
        (setObj u k { o with finished := [], value := 0, baseGen := w.toNat, curGen := w.toNat }))) ∧
      (ownWrites s = false → o.kind = 3 → exec (.restart ctx vid w) s =
        .next (unfused s (setObj u k { o with value := 0, curGen := w.toNat })))) ∧
    (∀ (c : Instr) (kind : RelKind), (c, kind) ∈ [(.barrierTimedRelease k, .timer), (.barrierTimeout k, .timeout),
        (.barrierFloorRelease k, .arrival)] → o.kind = 1 →
      (∀ due, o.dueOf o.next = some (due, kind) → due ≤ s.time.tread → o.next < o.oldest + 16 →
        exec c s = .next (unfused s (let r := fireGen s k o.next due kind; syncRun r.1 r.2))) ∧
      (∀ due, o.dueOf o.next = some (due, kind) → s.time.tread < due → exec c s = .next (unfused s s)) ∧
      (o.dueOf o.next = none → exec c s = .next (unfused s s)) ∧
      (∀ due other, o.dueOf o.next = some (due, other) → other ≠ kind → exec c s = .next (unfused s s))) ∧
    exec (.generationRetire k) s = .next (unfused s ((o.gens.filter fun e => retires s o e.1 e.2).foldl
      (fun u e => closeGen u k e.1 ((List.range o.members.length).filter fun m => !mhas e.2.arrived m)) s)) ∧
    (∀ wave : Nat,
      let due (w : Wave) : Bool := w.obj == k.val && w.wave == wave && decide (w.due ≤ s.clks)
      exec (.riserWaveStart k wave) s = .next (unfused s ((s.waves.filter due).foldl (fun u w => w.tiles.foldl wakeTile u)
        { s with waves := s.waves.filter fun w => !due w }))) ∧
    (∀ v : W32, s.fuses.lc ≠ .scrapped →
      let u (act res old : Nat) : State :=
        forceRecord { s with sf := { object := k, action := act, result := res, value := v.toNat } } k act res old v.toNat
      (forceAllowed s = false → exec (.syncForceSetValue k v) s = .next (unfused s (u 0 2 o.value)) ∧
        exec (.syncForceRelease k v) s = .next (unfused s (u 1 2 0))) ∧
      (forceAllowed s = true → o.kind = 0 → exec (.syncForceSetValue k v) s =
        .next (unfused s (serveCounter (setObj (u 0 0 o.value) k { o with value := v.toNat }) k))) ∧
      (forceAllowed s = true → o.kind = 2 → exec (.syncForceSetValue k v) s =
        .next (unfused s (serveSem (setObj (u 0 0 o.value) k { o with value := v.toNat }) k o.waiters.length))) ∧
      (forceAllowed s = true → o.kind = 1 → exec (.syncForceSetValue k v) s = .next (unfused s (u 0 3 o.value))) ∧
      (forceAllowed s = true → o.kind = 1 → o.released v.toNat = false →
        let off := (v.toNat + 2 ^ 32 - o.oldest % 2 ^ 32) % 2 ^ 32
        (16 ≤ off → exec (.syncForceRelease k v) s = .next (unfused s (u 1 4 0))) ∧
        (off < 16 → exec (.syncForceRelease k v) s = .next (unfused s (setObj (u 1 0 0) k
          { o with gens := mset o.gens (o.oldest + off) { o.gen (o.oldest + off) with forced := true, due := some (s.time.tread + 1) } })))))

/-- R38, R89, R90, R117, R214, R218, for the 23 rows of lanes; `laneOf` names their lanes and instructions. -/
def Obligations.lanes_wait : Prop :=
  ∀ (c : Instr) (t l : Nat) (row : InstrWord → Bool) (s : State), laneOf c = some (t, l, row) →
    (∀ w, s.evaluates t l w → row w = false → exec c s = .next (unfused s s)) ∧
    ((mhas s.tiles t = false ∨ lanesRun s t = false ∨ (tileOf s t).frozen = true ∨ ((tileOf s t).lane l).halted = true ∨
        ((tileOf s t).lane l).evaluated = true ∨ mget (tileOf s t).cfg.prog ((tileOf s t).lane l).pc = none) →
      exec c s = .next (unfused s s)) ∧
    (∀ w r e, s.evaluates t l w → row w = true → progRead s t ((tileOf s t).lane l).pc = (.trap e, r) →
      exec c s = .next (unfused s (trapLane r t l e)) ∧ e = ePoison) ∧
    (∀ w r, s.reads r t l w → row w = true →
      (laneCauses r t l w ≠ [] →
        let range := t2Range (tileOf r t).core w
        let u := if 0x7 ∈ laneCauses r t l w ∧ l ≠ 4 then startRebuilds r 1 (t2Off t range.1) range.2 else r
        exec c s = .next (unfused s (setLane u t l fun y => { y with evaluated := true, waits := laneCauses r t l w }))) ∧
      (laneCauses r t l w = [] → r.bankWaits t l w ≠ [] →
        exec c s = .next (unfused s (setLane (useBanks r t (l + 1) (r.served t l w).2) t l fun y =>
          { y with evaluated := true, waits := r.bankWaits t l w, served := (r.served t l w).1 }))))

/-- R117, Table 3-10. -/
def Obligations.lanes_count_once : Prop :=
  ∀ (s : State) (t l : Nat), mhas s.tiles t = true → l < 5 →
    let x := tileOf s t
    let lane := x.lane l
    laneTally x l < 17 ∧
    (∀ k, k < 17 → mgetD (countLanes s t).hwc (kTile t (17 * l + k)) .zero =
      if k = laneTally x l then (mgetD s.hwc (kTile t (17 * l + k)) .zero).add 1 else mgetD s.hwc (kTile t (17 * l + k)) .zero) ∧
    (lane.evaluated = true → lane.trapped = false → lane.waits = [] → laneTally x l = 0) ∧
    (lane.evaluated = true → lane.trapped = false → (∀ c ∈ lane.waits, c < 0x10) → ∀ k, firstCause lane.waits = some k → laneTally x l = 2 + k) ∧
    (lane.evaluated = false → x.frozen = false → laneTally x l = 1) ∧
    (lane.evaluated = false → x.frozen = true → laneTally x l = if x.config = true then 14 else 15)

/-- Table 3-15, R87, R98. -/
def Obligations.control_opcodes : Prop :=
  ∀ (s u : State) (t : TileIx) (l : Lane) (w : InstrWord), s.fires u t (laneIx l) w →
    let core := (tileOf u t).core
    (∀ c, (c, opcodeOf w) ∈ [(.instrNop t l, 0), (.jump t l, 4), (.halt t l, 5)] →
      exec c s = .next (unfused s (u.fired t (laneIx l) w))) ∧
    (opcodeOf w = 1 → exec (.setlc t l) s = .next (unfused s
      ((setCore u t { core with lc := core.lc.set (iw w 66 64) (if iw w 67 67 = 1 then core.sreg (iw w 72 68) % 2 ^ 32 else iw w 127 96) }).fired
        t (laneIx l) w))) ∧
    (opcodeOf w = 2 → exec (.setf t l) s = .next (unfused s ((setFlag u t (iw w 68 64) true).fired t (laneIx l) w))) ∧
    (opcodeOf w = 3 → exec (.clrf t l) s = .next (unfused s ((setFlag u t (iw w 68 64) false).fired t (laneIx l) w))) ∧
    (opcodeOf w = 6 →
      let q := iw w 68 64
      let v := if iw w 69 69 = 1 then core.sreg (iw w 74 70) % 2 ^ 32 else iw w 127 96
      (netOf q ≠ 2 → exec (.send t l) s = .next (unfused s ((putEntry u t q v).fired t (laneIx l) w))) ∧
      (netOf q = 2 → v % 256 < 0xF0 → exec (.send t l) s = .next (unfused s ((putEntry u t q (v % 256)).fired t (laneIx l) w))) ∧
      (netOf q = 2 → 0xF0 ≤ v % 256 → exec (.send t l) s = .next (unfused s (trapLane u t (laneIx l) ePerm)))) ∧
    (opcodeOf w = 7 → exec (.eos t l) s = .next (unfused s
      (((putsOf w).foldl (fun s q => putEntry s t q 0xFF) u).fired t (laneIx l) w)))

/-- The frame of the eight control opcodes (Table 3-15). -/
def Obligations.control_frame : Prop :=
  ∀ (s u : State) (t : TileIx) (l : Lane) (c : Instr),
    (c = .instrNop t l ∨ c = .setlc t l ∨ c = .setf t l ∨ c = .clrf t l ∨ c = .jump t l ∨ c = .halt t l ∨ c = .eos t l ∨
      c = .send t l ∧ ∀ w, mget (tileOf s t).cfg.prog ((tileOf s t).lane (laneIx l)).pc = some w → netOf (iw w 68 64) ≠ 2) →
    (progRead s t ((tileOf s t).lane (laneIx l)).pc).1 = .val 0 →
    exec c s = .next u →
    u.butLane = s.butLane ∧ (∀ j, j ≠ t.val → mget u.tiles j = mget s.tiles j) ∧
      (tileOf u t).core.s = (tileOf s t).core.s ∧ (tileOf u t).core.v = (tileOf s t).core.v ∧
      (tileOf u t).core.bank0 = (tileOf s t).core.bank0 ∧ (tileOf u t).core.bank1 = (tileOf s t).core.bank1 ∧
      (tileOf u t).cfg = (tileOf s t).cfg ∧ (tileOf u t).inst = (tileOf s t).inst

/-- MXE_OP, MERGE, VOP, SOP, T2 path (Tables 3-5, 3-16 to 3-19, R51 to R67, R97, R99, R593). That an operand of the matrix engine past the end of
T1 traps is the model's choice (notes/assumptions/92.md), and so is the place of MXQ's scales (notes/assumptions/93.md). -/
def Obligations.engines : Prop :=
  ∀ (s u : State) (t : TileIx) (w : InstrWord),
    (s.fires u t 0 w → opcodeOf w = 0x10 →
      let v := mxeWord w
      let ins := mxeTiles v 0 (mxeK v) ++ (if iw v 102 101 = 2 then [(mxePart v, 24 * (blockIx (halfOf v)).length)] else []) ++
        (if iw v 104 103 = 1 ∧ iw v 109 109 = 1 then [(mxeBias v, 128)] else [])
      let past := iw v 104 103 ≠ 0 ∧ (mxeDest v).1.pastT1 (mxeDest v).2 = true
      let load := iw v 102 101 == 2
      let o : OpSt := { word := if load then v else setField v 102 101 1, done := 0, clk := if load then loadClk v else 1 }
      (∀ e x, checkAll u t ins = (.trap e, x) → exec (.mxeOp t) s = .next (unfused s (trapLane x t 0 e))) ∧
      (∀ g x, checkAll u t ins = (.val g, x) →
        (past → exec (.mxeOp t) s = .next (unfused s (trapLane x t 0 ePerm))) ∧
        (¬past → exec (.mxeOp t) s = .next (unfused s ((setOp (mxeStart x t v) t 0 (some o)).fired t 0 w))))) ∧
    (s.fires u t 0 w → opcodeOf w = 0x11 →
      (∀ e x, checkAll u t [(mxePart w, 24 * (mergeIx w).length)] = (.trap e, x) →
        exec (.merge t) s = .next (unfused s (trapLane x t 0 e))) ∧
      (∀ v x, checkAll u t [(mxePart w, 24 * (mergeIx w).length)] = (.val v, x) →
        exec (.merge t) s = .next (unfused s ((setOp x t 0 (some { word := w, done := 0, clk := loadClk w })).fired t 0 w)))) ∧
    (unitRuns s t = true →
      (((tileOf s t).lane 0).op = none → (tileOf s t).core.drain.isSome = true →
        exec (.mxeOpComplete t) s = .next (unfused s (setCore s t { (tileOf s t).core with drain := none }))) ∧
      (∀ o, ((tileOf s t).lane 0).op = some o → opcodeOf o.word = 0x11 →
        let x := endDrain s t
        let k := iw o.word 100 100
        let b := (tileOf x t).core.bank k
        let y := putBank x t k
          (if b.fits o.word then b.merge (mergeIx o.word) (readWhere x t (tileOf x t).core (mxePart o.word)) else (b.spoil, flInvalid))
        exec (.mxeOpComplete t) s = .next (unfused s (setOp y t 0 none))) ∧
      (∀ o, ((tileOf s t).lane 0).op = some o → opcodeOf o.word ≠ 0x11 →
        let x := if iw o.word 102 101 = 2 then mxeLoad (endDrain s t) t o.word else endDrain s t
        let o' := { o with word := setField o.word 102 101 1 }
        (∀ v y, mxeRunOut x t o' = (.val v, y) → exec (.mxeOpComplete t) s = .next (unfused s (endDrain y t))) ∧
        (∀ e y, mxeRunOut x t o' = (.trap e, y) → exec (.mxeOpComplete t) s = .next (unfused s (endDrain (trapLane y t 0 e) t)))) ∧
      (∀ o, ((tileOf s t).lane 3).op = some o →
        (∀ v y, t2Copy s t o.word o.moved (iw o.word 127 112) = (.val v, y) →
          exec (.t2MoveComplete t) s =
            .next (unfused s (if iw o.word 133 133 = 1 then setFlag (setOp y t 3 none) t (iw o.word 132 128) true else setOp y t 3 none))) ∧
        (∀ e y, t2Copy s t o.word o.moved (iw o.word 127 112) = (.trap e, y) →
          exec (.t2MoveComplete t) s = .next (unfused s (trapLane y t 3 e))))) ∧
    (s.fires u t 1 w → opcodeOf w = 0x20 →
      let fn := iw w 71 64
      let ix := iw w 84 80
      let bc := broadcastImm fn (iw w 75 72) (iw w 86 85) (iw w 223 192)
      (∀ e x, readRef u t (iw w 111 96) ix 0 = (.trap e, x) → exec (.vop t) s = .next (unfused s (trapLane x t 1 e))) ∧
      ∀ a u1, readRef u t (iw w 111 96) ix 0 = (.val a, u1) →
      (∀ e x, readRef u1 t (iw w 127 112) ix bc.1 = (.trap e, x) → exec (.vop t) s = .next (unfused s (trapLane x t 1 e))) ∧
      ∀ b u2, readRef u1 t (iw w 127 112) ix bc.1 = (.val b, u2) →
      (∀ e x, (if fn = 0x29 then (Got.val 0, u2) else readRef u2 t (iw w 143 128) ix 0) = (.trap e, x) →
        exec (.vop t) s = .next (unfused s (trapLane x t 1 e))) ∧
      ∀ c u3, (if fn = 0x29 then (Got.val 0, u2) else readRef u2 t (iw w 143 128) ix 0) = (.val c, u3) →
        let r := vopRun { fn := fn, fs := iw w 75 72, fd := iw w 79 76, iw := iw w 86 85, a := a, b := b,
                          c := if fn = 0x41 then iw w 223 192 else c }
        let fl := if (vReads fn).2.1 ∧ iw w 127 126 = 3 then orFlags r.2.2 bc.2 else r.2.2
        let busy (y : State) : State := setLane y t 1 fun l => { l with busy := vClk fn (iw w 75 72) (iw w 79 76) }
        (∀ n y, writeRef (orStep u3 t fl) t (iw w 159 144) ix r.1 = (.val n, y) →
          (r.2.1 = none → exec (.vop t) s = .next (unfused s ((busy y).fired t 1 w))) ∧
          (∀ sc, r.2.1 = some sc →
            (∀ m z, writeRef (busy y) t (iw w 143 128) ix sc = (.val m, z) → exec (.vop t) s = .next (unfused s (z.fired t 1 w))) ∧
            (∀ e z, writeRef (busy y) t (iw w 143 128) ix sc = (.trap e, z) → exec (.vop t) s = .next (unfused s (trapLane z t 1 e))))) ∧
        (∀ e y, writeRef (orStep u3 t fl) t (iw w 159 144) ix r.1 = (.trap e, y) →
          exec (.vop t) s = .next (unfused s (trapLane y t 1 e)))) ∧
    (s.fires u t 2 w → opcodeOf w = 0x30 →
      let fn := iw w 71 64
      (∀ e x, readS u t (iw w 89 82) = (.trap e, x) → exec (.sop t) s = .next (unfused s (trapLane x t 2 e))) ∧
      ∀ a u1, readS u t (iw w 89 82) = (.val a, u1) →
      (∀ e x, sopB u1 t w = (.trap e, x) → exec (.sop t) s = .next (unfused s (trapLane x t 2 e))) ∧
      ∀ b u2, sopB u1 t w = (.val b, u2) →
        (fn ≠ 0x20 → fn ≠ 0x21 →
          let r := sopRun fn (iw w 73 72) a b
          exec (.sop t) s = .next (unfused s ((writeS (orStep u2 t r.2) t (iw w 81 74) r.1).fired t 2 w)) ∧
          (bit (iw w 81 74) 7 = false → ∃ z, exec (.sop t) s = .next z ∧ (tileOf z t).core.sreg (iw w 81 74 % 32) = r.1 % 2 ^ 64)) ∧
        ((fn = 0x20 ∨ fn = 0x21) → a % 8 ≠ 0 → exec (.sop t) s = .next (unfused s (trapLane u2 t 2 ePerm))) ∧
        (fn = 0x20 → a % 8 = 0 →
          (∀ v y, readT1 u2 t a 8 = (.val v, y) → exec (.sop t) s = .next (unfused s ((writeS y t (iw w 81 74) v).fired t 2 w))) ∧
          (∀ e y, readT1 u2 t a 8 = (.trap e, y) → exec (.sop t) s = .next (unfused s (trapLane y t 2 e)))) ∧
        (fn = 0x21 → a % 8 = 0 →
          (a + 8 ≤ 2 ^ 19 → exec (.sop t) s = .next (unfused s ((storeTier u2 0 (t1Off t a) (leBytes 8 b)).fired t 2 w))) ∧
          (2 ^ 19 < a + 8 → exec (.sop t) s = .next (unfused s (trapLane u2 t 2 ePerm))))) ∧
    (∀ (c : Instr), (c, opcodeOf w) ∈ [(.t2Read t, 0x40), (.t2Write t, 0x41)] → s.fires u t 3 w →
      let core := (tileOf u t).core
      let n := 64 * iw w 127 112
      let a := t2At core w
      let src := if opcodeOf w = 0x40 then Where.t2 a else localAt core w
      ((reserveOff < a + n ∨ (localAt core w).pastT1 n = true) → exec c s = .next (unfused s (trapLane u t 3 ePerm))) ∧
      (a + n ≤ reserveOff → (localAt core w).pastT1 n = false →
        (∀ e x, checkWhere u t n src = (.trap e, x) → exec c s = .next (unfused s (trapLane x t 3 e))) ∧
        (∀ v x, checkWhere u t n src = (.val v, x) →
          exec c s = .next (unfused s ((setOp x t 3 (some { word := t2Resolve core w, done := 0, clk := 1 })).fired t 3 w)))))

/-- Tables 11-5 and 11-6, R349, R362; the OPs of control cores alone are notes/assumptions/77.md. -/
def Obligations.sync_instructions : Prop :=
  (∀ (s r : State) (t : TileIx) (w : InstrWord), s.fires r t 2 w → opcodeOf w = 8 → 7 ≤ iw w 83 80 →
    exec (.syncArrive t) s = .next (unfused s (trapLane r t 2 ePerm))) ∧
  ∀ (s r : State) (t : TileIx) (w : InstrWord) (c : Instr) (op : Nat),
    (c, op) ∈ [(.syncArrive t, 0), (.syncAdd t, 1), (.syncWait t, 2), (.take t, 3), (.complete t, 4), (.acquire t, 5), (.post t, 6)] →
    s.fires r t 2 w → opcodeOf w = 8 → iw w 83 80 = op →
    (instOfTile r t = none → exec c s = .next (unfused s (trapLane r t 2 ePerm))) ∧
    (∀ k i, instOfTile r t = some (k, i) →
      (vidOf r i.ctx (iw w 79 64) = none → exec c s = .next (unfused s (trapLane r t 2 ePerm))) ∧
      (∀ phys home kind, vidOf r i.ctx (iw w 79 64) = some (phys, home, kind) →
        let n := syncN (tileOf r t).core w op
        (opFits op kind = false → exec c s = .next (unfused s (trapLane r t 2 ePerm))) ∧
        (opFits op kind = true → home ≠ r.net.index →
          exec c s = .next (unfused s ((syncThere r t w i.ctx op n home phys).2.fired t 2 w))) ∧
        (opFits op kind = true → home = r.net.index →
          (∀ v u, syncHere r t w op n phys = (.val v, u) → exec c s = .next (unfused s (u.fired t 2 w))) ∧
          (∀ e u, syncHere r t w op n phys = (.trap e, u) → exec c s = .next (unfused s (trapLane u t 2 e)))) ∧
        (∀ o item, op = 3 → opFits op kind = true → home = r.net.index → mget r.objs phys = some o → o.kind = 3 →
          nextItem o = some item →
          let u := takeResult (setObj (fwBump r (kSync 0) 1) phys { o with value := item + 1 }) t (iw w 95 91) item o.curGen
          tileWaits u phys t = false → exec c s = .next (unfused s (u.fired t 2 w)))))

/-- R99, R104, R111, R112, R175, R181, R193 to R196, R202, R214, R219, R425. That a local end past the end of T1 traps is the model's choice
(notes/assumptions/92.md). -/
def Obligations.transfers : Prop :=
  ∀ (s : State) (t : TileIx),
    (∀ (r : State) (w : InstrWord) (c : Instr), c = .galGet t ∧ opcodeOf w = 0x50 ∨ c = .galPut t ∧ opcodeOf w = 0x51 →
      s.fires r t 4 w →
      let start (u : State) (w : InstrWord) : State := setOp u t 4 (some { word := w, done := 0, clk := 1 })
      (iw w 65 64 = 0 → exec c s = .next (unfused s ((start r w).fired t 4 w))) ∧
      (iw w 65 64 ≠ 0 → instOfTile r t = none → exec c s = .next (unfused s (trapLane r t 4 ePerm))) ∧
      (iw w 65 64 ≠ 0 → ∀ k i, instOfTile r t = some (k, i) →
        let n := iw w 127 96
        let x := withAddress (tileOf r t).core w
        let g := opAddress x
        (galLocalOk x n = false → exec c s = .next (unfused s (trapLane r t 4 ePerm))) ∧
        (galLocalOk x n = true → inRegion r i g n = false → inBound r i g n = none →
          exec c s = .next (unfused s (trapLane r t 4 ePerm))) ∧
        (galLocalOk x n = true → inRegion r i g n = true → exec c s = .next (unfused s ((start r x).fired t 4 w))) ∧
        (∀ obj e, galLocalOk x n = true → inRegion r i g n = false → inBound r i g n = some (obj, e) →
          (e.modIx = r.net.index → exec c s = .next (unfused s ((start r x).fired t 4 w))) ∧
          (e.modIx ≠ r.net.index → opcodeOf x = 0x50 →
            exec c s = .next (unfused s ((start (galRemote r t i.ctx x obj e) x).fired t 4 w))) ∧
          (e.modIx ≠ r.net.index → opcodeOf x = 0x51 →
            ∀ tier off, galLocal t x = (tier, off) →
            let u := demand (countTier r tier off n false) tier off n 1
            (poisoned u tier off n = true → exec c s = .next (unfused s (trapLane u t 4 ePoison))) ∧
            (poisoned u tier off n = false →
              exec c s = .next (unfused s ((start (galRemote u t i.ctx x obj e) x).fired t 4 w))))))) ∧
    (∀ o, ((tileOf s t).lane 4).op = some o → unitRuns s t = true →
      let w := o.word
      let g := opAddress w
      (iw w 65 64 = 0 → exec (.galleryTransferDone t) s = .next (unfused s (galStreamDone s t w))) ∧
      (iw w 65 64 ≠ 0 → gaModule g = s.net.index →
        (galHeld s w = true →
          exec (.galleryTransferDone t) s = .next (unfused s (startRebuilds s (gaTier g) (gaOff g) (iw w 127 96)))) ∧
        (galHeld s w = false → putRange s w = none → exec (.galleryTransferDone t) s = .next (unfused s (galAddressDone s t w))) ∧
        (∀ obj e b, galHeld s w = false → putRange s w = some (obj, e, b) →
          (writeHeld s obj e b (iw w 127 96) = true →
            exec (.galleryTransferDone t) s = .next (unfused s (askLines s obj e b (iw w 127 96)))) ∧
          (writeHeld s obj e b (iw w 127 96) = false →
            exec (.galleryTransferDone t) s = .next (unfused s (galAddressDone (usedLines s obj b (iw w 127 96)) t w))))) ∧
      (iw w 65 64 ≠ 0 → gaModule g ≠ s.net.index →
        (opcodeOf w = 0x50 → (s.net.msgs.any fun m => m.2.ty == 2 && m.2.why == .tile t) = false) →
        let src := galLocal t w
        let bad := opcodeOf w = 0x50 ∧ poisoned s src.1 src.2 (iw w 127 96) = true
        (bad → exec (.galleryTransferDone t) s = .next (unfused s (trapLane s t 4 ePoison))) ∧
        (¬bad → exec (.galleryTransferDone t) s = .next (unfused s (galEnd s t w (iw w 127 96)))))) ∧
    (∀ q : Fin 24,
      let v := (tileOf s t).core.queue q
      let m := slotBanks v q v.ringHead
      let a := t1Off t (v.ringBase + slotBytes q * v.ringHead)
      let u := demand (useBanks s t 4 m) 0 a (slotBytes q) 1
      unitRuns s t = true → v.owed = true → 0 < v.ringCnt → (∀ r ∈ v.returns, r.2 ≠ returnClk) →
      (takenBanks s t 4 ||| (tileOf s t).usedBy 4) &&& m = 0 →
      let e := readSlot u t q v v.ringHead
      let y := { v with ringHead := (v.ringHead + 1) % v.ringSize, ringCnt := v.ringCnt - 1,
                        returns := v.returns ++ [(e, returnClk)], owed := false }
      let z := setTile u t { (tileOf u t).touch with core := (tileOf u t).touch.core.setQueue q y }
      (netOf q.val = 1 ∨ poisoned u 0 a (slotBytes q) = false → exec (.spillReturn t q) s = .next (unfused s z)) ∧
      (netOf q.val ≠ 1 → poisoned u 0 a (slotBytes q) = true →
        exec (.spillReturn t q) s = .next (unfused s (trapLane z t (takerOf (tileOf u t).touch q) ePoison)))) ∧
    (∀ k i, instOfTile s t = some (k, i) → i.stalled = false → (tileOf s t).frozen = false → i.wdog ≤ (tileOf s t).core.wdog →
      arrayRuns s = true →
      let u := raiseCtx s 2 i.ctx (leBytes 1 k ++ leBytes 1 (stallCause (tileOf s t)) ++ leBytes 2 t.val)
      let u := if i.sw.any (fun w => w.state == .draining) = true then abandonSwitch u k eCancelled else u
      exec (.fabricWatchdogExpiry t) s = .next (unfused s (failStep (captureInst u k) k eCancelled))) ∧
    (∀ (e : Fin 16) (i : Nat) (f : Fetch) (st : Stream), (engineQ s e)[i]? = some f → mget s.streams f.key = some st →
      ((engineQ s e).findIdx? (fun f => !f.issued && !f.done) = some i → s.ps.state ≠ 2 → s.pw.coolantStop = false →
        (f.fence = true → ((engineQ s e).take i).any (fun x => !x.done) = false) → roomFor st f = true →
        ((engineQ s e).filter fun x => x.issued && !x.done).length < 64 →
        (f.dep = none → exec (.fetchIssue e) s = .next (unfused s (issueFetch s e i f st))) ∧
        (∀ vid n phys kind, f.dep = some (vid, n) → vidOf s f.ctx vid = some (phys, s.net.index, kind) →
          depReached s phys n = true → exec (.fetchIssue e) s = .next (unfused s (issueFetch s e i f st)))) ∧
      (f.issued = true → f.done = false → s.pw.coolantStop = false →
        (f.kind ≠ 2 → f.far.isSome = true →
          (fetchOut s e i = true → exec (.fetchUnitLanded e i) s = .next (unfused s s)) ∧
          (fetchOut s e i = false → exec (.fetchUnitLanded e i) s = .next (unfused s (unitLanded s e i f st)))) ∧
        (f.far = none →
          (accessStatus s f.ctx f.obj f.offset f.length ≠ stOk → exec (.fetchUnitLanded e i) s =
            .next (unfused s (fetchLost s e i (accessStatus s f.ctx f.obj f.offset f.length)))) ∧
          (∀ d, accessStatus s f.ctx f.obj f.offset f.length = stOk → dirGet s f.obj = some d →
            let b := f.offset + f.landed * st.unitBytes
            (f.epoch < d.epoch → exec (.fetchUnitLanded e i) s = .next (unfused s (fetchRedirect s e i f st d))) ∧
            (d.epoch ≤ f.epoch → fetchBehind s e i f b st.unitBytes = true →
              exec (.fetchUnitLanded e i) s = .next (unfused s s)) ∧
            (d.epoch ≤ f.epoch → fetchBehind s e i f b st.unitBytes = false → d.modIx = s.net.index →
              (moveHolds s f.obj (f.kind == 2) = true → exec (.fetchUnitLanded e i) s = .next (unfused s s)) ∧
              (moveHolds s f.obj (f.kind == 2) = false → objMustWait s d b st.unitBytes = true →
                exec (.fetchUnitLanded e i) s = .next (unfused s (objRebuilds s d b st.unitBytes))) ∧
              (moveHolds s f.obj (f.kind == 2) = false → objMustWait s d b st.unitBytes = false → f.kind ≠ 2 →
                exec (.fetchUnitLanded e i) s = .next (unfused s (landFetch s e i f st d))) ∧
              (moveHolds s f.obj (f.kind == 2) = false → objMustWait s d b st.unitBytes = false → f.kind = 2 →
                (st.out ≠ [] → writeHeld s f.obj d b st.unitBytes = true →
                  exec (.fetchUnitLanded e i) s = .next (unfused s (askLines s f.obj d b st.unitBytes))) ∧
                (st.out = [] ∨ writeHeld s f.obj d b st.unitBytes = false →
                  exec (.fetchUnitLanded e i) s = .next (unfused s (landStore (usedLines s f.obj b st.unitBytes) e i f st d)))))))))

/-- R208, R212, R216, R217. -/
def Obligations.tier_writes : Prop :=
  ∀ (s : State) (t o : Nat) (bs : Bytes), t ≤ 2 →
    let u := storeTier s t o bs
    (s.mem.wf = true → u.mem.wf = true) ∧
    (∀ i, i < bs.length → readByte (tierMem u t) (o + i) = bs.getD i emptyByte) ∧
    (∀ x, x < o ∨ o + bs.length ≤ x → readByte (tierMem u t) x = readByte (tierMem s t) x) ∧
    (∀ j, j ≤ 2 → j ≠ t → tierMem u j = tierMem s j) ∧ u.butMemory = s.butMemory ∧
    ∀ n c, (demand s t o n c).bytes = s.bytes ∧ (demand s t o n c).butMemory = s.butMemory

/-- The frame of PAGE_REBUILD, PAGE_REBUILD_DONE, CE_BUCKET_LEAK and PATROL_SCRUB_PAGE (R211 to R229). -/
def Obligations.protection_frame : Prop :=
  ∀ (s u : State) (c : Instr),
    (∃ t w, c = .pageRebuild t w ∨ c = .pageRebuildDone t w ∨ c = .patrolScrubPage t w ∨ c = .ceBucketLeak t) → exec c s = .next u →
    u.bytes = s.bytes ∧ u.mem.dir = s.mem.dir ∧ u.butMemory = s.butMemory

/-- R214, R218, R224, R227, R228, Tables 6-2 and 6-11. -/
def Obligations.protection : Prop :=
  ∀ (s : State) (t : Tier),
    let k := tierCode t
    (∀ w, w * 8 < tierExtent s k → (tierPoison s k).contains w = false →
      let page := pageOf k w
      (t = .t1 → exec (.pageRebuild t w) s = .next (unfused s (poisonRecord (poisonWords s 0 [w]) 0 w 1 1))) ∧
      (t ≠ .t1 → (s.mem.rebuilds.any fun r => r.tier == t && r.page == page) = false →
        exec (.pageRebuild t w) s =
          .next { s with mem.rebuilds := s.mem.rebuilds ++ [{ tier := t, page := page, words := [w], scrub := false }] }) ∧
      (t ≠ .t1 → (s.mem.rebuilds.any fun r => r.tier == t && r.page == page) = true →
        exec (.pageRebuild t w) s = .next { s with mem.rebuilds := s.mem.rebuilds.map fun r =>
            if r.tier = t ∧ r.page = page then { r with words := addWord r.words w } else r })) ∧
    (∀ w, (tierPoison s k).contains w = true → exec (.pageRebuild t w) s = .next (unfused s s)) ∧
    (∀ page r, s.mem.rebuilds.find? (fun r => r.tier == t && r.page == page) = some r →
      let u := { s with mem.rebuilds := s.mem.rebuilds.filter fun x => !(x.tier == t && x.page == page) }
      exec (.pageRebuildDone t page) s = .next (unfused s (rebuildPage u k r.words (if r.scrub then 2 else 1)))) ∧
    (s.time.loaded = true → s.time.tread % 4096 = 0 → flight s % leakOf s k = 0 → leakedAt s k ≠ some (flight s) →
      let down : AMap Bucket → AMap Bucket := fun m => mmap m fun _ b => { b with level := b.level - 1 }
      (t = .t3 → exec (.ceBucketLeak t) s = .next { s with mem.buckets3 := down s.mem.buckets3, mem.leaked3 := some (flight s) }) ∧
      (t = .t2 → exec (.ceBucketLeak t) s = .next { s with mem.buckets2 := down s.mem.buckets2, mem.leaked2 := some (flight s) })) ∧
    (∀ unit, t ≠ .t1 → unit < (if k = 1 then 2048 else 1536) → scrubRuns s k = true → 0 < scrubInterval s k →
      (s.time.tread + unit * scrubInterval s k - unit) % scrubInterval s k = 0 →
      let page := scrubPage k unit (scrubNext s k unit)
      let u := hwBump (scrubAdvance s k unit) (kProt (18 + k)) 1
      let bad := (tierBad u k).filter fun e => pageOf k e.1 == page
      ((u.mem.rebuilds.any fun r => r.tier == t && r.page == page) = true →
        exec (.patrolScrubPage t unit) s = .next (unfused s u)) ∧
      ((u.mem.rebuilds.any fun r => r.tier == t && r.page == page) = false → (mkeys (checkBad u k) fun j _ => j / 2 == page) = [] →
        (bad = [] → (skewed u k).contains page = true → exec (.patrolScrubPage t unit) s = .next (unfused s
          (poisonRecord (hwBump (poisonWords (unskew u k page) k (pageWords k page)) (kProt 16) 1) k ((pageWords k page).headD 0) 5 256))) ∧
        ((skewed u k).contains page = false →
          (bad = [] → exec (.patrolScrubPage t unit) s = .next (unfused s u)) ∧
          (∀ w, bad = [(w, .single)] → exec (.patrolScrubPage t unit) s = .next (unfused s (correctWord u k w))) ∧
          (∀ w, bad = [(w, .multi)] → exec (.patrolScrubPage t unit) s = .next (unfused s (rebuildPage u k [w] 2))))))

/-- R230 to R234, R455, R457, Table 6-13. -/
def Obligations.repairs : Prop :=
  ∀ (s : State),
    (∀ v : W64,
      (s.mem.repBusy = true → exec (.repairGo v) s = .next (unfused s s) ∧ exec (.repairCommit v) s = .next (unfused s s)) ∧
      (s.mem.repBusy = false → s.fuses.lc = .scrapped → exec (.repairGo v) s = .next { s with mem.repResult := 4 } ∧
        exec (.repairCommit v) s = .next { s with mem.repResult := 4 }) ∧
      (s.mem.repBusy = false → s.fuses.lc ≠ .scrapped →
        let u := repairFields s v
        let r := repairResult u (repairTarget u)
        (r ≠ 0 → exec (.repairGo v) s = .next { u with mem.repResult := r }) ∧
        (r = 0 → exec (.repairGo v) s = .next { u with mem.repBusy := true, mem.repCommit := false, mem.repResult := 0 }) ∧
        (s.fuses.lc = .blank → exec (.repairCommit v) s = .next { u with mem.repResult := 4 }) ∧
        (s.fuses.lc ≠ .blank → s.mem.soft = [] → exec (.repairCommit v) s = .next { u with mem.repResult := 7 }) ∧
        (s.fuses.lc ≠ .blank → s.mem.soft ≠ [] → 8 ≤ s.fuses.repairUsed →
          exec (.repairCommit v) s = .next { u with mem.repResult := 5 }) ∧
        (s.fuses.lc ≠ .blank → s.mem.soft ≠ [] → s.fuses.repairUsed < 8 →
          exec (.repairCommit v) s = .next { u with mem.repBusy := true, mem.repCommit := true, mem.repResult := 0 }))) ∧
    (s.mem.repBusy = true → s.mem.repCommit = false → padSlice s = false →
      ∃ u, exec .repairDone s = .next u ∧ u.mem.repBusy = false ∧ u.mem.soft = s.mem.soft ++ [repairTarget s] ∧ u.fuses = s.fuses) ∧
    (s.mem.repBusy = true → s.mem.repCommit = true → s.fuses.repairUsed < 8 →
      let map := s.store.repairMap ++ s.mem.soft.filter (·.kind != 3)
      ∃ u, exec .repairDone s = .next u ∧ u.mem.repBusy = false ∧ u.mem.soft = [] ∧ u.store.repairMap = map ∧
        u.store.stackRows = s.store.stackRows ++ s.mem.soft.filter (·.kind == 3) ∧
        u.fuses = { s.fuses with repairUsed := s.fuses.repairUsed + 1, log := s.fuses.log ++
          [{ kind := 4, value := s.fuses.repairUsed + 1, tread := nowTread s % 2 ^ 48, subject := head8 (sha3 (repairMapBytes map)) }] })

/-- R502: the architected value and where it is exact. -/
def Obligations.architected_value : Prop :=
  ∀ (c : HwCtr), c.count < 2 ^ 40 → c.epoch < 256 → c.extEpoch < 256 → c.ext < 2 ^ 24 →
    c.value = (((c.ext + (c.epoch + 256 - c.extEpoch) % 256) <<< 40) ||| c.count) % 2 ^ 64 ∧
    (∀ ns : List Nat, (c.service.count + ns.sum) / 2 ^ 40 < 256 →
      (ns.foldl HwCtr.add c.service).value = (c.value + ns.sum) % 2 ^ 64 ∧
        (ns.foldl HwCtr.add c.service).service.value = (c.value + ns.sum) % 2 ^ 64) ∧
    (∀ n, c.half = true → 2 ^ 40 ≤ c.count + n → (c.add n).wrapped = true) ∧
    (∀ n, c.wrapped = true → (c.add n).wrapped = true) ∧ c.service.value = c.value

/-- R456. -/
def Obligations.svn_commit : Prop :=
  ∀ (s : State), s.fuses.lc ≠ .scrapped → s.sup.booted = true → s.tr.fwRunning = true →
    let refused (st : Nat) : Prop := exec .svnCommit s = .next { s with mb.cmd := 0x11, mb.status := st, mb.result := 0 }
    (s.mb.arg ≠ s.fuses.svnUsed + 1 → refused ePerm) ∧
    (s.mb.arg = s.fuses.svnUsed + 1 → 63 ≤ s.fuses.svnUsed → refused eCapacity) ∧
    (s.mb.arg = s.fuses.svnUsed + 1 → s.fuses.svnUsed < 63 → s.tr.fwSvn < s.mb.arg → refused ePerm) ∧
    (s.mb.arg = s.fuses.svnUsed + 1 → s.fuses.svnUsed < 63 → s.mb.arg ≤ s.tr.fwSvn →
      ∃ u, exec .svnCommit s = .next u ∧ u.fuses.svnUsed = s.fuses.svnUsed + 1 ∧ u.mb.status = stOk)

/-- R509, on a module that is not SCRAPPED, where no register acts. -/
def Obligations.full_force_log : Prop :=
  ∀ (s : State) (k : SyncIx) (v : W32) (c : Instr), c = .syncForceSetValue k v ∨ c = .syncForceRelease k v →
    s.fuses.lc ≠ .scrapped → 32768 ≤ s.store.forceLog.length →
    ∃ (u : State) (r : LogRec), exec c s = .next u ∧ u.sf.result = 2 ∧ u = { s with sf := u.sf, fwc := u.fwc, evPend := s.evPend ++ [r] } ∧
      r.kind = 2 ∧ r.flags % 2 = 1

/-- R421. -/
def Obligations.revoke : Prop :=
  ∀ (s : State) (b : Bytes), s.fuses.lc ≠ .scrapped → s.sup.booted = true → s.tr.fwRunning = true → byteAt b 3 = 2 → grantForm b = true →
    let c := fld b 0 2
    let p := byteAt b 2
    ((∃ k, (k, c) ∈ s.qpOwner ∧ k / 64 = p ∧ (qpOf s p (k % 64)).en = true) →
      exec (.contextRevoke b) s = .next { s with mb := { s.mb with cmd := 3, len := b.length, status := eBusy, result := 0 } }) ∧
    ((∀ k, (k, c) ∈ s.qpOwner → k / 64 = p → (qpOf s p (k % 64)).en = false) →
      ∃ u, exec (.contextRevoke b) s = .next u ∧ u.mb.status = stOk ∧
        (∀ k, (k, c) ∈ u.qpOwner → k / 64 ≠ p) ∧ (∀ k, (k, c) ∈ u.winOwn → k / 16 ≠ p) ∧
        (∀ k x, (x ≠ c ∨ k / 64 ≠ p) → ((k, x) ∈ u.qpOwner ↔ (k, x) ∈ s.qpOwner)) ∧
        (∀ k x, (x ≠ c ∨ k / 16 ≠ p) → ((k, x) ∈ u.winOwn ↔ (k, x) ∈ s.winOwn)) ∧
        u.mem = s.mem ∧ u.groups = s.groups ∧ u.admits = s.admits)

/-- R526 to R528, R573, Tables 13-21, 17-2, 17-3, 17-6. -/
def Obligations.resets : Prop :=
  ∀ (s : State) (p : Port),
    (s.sup.booted = true → (portOf s p).present = true →
      (∀ cause : PortResetCause, exec (.portReset p cause) s = .next (unfused s
        (let u := resetPort s p { PortSt.reset with present := true }
         logReset { u with hdm := mkeep u.hdm fun k _ => k / 16 != p.val, waits := mkeep u.waits fun _ w => w.port? != some p.val,
                           flt.lastReset := 2 } 2 p (if cause = .linkLoss then 2 else 0)))) ∧
      exec (.functionLevelReset p) s = .next (unfused s
        (let po := portOf s p
         logReset { resetPort s p { PortSt.reset with present := true, up := po.up, width := po.width, speed := po.speed } with
           flt.lastReset := 3 } 3 p 0))) ∧
    (∀ po k, k / 64 = p.val →
      mget (resetPort s p po).qpOwner k = none ∧ (∀ q, mget (resetPort s p po).qps k = some q → q.en = false ∧ q.sqHead = 0 ∧ q.sqTail = 0 ∧ q.cqTail = 0)) ∧
    (s.sup.booted = true → s.fuses.lc ≠ .scrapped → exec (.arrayReset 0) s = .next (unfused s (resetArray s))) ∧
    (∀ q : Port, q ≠ 0 → exec (.arrayReset q) s = .next (unfused s s)) ∧
    (s.sup.on = false → s.sup.off = .overvoltage → exec .inputOvervoltageRecovery s = .next (unfused s (powerOn s)))

/-- R323, R324, R327 to R330, R340. -/
def Obligations.serving_loop : Prop :=
  ∀ (s : State) (k : Nat) (g : Group), mget s.groups k = some g →
    (g.lead = s.net.index → g.plan = none → coresRun s = true → s.flt.sliceStopped = false →
      let s' := (endLong s g).1
      let g := (endLong s g).2
      let c := withTokenRoom s' g (candidates s' g)
      let x := (groupInsts s' g).foldl (fun (x : State × Group × List PEntry × List (Nat × Nat × KvPage) × Nat) i =>
        let y := planInst x.1 x.2.1 c.2 i.1 i.2
        (y.1, y.2.1, x.2.2.1 ++ y.2.2.1, x.2.2.2.1 ++ y.2.2.2.1, max x.2.2.2.2 y.2.2.2.2)) (c.1, g, [], [], 0)
      (x.2.2.1 = [] → exec (.stepPlan k) s = .next (unfused s (setGroup x.1 x.2.1))) ∧
      (x.2.2.1 ≠ [] → ∃ (u : State) (h : Group) (p : Plan),
        exec (.stepPlan k) s = .next (unfused s (planReached (setGroup u h) k)) ∧ h.plan = some p ∧ h.chunk = x.2.2.2.2 ∧
        p.entries = x.2.2.1 ∧ p.reached = none ∧ p.stepNo = x.2.1.stepNo + b2n x.2.1.run.isSome ∧
        p.gen = (x.2.1.gen + b2n x.2.1.run.isSome) % 2 ^ 32)) ∧
    (∀ (o : SyncObj) (m : Nat) (x : BMember) (ms : List Nat), mget s.objs g.bar = some o → o.memberIx true = m :: ms →
      o.members[m]? = some x → x.arrivals ≤ o.oldest → g.lead = s.net.index → g.run = none → g.plan.any (·.reached.isSome) = true →
      exec (.groupFirstStep k) s = .next (unfused s (syncRun s [.arrive g.bar m s.time.tread]))) ∧
    (s.flt.sliceStopped = false → coresRun s = true →
      let r := settleObj s g.bar (· == .arrival)
      let u := if g.lead = s.net.index then syncRun r.1 r.2 else s
      ∀ h t p, mget u.groups k = some h → h.release = some t → h.plan = some p → h.run = none → t ≤ u.time.tread →
        ((groupInsts u h).any fun i => i.2.running) = false →
        ((p.entries.any fun e => (mget u.insts e.inst).any Inst.serves) = true →
          exec (.stepStart k) s = .next (unfused s (startGroup u h p t))) ∧
        ((p.entries.any fun e => (mget u.insts e.inst).any Inst.serves) = false →
          exec (.stepStart k) s = .next (unfused s (deferGroup u h)))) ∧
    (∀ (outs : List EntryOut) (routing : List LayerLogits) (p : Plan), coresRun s = true → g.run = some p →
      let drained := ((groupInsts s g).filter (·.2.running)).all fun i => i.2.work.passes == 0 && i.2.work.micro.isEmpty && regionDrained s i.2
      (drained = true → exec (.stepSettle k outs routing) s = .next (unfused s (settleGroup s g p outs routing))) ∧
      (drained = false → exec (.stepSettle k outs routing) s = .next (unfused s s))) ∧
    (s.time.tread % 4096 = 0 → g.lead = s.net.index → exec (.periodEstimateUpdate k) s = .next (unfused s (setGroup s
      { g with base := g.bare.getD g.base, perToken := if g.perCnt = 0 then g.perToken else g.perSum / g.perCnt,
               bare := none, perSum := 0, perCnt := 0 }))) ∧
    (s.time.tread % 4096 = 4032 → g.lead = s.net.index → 2 ≤ (groupInsts s g).length → g.preOv ≠ 0 → g.decOv ≠ 0 →
      g.movedAt + g.hold ≤ flight s → coresRun s = true →
      let c := mgetD g.flights (flight s - 1) { tbtMiss := 0, settles := 0, chunked := 0 }
      (roleMove s g c = none → exec (.roleEvaluation k) s = .next (unfused s s)) ∧
      (∀ ix uid i, roleMove s g c = some (ix, uid) → mget s.insts ix = some i → i.sw = none → i.unbind = none →
        (s.saves.any fun x => x.2.ctx == i.ctx) = false → exec (.roleEvaluation k) s = .next (unfused s (fwBump
          (startSwitch (setGroup s { g with movedAt := flight s }) ix i uid 0 0 0 ((flight s + 1) * 4096) noDesc) (kSrv ix 10) 1))))

/-- R371, R383, R392 to R397, Table 12-9. -/
def Obligations.link_states : Prop :=
  ∀ (s : State) (k : LinkIx),
    let l := linkOf s k
    (∀ en, s.fuses.lc ≠ .scrapped →
      (en = l.en → exec (.linkEnable k en) s = .next (unfused s s)) ∧
      (l.en = false → en = true → exec (.linkEnable k en) s = .next (unfused s (setLink s k { l with en := true, state := 1 }))) ∧
      (l.en = true → en = false → l.isUp = false → exec (.linkEnable k en) s = .next (unfused s
        (setLink (setLink s k { l with en := false }) k { ({ l with en := false } : LinkSt).cleared k with state := 0 }))) ∧
      (l.en = true → en = false → l.isUp = true → exec (.linkEnable k en) s = .next (unfused s
        (let u := leaveUp (setLink s k { l with en := false }) k 0 4
         flushOut { u with net.peers := madj u.net.peers u.net.index fun p => { p with links := ownLinks u } })))) ∧
    (∀ lanes : BitVec 4, l.state = 1 →
      (l.mode ≤ 2 ∧ lanes = 15) ∨ (2 < l.mode ∧ lanes = 3) ∨ (l.mode ≤ 2 ∧ l.degradeEn = true ∧ (lanes = 3 ∨ lanes = 12)) →
      exec (.linkTrained k lanes) s = .next (unfused s (startHello (setLink s k { l with state := 2, lanes := lanes.toNat }) k))) ∧
    (∀ cause, cause = 1 ∨ cause = 2 ∨ (cause = 3 ∧ (l.retry.head?.any fun f => decide (l.retryLimit + 1 ≤ f.sends)) = true) →
      l.isUp = true → exec (.linkDown k cause) s = .next (unfused s
        (flushOut (sendLinkState (raiseModule (leaveUp s k 4 cause) 3 (leBytes 1 k ++ leBytes 1 cause ++ leBytes 2 l.peerIndex)))))) ∧
    (l.state = 4 → l.en = true → s.flt.faulted = false → l.downAt + 1 ≤ s.time.tread →
      exec (.linkRetrain k) s = .next (unfused s (setLink s k { l with state := 1 }))) ∧
    (s.flt.faulted = true → exec (.linkRetrain k) s = .next (unfused s s)) ∧
    (∀ h, l.hello = some h → l.state = 2 →
      (∀ (payload : Bytes) (rx : Nat) (r : SliceRec), s.net.record = some r → helloAForm payload = true →
        let u := hwBump s (kLink k 1) (packetCount payload.length)
        let c := helloACause u r l payload
        let ix := fld payload 4 2
        let h' : Hello := { h with peerA := some payload, rxNs := rx, shared := none }
        let v := setLink u k { l with hello := some h', peerIndex := ix, peerLink := byteAt payload 2 }
        (c ≠ 0 → exec (.helloA k payload rx) s = .next (unfused s (failHello u k c))) ∧
        (c = 0 → s.net.index < ix → exec (.helloA k payload rx) s = .next (unfused s (sendHelloB v k payload))) ∧
        (c = 0 → ix ≤ s.net.index → exec (.helloA k payload rx) s = .next (unfused s v))) ∧
      (∀ (payload a : Bytes), h.peerA = some a → l.peerIndex < s.net.index → h.shared = none → payload.length = 0x488 + 2420 →
        byteAt payload 0 = 2 → zeroAt payload 1 7 = true → slice payload 8 64 = slice a 0x10 32 ++ digestBytes h.nonce →
        let good := dsaVerify (slice a 0x510 1312) (payload.take 0x488) (payload.drop 0x488)
        let u := hwBump s (kLink k 1) 1
        (good = false → exec (.helloB k payload) s = .next (unfused s (failHello u k 5))) ∧
        (∀ x, good = true → kemOpen h.ekSeed (slice payload 0x48 1088) = some x → exec (.helloB k payload) s = .next (unfused s
          (sendDelay (setLink u k { l with hello := some { h with shared := some x, nonces := slice a 0x10 32 ++ digestBytes h.nonce } }) k)))) ∧
      (∀ (payload : Bytes) (x : Digest), h.shared = some x → payload.length = 0x38 → byteAt payload 0 = 3 → zeroAt payload 1 7 = true →
        digestAt payload 0x18 = kdf (kdf x "DYDL" h.nonces) "" (payload.take 0x18) →
        let d := delayUnits h.txNs (fld payload 0x10 8) (fld payload 8 8) h.rxNs
        let up : LinkSt := { l.cleared k with state := 3, lanes := l.lanes, hello := some h, delay := d }
        let u := hwBump s (kLink k 1) 1
        exec (.helloDelay k payload) s = .next (unfused s (flushOut (sendLinkState (setLink u k
          { up with sak := if macsecOn u l then up.sakN 0 else none }))))) ∧
      (h.sentTread + 1000 ≤ s.time.tread → exec (.helloRetry k) s = .next (unfused s (startHello s k))) ∧
      (s.time.tread < h.sentTread + 1000 → exec (.helloRetry k) s = .next (unfused s s)))

/-- R374 to R376, R380, R382, R383, R385, R389, R402. -/
def Obligations.frames_and_acknowledgements : Prop :=
  ∀ (s : State) (k : LinkIx),
    let l := linkOf s k
    (l.isUp = true →
      (∀ (f : Frame) (c : Nat), frameDrop s k l f = some c → exec (.frameReceive k f) s = .next (unfused s (hwBump s (kLink k c) 1))) ∧
      (∀ (f : Frame) (p : Packet), frameDrop s k l f = none → parsePacket f.gt = some p → p.ty ≠ 11 → p.ty ≠ 12 → p.ty ≠ 13 →
        let l' : LinkSt := if macsecOn s l then { l with rxAn := f.an % 4 } else l
        let u := takeHeader (hwBump (hwBump (setLink s k l') (kLink k 1) 1) (kLink k 3) p.payload.length) k p f.ce
        let m := linkOf u k
        let v := takePacket (setLink u k { m with rxLsn := (m.rxLsn + 1) % 2 ^ 32, nakSent := false, unacked := m.unacked + 1 }) k p
        (p.lsn = m.rxLsn → (linkOf v k).unacked < 16 → exec (.frameReceive k f) s = .next (unfused s v)) ∧
        (p.lsn = m.rxLsn → 16 ≤ (linkOf v k).unacked → exec (.frameReceive k f) s = .next (unfused s (sendAck v k))) ∧
        (p.lsn ≠ m.rxLsn → m.nakSent = false → exec (.frameReceive k f) s =
          .next (unfused s (hwBump (sendAck (setLink u k { m with nakSent := true }) k) (kLink k 5) 1))) ∧
        (p.lsn ≠ m.rxLsn → m.nakSent = true → exec (.frameReceive k f) s = .next (unfused s u))) ∧
      (∀ ack, exec (.gtAck k ack false) s = .next (unfused s (advanceAck s k (ack % 2 ^ 32))) ∧
        exec (.gtAck k ack true) s = .next (unfused s (resend (advanceAck s k (ack % 2 ^ 32)) k))) ∧
      (0 < l.unacked → exec (.ackTimer k) s = .next (unfused s (sendAck s k))) ∧
      exec (.retryTimeout k) s = .next (unfused s (resend s k)) ∧
      (l.role = 2 → l.rate64 < 64 → exec (.ecnRateRaise k) s = .next (unfused s (setLink s k { l with rate64 := l.rate64 + 1 })))) ∧
    (l.isUp = false → ∀ f, exec (.frameReceive k f) s = .next (unfused s s)) ∧
    exec (.doneRecordHoldExpiry k) s =
      .next (unfused s (((s.net.doneHeld.map (·.1)).filter fun key => key / 8192 == k.val).foldl sendDone s)) ∧
    (∀ (n : Nat) (r : RxPacket), mget s.net.rx n = some r → r.pkt.dst ≠ s.net.index →
      (62 ≤ r.pkt.hops → exec (.gtForward n) s = .next (unfused s (hwBump (dropRx s n) (kNet 1) 1))) ∧
      (r.pkt.hops < 62 → moduleStatus s r.pkt.dst ≠ stOk → exec (.gtForward n) s = .next (unfused s (dropRx s n))) ∧
      (∀ t, r.pkt.hops < 62 → moduleStatus s r.pkt.dst = stOk → trySend s { r.pkt with hops := r.pkt.hops + 1 } (faceOf s r.link) = some t →
        exec (.gtForward n) s = .next (unfused s (dropRx t n)))) ∧
    (∀ (n : Nat) (m : Msg), mget s.net.msgs n = some m →
      (m.sent + 4096 ≤ s.time.tread → exec (.packetTimeout n) s = .next (unfused s (msgEnd s n eUnreachable))) ∧
      (s.time.tread < m.sent + 4096 → exec (.packetTimeout n) s = .next (unfused s s)))

/-- R175 to R182, R304, R346, R359, R379, R385, R387, R402. -/
def Obligations.packets : Prop :=
  ∀ (s : State) (p : Nat) (r : RxPacket), mget s.net.rx p = some r → r.pkt.dst = s.net.index →
    let k := r.pkt
    let h := handleAt k.target 0
    let off := h.2 + 4096 * k.pkt
    let u := dropRx s p
    (s.ps.state = 2 ∨ s.pw.coolantStop = true → k.cls = 0 → ∀ (c : Instr) (ty : Nat), (c, ty) ∈ [(.gtWrite p, 1), (.gtRead p, 2), (.gtData p, 3), (.gtStream p, 4),
        (.gtSync p, 5), (.gtSyncRsp p, 6), (.gtDir p, 8), (.gtDone p, 9), (.gtRedirect p, 10)] → k.ty = ty →
      exec c s = .next (unfused s (addDone u r.link k eBusy))) ∧
    ((s.ps.state ≠ 2 ∧ s.pw.coolantStop = false) ∨ k.cls ≠ 0 →
      (k.ty = 1 →
        let v := homeVerdict s k.ctx h.1 off k.payload.length (fld k.target 16 8) true
        (h.1 = 0 → exec (.gtWrite p) s = .next (unfused s (addDone (landPrompt u k off) r.link k stOk))) ∧
        (∀ g, h.1 ≠ 0 → mget s.mem.staging h.1 = some g →
          exec (.gtWrite p) s = .next (unfused s (addDone (landStaging u h.1 g off k) r.link k stOk))) ∧
        (h.1 ≠ 0 → mget s.mem.staging h.1 = none →
          (∀ e, v = .serve e → writeHeld s h.1 e off k.payload.length = false → exec (.gtWrite p) s =
            .next (unfused s (addDone (landBytes (usedLines u h.1 off k.payload.length) e off k) r.link k stOk))) ∧
          (∀ e, v = .serve e → writeHeld s h.1 e off k.payload.length = true → exec (.gtWrite p) s =
            .next (unfused s (askLines s h.1 e off k.payload.length))) ∧
          (∀ st, v = .refuse st → exec (.gtWrite p) s = .next (unfused s (addDone u r.link k st))) ∧
          (∀ e, v = .redirect e → exec (.gtWrite p) s = .next (unfused s (sendRedirect u k h.1 e))) ∧
          (v = .wait → exec (.gtWrite p) s = .next (unfused s s)))) ∧
      (k.ty = 2 →
        let n := fld k.payload 12 4
        let v := homeVerdict s k.ctx h.1 h.2 n (fld k.target 16 8) false
        (∀ g, mget s.mem.staging h.1 = some g → exec (.gtRead p) s = .next (unfused s (readStaging u k h.1 g h.2 n))) ∧
        (mget s.mem.staging h.1 = none →
          (∀ e, v = .serve e → exec (.gtRead p) s = .next (unfused s
            (let x := takeObj (countObj u e h.2 n false) e h.2 n
             sendData x.2.2 k x.1 x.2.1))) ∧
          (∀ st, v = .refuse st → exec (.gtRead p) s = .next (unfused s (addDone u r.link k st))) ∧
          (∀ e, v = .redirect e → exec (.gtRead p) s = .next (unfused s (sendRedirect u k h.1 e))) ∧
          (v = .wait → exec (.gtRead p) s = .next (unfused s s)))) ∧
      (k.ty = 3 → ∀ m, mget u.net.msgs k.msgId = some m → m.ty = 2 → m.dst = k.src → k.pkt ∈ m.left →
        let o := fld k.target 4 8 + 4096 * k.pkt
        let bad := k.poison.map (8 * ·)
        (∀ t w, m.why = .tile t → ((tileOf u t).lane 4).op = some w →
          let l := galLocal t w.word
          exec (.gtData p) s = .next (unfused s (msgAnswer (carryPoison (storeTier (countTier u l.1 (l.2 + o) k.payload.length true)
            l.1 (l.2 + o) k.payload) l.1 (l.2 + o) bad) k.msgId k.pkt stOk))) ∧
        (∀ e i f st, m.why = .fetch e i → (engineQ u e)[i]? = some f → mget u.streams f.key = some st →
          exec (.gtData p) s = .next (unfused s (msgAnswer (landAtTile u f st o k.payload bad) k.msgId k.pkt stOk))) ∧
        (∀ d, m.why = .cxl d → k.poison = [] → exec (.gtData p) s = .next (unfused s (msgAnswer
          { u with net.msgs := mset u.net.msgs k.msgId { m with body := putBytes (padTo (32 + fld m.body 12 4) m.body) (32 + o) k.payload } }
          k.msgId k.pkt stOk))) ∧
        (∀ d, m.why = .cxl d → k.poison ≠ [] → exec (.gtData p) s = .next (unfused s (msgEnd u k.msgId ePoison))) ∧
        (∀ d t, m.why = .desc d → mget u.taken d = some t → mhas u.mem.partner d = true →
          exec (.gtData p) s = .next (unfused s (msgAnswer (pmLand u t.port ((moveReq t.bytes).host + o) k.payload bad) k.msgId k.pkt stOk)))) ∧
      (k.ty = 4 → ∀ ps b, wholeMsg s r = some (ps, b) →
        let t := fld k.target 0 2
        let key := 128 * (t / 64) + 64 * (byteAt k.target 3 % 2) + byteAt k.target 2 % 64
        let w := takeWhole s ps stOk
        (byteAt b 0 = 3 → exec (.gtStream p) s = .next (unfused s (takeCredit w t b))) ∧
        (byteAt b 0 ≠ 3 →
          (mget s.streams key = none → exec (.gtStream p) s = .next (unfused s (takeWhole s ps ePerm))) ∧
          (∀ st, mget s.streams key = some st → st.tile ≠ t → exec (.gtStream p) s = .next (unfused s (takeWhole s ps ePerm))) ∧
          (∀ st j i, mget s.streams key = some st → st.tile = t → instOfTile w t = some (j, i) →
            let n := fld k.target 4 4
            (staleExchange w t b = true → exec (.gtStream p) s = .next (unfused s
              (creditFor (fwBump w (kExp (if byteAt b 0 = 2 then 5 else 4)) 1) i.ctx key b t))) ∧
            (staleExchange w t b = false → routeAgrees w j i b = true → exec (.gtStream p) s = .next (unfused s
              (landStream w key st n b (ps.flatMap fun x => x.2.pkt.poison.map (512 * x.2.pkt.pkt + ·))))) ∧
            (staleExchange w t b = false → routeAgrees w j i b = false → exec (.gtStream p) s = .next (unfused s
              (landStream (fwBump w (kExp 6) 1) key st n b (List.range (ceilDiv b.length 8)))))))) ∧
      (k.ty = 5 →
        let obj := fld k.target 0 2
        let b := k.payload
        let who := (mget s.objs obj).bind fun o => (o.members.zipIdx.find? fun x =>
          x.1.kind == 2 && x.1.modIx == k.src && x.1.id == fld b 8 2).map (·.2)
        let y := syncOp u obj (byteAt b 0) (fld b 4 4) (.remote k.src k.msgId) who true none
        ((mget u.objs obj).any (fun o => o.ctx != k.ctx) = true → exec (.gtSync p) s = .next (unfused s (addDone u r.link k ePerm))) ∧
        ((mget u.objs obj).any (fun o => o.ctx != k.ctx) = false →
          (y.1 = .bad → exec (.gtSync p) s = .next (unfused s (addDone y.2 r.link k ePerm))) ∧
          (y.1 = .waits → exec (.gtSync p) s = .next (unfused s (addDone y.2 r.link k stOk))) ∧
          (∀ v g, y.1 = .done v g →
            let w := addDone y.2 r.link k stOk
            (byteAt b 0 ∈ [0, 2, 3, 5] → exec (.gtSync p) s =
              .next (unfused s (sendReply w 6 k.src k.ctx k.msgId 0 [] (rspBytes v g w.time.tread) []))) ∧
            (byteAt b 0 ∉ [0, 2, 3, 5] → exec (.gtSync p) s = .next (unfused s w))))) ∧
      (k.ty = 6 → ∀ o t, mget u.syncOut k.msgId = some o → o.who = .tile t → o.reg = none → exec (.gtSyncRsp p) s =
        .next (unfused s (wakeTile { u with syncOut := merase u.syncOut k.msgId } t))) ∧
      (k.ty = 8 →
        let d (st : Nat) : State := addDone u r.link k st
        (∀ o e, entryOf k.payload = some (o, e) →
          let c := dirGet s o
          (e.modIx = s.net.index → e.moving = true → (c = none ∨ ∃ x, c = some x ∧ x.modIx ≠ s.net.index) →
            (offerStatus s o e = stOk → exec (.gtDir p) s = .next (unfused s
              { d stOk with mem.moving := mset (d stOk).mem.moving o { kind := 5, desc := 0, dest := e, sent := false } })) ∧
            (offerStatus s o e ≠ stOk → exec (.gtDir p) s = .next (unfused s (d (offerStatus s o e))))) ∧
          (e.moving = false →
            (∀ x, c = some x → e.epoch < x.epoch → exec (.gtDir p) s = .next (unfused s (d stOk))) ∧
            (∀ x, c = some x → x.modIx = s.net.index → x.epoch = e.epoch → exec (.gtDir p) s =
              .next (unfused s (dirSet (d stOk) o { x with bound := e.bound }))) ∧
            (∀ x, c = some x → x.epoch ≤ e.epoch → e.modIx ≠ s.net.index → (x.modIx ≠ s.net.index ∨ x.epoch ≠ e.epoch) →
              exec (.gtDir p) s = .next (unfused s (dirSet (dropOffer (d stOk) o) o
                { e with absent := e.absent || x.absent && x.epoch == e.epoch && k.src != e.modIx }))) ∧
            (c = none → exec (.gtDir p) s = .next (unfused s
              (dirSet { d stOk with mem.moving := mkeep s.mem.moving fun k m => k != o || m.kind != 5 } o e))))) ∧
        (∀ c, entryOf k.payload = none → dirGet (d stOk) (fld k.payload 0 4) = some c →
          (c.epoch ≤ fld k.payload 8 8 → exec (.gtDir p) s = .next (unfused s
            (dirDel (if c.modIx = (d stOk).net.index ∧ (!c.absent) = true then objZero (d stOk) c else d stOk) (fld k.payload 0 4)))) ∧
          (fld k.payload 8 8 < c.epoch → exec (.gtDir p) s = .next (unfused s (d stOk))))) ∧
      (k.ty = 9 → exec (.gtDone p) s = .next (unfused s ((List.range (min 16 (k.payload.length / 8))).foldl (fun x i =>
        msgAnswer x (fld k.payload (8 * i) 4) (byteAt k.payload (8 * i + 4)) (byteAt k.payload (8 * i + 5))) u))) ∧
      (k.ty = 10 → ∀ obj e m, entryOf (slice k.payload 8 48) = some (obj, e) →
        let w := hwBump u (kMem 179) 1
        mget w.net.msgs (fld k.payload 0 4) = some m →
        (∀ a b, m.why ≠ .fetch a b) →
        ((∀ c, dirGet w obj = some c → c.epoch < e.epoch) →
          exec (.gtRedirect p) s = .next (unfused s (reissue (dirSet w obj e) (fld k.payload 0 4) (byteAt k.payload 4) m e))) ∧
        (∀ c, dirGet w obj = some c → e.epoch ≤ c.epoch →
          exec (.gtRedirect p) s = .next (unfused s (reissue w (fld k.payload 0 4) (byteAt k.payload 4) m c)))))

/-- R179, R309 to R312, R316, R323, R340, R381, R410, R485, R543, R556, Tables 12-20 to 12-24. -/
def Obligations.control_messages : Prop :=
  ∀ (s : State) (p : Nat) (r : RxPacket) (ps : List (Nat × RxPacket)) (b : Bytes),
    mget s.net.rx p = some r → r.pkt.dst = s.net.index → r.pkt.ty = 7 → (s.ps.state ≠ 2 ∧ s.pw.coolantStop = false) ∨ r.pkt.cls ≠ 0 → wholeMsg s r = some (ps, b) →
    s.tr.fwRunning = true → coresRun s = true →
    let k := r.pkt
    let u := takeWhole s ps stOk
    let good (kind least : Nat) (reserved : List (Nat × Nat)) : Prop :=
      byteAt b 0 = kind ∧ least ≤ b.length ∧ (∀ x ∈ reserved, zeroAt b x.1 x.2 = true)
    (∀ (c : Instr) (kind least : Nat) (reserved : List (Nat × Nat)), (c, kind, least, reserved) ∈ [
        (.floorReq p, 1, 32, [(3, 1), (12, 4), (24, 8)]), (.linkState p, 2, 112, [(1, 1)]), (.descFwd p, 3, 128, [(3, 5), (20, 44)]),
        (.descDone p, 4, 40, [(3, 5)]), (.reqFwd p, 5, 160, [(1, 3), (21, 11)]), (.reqAck p, 6, 32, [(2, 2), (24, 8)]),
        (.stepPlanReceive p, 7, 64, [(2, 2), (40, 24)]), (.settle p, 8, 32, [(2, 2), (28, 4)]), (.bind p, 9, 64, [(52, 12)]),
        (.sliceStop p, 10, 24, [(4, 4)]), (.adapterCtrl p, 11, 32, [(3, 1), (16, 16)])] →
      (byteAt b 0 = kind → b.length < least ∨ (∃ x ∈ reserved, zeroAt b x.1 x.2 = false) →
        exec c s = .next (unfused s (takeWhole s ps ePerm))) ∧
      (byteAt b 0 ≠ kind → exec c s = .next (unfused s s))) ∧
    (good 1 32 [(3, 1), (12, 4), (24, 8)] →
      let f (x : State) : Floor := { member := fld b 4 2, subject := fld b 6 2, op := byteAt b 1 % 16, cause := byteAt b 2, seq := fld b 8 4,
                                     adopt := x.time.ticks + (fld b 16 8 - x.time.tread) }
      (fld b 16 8 < u.time.tread → exec (.floorReq p) s =
        .next (unfused s (settlePoint (hwBump { u with pw.floors := adopt u.pw.floors (f u) } (kPow 8) 1)))) ∧
      (u.time.tread ≤ fld b 16 8 → exec (.floorReq p) s = .next (unfused s { u with pw.pending := u.pw.pending ++ [f u] }))) ∧
    (good 2 112 [(1, 1)] →
      (∀ x, mget u.net.peers k.src = some x → fld b 4 4 ≤ x.seq → exec (.linkState p) s = .next (unfused s u)) ∧
      ((∀ x, mget u.net.peers k.src = some x → x.seq < fld b 4 4) →
        exec (.linkState p) s = .next (unfused s (applyLinks u k.src (fld b 4 4) (linksOf b))))) ∧
    (good 3 128 [(3, 5), (20, 44)] → exec (.descFwd p) s = .next (unfused s
      (let t : Taken := { origin := some k.src, port := byteAt b 1, qp := byteAt b 2, ctx := k.ctx, enable := 0,
                          tread := u.time.tread, bytes := slice b 64 64, stage := .taken }
       let v := match partnerPart t with
         | some (n, _) => if fld b 8 4 = 0 then u else
             { u with mem.staging := mset u.mem.staging (fld b 8 4) { desc := u.takes, data := [], size := n, got := 0, bad := [], status := 0, result := 0 } }
         | none => u
       rejectReserved { v with taken := mset v.taken v.takes t, takes := v.takes + 1 }))) ∧
    (good 4 40 [(3, 5)] → ∀ d t,
      (u.taken.find? fun t => t.2.stage == .sent k.src && t.2.origin.isNone && t.2.port == byteAt b 1 && t.2.qp == byteAt b 2 &&
        slice t.2.bytes 4 4 == slice b 8 4 && t.2.op == byteAt b 14) = some (d, t) →
      (exportRead u d k.src (byteAt b 15) (fld b 16 8) (fld b 24 8) = none → exec (.descDone p) s =
        .next (unfused s (complete (fwdEnded { u with mem.partner := merase u.mem.partner d } d t (byteAt b 15)) d (byteAt b 15) (fld b 16 8) (fld b 24 8)))) ∧
      (∀ v, exportRead u d k.src (byteAt b 15) (fld b 16 8) (fld b 24 8) = some v → exec (.descDone p) s = .next (unfused s v))) ∧
    (good 5 160 [(1, 3), (21, 11)] → ∀ g, mget u.groups (groupKey k.ctx (byteAt b 20)) = some g → g.lead = u.net.index →
      u.flt.sliceStopped = false →
      let prm := slice b 32 128
      let st := leadStatus u g prm (fld b 16 4) (fld b 8 8)
      (st ≠ stOk → exec (.reqFwd p) s = .next (unfused s (sendCtrl u k.src k.ctx .firmware (reqAckBody st (fld b 4 4) 0)))) ∧
      (st = stOk →
        let v := if fld prm 8 4 = 0 then none else (versionOf u g.ctx (fld prm 8 4) (fld prm 12 4)).map (·.1)
        let x := openAt u g prm (fld b 16 4) (fld b 8 8) k.src none v
        exec (.reqFwd p) s = .next (unfused s (sendCtrl x.2 k.src k.ctx .firmware (reqAckBody stOk (fld b 4 4) x.1))))) ∧
    (good 6 32 [(2, 2), (24, 8)] → ∀ f t, mget u.fwds (fld b 4 4) = some f → f.stage = .asked → mget u.taken f.desc = some t →
      (byteAt b 1 ≠ stOk → exec (.reqAck p) s = .next (unfused s
        (finish (unbindVersion { u with fwds := merase u.fwds (fld b 4 4) } t.ctx f.params) f.desc (byteAt b 1)))) ∧
      (byteAt b 1 = stOk → exec (.reqAck p) s = .next (unfused s
        (writeFar (admitReq { u with fwds := mset u.fwds (fld b 4 4) { f with stage := .prompt (fld b 8 4) } } t.ctx (fld b 8 4) t f.sealing)
          k.src t.ctx (.desc f.desc) (handleAt b 12).1 (handleAt b 12).2 0 f.prompt [])))) ∧
    (good 7 64 [(2, 2), (40, 24)] → exec (.stepPlanReceive p) s = .next (unfused s (takePlan u k.ctx k.src b))) ∧
    (good 8 32 [(2, 2), (28, 4)] → exec (.settle p) s = .next (unfused s (takeSettle u k.ctx b))) ∧
    (good 9 64 [(52, 12)] →
      let x : BindRx := { ctx := k.ctx, group := byteAt b 3, inst := byteAt b 2, uid := fld b 4 16, table := digestAt b 20 }
      let rest := u.net.binds.filter fun y => !(y.ctx == x.ctx && y.group == x.group && y.inst == x.inst)
      let w : State := { u with net.binds := rest ++ [x] }
      (bit (byteAt b 1) 0 = true → exec (.bind p) s = .next (unfused s { u with net.binds := rest })) ∧
      (bit (byteAt b 1) 0 = false → mget w.insts x.inst = none → exec (.bind p) s = .next (unfused s w)) ∧
      (∀ i, bit (byteAt b 1) 0 = false → mget w.insts x.inst = some i → i.ctx = x.ctx → i.group = x.group →
        (bindDiffers w i.ctx i.group x.inst i.uid i.table = true → exec (.bind p) s = .next (unfused s (endBind w x.inst ePerm))) ∧
        (bindDiffers w i.ctx i.group x.inst i.uid i.table = false → exec (.bind p) s = .next (unfused s w)))) ∧
    (good 10 24 [(4, 4)] →
      (u.flt.sliceStopped = true → exec (.sliceStop p) s = .next (unfused s u)) ∧
      (u.flt.sliceStopped = false → exec (.sliceStop p) s =
        .next (unfused s (takeStop u (byteAt b 1) (fld b 2 2) (fld b 8 8) (fld b 16 8))))) ∧
    (∀ t cause member earlier, s.net.stopTread = some t → s.net.stopRx = some (cause, member, earlier) → t ≤ s.time.tread →
      exec .sliceStopTread s = .next (unfused s
        (let w := stopInsts { s with net.stopTread := none, net.stopRx := none }
         let v := fwBump (faultRecord { w with flt.sliceStopped := !w.insts.isEmpty, flt.stopTread := t % 2 ^ 32 } cause member earlier) (kLife 11) 1
         if v.insts.isEmpty && !v.net.closing then { v with net.recovery := none } else v))) ∧
    (good 11 32 [(3, 1), (16, 16)] →
      let id := fld b 4 4
      let ver := fld b 8 4
      let own := (versionOf u k.ctx id ver).map (·.1)
      (byteAt b 1 = 1 → exec (.adapterCtrl p) s = .next (unfused s
        (let x := bindVersion u k.ctx id ver
         sendCtrl x.2.2 k.src k.ctx .firmware (adapterMsg 6 x.1 id (x.2.1.elim ver (·.2.version)) (fld b 12 4))))) ∧
      (∀ v, byteAt b 1 = 2 → own = some v → exec (.adapterCtrl p) s = .next (unfused s (releaseRef u v))) ∧
      (byteAt b 1 = 3 → exec (.adapterCtrl p) s = .next (unfused s
        (let x := retireVersion u k.ctx id ver
         sendCtrl x.2 k.src k.ctx .firmware (adapterMsg 6 x.1 id ver (fld b 12 4))))) ∧
      (∀ v, byteAt b 1 = 4 → own = some v → exec (.adapterCtrl p) s = .next (unfused s (sharePlaced u v k.src (byteAt b 2)))) ∧
      (∀ v, byteAt b 1 = 5 → own = some v → exec (.adapterCtrl p) s = .next (unfused s (dropVersion u v))) ∧
      (byteAt b 1 = 6 → exec (.adapterCtrl p) s = .next (unfused s (adapterResult u k b))))

/-- R407, R408, R472 to R479, R578, R596, R597, Table 19-12. -/
def Obligations.time_base : Prop :=
  ∀ s : State,
    (s.time.tread % 4096 = 0 → exec .beaconSend s = .next (unfused s
      (((List.range 24).filter fun k => (linkOf s k).state == 2 || (linkOf s k).isUp).foldl (fun u k =>
        let body := leBytes 8 u.time.tread ++ leBytes 4 (u.clk * 1000 / freqMhz u.pw.now) ++ leBytes 1 (beaconStatus u) ++ [0, 0, 0]
        hwBump (setLink u k { linkOf u k with sentBeacon := some body }) (kLink k 0) 1) s))) ∧
    (∀ (k : LinkIx) (p : Bytes) (ns : Nat), (linkOf s k).state = 2 ∨ (linkOf s k).state = 3 →
      let b : Beacon := { offset := (ns : Int) - (1000 * fld p 0 8 + fld p 8 4 + 4 * (linkOf s k).delay : Nat),
                          pulseOk := bit (byteAt p 12) 0, holdover := bit (byteAt p 12) 1, loaded := bit (byteAt p 12) 2 }
      let u := hwBump { s with time.beacons := mset s.time.beacons k b } (kLink k 1) 1
      (p.length = 16 → zeroAt p 13 3 = true → byteAt p 12 ≤ 7 → s.time.loaded = true → exec (.beacon k p ns) s = .next (unfused s u)) ∧
      (p.length = 16 → zeroAt p 13 3 = true → byteAt p 12 ≤ 7 → s.time.loaded = false → s.time.load = none → s.time.beaconFor = none →
        b.loaded = true → b.pulseOk = true →
        exec (.beacon k p ns) s = .next (unfused s { u with time.beaconFor := some (fld p 0 8 / 4096 + 1) })) ∧
      (p.length ≠ 16 → exec (.beacon k p ns) s = .next (unfused s (hwBump s (kLink k 8) 1)))) ∧
    (∀ (d : Int) (gap : Nat), s.time.pulseOk = true →
      (-20 ≤ d → d ≤ 20 → s.time.edgeSeen = false → exec (.treadEdge d gap) s =
        .next (unfused s { s with time.pulseTread := some s.time.tread, time.edgeSeen := true })) ∧
      (980 ≤ d → d ≤ 1020 → s.time.edgeEarly = false → exec (.treadEdge d gap) s =
        .next (unfused s { s with time.pulseTread := some (s.time.tread + 1), time.edgeEarly := true })) ∧
      (d ≤ 500 → s.time.edgeSeen = true → exec (.treadEdge d gap) s = .next (unfused s (hwBump s (kPow 16) 1)))) ∧
    (∀ (d : Int) (gap : Nat), s.time.pulseOk = false → ∃ t, exec (.treadEdge d gap) s = .next t ∧ t.time.firstEdge = true ∧
      t.time.goodEdges = (if s.time.firstEdge = true ∧ 980 ≤ gap ∧ gap ≤ 1020 then s.time.goodEdges + 1 else 0) ∧
      t.time.pulseTread = some (if d ≤ 500 then s.time.tread else s.time.tread + 1)) ∧
    (s.time.pulseOk = false → s.time.holdover = false → 16 ≤ s.time.goodEdges → s.time.loaded = false ∨ aligned s = true →
      exec .treadLock s = .next (unfused s
        { s with time.pulseOk := true, time.everLocked := true, time.relock := none, time.slewPpm := 0 })) ∧
    (s.time.goodEdges < 16 → exec .treadLock s = .next (unfused s s)) ∧
    (s.time.holdover = false → s.time.everLocked = true ∨ s.time.loaded = true → exec .treadHoldoverEntry s = .next (unfused s
      (let u : State := { s with time.holdover := true, time.pulseOk := false, time.holdTreads := 0, time.goodEdges := 0,
                                 time.relock := none, time.slewPpm := 0 }
       raiseModule (hwBump u (kPow 13) 1) 6 [1]))) ∧
    (s.time.holdover = true → aligned s = true → exec .treadRelock s = .next (unfused s
      (let u : State := { s with time.pulseOk := true, time.everLocked := true, time.relock := none, time.slewPpm := 0, time.holdover := false }
       raiseModule u 6 [0]))) ∧
    (s.time.loaded = true → exec .treadNumberLoaded s = .next (unfused s s)) ∧
    (∀ f src, s.time.loaded = false → (src = 1 ∧ (∃ w, s.time.load = some w ∧ 16 < w.treads ∧ w.flight = f)) ∨
        (src = 2 ∧ s.time.load = none ∧ s.time.beaconFor = some f) →
      exec .treadNumberLoaded s = .next (unfused s { s with time.loaded := true, time.tread := f * 4096 % 2 ^ 64, time.source := src,
                                                            time.load := none, time.beaconFor := none, clk := 0 })) ∧
    (∀ high t, s.time.pulseTread = some t →
      let u : State := { s with time.pulseTread := none }
      (high < 150 → t = s.time.tread → exec (.treadFallingEdge high) s =
        .next (unfused s (hwBump { u with time.edgeSeen := false } (kPow 16) 1))) ∧
      (high < 150 → t ≠ s.time.tread → exec (.treadFallingEdge high) s =
        .next (unfused s (hwBump { u with time.edgeEarly := false } (kPow 16) 1))) ∧
      (200 ≤ high → high ≤ 300 → s.time.loaded = true → t % 4096 ≠ 0 → exec (.treadFallingEdge high) s = .next (unfused s u)) ∧
      (200 ≤ high → high ≤ 300 → s.time.loaded = true → t % 4096 = 0 → exec (.treadFallingEdge high) s =
        .next (unfused s (hwBump { u with time.mismatch := true, w1c := u.w1c ++ [1] } (kPow 15) 1))) ∧
      (700 ≤ high → high ≤ 800 → s.time.loaded = true → t % 4096 = 0 → exec (.treadFallingEdge high) s = .next (unfused s u)) ∧
      (300 < high → high < 700 → s.time.loaded = false → exec (.treadFallingEdge high) s = .next (unfused s (hwBump u (kPow 16) 1)))) ∧
    (s.time.loaded = true → s.time.tread % 4096 = 0 → s.time.holdover = false →
      let m := median (offsetsOf s (·.pulseOk))
      (offsetsOf s (·.pulseOk) = [] → exec .flightBoundaryTimeCheck s = .next (unfused s s)) ∧
      (offsetsOf s (·.pulseOk) ≠ [] → -1000 < m → m < 1000 →
        exec .flightBoundaryTimeCheck s = .next (unfused s { s with time.offset := clampInt 32767 m })) ∧
      (offsetsOf s (·.pulseOk) ≠ [] → 1000 ≤ m ∨ m ≤ -1000 → exec .flightBoundaryTimeCheck s =
        .next (unfused s (hwBump { s with time.offset := clampInt 32767 m, time.mismatch := true, w1c := s.w1c ++ [1] } (kPow 15) 1)))) ∧
    (∀ v : W64, s.fuses.lc ≠ .scrapped → s.life.cur.firstOnUtcS ≠ 0 → exec (.treadAnchorWrite 0 v) s = .next (unfused s
      (logEvent { s with time.anchorTread := s.time.anchorWord0, time.anchorUtc := v.toNat } 3 0xFFFF
        (leBytes 8 s.time.anchorWord0 ++ leBytes 8 v.toNat)))) ∧
    (∀ (p : Port) (v : W64), p ≠ 0 → exec (.treadAnchorWrite p v) s = .next (unfused s s))

/-- R482 to R495. -/
def Obligations.power_points : Prop :=
  ∀ s : State,
    (s.pw.overrun = true → s.pw.holdEnd ≤ s.time.ticks → exec .capHoldEnd s =
      .next (unfused s (requestOwn { s with pw.overrun := false, pw.holdEnd := 0 }))) ∧
    (s.time.ticks < s.pw.holdEnd → exec .capHoldEnd s = .next (unfused s s)) ∧
    (∀ t ∈ s.pw.capDeadlines, t ≤ s.time.ticks →
      let u : State := { s with pw.capDeadlines := s.pw.capDeadlines.filter fun t => !decide (t ≤ s.time.ticks) }
      (s.pw.capW < ratedW (pointDue u) → s.pw.failsafe = false → exec .capDeadlineCheck s = .next (unfused s (failSafe u))) ∧
      (ratedW (pointDue u) ≤ s.pw.capW → exec .capDeadlineCheck s = .next (unfused s u))) ∧
    (let due := s.pw.pending.filter fun f => decide (f.adopt ≤ s.time.ticks)
     (due = [] → exec .floorAdopt s = .next (unfused s s)) ∧
     (due ≠ [] → exec .floorAdopt s = .next (unfused s (settlePoint (settleFailsafe
       { s with pw.pending := s.pw.pending.filter fun f => !decide (f.adopt ≤ s.time.ticks), pw.floors := due.foldl adopt s.pw.floors }))))) ∧
    (let soon := s.pw.pending.filter fun f => decide (f.adopt ≤ s.time.ticks + 40)
     let want := if hwCause s then 0 else ((soon.foldl adopt s.pw.floors).map (·.op)).foldl min 15
     (s.pw.supplyMv < voltMv s want → exec .voltageRampStart s = .next (unfused s { s with pw.rampTo := some (voltMv s want) })) ∧
     (voltMv s want ≤ s.pw.supplyMv → exec .voltageRampStart s = .next (unfused s s))) ∧
    (∀ mv g, s.pw.rampTo = some g → voltMv s s.pw.now ≤ mv → min g s.pw.supplyMv ≤ mv → mv ≤ max g s.pw.supplyMv →
      exec (.opVoltageStep mv) s = .next (unfused s (settlePoint
        { s with pw.supplyMv := mv, pw.volt := voltPoint s mv, pw.rampTo := if mv = g then none else some g }))) ∧
    (newelRuns s = true →
      let n := min (windowFlights s) s.pw.flightEnergy.length
      let used := s.pw.energyUj - s.pw.flightEnergy.getD (n - 1) 0
      let low := (((ownCauses s s.pw.failsafe).filter fun c => c.2 != 3).map (·.1)).foldl min 15
      let keep : State := { s with pw.flightEnergy := (s.pw.energyUj :: s.pw.flightEnergy).take 7325 }
      let at_ (op : Nat) : State := requestOwn { keep with pw.avgOp := op, pw.avgChange := s.time.ticks / 4096,
                                                           pw.avgLimited := decide (op < 15) && decide (op ≤ low) }
      (n = 0 → exec .averagePowerCheck s = .next (unfused s keep)) ∧
      (n ≠ 0 → s.pw.pwrLimit * (n * 4096) < used →
        exec .averagePowerCheck s = .next (unfused s (at_ (min s.pw.avgOp (pointInForce s) - 1)))) ∧
      (n ≠ 0 → used * 100 < s.pw.pwrLimit * (n * 4096) * 97 → s.pw.avgOp < low → s.pw.avgChange + 16 ≤ s.time.ticks / 4096 →
        exec .averagePowerCheck s = .next (unfused s (at_ (s.pw.avgOp + 1)))) ∧
      (n ≠ 0 → used ≤ s.pw.pwrLimit * (n * 4096) → s.pw.pwrLimit * (n * 4096) * 97 ≤ used * 100 →
        exec .averagePowerCheck s = .next (unfused s keep))) ∧
    (∀ draw : Nat,
      (s.pw.rampEn = false → exec (.rampEnvelopeUpdate draw) s =
        .next (unfused s { s with pw.envelope := 1000 * (draw : Int), pw.burnW := 0, pw.drawW := draw })) ∧
      (s.pw.rampEn = true → rampStopped s = false →
        let p : Int := 1000 * draw
        let e := min (max p (s.pw.envelope - s.pw.rampDown)) (s.pw.envelope + s.pw.rampUp)
        (p ≤ e →
          let burn := if s.pw.ballastEn then min 2200 ((e - p) / 1000).toNat else 0
          exec (.rampEnvelopeUpdate draw) s =
            .next (unfused s (hwBump { s with pw.envelope := e, pw.burnW := burn, pw.drawW := draw + burn } (kPow 12) burn))) ∧
        (e < p → ∃ clks < freqMhz s.pw.now, exec (.rampEnvelopeUpdate draw) s = .next (unfused s
          (hwBump { s with pw.envelope := e, pw.burnW := 0, pw.drawW := (e / 1000).toNat, fv := s.fv + 1 } (kPow 11) clks))))) ∧
    (∀ (o : SyncIx) b m mb, mget s.objs o.val = some b → pullMember s b = some m → b.members[m]? = some mb → b.kind = 1 → b.domain = 3 →
      newelRuns s = true → (∀ t, s.pw.lastLower = some t → t + 64 ≤ s.time.ticks) → 0 < slicePoint s → s.net.record ≠ none →
      exec (.pull o) s = .next (unfused s
        (let u := sendFloor s mb.modIx (slicePoint s - 1) 8
         let u : State := { u with pw.pullAt := mset u.pw.pullAt mb.modIx (u.time.ticks + u.pw.floorLead + 16 * 4096) }
         hwBump (logEvent u 4 b.ctx (leBytes 2 mb.modIx ++ leBytes 1 (slicePoint s - 1) ++ [8])) (kPow 9) 1))) ∧
    exec .pullEnd s = .next (unfused s ((mkeys s.pw.pullAt fun _ t => decide (t ≤ s.time.ticks)).foldl (fun u m =>
      sendFloor { u with pw.pullAt := merase u.pw.pullAt m } m 15 0) s))

/-- R487, R496, R497, R586, R598, Tables 15-3, 15-7, 19-9. -/
def Obligations.thermal_brake_coolant : Prop :=
  ∀ s : State,
    (∀ die hbm : Int,
      let u := senseTemp s die hbm
      let f := s.time.ticks / 4096
      (95 ≤ die ∨ 90 ≤ hbm → s.pw.warnOn = false → exec (.thermalWarning die hbm) s = .next (unfused s
        (requestOwn { u with pw.warnOn := true, pw.thermal := true, pw.warnOp := s.pw.warnOp - 1, pw.warnFlights := f }))) ∧
      (die < 95 → hbm < 90 → exec (.thermalWarning die hbm) s = .next (unfused s u)) ∧
      (s.pw.restartHold = false →
        (95 ≤ die ∨ 90 ≤ hbm → s.pw.warnOp ≠ 15 ∨ s.pw.warnOn = true → s.pw.warnFlights + 16 ≤ f →
          exec (.thermalWarningStep die hbm) s = .next (unfused s
            (requestOwn { u with pw.warnOn := true, pw.thermal := true, pw.warnOp := s.pw.warnOp - 1, pw.warnFlights := f }))) ∧
        (die ≤ 90 → hbm ≤ 85 → s.pw.warnOp ≠ 15 ∨ s.pw.warnOn = true → s.pw.warnFlights + 16 ≤ f →
          exec (.thermalWarningStep die hbm) s = .next (unfused s
            (requestOwn { u with pw.warnOn := false, pw.warnOp := min 15 (s.pw.warnOp + 1), pw.warnFlights := f,
                                 pw.thermal := s.pw.tripOn || decide (min 15 (s.pw.warnOp + 1) < 15) }))) ∧
        (f < s.pw.warnFlights + 16 → exec (.thermalWarningStep die hbm) s = .next (unfused s u))) ∧
      (105 ≤ die ∨ 100 ≤ hbm → s.pw.tripOn = false → s.sup.pwrgood = true → exec (.thermalTrip die hbm) s = .next (unfused s (tripNow u))) ∧
      (die < 105 → hbm < 100 → exec (.thermalTrip die hbm) s = .next (unfused s u)) ∧
      (s.pw.tripOn = true → die ≤ 95 → hbm ≤ 90 → exec (.thermalTripClear die hbm) s = .next (unfused s (settlePoint (requestOwn
        { u with pw.tripOn := false, pw.thermal := s.pw.warnOn || decide (s.pw.warnOp < 15) }))))) ∧
    ((tripNow s).pw.now = 0 ∧ (brakeOn s).pw.now = 0) ∧
    (s.pw.brake = false → s.sup.pwrgood = true → exec .pwrBrakeAssert s = .next (unfused s (brakeOn { s with sup.brakePin := true }))) ∧
    (s.pw.brake = true → exec .pwrBrakeAssert s = .next (unfused s { s with sup.brakePin := true })) ∧
    (s.pw.brake = true → exec .pwrBrakeDeassert s =
      .next (unfused s (settlePoint (requestOwn { s with sup.brakePin := false, pw.brake := false })))) ∧
    (s.pw.coolantStop = false → s.sup.pwrgood = true → exec .coolantStop s = .next (unfused s
      (raiseModule (hwBump (settleRebuilds (abortProgram { s with sup.coolantFail := true, pw.coolantStop := true })) (kPow 5) 1) 5 []))) ∧
    (s.pw.coolantStop = true → s.time.loaded = false ∨ s.time.tread % 4096 = 0 → exec .coolantResume s = .next (unfused s
      (requestOwn (settlePoint { s with sup.coolantFail := false, pw.coolantStop := false, pw.restartHold := true,
                                        pw.coolResume := some (s.time.ticks / 4096) }))))

/-- R474, R489, R492, R511, R518, R529, R530, R538, R553 to R555, R583 to R585. -/
def Obligations.module_control : Prop :=
  ∀ s : State,
    (s.ps.autoA1 = true → s.ps.state = 0 → s.ps.idleTreads ≤ s.ps.idle →
      exec .a1Entry s = .next (unfused s (fwBump { s with ps.state := 1 } (kLife 13) 1))) ∧
    (s.ps.state = 1 → exec .a1Exit s = .next (unfused s { s with ps.state := 0, ps.idle := 0 })) ∧
    (s.fuses.lc ≠ .scrapped →
      let u : State := { s with ps.target := 2 }
      (s.pw.coolantStop = true → exec .a2Entry s = .next (unfused s { u with ps.result := 3 })) ∧
      (s.pw.coolantStop = false → s.ps.state ≠ 2 → quiet u = false → exec .a2Entry s = .next (unfused s { u with ps.result := 1 })) ∧
      (s.pw.coolantStop = false → s.ps.state ≠ 2 → quiet u = true →
        let v := commitLife (settleRebuilds u) true
        let w := logReset { v with ps.state := 2, ps.result := 0, ps.idle := 0 } 0x12 0xFF 0
        (w.i3c.remove = false → exec .a2Entry s = .next (unfused s w)) ∧
        (w.i3c.remove = true → exec .a2Entry s = .next (unfused s (answerRemove w)))) ∧
      (s.pw.coolantStop = false → s.ps.state = 2 → exec .a2Exit s =
        .next (unfused s (logReset { s with ps.target := 0, ps.state := 0, ps.result := 0, ps.idle := 0 } 0x13 0xFF 0)))) ∧
    (s.tr.fwRunning = true →
      let soon := s.flt.restarted.any fun t => decide (s.time.ticks ≤ t + 4096)
      let u := hwBump { s with w1c := s.w1c ++ [4], flt.newelWdog := true, flt.restarting := true, flt.restarted := some s.time.ticks,
                               flt.holdOp0 := s.flt.holdOp0 || soon, pw.failsafe := true } (kPow 3) (b2n !s.pw.failsafe)
      let v := faultRecord (fwBump (notify (settlePoint u) 3) (kLife 10) 1) 4 u.net.index (s.net.recovery.getD 0)
      (soon = false → exec .newelWatchdogExpiry s = .next (unfused s v)) ∧
      (soon = true → exec .newelWatchdogExpiry s = .next (unfused s (warmRequest v)))) ∧
    (s.flt.restarting = true →
      exec (.newelRestartDone true) s = .next (unfused s (requestOwn { s with flt.restarting := false, flt.restarted := some s.time.ticks })) ∧
      exec (.newelRestartDone false) s = .next (unfused s (warmRequest (settlePoint { s with flt.holdOp0 := true })))) ∧
    (s.tr.fwRunning = true → s.flt.faulted = false →
      let poisoned : State := { s with fv := s.fv + 1, mem.sramPoison := addWord s.mem.sramPoison (sramKey + freeValue s.fv % 2 ^ 20) }
      ∀ (c : Instr) (code : Nat) (s0 : State), (c, code, s0) ∈ ((.firmwarePoison, 6, poisoned) ::
        (List.finRange 32).map fun k => (.heartbeatMissed k, 5, s)) →
      let stopped := stopInsts { s0 with qps := mmap s0.qps fun _ q => { q with en := false }, taken := [], graphs := [], fwds := [],
                                         net.recovery := some (s.net.recovery.getD s.time.tread), net.stopTread := none, net.stopRx := none }
      let v := faultRecord { stopped with flt.faulted := true, flt.sliceStopped := !stopped.insts.isEmpty } code stopped.net.index
        (s.net.recovery.getD 0)
      exec c s = .next (unfused s (warmRequest ((List.range 24).foldl faultLink (fwBump v (kLife 11) (b2n !v.insts.isEmpty)))))) ∧
    (s.sup.pwrgood = true →
      (∀ b : Bytes, b.length = 1 →
        let u : State := { s with i3c.index := 4, st.slot := fld b 0 1 % 4, st.slotValid := true, i3c.remove := bit (fld b 0 1) 2 }
        (bit (fld b 0 1) 2 = true → exec (.slot b) s = .next (unfused s (answerRemove u))) ∧
        (bit (fld b 0 1) 2 = false → exec (.slot b) s = .next (unfused s { u with i3c.removeOk := false, i3c.removeNot := false }))) ∧
      (∀ b : Bytes, b.length = 4 → exec (.cap b) s =
        .next (unfused s (capReceived { s with i3c.index := 3 } (fld b 0 2 % 4096) (fld b 2 2)))) ∧
      (∀ b : Bytes, b.length = 8 → exec (.treadLoad b) s = .next (unfused s (loadFlight { s with i3c.index := 2 } (fld b 0 6)))) ∧
      (∀ (c : Instr) (ix len : Nat) (b : Bytes), (c, ix, len) ∈ [(.treadLoad b, 2, 8), (.cap b, 3, 4), (.slot b, 4, 1)] → b.length ≠ len →
        exec c s = .next (unfused s (fwBump { s with i3c.index := ix } (kLife 14) 1))) ∧
      (∀ ix b, b ≠ [] → i3cWritable ix ≠ some b.length → exec (.i3cWriteRefused ix b) s = .next (unfused s (fwBump s (kLife 14) 1))) ∧
      (∀ ix, ix ≤ 6 → exec (.i3cWriteRefused ix []) s = .next (unfused s { s with i3c.index := ix })) ∧
      exec .i3cStatusRead s = .next (unfused s { s with i3c.index := 1, i3c.answer := i3cStatus s, i3c.notes := [] }) ∧
      exec .i3cNotifyRepeat s = .next (unfused s (s.i3c.notes.foldl sendIbi s)) ∧
      (∀ a, a < 128 → s.i3c.dynAddr = none → exec (.i3cCommand (.entdaa a)) s = .next (unfused s { s with i3c.dynAddr := some a }) ∧
        exec (.i3cCommand (.setdasa a)) s = .next (unfused s { s with i3c.dynAddr := some a })) ∧
      exec (.i3cCommand .enec) s = .next (unfused s { s with i3c.ibiEn := true }) ∧
      exec (.i3cCommand .disec) s = .next (unfused s { s with i3c.ibiEn := false }) ∧
      exec (.i3cCommand .rstact) s = .next (unfused s { s with i3c.dynAddr := none, i3c.ibiEn := true, i3c.index := 0 })) ∧
    (s.sup.pwrgood = false → ∀ b, exec (.slot b) s = .next (unfused s s) ∧ exec (.cap b) s = .next (unfused s s) ∧
      exec (.treadLoad b) s = .next (unfused s s) ∧ exec .i3cStatusRead s = .next (unfused s s))

/-- R20, R122, R226, R418, R501, R503, R511, R557 to R568. -/
def Obligations.registers_and_counters : Prop :=
  ∀ s : State,
    (∀ (p : Port) (off size : Nat) (v : W64), s.sup.booted = true → (portOf s p).present = true → s.fuses.lc ≠ .scrapped →
      (off / 8 * 8 ≠ 0x50020 → exec (.registerWrite p 0 off size v) s = .next (unfused s (writeBar0 s p off size v.toNat))) ∧
      (off / 8 * 8 = 0x50020 → exec (.registerWrite p 0 off size v) s = .next (queued s (writeBar0 s p off size v.toNat))) ∧
      exec (.registerWrite p 2 off size v) s = .next (unfused s (writeBar2 s p off size v.toNat)) ∧
      ((size ≠ 4 ∧ size ≠ 8) ∨ off % size ≠ 0 → exec (.registerWrite p 0 off size v) s = .next s) ∧
      (p ≠ 0 → off < 0x4000 ∨ 0x8000 ≤ off → exec (.registerWrite p 0 off size v) s = .next s) ∧
      (∀ q : Port, q ≠ p → 0x4000 + 0x1000 * q.val ≤ off → off < 0x5000 + 0x1000 * q.val →
        exec (.registerWrite p 0 off size v) s = .next s)) ∧
    (∀ v : W64, s.fuses.lc ≠ .scrapped →
      let lo := v.toNat % 2 ^ 16
      let hi := v.toNat / 2 ^ 16 % 2 ^ 16
      ∃ t u, exec (.ceSettingWrite 0x30018 v) s = .next t ∧ exec (.ceSettingWrite 0x30020 v) s = .next u ∧
        t.mem.t2Size = (if lo = 0 then s.mem.t2Size else lo) ∧ t.mem.t3Size = (if hi = 0 then s.mem.t3Size else hi) ∧
        u.mem.t2Leak = (if lo = 0 then s.mem.t2Leak else lo) ∧ u.mem.t3Leak = (if hi = 0 then s.mem.t3Leak else hi) ∧
        t.mem.t2Leak = s.mem.t2Leak ∧ u.mem.t2Size = s.mem.t2Size) ∧
    (∀ k c, mget s.hwc k = some c →
      (c.half = true → exec (.counterHalfWrapService k) s =
        .next (unfused s (fwBump { s with hwc := mset s.hwc k c.service } (kLife 0) (b2n c.wrapped)))) ∧
      (c.half = false → exec (.counterHalfWrapService k) s = .next (unfused s s))) ∧
    exec .counterSweep s = .next (unfused s ((s.hwc.map (·.1)).foldl serviceCtr s)) ∧
    (s.tr.fwRunning = true → exec .lifetimeAccumulate s = .next (unfused s (accumulate s)) ∧
      (s.life.cur.powerOnS / 3600 ≠ s.store.life.powerOnS / 3600 → exec .lifetimeCommit s = .next (unfused s (commitLife s false))) ∧
      (s.life.cur.powerOnS / 3600 = s.store.life.powerOnS / 3600 → exec .lifetimeCommit s = .next (unfused s s))) ∧
    (s.fuses.lc ≠ .scrapped → s.sup.booted = true → s.dbg.qdEn = false →
      (s.dbg.qdAddr % 4096 = 0 →
        exec .qdepthSampleEnable s = .next (unfused s { s with dbg.qdEn := true, dbg.qdHead := 0, dbg.qdTail := 0 })) ∧
      (s.dbg.qdAddr % 4096 ≠ 0 → exec .qdepthSampleEnable s = .next (unfused s s))) ∧
    (s.dbg.qdEn = true → s.clk = 0 → s.time.tread % s.dbg.qdPeriod = 0 →
      (s.dbg.qdLast ≠ some s.time.ticks → exec .qdepthSample s = .next (unfused s
        ((if s.dbg.qdAll then List.range 2048 else [s.dbg.qdTile]).foldl sampleTile { s with dbg.qdLast := some s.time.ticks }))) ∧
      (s.dbg.qdLast = some s.time.ticks → exec .qdepthSample s = .next (unfused s s)))

/-- R418, R557, R558, R560, R567; R581, R584. -/
def Obligations.register_reads : Prop :=
  ∀ (s : State) (p : Port),
    (∀ off size, (size ≠ 4 ∧ size ≠ 8) ∨ off % size ≠ 0 → readBar0 s p off size = none) ∧
    (∀ off, off % 8 = 0 → ∃ w : W64, readBar0 s p off 8 = some w ∧
      readBar0 s p off 4 = some (BitVec.ofNat 64 (w.toNat % 2 ^ 32)) ∧
      readBar0 s p (off + 4) 4 = some (BitVec.ofNat 64 (w.toNat / 2 ^ 32)) ∧
      (0x80000 ≤ off → w = 0) ∧
      (∀ q : Port, q ≠ p → 0x4000 + 0x1000 * q.val ≤ off → off < 0x5000 + 0x1000 * q.val → w = 0) ∧
      (p ≠ 0 → 0x60000 ≤ off → w = 0) ∧
      (s.fuses.lc = .scrapped → w = if off = 0x50000 then 5 else 0)) ∧
    (s.sup.pwrgood = false → readI3c s = none) ∧
    (s.sup.pwrgood = true →
      (s.i3c.index = 0 → readI3c s = some (leBytes 4 0x00010D24)) ∧
      (s.i3c.index = 1 → readI3c s = some (i3cStatus s)) ∧
      (s.i3c.index = 5 → readI3c s = some (leBytes 8 (if s.time.loaded then s.time.tread else 0))))

/-- R431, Tables 13-9, 15-5, 18-13. -/
def Obligations.ranges_and_locks : Prop :=
  ∀ (s : State) (p : Port) (v : W64), s.sup.booted = true → (portOf s p).present = true → s.fuses.lc ≠ .scrapped →
    let keep (old x lo hi : Nat) : Nat := if lo ≤ x ∧ x ≤ hi then x else old
    let write (off : Nat) : Host.Outcome State Fault Refusal := exec (.registerWrite p 0 off 8 v) s
    let n := v.toNat
    (∀ q : Fin 64,
      let x := qpOf s p q
      let base := 0x4400 + 0x1000 * p.val + 0x30 * q.val
      (x.en = false →
        write (base + 0x18) = .next (unfused s (setQp s p q { x with cqLog2 := keep x.cqLog2 (n % 32) 4 16 })) ∧
        write (base + 0x20) = .next (unfused s (setQp s p q { x with tqLog2 := keep x.tqLog2 (n % 32) 4 20, tqAddr := n / 4096 })) ∧
        ∃ y : QpSt, write (base + 0x28) = .next (unfused s (setQp s p q y)) ∧ y.count = keep x.count (n / 2 ^ 16 % 256) 1 255 ∧
          y.cqLog2 = x.cqLog2 ∧ y.cqTail = x.cqTail) ∧
      (x.en = true → ∀ w ∈ [0, 0x10, 0x18, 0x20, 0x28], write (base + w) = .next (unfused s s))) ∧
    (let x := portOf s p
     let base := 0x4008 + 0x1000 * p.val
     (x.eqEn = false → write base =
       .next (unfused s (setPort s p { x with eqLog2 := keep x.eqLog2 (n % 32) 4 16, eqAddr := n / 4096 * 4096 }))) ∧
     (x.eqEn = true → write base = .next (unfused s s))) ∧
    (p = 0 →
      write 0x20080 = .next (unfused s { s with pw.pwrLimit := keep s.pw.pwrLimit (n % 4096) 900 2700 }) ∧
      write 0x20088 = .next (unfused s { s with
        pw.windowS := keep s.pw.windowS (n % 32) 1 30, pw.floorLead := keep s.pw.floorLead (n / 256 % 256) 8 255 }) ∧
      write 0x200A0 = .next (unfused s { s with
        pw.rampEn := n % 2 == 1, pw.rampDown := keep s.pw.rampDown (n / 2 ^ 16 % 2 ^ 16) 50 65535,
        pw.rampUp := keep s.pw.rampUp (n / 2 ^ 32 % 2 ^ 16) 50 65535 }))

/-- R561, Tables 6-6 to 6-8, 12-10 to 12-14, 13-9, 15-1, 15-5, 16-12, 17-5, 18-11. -/
def Obligations.registers_read_at_reset : Prop :=
  let reads (off : Nat) (v : W64) : Prop := readBar0 State.reset 0 off 8 = some v
  reads 0x10000 0 ∧ reads 0x10020 0x1000 ∧ reads 0x20080 0x960 ∧ reads 0x20088 0x805 ∧ reads 0x200A0 0x03E801F40001 ∧
  reads 0x200B8 0x400008 ∧ reads 0x30010 0x000151800E100003 ∧ reads 0x30018 0x400010 ∧ reads 0x30020 0x100100 ∧
  reads 0x60020 0x0004000000100000 ∧ reads 0x60088 0x400001 ∧ reads 0x70000 0 ∧ reads 0x50020 0 ∧
  (∀ k : Fin 24, reads (0x40000 + 0x400 * k.val) 0x0008000400200010 ∧
    reads (0x40008 + 0x400 * k.val) (BitVec.ofNat 64 (1 + k.val / 4 * 4)) ∧ reads (0x40018 + 0x400 * k.val) 0xC000D24D ∧
    reads (0x40020 + 0x400 * k.val) 1) ∧
  (∀ q : Fin 64, reads (0x4400 + 0x30 * q.val) 0 ∧ reads (0x4408 + 0x30 * q.val) 0 ∧ reads (0x4410 + 0x30 * q.val) 0 ∧
    reads (0x4418 + 0x30 * q.val) 0 ∧ reads (0x4420 + 0x30 * q.val) 0 ∧ reads (0x4428 + 0x30 * q.val) 0x10000)

/-- R518, R519. -/
def Obligations.self_test_slices : Prop :=
  ∀ s : State,
    (∀ b : Bytes, s.sup.pwrgood = true → b.length = 1 → s.fuses.lc ≠ .scrapped → s.st.period < 65536 →
      ∃ (t : State) (w : W64), exec (.slot b) s = .next t ∧ t.st.slotValid = true ∧ t.st.slot = fld b 0 1 % 4 ∧
        readBar0 t 0 0x60088 8 = some w ∧ w.toNat / 2 ^ 32 = fld b 0 1 % 4 + 4) ∧
    (s.st.slotValid = false → exec .selftestSliceStart s = .next s) ∧
    (s.st.slotValid = true → s.st.slot < 4 → s.time.loaded = true → s.tr.fwRunning = true →
      (s.fuses.lc = .provisioned ∨ s.fuses.lc = .deployed) → 0 < s.st.period → s.st.running = false →
      let due : Prop := ∃ f, f % s.st.period = 0 ∧ s.time.tread = f * 4096 + 1024 * s.st.slot + 256
      let deferred : Prop := s.ps.state = 2 ∨ s.pw.coolantStop = true ∨ s.pw.brake = true ∨ s.pw.tripOn = true ∨
        s.pw.failsafe = true ∨ s.st.en = false
      (¬ due → exec .selftestSliceStart s = .next s) ∧
      (due → deferred → ∃ t, exec .selftestSliceStart s = .next t ∧ t.st = s.st) ∧
      (due → ¬ deferred → ∃ t, exec .selftestSliceStart s = .next t ∧
        t.st = { s.st with running := true, sliceTread := s.time.tread }))

/-- R517 to R519, R521, R523, R524, R566, Tables 16-12, 16-14 to 16-16. -/
def Obligations.self_test_and_scan : Prop :=
  ∀ s : State,
    (sliceDue s = true → s.st.running = false →
      (sliceDeferred s = true → exec .selftestSliceStart s = .next (unfused s (fwBump s (kLife 3) 1))) ∧
      (sliceDeferred s = false → exec .selftestSliceStart s =
        .next (unfused s (fwBump { s with st.running := true, st.sliceTread := s.time.tread } (kLife 2) 1)))) ∧
    (sliceDue s = false → exec .selftestSliceStart s = .next (unfused s s)) ∧
    (∀ rs : List UnitResult, s.st.running = true → s.st.ctlBusy = false ∨ s.st.ctlQueued = true →
      ∃ t, exec (.selftestSliceEnd rs) s = .next t ∧ t.st.nextSlice = (s.st.nextSlice + 1) % 204 ∧ t.st.running = s.st.ctlQueued ∧
        t.st.ctlQueued = false ∧
        t.st.passes = (if s.st.nextSlice = 203 then satAdd (2 ^ 32 - 1) s.st.passes 1 else s.st.passes)) ∧
    (∀ v : W64, s.fuses.lc ≠ .scrapped →
      let period := if v.toNat / 2 ^ 16 % 2 ^ 16 = 0 then s.st.period else v.toNat / 2 ^ 16 % 2 ^ 16
      let en := v.toNat % 2 == 1
      (en ≠ s.st.en ∨ period ≠ s.st.period → exec (.selftestCfgWrite v) s = .next (unfused s
        (logEvent { s with st.en := en, st.period := period, fv := s.fv + 1 } 5 0xFFFF (leBytes 16 (freeValue s.fv))))) ∧
      (en = s.st.en → period = s.st.period → exec (.selftestCfgWrite v) s = .next (unfused s s))) ∧
    (∀ (c : Instr) (unit program : Nat) (effect : State → State), (c, program, effect) ∈ [
        (.inFieldPass unit, 1, id), (.padSweep unit, 0x12, id),
        (.t2March unit, 0x10, fun u => (unitsOf (unit % 2048) 2048).foldl zeroSlice u),
        (.t3March unit, 0x11, fun u => (unitsOf (unit % 2048) 24).foldl zeroStack u),
        (.linkLoopback unit, 0x13, fun u => (unitsOf (unit % 2048) 24).foldl loopLink u),
        (.hostLoopback unit, 0x14, fun u => (unitsOf (unit % 2048) 4).foldl loopPort u),
        (.tileBist unit, 0x15, fun u => (unitsOf (unit % 2048) 2048).foldl zeroTile u)] →
      s.st.ctlBusy = false → s.sup.booted = true →
      let u : State := { s with st.ctlProgram := program, st.ctlUnit := unit % 2048 }
      (s.fuses.lc = .provisioned ∨ s.fuses.lc = .deployed → exec c s = .next (unfused s { u with st.ctlResult := 2 })) ∧
      (s.fuses.lc = .blank ∨ s.fuses.lc = .manufacture ∨ s.fuses.lc = .returned →
        (program ≠ 1 → allQpsOff s = false → exec c s = .next (unfused s { u with st.ctlResult := 3 })) ∧
        (program = 1 ∨ allQpsOff s = true → s.pw.coolantStop = true ∨ s.pw.brake = true →
          exec c s = .next (unfused s { u with st.ctlResult := 5 })) ∧
        (program = 1 ∨ allQpsOff s = true → s.pw.coolantStop = false → s.pw.brake = false → exec c s = .next (unfused s (effect
          { u with st.ctlBusy := true, st.ctlQueued := s.st.running, st.running := true, st.ctlResult := 0,
                   st.sliceTread := if s.st.running then s.st.sliceTread else s.time.tread })))) ∧
      (s.fuses.lc = .scrapped → exec c s = .next (unfused s s))) ∧
    (∀ rs : List UnitResult, s.st.ctlBusy = true → s.st.ctlQueued = false →
      ∃ t, exec (.selftestProgramDone rs) s = .next t ∧ t.st.ctlBusy = false ∧ t.st.running = false ∧
        t.st.ctlResult = (if rs.any fun r => verdictOf r == 2 then 1 else 0) ∧
        t.st.fail = (s.st.fail || rs.any fun r => verdictOf r == 2)) ∧
    (∀ (c : Instr) (cmd : Nat), (c, cmd) ∈ [(.scanFreeze, 0), (.scanOut, 1), (.scanIn, 2), (.scanRelease, 3)] →
      (s.dbg.scanBusy = false → s.fuses.lc ≠ .scrapped → s.sup.booted = true →
        let r := scanResult { s with dbg.scanCmd := cmd } cmd
        exec c s = .next (unfused s { s with dbg.scanCmd := cmd, dbg.scanBusy := decide (r = 0), dbg.scanResult := r })) ∧
      (s.dbg.scanBusy = true → exec c s = .next (unfused s s))) ∧
    (s.dbg.scanBusy = true →
      let u : State := { s with dbg.scanBusy := false, dbg.scanResult := 0 }
      let a := s.dbg.scanAddr
      (s.dbg.scanCmd = 0 → exec .scanCommandDone s = .next (unfused s (freezeTiles u (scanTiles s)))) ∧
      (s.dbg.scanCmd = 1 → exec .scanCommandDone s = .next (unfused s (scanOutAll u (gaTier a) (gaOff a) (scanTiles s)))) ∧
      (s.dbg.scanCmd = 2 → exec .scanCommandDone s = .next (unfused s (scanInAll u (gaTier a) (gaOff a) (scanTiles s)))) ∧
      (s.dbg.scanCmd = 3 → exec .scanCommandDone s = .next (unfused s (thawTiles u (scanTiles s)))))

/-- No descriptor, no lane of a tile, no packet and no firmware event of the serving loop reaches the module's trust state, its power and
time, its lifetime record or its self-test: only their own rows do (chapters 14 to 17 and 19). -/
def Obligations.plant_untouched : Prop :=
  ∀ (c : Instr) (s t : State), exec c s = .next t →
    (match c with
      | .coldPowerOn | .inputUndervoltageLockout | .inputOvervoltageShutoff | .thermalShutoff .. | .perstDeassertBoot
      | .warmReset | .portReset .. | .functionLevelReset .. | .fwLoad .. | .sliceRecord .. | .contextGrant ..
      | .contextRevoke .. | .certRead | .logRead | .challenge | .certInstall .. | .toManufacture .. | .toProvisioned ..
      | .ownerClaim .. | .ownerTransfer .. | .debugUnlock .. | .toReturn .. | .toScrapped .. | .svnCommit | .debugLock
      | .hdmDecoderCommit .. | .eventLogWrite | .repairDone | .floorReq .. | .beacon .. | .treadEdge .. | .treadLock
      | .treadHoldoverEntry | .treadRelock | .flightBoundaryTimeCheck | .treadLoad .. | .treadNumberLoaded
      | .treadAnchorWrite .. | .treadFallingEdge .. | .cap .. | .capHoldEnd | .capDeadlineCheck | .floorAdopt
      | .opVoltageStep .. | .averagePowerCheck | .rampEnvelopeUpdate .. | .pull .. | .pullEnd | .thermalWarning ..
      | .thermalWarningStep .. | .thermalTrip .. | .pwrBrakeAssert | .pwrBrakeDeassert | .coolantStop | .coolantResume
      | .slot .. | .a1Entry | .a1Exit | .a2Entry | .a2Exit | .newelWatchdogExpiry | .newelRestartDone .. | .lifetimeAccumulate
      | .lifetimeCommit | .selftestSliceStart | .selftestSliceEnd .. | .selftestCfgWrite .. | .inFieldPass .. | .t2March ..
      | .t3March .. | .padSweep .. | .linkLoopback .. | .hostLoopback .. | .tileBist .. | .selftestProgramDone ..
      | .syncForceSetValue .. | .syncForceRelease .. | .registerWrite .. | .inputOvervoltageRecovery | .thermalTripClear ..
      | .hdmDecoderUncommit .. | .voltageRampStart => False
      | _ => True) → t.plant = s.plant
end

