-- ==== Sys2Proof/Laws/Maps.lean ====
section
/-!
SUPPORT. Laws of the maps: what a map reads as after each of its operations.
-/
namespace Sys2Proof.Machine

@[simp] theorem mget_nil {V : Type} (k : Nat) : mget ([] : AMap V) k = none := rfl

@[simp] theorem mgetD_nil {V : Type} (k : Nat) (d : V) : mgetD ([] : AMap V) k d = d := rfl

theorem mget_mset {V : Type} (m : AMap V) (k j : Nat) (v : V) :
    mget (mset m k v) j = if k = j then some v else mget m j := by
  induction m with
  | nil => simp [mset, mget]
  | cons e m ih =>
    obtain ⟨i, w⟩ := e
    simp only [mset]
    split
    · simp only [mget]
    · split
      · subst_vars; simp only [mget]; split <;> rfl
      · simp only [mget, ih]
        split <;> split <;> simp_all

@[simp] theorem mget_mset_same {V : Type} (m : AMap V) (k : Nat) (v : V) : mget (mset m k v) k = some v := by
  simp [mget_mset]

theorem mget_mset_other {V : Type} (m : AMap V) {k j : Nat} (v : V) (h : k ≠ j) : mget (mset m k v) j = mget m j := by
  simp [mget_mset, h]

theorem mgetD_mset {V : Type} (m : AMap V) (k j : Nat) (v d : V) :
    mgetD (mset m k v) j d = if k = j then v else mgetD m j d := by
  simp only [mgetD, mget_mset]; split <;> rfl

@[simp] theorem mgetD_mset_same {V : Type} (m : AMap V) (k : Nat) (v d : V) : mgetD (mset m k v) k d = v := by
  simp [mgetD_mset]

theorem mget_merase {V : Type} (m : AMap V) (k j : Nat) :
    mget (merase m k) j = if k = j then none else mget m j := by
  induction m with
  | nil => simp [merase, mget]
  | cons e m ih =>
    obtain ⟨i, w⟩ := e
    simp only [merase, List.filter] at ih ⊢
    by_cases hi : i = k <;> by_cases hj : k = j <;> by_cases hij : i = j <;> simp_all [mget]

@[simp] theorem mget_merase_same {V : Type} (m : AMap V) (k : Nat) : mget (merase m k) k = none := by
  simp [mget_merase]

theorem mget_madj {V : Type} (m : AMap V) (k j : Nat) (f : V → V) :
    mget (madj m k f) j = if k = j then (mget m j).map f else mget m j := by
  unfold madj
  by_cases h : k = j
  · subst h; cases hm : mget m k <;> simp [hm]
  · cases hm : mget m k <;> simp [mget_mset, h]

theorem mget_mmap {V : Type} (m : AMap V) (f : Nat → V → V) (k : Nat) : mget (mmap m f) k = (mget m k).map (f k) := by
  induction m with
  | nil => rfl
  | cons e m ih =>
    obtain ⟨i, w⟩ := e
    simp only [mmap, List.map, mget] at ih ⊢
    split
    · subst_vars; rfl
    · exact ih

theorem mget_mupd {V : Type} (m : AMap V) (k j : Nat) (d : V) (f : V → V) :
    mget (mupd m k d f) j = if k = j then some (f (mgetD m k d)) else mget m j := mget_mset m k j _

theorem mgetD_mupd_same {V : Type} (m : AMap V) (k : Nat) (d : V) (f : V → V) :
    mgetD (mupd m k d f) k d = f (mgetD m k d) := mgetD_mset_same m k _ d

/-- A fold whose steps all leave a view of the state as it was leaves the view as it was. -/
theorem foldl_keeps {α β σ : Type} (view : σ → β) (f : σ → α → σ) (h : ∀ s x, view (f s x) = view s) (l : List α) (s : σ) :
    view (l.foldl f s) = view s := by
  induction l generalizing s with
  | nil => rfl
  | cons x l ih => rw [List.foldl_cons, ih, h]

end Sys2Proof.Machine
end

