-- ==== Sys2Proof/Laws/State.lean ====
section
/-!
SUPPORT. Laws of the state: what each small update leaves as it was, one lemma for each field, and the views that the shared
operations keep.
-/
namespace Sys2Proof.Machine

/-! `unfused` -/

@[simp] theorem unfused_fuses (s t : State) : (unfused s t).fuses = s.fuses := rfl
@[simp] theorem unfused_store (s t : State) : (unfused s t).store = t.store := rfl
@[simp] theorem unfused_sup (s t : State) : (unfused s t).sup = t.sup := rfl
@[simp] theorem unfused_time (s t : State) : (unfused s t).time = t.time := rfl
@[simp] theorem unfused_pw (s t : State) : (unfused s t).pw = t.pw := rfl
@[simp] theorem unfused_life (s t : State) : (unfused s t).life = t.life := rfl
@[simp] theorem unfused_st (s t : State) : (unfused s t).st = t.st := rfl
@[simp] theorem unfused_tr (s t : State) : (unfused s t).tr = t.tr := rfl
@[simp] theorem unfused_mb (s t : State) : (unfused s t).mb = t.mb := rfl
@[simp] theorem unfused_ctxs (s t : State) : (unfused s t).ctxs = t.ctxs := rfl
@[simp] theorem unfused_pkgs (s t : State) : (unfused s t).pkgs = t.pkgs := rfl
@[simp] theorem unfused_qpOwner (s t : State) : (unfused s t).qpOwner = t.qpOwner := rfl
@[simp] theorem unfused_winOwn (s t : State) : (unfused s t).winOwn = t.winOwn := rfl
@[simp] theorem unfused_split (s t : State) : (unfused s t).split = t.split := rfl
@[simp] theorem unfused_splitOn (s t : State) : (unfused s t).splitOn = t.splitOn := rfl
@[simp] theorem unfused_ports (s t : State) : (unfused s t).ports = t.ports := rfl
@[simp] theorem unfused_qps (s t : State) : (unfused s t).qps = t.qps := rfl
@[simp] theorem unfused_hdm (s t : State) : (unfused s t).hdm = t.hdm := rfl
@[simp] theorem unfused_taken (s t : State) : (unfused s t).taken = t.taken := rfl
@[simp] theorem unfused_takes (s t : State) : (unfused s t).takes = t.takes := rfl
@[simp] theorem unfused_msix (s t : State) : (unfused s t).msix = t.msix := rfl
@[simp] theorem unfused_cxlResp (s t : State) : (unfused s t).cxlResp = t.cxlResp := rfl
@[simp] theorem unfused_waits (s t : State) : (unfused s t).waits = t.waits := rfl
@[simp] theorem unfused_pmem (s t : State) : (unfused s t).pmem = t.pmem := rfl
@[simp] theorem unfused_pmemBad (s t : State) : (unfused s t).pmemBad = t.pmemBad := rfl
@[simp] theorem unfused_mem (s t : State) : (unfused s t).mem = t.mem := rfl
@[simp] theorem unfused_movers (s t : State) : (unfused s t).movers = t.movers := rfl
@[simp] theorem unfused_streams (s t : State) : (unfused s t).streams = t.streams := rfl
@[simp] theorem unfused_tiles (s t : State) : (unfused s t).tiles = t.tiles := rfl
@[simp] theorem unfused_harn (s t : State) : (unfused s t).harn = t.harn := rfl
@[simp] theorem unfused_overs (s t : State) : (unfused s t).overs = t.overs := rfl
@[simp] theorem unfused_insts (s t : State) : (unfused s t).insts = t.insts := rfl
@[simp] theorem unfused_saves (s t : State) : (unfused s t).saves = t.saves := rfl
@[simp] theorem unfused_rests (s t : State) : (unfused s t).rests = t.rests := rfl
@[simp] theorem unfused_ccs (s t : State) : (unfused s t).ccs = t.ccs := rfl
@[simp] theorem unfused_credits (s t : State) : (unfused s t).credits = t.credits := rfl
@[simp] theorem unfused_groups (s t : State) : (unfused s t).groups = t.groups := rfl
@[simp] theorem unfused_admits (s t : State) : (unfused s t).admits = t.admits := rfl
@[simp] theorem unfused_adapters (s t : State) : (unfused s t).adapters = t.adapters := rfl
@[simp] theorem unfused_everLoaded (s t : State) : (unfused s t).everLoaded = t.everLoaded := rfl
@[simp] theorem unfused_graphs (s t : State) : (unfused s t).graphs = t.graphs := rfl
@[simp] theorem unfused_fwds (s t : State) : (unfused s t).fwds = t.fwds := rfl
@[simp] theorem unfused_fwdNext (s t : State) : (unfused s t).fwdNext = t.fwdNext := rfl
@[simp] theorem unfused_objs (s t : State) : (unfused s t).objs = t.objs := rfl
@[simp] theorem unfused_syncOut (s t : State) : (unfused s t).syncOut = t.syncOut := rfl
@[simp] theorem unfused_waves (s t : State) : (unfused s t).waves = t.waves := rfl
@[simp] theorem unfused_relRecs (s t : State) : (unfused s t).relRecs = t.relRecs := rfl
@[simp] theorem unfused_sf (s t : State) : (unfused s t).sf = t.sf := rfl
@[simp] theorem unfused_net (s t : State) : (unfused s t).net = t.net := rfl
@[simp] theorem unfused_i3c (s t : State) : (unfused s t).i3c = t.i3c := rfl
@[simp] theorem unfused_ps (s t : State) : (unfused s t).ps = t.ps := rfl
@[simp] theorem unfused_flt (s t : State) : (unfused s t).flt = t.flt := rfl
@[simp] theorem unfused_dbg (s t : State) : (unfused s t).dbg = t.dbg := rfl
@[simp] theorem unfused_snaps (s t : State) : (unfused s t).snaps = t.snaps := rfl
@[simp] theorem unfused_hwc (s t : State) : (unfused s t).hwc = t.hwc := rfl
@[simp] theorem unfused_fwc (s t : State) : (unfused s t).fwc = t.fwc := rfl
@[simp] theorem unfused_evPend (s t : State) : (unfused s t).evPend = t.evPend := rfl
@[simp] theorem unfused_clk (s t : State) : (unfused s t).clk = t.clk := rfl
@[simp] theorem unfused_clks (s t : State) : (unfused s t).clks = t.clks := rfl
@[simp] theorem unfused_w1c (s t : State) : (unfused s t).w1c = t.w1c := rfl
@[simp] theorem unfused_busy (s t : State) : (unfused s t).busy = t.busy := rfl
@[simp] theorem unfused_fv (s t : State) : (unfused s t).fv = t.fv := rfl
@[simp] theorem unfused_pending (s t : State) : (unfused s t).pending = s.pending := rfl

/-! `queued` -/

@[simp] theorem queued_fuses (s t : State) : (queued s t).fuses = t.fuses := rfl
@[simp] theorem queued_store (s t : State) : (queued s t).store = t.store := rfl
@[simp] theorem queued_sup (s t : State) : (queued s t).sup = t.sup := rfl
@[simp] theorem queued_time (s t : State) : (queued s t).time = t.time := rfl
@[simp] theorem queued_pw (s t : State) : (queued s t).pw = t.pw := rfl
@[simp] theorem queued_life (s t : State) : (queued s t).life = t.life := rfl
@[simp] theorem queued_st (s t : State) : (queued s t).st = t.st := rfl
@[simp] theorem queued_tr (s t : State) : (queued s t).tr = t.tr := rfl
@[simp] theorem queued_mb (s t : State) : (queued s t).mb = t.mb := rfl
@[simp] theorem queued_ctxs (s t : State) : (queued s t).ctxs = t.ctxs := rfl
@[simp] theorem queued_pkgs (s t : State) : (queued s t).pkgs = t.pkgs := rfl
@[simp] theorem queued_qpOwner (s t : State) : (queued s t).qpOwner = t.qpOwner := rfl
@[simp] theorem queued_winOwn (s t : State) : (queued s t).winOwn = t.winOwn := rfl
@[simp] theorem queued_split (s t : State) : (queued s t).split = t.split := rfl
@[simp] theorem queued_splitOn (s t : State) : (queued s t).splitOn = t.splitOn := rfl
@[simp] theorem queued_ports (s t : State) : (queued s t).ports = t.ports := rfl
@[simp] theorem queued_qps (s t : State) : (queued s t).qps = t.qps := rfl
@[simp] theorem queued_hdm (s t : State) : (queued s t).hdm = t.hdm := rfl
@[simp] theorem queued_taken (s t : State) : (queued s t).taken = t.taken := rfl
@[simp] theorem queued_takes (s t : State) : (queued s t).takes = t.takes := rfl
@[simp] theorem queued_msix (s t : State) : (queued s t).msix = t.msix := rfl
@[simp] theorem queued_cxlResp (s t : State) : (queued s t).cxlResp = t.cxlResp := rfl
@[simp] theorem queued_waits (s t : State) : (queued s t).waits = t.waits := rfl
@[simp] theorem queued_pmem (s t : State) : (queued s t).pmem = t.pmem := rfl
@[simp] theorem queued_pmemBad (s t : State) : (queued s t).pmemBad = t.pmemBad := rfl
@[simp] theorem queued_mem (s t : State) : (queued s t).mem = t.mem := rfl
@[simp] theorem queued_movers (s t : State) : (queued s t).movers = t.movers := rfl
@[simp] theorem queued_streams (s t : State) : (queued s t).streams = t.streams := rfl
@[simp] theorem queued_tiles (s t : State) : (queued s t).tiles = t.tiles := rfl
@[simp] theorem queued_harn (s t : State) : (queued s t).harn = t.harn := rfl
@[simp] theorem queued_overs (s t : State) : (queued s t).overs = t.overs := rfl
@[simp] theorem queued_insts (s t : State) : (queued s t).insts = t.insts := rfl
@[simp] theorem queued_saves (s t : State) : (queued s t).saves = t.saves := rfl
@[simp] theorem queued_rests (s t : State) : (queued s t).rests = t.rests := rfl
@[simp] theorem queued_ccs (s t : State) : (queued s t).ccs = t.ccs := rfl
@[simp] theorem queued_credits (s t : State) : (queued s t).credits = t.credits := rfl
@[simp] theorem queued_groups (s t : State) : (queued s t).groups = t.groups := rfl
@[simp] theorem queued_admits (s t : State) : (queued s t).admits = t.admits := rfl
@[simp] theorem queued_adapters (s t : State) : (queued s t).adapters = t.adapters := rfl
@[simp] theorem queued_everLoaded (s t : State) : (queued s t).everLoaded = t.everLoaded := rfl
@[simp] theorem queued_graphs (s t : State) : (queued s t).graphs = t.graphs := rfl
@[simp] theorem queued_fwds (s t : State) : (queued s t).fwds = t.fwds := rfl
@[simp] theorem queued_fwdNext (s t : State) : (queued s t).fwdNext = t.fwdNext := rfl
@[simp] theorem queued_objs (s t : State) : (queued s t).objs = t.objs := rfl
@[simp] theorem queued_syncOut (s t : State) : (queued s t).syncOut = t.syncOut := rfl
@[simp] theorem queued_waves (s t : State) : (queued s t).waves = t.waves := rfl
@[simp] theorem queued_relRecs (s t : State) : (queued s t).relRecs = t.relRecs := rfl
@[simp] theorem queued_sf (s t : State) : (queued s t).sf = t.sf := rfl
@[simp] theorem queued_net (s t : State) : (queued s t).net = t.net := rfl
@[simp] theorem queued_i3c (s t : State) : (queued s t).i3c = t.i3c := rfl
@[simp] theorem queued_ps (s t : State) : (queued s t).ps = t.ps := rfl
@[simp] theorem queued_flt (s t : State) : (queued s t).flt = t.flt := rfl
@[simp] theorem queued_dbg (s t : State) : (queued s t).dbg = t.dbg := rfl
@[simp] theorem queued_snaps (s t : State) : (queued s t).snaps = t.snaps := rfl
@[simp] theorem queued_hwc (s t : State) : (queued s t).hwc = t.hwc := rfl
@[simp] theorem queued_fwc (s t : State) : (queued s t).fwc = t.fwc := rfl
@[simp] theorem queued_evPend (s t : State) : (queued s t).evPend = t.evPend := rfl
@[simp] theorem queued_clk (s t : State) : (queued s t).clk = t.clk := rfl
@[simp] theorem queued_clks (s t : State) : (queued s t).clks = t.clks := rfl
@[simp] theorem queued_w1c (s t : State) : (queued s t).w1c = t.w1c := rfl
@[simp] theorem queued_busy (s t : State) : (queued s t).busy = t.busy := rfl
@[simp] theorem queued_fv (s t : State) : (queued s t).fv = t.fv := rfl
@[simp] theorem queued_pending (s t : State) : (queued s t).pending = s.pending := rfl

/-! `pmWrite` -/

@[simp] theorem pmWrite_fuses (s : State) (p a : Nat) (bs : Bytes) : (pmWrite s p a bs).fuses = s.fuses := rfl
@[simp] theorem pmWrite_store (s : State) (p a : Nat) (bs : Bytes) : (pmWrite s p a bs).store = s.store := rfl
@[simp] theorem pmWrite_sup (s : State) (p a : Nat) (bs : Bytes) : (pmWrite s p a bs).sup = s.sup := rfl
@[simp] theorem pmWrite_time (s : State) (p a : Nat) (bs : Bytes) : (pmWrite s p a bs).time = s.time := rfl
@[simp] theorem pmWrite_pw (s : State) (p a : Nat) (bs : Bytes) : (pmWrite s p a bs).pw = s.pw := rfl
@[simp] theorem pmWrite_life (s : State) (p a : Nat) (bs : Bytes) : (pmWrite s p a bs).life = s.life := rfl
@[simp] theorem pmWrite_st (s : State) (p a : Nat) (bs : Bytes) : (pmWrite s p a bs).st = s.st := rfl
@[simp] theorem pmWrite_tr (s : State) (p a : Nat) (bs : Bytes) : (pmWrite s p a bs).tr = s.tr := rfl
@[simp] theorem pmWrite_mb (s : State) (p a : Nat) (bs : Bytes) : (pmWrite s p a bs).mb = s.mb := rfl
@[simp] theorem pmWrite_ctxs (s : State) (p a : Nat) (bs : Bytes) : (pmWrite s p a bs).ctxs = s.ctxs := rfl
@[simp] theorem pmWrite_pkgs (s : State) (p a : Nat) (bs : Bytes) : (pmWrite s p a bs).pkgs = s.pkgs := rfl
@[simp] theorem pmWrite_qpOwner (s : State) (p a : Nat) (bs : Bytes) : (pmWrite s p a bs).qpOwner = s.qpOwner := rfl
@[simp] theorem pmWrite_winOwn (s : State) (p a : Nat) (bs : Bytes) : (pmWrite s p a bs).winOwn = s.winOwn := rfl
@[simp] theorem pmWrite_split (s : State) (p a : Nat) (bs : Bytes) : (pmWrite s p a bs).split = s.split := rfl
@[simp] theorem pmWrite_splitOn (s : State) (p a : Nat) (bs : Bytes) : (pmWrite s p a bs).splitOn = s.splitOn := rfl
@[simp] theorem pmWrite_ports (s : State) (p a : Nat) (bs : Bytes) : (pmWrite s p a bs).ports = s.ports := rfl
@[simp] theorem pmWrite_qps (s : State) (p a : Nat) (bs : Bytes) : (pmWrite s p a bs).qps = s.qps := rfl
@[simp] theorem pmWrite_hdm (s : State) (p a : Nat) (bs : Bytes) : (pmWrite s p a bs).hdm = s.hdm := rfl
@[simp] theorem pmWrite_taken (s : State) (p a : Nat) (bs : Bytes) : (pmWrite s p a bs).taken = s.taken := rfl
@[simp] theorem pmWrite_takes (s : State) (p a : Nat) (bs : Bytes) : (pmWrite s p a bs).takes = s.takes := rfl
@[simp] theorem pmWrite_msix (s : State) (p a : Nat) (bs : Bytes) : (pmWrite s p a bs).msix = s.msix := rfl
@[simp] theorem pmWrite_cxlResp (s : State) (p a : Nat) (bs : Bytes) : (pmWrite s p a bs).cxlResp = s.cxlResp := rfl
@[simp] theorem pmWrite_waits (s : State) (p a : Nat) (bs : Bytes) : (pmWrite s p a bs).waits = s.waits := rfl
@[simp] theorem pmWrite_mem (s : State) (p a : Nat) (bs : Bytes) : (pmWrite s p a bs).mem = s.mem := rfl
@[simp] theorem pmWrite_movers (s : State) (p a : Nat) (bs : Bytes) : (pmWrite s p a bs).movers = s.movers := rfl
@[simp] theorem pmWrite_streams (s : State) (p a : Nat) (bs : Bytes) : (pmWrite s p a bs).streams = s.streams := rfl
@[simp] theorem pmWrite_tiles (s : State) (p a : Nat) (bs : Bytes) : (pmWrite s p a bs).tiles = s.tiles := rfl
@[simp] theorem pmWrite_harn (s : State) (p a : Nat) (bs : Bytes) : (pmWrite s p a bs).harn = s.harn := rfl
@[simp] theorem pmWrite_overs (s : State) (p a : Nat) (bs : Bytes) : (pmWrite s p a bs).overs = s.overs := rfl
@[simp] theorem pmWrite_insts (s : State) (p a : Nat) (bs : Bytes) : (pmWrite s p a bs).insts = s.insts := rfl
@[simp] theorem pmWrite_saves (s : State) (p a : Nat) (bs : Bytes) : (pmWrite s p a bs).saves = s.saves := rfl
@[simp] theorem pmWrite_rests (s : State) (p a : Nat) (bs : Bytes) : (pmWrite s p a bs).rests = s.rests := rfl
@[simp] theorem pmWrite_ccs (s : State) (p a : Nat) (bs : Bytes) : (pmWrite s p a bs).ccs = s.ccs := rfl
@[simp] theorem pmWrite_credits (s : State) (p a : Nat) (bs : Bytes) : (pmWrite s p a bs).credits = s.credits := rfl
@[simp] theorem pmWrite_groups (s : State) (p a : Nat) (bs : Bytes) : (pmWrite s p a bs).groups = s.groups := rfl
@[simp] theorem pmWrite_admits (s : State) (p a : Nat) (bs : Bytes) : (pmWrite s p a bs).admits = s.admits := rfl
@[simp] theorem pmWrite_adapters (s : State) (p a : Nat) (bs : Bytes) : (pmWrite s p a bs).adapters = s.adapters := rfl
@[simp] theorem pmWrite_everLoaded (s : State) (p a : Nat) (bs : Bytes) : (pmWrite s p a bs).everLoaded = s.everLoaded := rfl
@[simp] theorem pmWrite_graphs (s : State) (p a : Nat) (bs : Bytes) : (pmWrite s p a bs).graphs = s.graphs := rfl
@[simp] theorem pmWrite_fwds (s : State) (p a : Nat) (bs : Bytes) : (pmWrite s p a bs).fwds = s.fwds := rfl
@[simp] theorem pmWrite_fwdNext (s : State) (p a : Nat) (bs : Bytes) : (pmWrite s p a bs).fwdNext = s.fwdNext := rfl
@[simp] theorem pmWrite_objs (s : State) (p a : Nat) (bs : Bytes) : (pmWrite s p a bs).objs = s.objs := rfl
@[simp] theorem pmWrite_syncOut (s : State) (p a : Nat) (bs : Bytes) : (pmWrite s p a bs).syncOut = s.syncOut := rfl
@[simp] theorem pmWrite_waves (s : State) (p a : Nat) (bs : Bytes) : (pmWrite s p a bs).waves = s.waves := rfl
@[simp] theorem pmWrite_relRecs (s : State) (p a : Nat) (bs : Bytes) : (pmWrite s p a bs).relRecs = s.relRecs := rfl
@[simp] theorem pmWrite_sf (s : State) (p a : Nat) (bs : Bytes) : (pmWrite s p a bs).sf = s.sf := rfl
@[simp] theorem pmWrite_net (s : State) (p a : Nat) (bs : Bytes) : (pmWrite s p a bs).net = s.net := rfl
@[simp] theorem pmWrite_i3c (s : State) (p a : Nat) (bs : Bytes) : (pmWrite s p a bs).i3c = s.i3c := rfl
@[simp] theorem pmWrite_ps (s : State) (p a : Nat) (bs : Bytes) : (pmWrite s p a bs).ps = s.ps := rfl
@[simp] theorem pmWrite_flt (s : State) (p a : Nat) (bs : Bytes) : (pmWrite s p a bs).flt = s.flt := rfl
@[simp] theorem pmWrite_dbg (s : State) (p a : Nat) (bs : Bytes) : (pmWrite s p a bs).dbg = s.dbg := rfl
@[simp] theorem pmWrite_snaps (s : State) (p a : Nat) (bs : Bytes) : (pmWrite s p a bs).snaps = s.snaps := rfl
@[simp] theorem pmWrite_hwc (s : State) (p a : Nat) (bs : Bytes) : (pmWrite s p a bs).hwc = s.hwc := rfl
@[simp] theorem pmWrite_fwc (s : State) (p a : Nat) (bs : Bytes) : (pmWrite s p a bs).fwc = s.fwc := rfl
@[simp] theorem pmWrite_evPend (s : State) (p a : Nat) (bs : Bytes) : (pmWrite s p a bs).evPend = s.evPend := rfl
@[simp] theorem pmWrite_clk (s : State) (p a : Nat) (bs : Bytes) : (pmWrite s p a bs).clk = s.clk := rfl
@[simp] theorem pmWrite_clks (s : State) (p a : Nat) (bs : Bytes) : (pmWrite s p a bs).clks = s.clks := rfl
@[simp] theorem pmWrite_w1c (s : State) (p a : Nat) (bs : Bytes) : (pmWrite s p a bs).w1c = s.w1c := rfl
@[simp] theorem pmWrite_busy (s : State) (p a : Nat) (bs : Bytes) : (pmWrite s p a bs).busy = s.busy := rfl
@[simp] theorem pmWrite_fv (s : State) (p a : Nat) (bs : Bytes) : (pmWrite s p a bs).fv = s.fv := rfl
@[simp] theorem pmWrite_pending (s : State) (p a : Nat) (bs : Bytes) : (pmWrite s p a bs).pending = s.pending := rfl

/-! `setQp` -/

@[simp] theorem setQp_fuses (s : State) (p q : Nat) (v : QpSt) : (setQp s p q v).fuses = s.fuses := rfl
@[simp] theorem setQp_store (s : State) (p q : Nat) (v : QpSt) : (setQp s p q v).store = s.store := rfl
@[simp] theorem setQp_sup (s : State) (p q : Nat) (v : QpSt) : (setQp s p q v).sup = s.sup := rfl
@[simp] theorem setQp_time (s : State) (p q : Nat) (v : QpSt) : (setQp s p q v).time = s.time := rfl
@[simp] theorem setQp_pw (s : State) (p q : Nat) (v : QpSt) : (setQp s p q v).pw = s.pw := rfl
@[simp] theorem setQp_life (s : State) (p q : Nat) (v : QpSt) : (setQp s p q v).life = s.life := rfl
@[simp] theorem setQp_st (s : State) (p q : Nat) (v : QpSt) : (setQp s p q v).st = s.st := rfl
@[simp] theorem setQp_tr (s : State) (p q : Nat) (v : QpSt) : (setQp s p q v).tr = s.tr := rfl
@[simp] theorem setQp_mb (s : State) (p q : Nat) (v : QpSt) : (setQp s p q v).mb = s.mb := rfl
@[simp] theorem setQp_ctxs (s : State) (p q : Nat) (v : QpSt) : (setQp s p q v).ctxs = s.ctxs := rfl
@[simp] theorem setQp_pkgs (s : State) (p q : Nat) (v : QpSt) : (setQp s p q v).pkgs = s.pkgs := rfl
@[simp] theorem setQp_qpOwner (s : State) (p q : Nat) (v : QpSt) : (setQp s p q v).qpOwner = s.qpOwner := rfl
@[simp] theorem setQp_winOwn (s : State) (p q : Nat) (v : QpSt) : (setQp s p q v).winOwn = s.winOwn := rfl
@[simp] theorem setQp_split (s : State) (p q : Nat) (v : QpSt) : (setQp s p q v).split = s.split := rfl
@[simp] theorem setQp_splitOn (s : State) (p q : Nat) (v : QpSt) : (setQp s p q v).splitOn = s.splitOn := rfl
@[simp] theorem setQp_ports (s : State) (p q : Nat) (v : QpSt) : (setQp s p q v).ports = s.ports := rfl
@[simp] theorem setQp_hdm (s : State) (p q : Nat) (v : QpSt) : (setQp s p q v).hdm = s.hdm := rfl
@[simp] theorem setQp_taken (s : State) (p q : Nat) (v : QpSt) : (setQp s p q v).taken = s.taken := rfl
@[simp] theorem setQp_takes (s : State) (p q : Nat) (v : QpSt) : (setQp s p q v).takes = s.takes := rfl
@[simp] theorem setQp_msix (s : State) (p q : Nat) (v : QpSt) : (setQp s p q v).msix = s.msix := rfl
@[simp] theorem setQp_cxlResp (s : State) (p q : Nat) (v : QpSt) : (setQp s p q v).cxlResp = s.cxlResp := rfl
@[simp] theorem setQp_waits (s : State) (p q : Nat) (v : QpSt) : (setQp s p q v).waits = s.waits := rfl
@[simp] theorem setQp_pmem (s : State) (p q : Nat) (v : QpSt) : (setQp s p q v).pmem = s.pmem := rfl
@[simp] theorem setQp_pmemBad (s : State) (p q : Nat) (v : QpSt) : (setQp s p q v).pmemBad = s.pmemBad := rfl
@[simp] theorem setQp_mem (s : State) (p q : Nat) (v : QpSt) : (setQp s p q v).mem = s.mem := rfl
@[simp] theorem setQp_movers (s : State) (p q : Nat) (v : QpSt) : (setQp s p q v).movers = s.movers := rfl
@[simp] theorem setQp_streams (s : State) (p q : Nat) (v : QpSt) : (setQp s p q v).streams = s.streams := rfl
@[simp] theorem setQp_tiles (s : State) (p q : Nat) (v : QpSt) : (setQp s p q v).tiles = s.tiles := rfl
@[simp] theorem setQp_harn (s : State) (p q : Nat) (v : QpSt) : (setQp s p q v).harn = s.harn := rfl
@[simp] theorem setQp_overs (s : State) (p q : Nat) (v : QpSt) : (setQp s p q v).overs = s.overs := rfl
@[simp] theorem setQp_insts (s : State) (p q : Nat) (v : QpSt) : (setQp s p q v).insts = s.insts := rfl
@[simp] theorem setQp_saves (s : State) (p q : Nat) (v : QpSt) : (setQp s p q v).saves = s.saves := rfl
@[simp] theorem setQp_rests (s : State) (p q : Nat) (v : QpSt) : (setQp s p q v).rests = s.rests := rfl
@[simp] theorem setQp_ccs (s : State) (p q : Nat) (v : QpSt) : (setQp s p q v).ccs = s.ccs := rfl
@[simp] theorem setQp_credits (s : State) (p q : Nat) (v : QpSt) : (setQp s p q v).credits = s.credits := rfl
@[simp] theorem setQp_groups (s : State) (p q : Nat) (v : QpSt) : (setQp s p q v).groups = s.groups := rfl
@[simp] theorem setQp_admits (s : State) (p q : Nat) (v : QpSt) : (setQp s p q v).admits = s.admits := rfl
@[simp] theorem setQp_adapters (s : State) (p q : Nat) (v : QpSt) : (setQp s p q v).adapters = s.adapters := rfl
@[simp] theorem setQp_everLoaded (s : State) (p q : Nat) (v : QpSt) : (setQp s p q v).everLoaded = s.everLoaded := rfl
@[simp] theorem setQp_graphs (s : State) (p q : Nat) (v : QpSt) : (setQp s p q v).graphs = s.graphs := rfl
@[simp] theorem setQp_fwds (s : State) (p q : Nat) (v : QpSt) : (setQp s p q v).fwds = s.fwds := rfl
@[simp] theorem setQp_fwdNext (s : State) (p q : Nat) (v : QpSt) : (setQp s p q v).fwdNext = s.fwdNext := rfl
@[simp] theorem setQp_objs (s : State) (p q : Nat) (v : QpSt) : (setQp s p q v).objs = s.objs := rfl
@[simp] theorem setQp_syncOut (s : State) (p q : Nat) (v : QpSt) : (setQp s p q v).syncOut = s.syncOut := rfl
@[simp] theorem setQp_waves (s : State) (p q : Nat) (v : QpSt) : (setQp s p q v).waves = s.waves := rfl
@[simp] theorem setQp_relRecs (s : State) (p q : Nat) (v : QpSt) : (setQp s p q v).relRecs = s.relRecs := rfl
@[simp] theorem setQp_sf (s : State) (p q : Nat) (v : QpSt) : (setQp s p q v).sf = s.sf := rfl
@[simp] theorem setQp_net (s : State) (p q : Nat) (v : QpSt) : (setQp s p q v).net = s.net := rfl
@[simp] theorem setQp_i3c (s : State) (p q : Nat) (v : QpSt) : (setQp s p q v).i3c = s.i3c := rfl
@[simp] theorem setQp_ps (s : State) (p q : Nat) (v : QpSt) : (setQp s p q v).ps = s.ps := rfl
@[simp] theorem setQp_flt (s : State) (p q : Nat) (v : QpSt) : (setQp s p q v).flt = s.flt := rfl
@[simp] theorem setQp_dbg (s : State) (p q : Nat) (v : QpSt) : (setQp s p q v).dbg = s.dbg := rfl
@[simp] theorem setQp_snaps (s : State) (p q : Nat) (v : QpSt) : (setQp s p q v).snaps = s.snaps := rfl
@[simp] theorem setQp_hwc (s : State) (p q : Nat) (v : QpSt) : (setQp s p q v).hwc = s.hwc := rfl
@[simp] theorem setQp_fwc (s : State) (p q : Nat) (v : QpSt) : (setQp s p q v).fwc = s.fwc := rfl
@[simp] theorem setQp_evPend (s : State) (p q : Nat) (v : QpSt) : (setQp s p q v).evPend = s.evPend := rfl
@[simp] theorem setQp_clk (s : State) (p q : Nat) (v : QpSt) : (setQp s p q v).clk = s.clk := rfl
@[simp] theorem setQp_clks (s : State) (p q : Nat) (v : QpSt) : (setQp s p q v).clks = s.clks := rfl
@[simp] theorem setQp_w1c (s : State) (p q : Nat) (v : QpSt) : (setQp s p q v).w1c = s.w1c := rfl
@[simp] theorem setQp_busy (s : State) (p q : Nat) (v : QpSt) : (setQp s p q v).busy = s.busy := rfl
@[simp] theorem setQp_fv (s : State) (p q : Nat) (v : QpSt) : (setQp s p q v).fv = s.fv := rfl
@[simp] theorem setQp_pending (s : State) (p q : Nat) (v : QpSt) : (setQp s p q v).pending = s.pending := rfl

/-! `setPort` -/

@[simp] theorem setPort_fuses (s : State) (p : Nat) (v : PortSt) : (setPort s p v).fuses = s.fuses := rfl
@[simp] theorem setPort_store (s : State) (p : Nat) (v : PortSt) : (setPort s p v).store = s.store := rfl
@[simp] theorem setPort_sup (s : State) (p : Nat) (v : PortSt) : (setPort s p v).sup = s.sup := rfl
@[simp] theorem setPort_time (s : State) (p : Nat) (v : PortSt) : (setPort s p v).time = s.time := rfl
@[simp] theorem setPort_pw (s : State) (p : Nat) (v : PortSt) : (setPort s p v).pw = s.pw := rfl
@[simp] theorem setPort_life (s : State) (p : Nat) (v : PortSt) : (setPort s p v).life = s.life := rfl
@[simp] theorem setPort_st (s : State) (p : Nat) (v : PortSt) : (setPort s p v).st = s.st := rfl
@[simp] theorem setPort_tr (s : State) (p : Nat) (v : PortSt) : (setPort s p v).tr = s.tr := rfl
@[simp] theorem setPort_mb (s : State) (p : Nat) (v : PortSt) : (setPort s p v).mb = s.mb := rfl
@[simp] theorem setPort_ctxs (s : State) (p : Nat) (v : PortSt) : (setPort s p v).ctxs = s.ctxs := rfl
@[simp] theorem setPort_pkgs (s : State) (p : Nat) (v : PortSt) : (setPort s p v).pkgs = s.pkgs := rfl
@[simp] theorem setPort_qpOwner (s : State) (p : Nat) (v : PortSt) : (setPort s p v).qpOwner = s.qpOwner := rfl
@[simp] theorem setPort_winOwn (s : State) (p : Nat) (v : PortSt) : (setPort s p v).winOwn = s.winOwn := rfl
@[simp] theorem setPort_split (s : State) (p : Nat) (v : PortSt) : (setPort s p v).split = s.split := rfl
@[simp] theorem setPort_splitOn (s : State) (p : Nat) (v : PortSt) : (setPort s p v).splitOn = s.splitOn := rfl
@[simp] theorem setPort_qps (s : State) (p : Nat) (v : PortSt) : (setPort s p v).qps = s.qps := rfl
@[simp] theorem setPort_hdm (s : State) (p : Nat) (v : PortSt) : (setPort s p v).hdm = s.hdm := rfl
@[simp] theorem setPort_taken (s : State) (p : Nat) (v : PortSt) : (setPort s p v).taken = s.taken := rfl
@[simp] theorem setPort_takes (s : State) (p : Nat) (v : PortSt) : (setPort s p v).takes = s.takes := rfl
@[simp] theorem setPort_msix (s : State) (p : Nat) (v : PortSt) : (setPort s p v).msix = s.msix := rfl
@[simp] theorem setPort_cxlResp (s : State) (p : Nat) (v : PortSt) : (setPort s p v).cxlResp = s.cxlResp := rfl
@[simp] theorem setPort_waits (s : State) (p : Nat) (v : PortSt) : (setPort s p v).waits = s.waits := rfl
@[simp] theorem setPort_pmem (s : State) (p : Nat) (v : PortSt) : (setPort s p v).pmem = s.pmem := rfl
@[simp] theorem setPort_pmemBad (s : State) (p : Nat) (v : PortSt) : (setPort s p v).pmemBad = s.pmemBad := rfl
@[simp] theorem setPort_mem (s : State) (p : Nat) (v : PortSt) : (setPort s p v).mem = s.mem := rfl
@[simp] theorem setPort_movers (s : State) (p : Nat) (v : PortSt) : (setPort s p v).movers = s.movers := rfl
@[simp] theorem setPort_streams (s : State) (p : Nat) (v : PortSt) : (setPort s p v).streams = s.streams := rfl
@[simp] theorem setPort_tiles (s : State) (p : Nat) (v : PortSt) : (setPort s p v).tiles = s.tiles := rfl
@[simp] theorem setPort_harn (s : State) (p : Nat) (v : PortSt) : (setPort s p v).harn = s.harn := rfl
@[simp] theorem setPort_overs (s : State) (p : Nat) (v : PortSt) : (setPort s p v).overs = s.overs := rfl
@[simp] theorem setPort_insts (s : State) (p : Nat) (v : PortSt) : (setPort s p v).insts = s.insts := rfl
@[simp] theorem setPort_saves (s : State) (p : Nat) (v : PortSt) : (setPort s p v).saves = s.saves := rfl
@[simp] theorem setPort_rests (s : State) (p : Nat) (v : PortSt) : (setPort s p v).rests = s.rests := rfl
@[simp] theorem setPort_ccs (s : State) (p : Nat) (v : PortSt) : (setPort s p v).ccs = s.ccs := rfl
@[simp] theorem setPort_credits (s : State) (p : Nat) (v : PortSt) : (setPort s p v).credits = s.credits := rfl
@[simp] theorem setPort_groups (s : State) (p : Nat) (v : PortSt) : (setPort s p v).groups = s.groups := rfl
@[simp] theorem setPort_admits (s : State) (p : Nat) (v : PortSt) : (setPort s p v).admits = s.admits := rfl
@[simp] theorem setPort_adapters (s : State) (p : Nat) (v : PortSt) : (setPort s p v).adapters = s.adapters := rfl
@[simp] theorem setPort_everLoaded (s : State) (p : Nat) (v : PortSt) : (setPort s p v).everLoaded = s.everLoaded := rfl
@[simp] theorem setPort_graphs (s : State) (p : Nat) (v : PortSt) : (setPort s p v).graphs = s.graphs := rfl
@[simp] theorem setPort_fwds (s : State) (p : Nat) (v : PortSt) : (setPort s p v).fwds = s.fwds := rfl
@[simp] theorem setPort_fwdNext (s : State) (p : Nat) (v : PortSt) : (setPort s p v).fwdNext = s.fwdNext := rfl
@[simp] theorem setPort_objs (s : State) (p : Nat) (v : PortSt) : (setPort s p v).objs = s.objs := rfl
@[simp] theorem setPort_syncOut (s : State) (p : Nat) (v : PortSt) : (setPort s p v).syncOut = s.syncOut := rfl
@[simp] theorem setPort_waves (s : State) (p : Nat) (v : PortSt) : (setPort s p v).waves = s.waves := rfl
@[simp] theorem setPort_relRecs (s : State) (p : Nat) (v : PortSt) : (setPort s p v).relRecs = s.relRecs := rfl
@[simp] theorem setPort_sf (s : State) (p : Nat) (v : PortSt) : (setPort s p v).sf = s.sf := rfl
@[simp] theorem setPort_net (s : State) (p : Nat) (v : PortSt) : (setPort s p v).net = s.net := rfl
@[simp] theorem setPort_i3c (s : State) (p : Nat) (v : PortSt) : (setPort s p v).i3c = s.i3c := rfl
@[simp] theorem setPort_ps (s : State) (p : Nat) (v : PortSt) : (setPort s p v).ps = s.ps := rfl
@[simp] theorem setPort_flt (s : State) (p : Nat) (v : PortSt) : (setPort s p v).flt = s.flt := rfl
@[simp] theorem setPort_dbg (s : State) (p : Nat) (v : PortSt) : (setPort s p v).dbg = s.dbg := rfl
@[simp] theorem setPort_snaps (s : State) (p : Nat) (v : PortSt) : (setPort s p v).snaps = s.snaps := rfl
@[simp] theorem setPort_hwc (s : State) (p : Nat) (v : PortSt) : (setPort s p v).hwc = s.hwc := rfl
@[simp] theorem setPort_fwc (s : State) (p : Nat) (v : PortSt) : (setPort s p v).fwc = s.fwc := rfl
@[simp] theorem setPort_evPend (s : State) (p : Nat) (v : PortSt) : (setPort s p v).evPend = s.evPend := rfl
@[simp] theorem setPort_clk (s : State) (p : Nat) (v : PortSt) : (setPort s p v).clk = s.clk := rfl
@[simp] theorem setPort_clks (s : State) (p : Nat) (v : PortSt) : (setPort s p v).clks = s.clks := rfl
@[simp] theorem setPort_w1c (s : State) (p : Nat) (v : PortSt) : (setPort s p v).w1c = s.w1c := rfl
@[simp] theorem setPort_busy (s : State) (p : Nat) (v : PortSt) : (setPort s p v).busy = s.busy := rfl
@[simp] theorem setPort_fv (s : State) (p : Nat) (v : PortSt) : (setPort s p v).fv = s.fv := rfl
@[simp] theorem setPort_pending (s : State) (p : Nat) (v : PortSt) : (setPort s p v).pending = s.pending := rfl

/-! `fireMsix` -/

@[simp] theorem fireMsix_fuses (s : State) (p v : Nat) : (fireMsix s p v).fuses = s.fuses := rfl
@[simp] theorem fireMsix_store (s : State) (p v : Nat) : (fireMsix s p v).store = s.store := rfl
@[simp] theorem fireMsix_sup (s : State) (p v : Nat) : (fireMsix s p v).sup = s.sup := rfl
@[simp] theorem fireMsix_time (s : State) (p v : Nat) : (fireMsix s p v).time = s.time := rfl
@[simp] theorem fireMsix_pw (s : State) (p v : Nat) : (fireMsix s p v).pw = s.pw := rfl
@[simp] theorem fireMsix_life (s : State) (p v : Nat) : (fireMsix s p v).life = s.life := rfl
@[simp] theorem fireMsix_st (s : State) (p v : Nat) : (fireMsix s p v).st = s.st := rfl
@[simp] theorem fireMsix_tr (s : State) (p v : Nat) : (fireMsix s p v).tr = s.tr := rfl
@[simp] theorem fireMsix_mb (s : State) (p v : Nat) : (fireMsix s p v).mb = s.mb := rfl
@[simp] theorem fireMsix_ctxs (s : State) (p v : Nat) : (fireMsix s p v).ctxs = s.ctxs := rfl
@[simp] theorem fireMsix_pkgs (s : State) (p v : Nat) : (fireMsix s p v).pkgs = s.pkgs := rfl
@[simp] theorem fireMsix_qpOwner (s : State) (p v : Nat) : (fireMsix s p v).qpOwner = s.qpOwner := rfl
@[simp] theorem fireMsix_winOwn (s : State) (p v : Nat) : (fireMsix s p v).winOwn = s.winOwn := rfl
@[simp] theorem fireMsix_split (s : State) (p v : Nat) : (fireMsix s p v).split = s.split := rfl
@[simp] theorem fireMsix_splitOn (s : State) (p v : Nat) : (fireMsix s p v).splitOn = s.splitOn := rfl
@[simp] theorem fireMsix_ports (s : State) (p v : Nat) : (fireMsix s p v).ports = s.ports := rfl
@[simp] theorem fireMsix_qps (s : State) (p v : Nat) : (fireMsix s p v).qps = s.qps := rfl
@[simp] theorem fireMsix_hdm (s : State) (p v : Nat) : (fireMsix s p v).hdm = s.hdm := rfl
@[simp] theorem fireMsix_taken (s : State) (p v : Nat) : (fireMsix s p v).taken = s.taken := rfl
@[simp] theorem fireMsix_takes (s : State) (p v : Nat) : (fireMsix s p v).takes = s.takes := rfl
@[simp] theorem fireMsix_cxlResp (s : State) (p v : Nat) : (fireMsix s p v).cxlResp = s.cxlResp := rfl
@[simp] theorem fireMsix_waits (s : State) (p v : Nat) : (fireMsix s p v).waits = s.waits := rfl
@[simp] theorem fireMsix_pmem (s : State) (p v : Nat) : (fireMsix s p v).pmem = s.pmem := rfl
@[simp] theorem fireMsix_pmemBad (s : State) (p v : Nat) : (fireMsix s p v).pmemBad = s.pmemBad := rfl
@[simp] theorem fireMsix_mem (s : State) (p v : Nat) : (fireMsix s p v).mem = s.mem := rfl
@[simp] theorem fireMsix_movers (s : State) (p v : Nat) : (fireMsix s p v).movers = s.movers := rfl
@[simp] theorem fireMsix_streams (s : State) (p v : Nat) : (fireMsix s p v).streams = s.streams := rfl
@[simp] theorem fireMsix_tiles (s : State) (p v : Nat) : (fireMsix s p v).tiles = s.tiles := rfl
@[simp] theorem fireMsix_harn (s : State) (p v : Nat) : (fireMsix s p v).harn = s.harn := rfl
@[simp] theorem fireMsix_overs (s : State) (p v : Nat) : (fireMsix s p v).overs = s.overs := rfl
@[simp] theorem fireMsix_insts (s : State) (p v : Nat) : (fireMsix s p v).insts = s.insts := rfl
@[simp] theorem fireMsix_saves (s : State) (p v : Nat) : (fireMsix s p v).saves = s.saves := rfl
@[simp] theorem fireMsix_rests (s : State) (p v : Nat) : (fireMsix s p v).rests = s.rests := rfl
@[simp] theorem fireMsix_ccs (s : State) (p v : Nat) : (fireMsix s p v).ccs = s.ccs := rfl
@[simp] theorem fireMsix_credits (s : State) (p v : Nat) : (fireMsix s p v).credits = s.credits := rfl
@[simp] theorem fireMsix_groups (s : State) (p v : Nat) : (fireMsix s p v).groups = s.groups := rfl
@[simp] theorem fireMsix_admits (s : State) (p v : Nat) : (fireMsix s p v).admits = s.admits := rfl
@[simp] theorem fireMsix_adapters (s : State) (p v : Nat) : (fireMsix s p v).adapters = s.adapters := rfl
@[simp] theorem fireMsix_everLoaded (s : State) (p v : Nat) : (fireMsix s p v).everLoaded = s.everLoaded := rfl
@[simp] theorem fireMsix_graphs (s : State) (p v : Nat) : (fireMsix s p v).graphs = s.graphs := rfl
@[simp] theorem fireMsix_fwds (s : State) (p v : Nat) : (fireMsix s p v).fwds = s.fwds := rfl
@[simp] theorem fireMsix_fwdNext (s : State) (p v : Nat) : (fireMsix s p v).fwdNext = s.fwdNext := rfl
@[simp] theorem fireMsix_objs (s : State) (p v : Nat) : (fireMsix s p v).objs = s.objs := rfl
@[simp] theorem fireMsix_syncOut (s : State) (p v : Nat) : (fireMsix s p v).syncOut = s.syncOut := rfl
@[simp] theorem fireMsix_waves (s : State) (p v : Nat) : (fireMsix s p v).waves = s.waves := rfl
@[simp] theorem fireMsix_relRecs (s : State) (p v : Nat) : (fireMsix s p v).relRecs = s.relRecs := rfl
@[simp] theorem fireMsix_sf (s : State) (p v : Nat) : (fireMsix s p v).sf = s.sf := rfl
@[simp] theorem fireMsix_net (s : State) (p v : Nat) : (fireMsix s p v).net = s.net := rfl
@[simp] theorem fireMsix_i3c (s : State) (p v : Nat) : (fireMsix s p v).i3c = s.i3c := rfl
@[simp] theorem fireMsix_ps (s : State) (p v : Nat) : (fireMsix s p v).ps = s.ps := rfl
@[simp] theorem fireMsix_flt (s : State) (p v : Nat) : (fireMsix s p v).flt = s.flt := rfl
@[simp] theorem fireMsix_dbg (s : State) (p v : Nat) : (fireMsix s p v).dbg = s.dbg := rfl
@[simp] theorem fireMsix_snaps (s : State) (p v : Nat) : (fireMsix s p v).snaps = s.snaps := rfl
@[simp] theorem fireMsix_hwc (s : State) (p v : Nat) : (fireMsix s p v).hwc = s.hwc := rfl
@[simp] theorem fireMsix_fwc (s : State) (p v : Nat) : (fireMsix s p v).fwc = s.fwc := rfl
@[simp] theorem fireMsix_evPend (s : State) (p v : Nat) : (fireMsix s p v).evPend = s.evPend := rfl
@[simp] theorem fireMsix_clk (s : State) (p v : Nat) : (fireMsix s p v).clk = s.clk := rfl
@[simp] theorem fireMsix_clks (s : State) (p v : Nat) : (fireMsix s p v).clks = s.clks := rfl
@[simp] theorem fireMsix_w1c (s : State) (p v : Nat) : (fireMsix s p v).w1c = s.w1c := rfl
@[simp] theorem fireMsix_busy (s : State) (p v : Nat) : (fireMsix s p v).busy = s.busy := rfl
@[simp] theorem fireMsix_fv (s : State) (p v : Nat) : (fireMsix s p v).fv = s.fv := rfl
@[simp] theorem fireMsix_pending (s : State) (p v : Nat) : (fireMsix s p v).pending = s.pending := rfl

/-! `logEvent` -/

@[simp] theorem logEvent_fuses (s : State) (k c : Nat) (d : Bytes) : (logEvent s k c d).fuses = s.fuses := rfl
@[simp] theorem logEvent_store (s : State) (k c : Nat) (d : Bytes) : (logEvent s k c d).store = s.store := rfl
@[simp] theorem logEvent_sup (s : State) (k c : Nat) (d : Bytes) : (logEvent s k c d).sup = s.sup := rfl
@[simp] theorem logEvent_time (s : State) (k c : Nat) (d : Bytes) : (logEvent s k c d).time = s.time := rfl
@[simp] theorem logEvent_pw (s : State) (k c : Nat) (d : Bytes) : (logEvent s k c d).pw = s.pw := rfl
@[simp] theorem logEvent_life (s : State) (k c : Nat) (d : Bytes) : (logEvent s k c d).life = s.life := rfl
@[simp] theorem logEvent_st (s : State) (k c : Nat) (d : Bytes) : (logEvent s k c d).st = s.st := rfl
@[simp] theorem logEvent_tr (s : State) (k c : Nat) (d : Bytes) : (logEvent s k c d).tr = s.tr := rfl
@[simp] theorem logEvent_mb (s : State) (k c : Nat) (d : Bytes) : (logEvent s k c d).mb = s.mb := rfl
@[simp] theorem logEvent_ctxs (s : State) (k c : Nat) (d : Bytes) : (logEvent s k c d).ctxs = s.ctxs := rfl
@[simp] theorem logEvent_pkgs (s : State) (k c : Nat) (d : Bytes) : (logEvent s k c d).pkgs = s.pkgs := rfl
@[simp] theorem logEvent_qpOwner (s : State) (k c : Nat) (d : Bytes) : (logEvent s k c d).qpOwner = s.qpOwner := rfl
@[simp] theorem logEvent_winOwn (s : State) (k c : Nat) (d : Bytes) : (logEvent s k c d).winOwn = s.winOwn := rfl
@[simp] theorem logEvent_split (s : State) (k c : Nat) (d : Bytes) : (logEvent s k c d).split = s.split := rfl
@[simp] theorem logEvent_splitOn (s : State) (k c : Nat) (d : Bytes) : (logEvent s k c d).splitOn = s.splitOn := rfl
@[simp] theorem logEvent_ports (s : State) (k c : Nat) (d : Bytes) : (logEvent s k c d).ports = s.ports := rfl
@[simp] theorem logEvent_qps (s : State) (k c : Nat) (d : Bytes) : (logEvent s k c d).qps = s.qps := rfl
@[simp] theorem logEvent_hdm (s : State) (k c : Nat) (d : Bytes) : (logEvent s k c d).hdm = s.hdm := rfl
@[simp] theorem logEvent_taken (s : State) (k c : Nat) (d : Bytes) : (logEvent s k c d).taken = s.taken := rfl
@[simp] theorem logEvent_takes (s : State) (k c : Nat) (d : Bytes) : (logEvent s k c d).takes = s.takes := rfl
@[simp] theorem logEvent_msix (s : State) (k c : Nat) (d : Bytes) : (logEvent s k c d).msix = s.msix := rfl
@[simp] theorem logEvent_cxlResp (s : State) (k c : Nat) (d : Bytes) : (logEvent s k c d).cxlResp = s.cxlResp := rfl
@[simp] theorem logEvent_waits (s : State) (k c : Nat) (d : Bytes) : (logEvent s k c d).waits = s.waits := rfl
@[simp] theorem logEvent_pmem (s : State) (k c : Nat) (d : Bytes) : (logEvent s k c d).pmem = s.pmem := rfl
@[simp] theorem logEvent_pmemBad (s : State) (k c : Nat) (d : Bytes) : (logEvent s k c d).pmemBad = s.pmemBad := rfl
@[simp] theorem logEvent_mem (s : State) (k c : Nat) (d : Bytes) : (logEvent s k c d).mem = s.mem := rfl
@[simp] theorem logEvent_movers (s : State) (k c : Nat) (d : Bytes) : (logEvent s k c d).movers = s.movers := rfl
@[simp] theorem logEvent_streams (s : State) (k c : Nat) (d : Bytes) : (logEvent s k c d).streams = s.streams := rfl
@[simp] theorem logEvent_tiles (s : State) (k c : Nat) (d : Bytes) : (logEvent s k c d).tiles = s.tiles := rfl
@[simp] theorem logEvent_harn (s : State) (k c : Nat) (d : Bytes) : (logEvent s k c d).harn = s.harn := rfl
@[simp] theorem logEvent_overs (s : State) (k c : Nat) (d : Bytes) : (logEvent s k c d).overs = s.overs := rfl
@[simp] theorem logEvent_insts (s : State) (k c : Nat) (d : Bytes) : (logEvent s k c d).insts = s.insts := rfl
@[simp] theorem logEvent_saves (s : State) (k c : Nat) (d : Bytes) : (logEvent s k c d).saves = s.saves := rfl
@[simp] theorem logEvent_rests (s : State) (k c : Nat) (d : Bytes) : (logEvent s k c d).rests = s.rests := rfl
@[simp] theorem logEvent_ccs (s : State) (k c : Nat) (d : Bytes) : (logEvent s k c d).ccs = s.ccs := rfl
@[simp] theorem logEvent_credits (s : State) (k c : Nat) (d : Bytes) : (logEvent s k c d).credits = s.credits := rfl
@[simp] theorem logEvent_groups (s : State) (k c : Nat) (d : Bytes) : (logEvent s k c d).groups = s.groups := rfl
@[simp] theorem logEvent_admits (s : State) (k c : Nat) (d : Bytes) : (logEvent s k c d).admits = s.admits := rfl
@[simp] theorem logEvent_adapters (s : State) (k c : Nat) (d : Bytes) : (logEvent s k c d).adapters = s.adapters := rfl
@[simp] theorem logEvent_everLoaded (s : State) (k c : Nat) (d : Bytes) : (logEvent s k c d).everLoaded = s.everLoaded := rfl
@[simp] theorem logEvent_graphs (s : State) (k c : Nat) (d : Bytes) : (logEvent s k c d).graphs = s.graphs := rfl
@[simp] theorem logEvent_fwds (s : State) (k c : Nat) (d : Bytes) : (logEvent s k c d).fwds = s.fwds := rfl
@[simp] theorem logEvent_fwdNext (s : State) (k c : Nat) (d : Bytes) : (logEvent s k c d).fwdNext = s.fwdNext := rfl
@[simp] theorem logEvent_objs (s : State) (k c : Nat) (d : Bytes) : (logEvent s k c d).objs = s.objs := rfl
@[simp] theorem logEvent_syncOut (s : State) (k c : Nat) (d : Bytes) : (logEvent s k c d).syncOut = s.syncOut := rfl
@[simp] theorem logEvent_waves (s : State) (k c : Nat) (d : Bytes) : (logEvent s k c d).waves = s.waves := rfl
@[simp] theorem logEvent_relRecs (s : State) (k c : Nat) (d : Bytes) : (logEvent s k c d).relRecs = s.relRecs := rfl
@[simp] theorem logEvent_sf (s : State) (k c : Nat) (d : Bytes) : (logEvent s k c d).sf = s.sf := rfl
@[simp] theorem logEvent_net (s : State) (k c : Nat) (d : Bytes) : (logEvent s k c d).net = s.net := rfl
@[simp] theorem logEvent_i3c (s : State) (k c : Nat) (d : Bytes) : (logEvent s k c d).i3c = s.i3c := rfl
@[simp] theorem logEvent_ps (s : State) (k c : Nat) (d : Bytes) : (logEvent s k c d).ps = s.ps := rfl
@[simp] theorem logEvent_flt (s : State) (k c : Nat) (d : Bytes) : (logEvent s k c d).flt = s.flt := rfl
@[simp] theorem logEvent_dbg (s : State) (k c : Nat) (d : Bytes) : (logEvent s k c d).dbg = s.dbg := rfl
@[simp] theorem logEvent_snaps (s : State) (k c : Nat) (d : Bytes) : (logEvent s k c d).snaps = s.snaps := rfl
@[simp] theorem logEvent_hwc (s : State) (k c : Nat) (d : Bytes) : (logEvent s k c d).hwc = s.hwc := rfl
@[simp] theorem logEvent_fwc (s : State) (k c : Nat) (d : Bytes) : (logEvent s k c d).fwc = s.fwc := rfl
@[simp] theorem logEvent_clk (s : State) (k c : Nat) (d : Bytes) : (logEvent s k c d).clk = s.clk := rfl
@[simp] theorem logEvent_clks (s : State) (k c : Nat) (d : Bytes) : (logEvent s k c d).clks = s.clks := rfl
@[simp] theorem logEvent_w1c (s : State) (k c : Nat) (d : Bytes) : (logEvent s k c d).w1c = s.w1c := rfl
@[simp] theorem logEvent_busy (s : State) (k c : Nat) (d : Bytes) : (logEvent s k c d).busy = s.busy := rfl
@[simp] theorem logEvent_fv (s : State) (k c : Nat) (d : Bytes) : (logEvent s k c d).fv = s.fv := rfl
@[simp] theorem logEvent_pending (s : State) (k c : Nat) (d : Bytes) : (logEvent s k c d).pending = s.pending := rfl

/-! `hwBump` -/

@[simp] theorem hwBump_fuses (s : State) (k n : Nat) : (hwBump s k n).fuses = s.fuses := by unfold hwBump; split <;> rfl
@[simp] theorem hwBump_store (s : State) (k n : Nat) : (hwBump s k n).store = s.store := by unfold hwBump; split <;> rfl
@[simp] theorem hwBump_sup (s : State) (k n : Nat) : (hwBump s k n).sup = s.sup := by unfold hwBump; split <;> rfl
@[simp] theorem hwBump_time (s : State) (k n : Nat) : (hwBump s k n).time = s.time := by unfold hwBump; split <;> rfl
@[simp] theorem hwBump_pw (s : State) (k n : Nat) : (hwBump s k n).pw = s.pw := by unfold hwBump; split <;> rfl
@[simp] theorem hwBump_life (s : State) (k n : Nat) : (hwBump s k n).life = s.life := by unfold hwBump; split <;> rfl
@[simp] theorem hwBump_st (s : State) (k n : Nat) : (hwBump s k n).st = s.st := by unfold hwBump; split <;> rfl
@[simp] theorem hwBump_tr (s : State) (k n : Nat) : (hwBump s k n).tr = s.tr := by unfold hwBump; split <;> rfl
@[simp] theorem hwBump_mb (s : State) (k n : Nat) : (hwBump s k n).mb = s.mb := by unfold hwBump; split <;> rfl
@[simp] theorem hwBump_ctxs (s : State) (k n : Nat) : (hwBump s k n).ctxs = s.ctxs := by unfold hwBump; split <;> rfl
@[simp] theorem hwBump_pkgs (s : State) (k n : Nat) : (hwBump s k n).pkgs = s.pkgs := by unfold hwBump; split <;> rfl
@[simp] theorem hwBump_qpOwner (s : State) (k n : Nat) : (hwBump s k n).qpOwner = s.qpOwner := by unfold hwBump; split <;> rfl
@[simp] theorem hwBump_winOwn (s : State) (k n : Nat) : (hwBump s k n).winOwn = s.winOwn := by unfold hwBump; split <;> rfl
@[simp] theorem hwBump_split (s : State) (k n : Nat) : (hwBump s k n).split = s.split := by unfold hwBump; split <;> rfl
@[simp] theorem hwBump_splitOn (s : State) (k n : Nat) : (hwBump s k n).splitOn = s.splitOn := by unfold hwBump; split <;> rfl
@[simp] theorem hwBump_ports (s : State) (k n : Nat) : (hwBump s k n).ports = s.ports := by unfold hwBump; split <;> rfl
@[simp] theorem hwBump_qps (s : State) (k n : Nat) : (hwBump s k n).qps = s.qps := by unfold hwBump; split <;> rfl
@[simp] theorem hwBump_hdm (s : State) (k n : Nat) : (hwBump s k n).hdm = s.hdm := by unfold hwBump; split <;> rfl
@[simp] theorem hwBump_taken (s : State) (k n : Nat) : (hwBump s k n).taken = s.taken := by unfold hwBump; split <;> rfl
@[simp] theorem hwBump_takes (s : State) (k n : Nat) : (hwBump s k n).takes = s.takes := by unfold hwBump; split <;> rfl
@[simp] theorem hwBump_msix (s : State) (k n : Nat) : (hwBump s k n).msix = s.msix := by unfold hwBump; split <;> rfl
@[simp] theorem hwBump_cxlResp (s : State) (k n : Nat) : (hwBump s k n).cxlResp = s.cxlResp := by unfold hwBump; split <;> rfl
@[simp] theorem hwBump_waits (s : State) (k n : Nat) : (hwBump s k n).waits = s.waits := by unfold hwBump; split <;> rfl
@[simp] theorem hwBump_pmem (s : State) (k n : Nat) : (hwBump s k n).pmem = s.pmem := by unfold hwBump; split <;> rfl
@[simp] theorem hwBump_pmemBad (s : State) (k n : Nat) : (hwBump s k n).pmemBad = s.pmemBad := by unfold hwBump; split <;> rfl
@[simp] theorem hwBump_mem (s : State) (k n : Nat) : (hwBump s k n).mem = s.mem := by unfold hwBump; split <;> rfl
@[simp] theorem hwBump_movers (s : State) (k n : Nat) : (hwBump s k n).movers = s.movers := by unfold hwBump; split <;> rfl
@[simp] theorem hwBump_streams (s : State) (k n : Nat) : (hwBump s k n).streams = s.streams := by unfold hwBump; split <;> rfl
@[simp] theorem hwBump_tiles (s : State) (k n : Nat) : (hwBump s k n).tiles = s.tiles := by unfold hwBump; split <;> rfl
@[simp] theorem hwBump_harn (s : State) (k n : Nat) : (hwBump s k n).harn = s.harn := by unfold hwBump; split <;> rfl
@[simp] theorem hwBump_overs (s : State) (k n : Nat) : (hwBump s k n).overs = s.overs := by unfold hwBump; split <;> rfl
@[simp] theorem hwBump_insts (s : State) (k n : Nat) : (hwBump s k n).insts = s.insts := by unfold hwBump; split <;> rfl
@[simp] theorem hwBump_saves (s : State) (k n : Nat) : (hwBump s k n).saves = s.saves := by unfold hwBump; split <;> rfl
@[simp] theorem hwBump_rests (s : State) (k n : Nat) : (hwBump s k n).rests = s.rests := by unfold hwBump; split <;> rfl
@[simp] theorem hwBump_ccs (s : State) (k n : Nat) : (hwBump s k n).ccs = s.ccs := by unfold hwBump; split <;> rfl
@[simp] theorem hwBump_credits (s : State) (k n : Nat) : (hwBump s k n).credits = s.credits := by unfold hwBump; split <;> rfl
@[simp] theorem hwBump_groups (s : State) (k n : Nat) : (hwBump s k n).groups = s.groups := by unfold hwBump; split <;> rfl
@[simp] theorem hwBump_admits (s : State) (k n : Nat) : (hwBump s k n).admits = s.admits := by unfold hwBump; split <;> rfl
@[simp] theorem hwBump_adapters (s : State) (k n : Nat) : (hwBump s k n).adapters = s.adapters := by unfold hwBump; split <;> rfl
@[simp] theorem hwBump_everLoaded (s : State) (k n : Nat) : (hwBump s k n).everLoaded = s.everLoaded := by unfold hwBump; split <;> rfl
@[simp] theorem hwBump_graphs (s : State) (k n : Nat) : (hwBump s k n).graphs = s.graphs := by unfold hwBump; split <;> rfl
@[simp] theorem hwBump_fwds (s : State) (k n : Nat) : (hwBump s k n).fwds = s.fwds := by unfold hwBump; split <;> rfl
@[simp] theorem hwBump_fwdNext (s : State) (k n : Nat) : (hwBump s k n).fwdNext = s.fwdNext := by unfold hwBump; split <;> rfl
@[simp] theorem hwBump_objs (s : State) (k n : Nat) : (hwBump s k n).objs = s.objs := by unfold hwBump; split <;> rfl
@[simp] theorem hwBump_syncOut (s : State) (k n : Nat) : (hwBump s k n).syncOut = s.syncOut := by unfold hwBump; split <;> rfl
@[simp] theorem hwBump_waves (s : State) (k n : Nat) : (hwBump s k n).waves = s.waves := by unfold hwBump; split <;> rfl
@[simp] theorem hwBump_relRecs (s : State) (k n : Nat) : (hwBump s k n).relRecs = s.relRecs := by unfold hwBump; split <;> rfl
@[simp] theorem hwBump_sf (s : State) (k n : Nat) : (hwBump s k n).sf = s.sf := by unfold hwBump; split <;> rfl
@[simp] theorem hwBump_net (s : State) (k n : Nat) : (hwBump s k n).net = s.net := by unfold hwBump; split <;> rfl
@[simp] theorem hwBump_i3c (s : State) (k n : Nat) : (hwBump s k n).i3c = s.i3c := by unfold hwBump; split <;> rfl
@[simp] theorem hwBump_ps (s : State) (k n : Nat) : (hwBump s k n).ps = s.ps := by unfold hwBump; split <;> rfl
@[simp] theorem hwBump_flt (s : State) (k n : Nat) : (hwBump s k n).flt = s.flt := by unfold hwBump; split <;> rfl
@[simp] theorem hwBump_dbg (s : State) (k n : Nat) : (hwBump s k n).dbg = s.dbg := by unfold hwBump; split <;> rfl
@[simp] theorem hwBump_snaps (s : State) (k n : Nat) : (hwBump s k n).snaps = s.snaps := by unfold hwBump; split <;> rfl
@[simp] theorem hwBump_fwc (s : State) (k n : Nat) : (hwBump s k n).fwc = s.fwc := by unfold hwBump; split <;> rfl
@[simp] theorem hwBump_evPend (s : State) (k n : Nat) : (hwBump s k n).evPend = s.evPend := by unfold hwBump; split <;> rfl
@[simp] theorem hwBump_clk (s : State) (k n : Nat) : (hwBump s k n).clk = s.clk := by unfold hwBump; split <;> rfl
@[simp] theorem hwBump_clks (s : State) (k n : Nat) : (hwBump s k n).clks = s.clks := by unfold hwBump; split <;> rfl
@[simp] theorem hwBump_w1c (s : State) (k n : Nat) : (hwBump s k n).w1c = s.w1c := by unfold hwBump; split <;> rfl
@[simp] theorem hwBump_busy (s : State) (k n : Nat) : (hwBump s k n).busy = s.busy := by unfold hwBump; split <;> rfl
@[simp] theorem hwBump_fv (s : State) (k n : Nat) : (hwBump s k n).fv = s.fv := by unfold hwBump; split <;> rfl
@[simp] theorem hwBump_pending (s : State) (k n : Nat) : (hwBump s k n).pending = s.pending := by unfold hwBump; split <;> rfl

/-! `fwBump` -/

@[simp] theorem fwBump_fuses (s : State) (k n : Nat) : (fwBump s k n).fuses = s.fuses := by unfold fwBump; split <;> rfl
@[simp] theorem fwBump_store (s : State) (k n : Nat) : (fwBump s k n).store = s.store := by unfold fwBump; split <;> rfl
@[simp] theorem fwBump_sup (s : State) (k n : Nat) : (fwBump s k n).sup = s.sup := by unfold fwBump; split <;> rfl
@[simp] theorem fwBump_time (s : State) (k n : Nat) : (fwBump s k n).time = s.time := by unfold fwBump; split <;> rfl
@[simp] theorem fwBump_pw (s : State) (k n : Nat) : (fwBump s k n).pw = s.pw := by unfold fwBump; split <;> rfl
@[simp] theorem fwBump_life (s : State) (k n : Nat) : (fwBump s k n).life = s.life := by unfold fwBump; split <;> rfl
@[simp] theorem fwBump_st (s : State) (k n : Nat) : (fwBump s k n).st = s.st := by unfold fwBump; split <;> rfl
@[simp] theorem fwBump_tr (s : State) (k n : Nat) : (fwBump s k n).tr = s.tr := by unfold fwBump; split <;> rfl
@[simp] theorem fwBump_mb (s : State) (k n : Nat) : (fwBump s k n).mb = s.mb := by unfold fwBump; split <;> rfl
@[simp] theorem fwBump_ctxs (s : State) (k n : Nat) : (fwBump s k n).ctxs = s.ctxs := by unfold fwBump; split <;> rfl
@[simp] theorem fwBump_pkgs (s : State) (k n : Nat) : (fwBump s k n).pkgs = s.pkgs := by unfold fwBump; split <;> rfl
@[simp] theorem fwBump_qpOwner (s : State) (k n : Nat) : (fwBump s k n).qpOwner = s.qpOwner := by unfold fwBump; split <;> rfl
@[simp] theorem fwBump_winOwn (s : State) (k n : Nat) : (fwBump s k n).winOwn = s.winOwn := by unfold fwBump; split <;> rfl
@[simp] theorem fwBump_split (s : State) (k n : Nat) : (fwBump s k n).split = s.split := by unfold fwBump; split <;> rfl
@[simp] theorem fwBump_splitOn (s : State) (k n : Nat) : (fwBump s k n).splitOn = s.splitOn := by unfold fwBump; split <;> rfl
@[simp] theorem fwBump_ports (s : State) (k n : Nat) : (fwBump s k n).ports = s.ports := by unfold fwBump; split <;> rfl
@[simp] theorem fwBump_qps (s : State) (k n : Nat) : (fwBump s k n).qps = s.qps := by unfold fwBump; split <;> rfl
@[simp] theorem fwBump_hdm (s : State) (k n : Nat) : (fwBump s k n).hdm = s.hdm := by unfold fwBump; split <;> rfl
@[simp] theorem fwBump_taken (s : State) (k n : Nat) : (fwBump s k n).taken = s.taken := by unfold fwBump; split <;> rfl
@[simp] theorem fwBump_takes (s : State) (k n : Nat) : (fwBump s k n).takes = s.takes := by unfold fwBump; split <;> rfl
@[simp] theorem fwBump_msix (s : State) (k n : Nat) : (fwBump s k n).msix = s.msix := by unfold fwBump; split <;> rfl
@[simp] theorem fwBump_cxlResp (s : State) (k n : Nat) : (fwBump s k n).cxlResp = s.cxlResp := by unfold fwBump; split <;> rfl
@[simp] theorem fwBump_waits (s : State) (k n : Nat) : (fwBump s k n).waits = s.waits := by unfold fwBump; split <;> rfl
@[simp] theorem fwBump_pmem (s : State) (k n : Nat) : (fwBump s k n).pmem = s.pmem := by unfold fwBump; split <;> rfl
@[simp] theorem fwBump_pmemBad (s : State) (k n : Nat) : (fwBump s k n).pmemBad = s.pmemBad := by unfold fwBump; split <;> rfl
@[simp] theorem fwBump_mem (s : State) (k n : Nat) : (fwBump s k n).mem = s.mem := by unfold fwBump; split <;> rfl
@[simp] theorem fwBump_movers (s : State) (k n : Nat) : (fwBump s k n).movers = s.movers := by unfold fwBump; split <;> rfl
@[simp] theorem fwBump_streams (s : State) (k n : Nat) : (fwBump s k n).streams = s.streams := by unfold fwBump; split <;> rfl
@[simp] theorem fwBump_tiles (s : State) (k n : Nat) : (fwBump s k n).tiles = s.tiles := by unfold fwBump; split <;> rfl
@[simp] theorem fwBump_harn (s : State) (k n : Nat) : (fwBump s k n).harn = s.harn := by unfold fwBump; split <;> rfl
@[simp] theorem fwBump_overs (s : State) (k n : Nat) : (fwBump s k n).overs = s.overs := by unfold fwBump; split <;> rfl
@[simp] theorem fwBump_insts (s : State) (k n : Nat) : (fwBump s k n).insts = s.insts := by unfold fwBump; split <;> rfl
@[simp] theorem fwBump_saves (s : State) (k n : Nat) : (fwBump s k n).saves = s.saves := by unfold fwBump; split <;> rfl
@[simp] theorem fwBump_rests (s : State) (k n : Nat) : (fwBump s k n).rests = s.rests := by unfold fwBump; split <;> rfl
@[simp] theorem fwBump_ccs (s : State) (k n : Nat) : (fwBump s k n).ccs = s.ccs := by unfold fwBump; split <;> rfl
@[simp] theorem fwBump_credits (s : State) (k n : Nat) : (fwBump s k n).credits = s.credits := by unfold fwBump; split <;> rfl
@[simp] theorem fwBump_groups (s : State) (k n : Nat) : (fwBump s k n).groups = s.groups := by unfold fwBump; split <;> rfl
@[simp] theorem fwBump_admits (s : State) (k n : Nat) : (fwBump s k n).admits = s.admits := by unfold fwBump; split <;> rfl
@[simp] theorem fwBump_adapters (s : State) (k n : Nat) : (fwBump s k n).adapters = s.adapters := by unfold fwBump; split <;> rfl
@[simp] theorem fwBump_everLoaded (s : State) (k n : Nat) : (fwBump s k n).everLoaded = s.everLoaded := by unfold fwBump; split <;> rfl
@[simp] theorem fwBump_graphs (s : State) (k n : Nat) : (fwBump s k n).graphs = s.graphs := by unfold fwBump; split <;> rfl
@[simp] theorem fwBump_fwds (s : State) (k n : Nat) : (fwBump s k n).fwds = s.fwds := by unfold fwBump; split <;> rfl
@[simp] theorem fwBump_fwdNext (s : State) (k n : Nat) : (fwBump s k n).fwdNext = s.fwdNext := by unfold fwBump; split <;> rfl
@[simp] theorem fwBump_objs (s : State) (k n : Nat) : (fwBump s k n).objs = s.objs := by unfold fwBump; split <;> rfl
@[simp] theorem fwBump_syncOut (s : State) (k n : Nat) : (fwBump s k n).syncOut = s.syncOut := by unfold fwBump; split <;> rfl
@[simp] theorem fwBump_waves (s : State) (k n : Nat) : (fwBump s k n).waves = s.waves := by unfold fwBump; split <;> rfl
@[simp] theorem fwBump_relRecs (s : State) (k n : Nat) : (fwBump s k n).relRecs = s.relRecs := by unfold fwBump; split <;> rfl
@[simp] theorem fwBump_sf (s : State) (k n : Nat) : (fwBump s k n).sf = s.sf := by unfold fwBump; split <;> rfl
@[simp] theorem fwBump_net (s : State) (k n : Nat) : (fwBump s k n).net = s.net := by unfold fwBump; split <;> rfl
@[simp] theorem fwBump_i3c (s : State) (k n : Nat) : (fwBump s k n).i3c = s.i3c := by unfold fwBump; split <;> rfl
@[simp] theorem fwBump_ps (s : State) (k n : Nat) : (fwBump s k n).ps = s.ps := by unfold fwBump; split <;> rfl
@[simp] theorem fwBump_flt (s : State) (k n : Nat) : (fwBump s k n).flt = s.flt := by unfold fwBump; split <;> rfl
@[simp] theorem fwBump_dbg (s : State) (k n : Nat) : (fwBump s k n).dbg = s.dbg := by unfold fwBump; split <;> rfl
@[simp] theorem fwBump_snaps (s : State) (k n : Nat) : (fwBump s k n).snaps = s.snaps := by unfold fwBump; split <;> rfl
@[simp] theorem fwBump_hwc (s : State) (k n : Nat) : (fwBump s k n).hwc = s.hwc := by unfold fwBump; split <;> rfl
@[simp] theorem fwBump_evPend (s : State) (k n : Nat) : (fwBump s k n).evPend = s.evPend := by unfold fwBump; split <;> rfl
@[simp] theorem fwBump_clk (s : State) (k n : Nat) : (fwBump s k n).clk = s.clk := by unfold fwBump; split <;> rfl
@[simp] theorem fwBump_clks (s : State) (k n : Nat) : (fwBump s k n).clks = s.clks := by unfold fwBump; split <;> rfl
@[simp] theorem fwBump_w1c (s : State) (k n : Nat) : (fwBump s k n).w1c = s.w1c := by unfold fwBump; split <;> rfl
@[simp] theorem fwBump_busy (s : State) (k n : Nat) : (fwBump s k n).busy = s.busy := by unfold fwBump; split <;> rfl
@[simp] theorem fwBump_fv (s : State) (k n : Nat) : (fwBump s k n).fv = s.fv := by unfold fwBump; split <;> rfl
@[simp] theorem fwBump_pending (s : State) (k n : Nat) : (fwBump s k n).pending = s.pending := by unfold fwBump; split <;> rfl

/-! `setLink` -/

@[simp] theorem setLink_fuses (s : State) (k : Nat) (l : LinkSt) : (setLink s k l).fuses = s.fuses := rfl
@[simp] theorem setLink_store (s : State) (k : Nat) (l : LinkSt) : (setLink s k l).store = s.store := rfl
@[simp] theorem setLink_sup (s : State) (k : Nat) (l : LinkSt) : (setLink s k l).sup = s.sup := rfl
@[simp] theorem setLink_time (s : State) (k : Nat) (l : LinkSt) : (setLink s k l).time = s.time := rfl
@[simp] theorem setLink_pw (s : State) (k : Nat) (l : LinkSt) : (setLink s k l).pw = s.pw := rfl
@[simp] theorem setLink_life (s : State) (k : Nat) (l : LinkSt) : (setLink s k l).life = s.life := rfl
@[simp] theorem setLink_st (s : State) (k : Nat) (l : LinkSt) : (setLink s k l).st = s.st := rfl
@[simp] theorem setLink_tr (s : State) (k : Nat) (l : LinkSt) : (setLink s k l).tr = s.tr := rfl
@[simp] theorem setLink_mb (s : State) (k : Nat) (l : LinkSt) : (setLink s k l).mb = s.mb := rfl
@[simp] theorem setLink_ctxs (s : State) (k : Nat) (l : LinkSt) : (setLink s k l).ctxs = s.ctxs := rfl
@[simp] theorem setLink_pkgs (s : State) (k : Nat) (l : LinkSt) : (setLink s k l).pkgs = s.pkgs := rfl
@[simp] theorem setLink_qpOwner (s : State) (k : Nat) (l : LinkSt) : (setLink s k l).qpOwner = s.qpOwner := rfl
@[simp] theorem setLink_winOwn (s : State) (k : Nat) (l : LinkSt) : (setLink s k l).winOwn = s.winOwn := rfl
@[simp] theorem setLink_split (s : State) (k : Nat) (l : LinkSt) : (setLink s k l).split = s.split := rfl
@[simp] theorem setLink_splitOn (s : State) (k : Nat) (l : LinkSt) : (setLink s k l).splitOn = s.splitOn := rfl
@[simp] theorem setLink_ports (s : State) (k : Nat) (l : LinkSt) : (setLink s k l).ports = s.ports := rfl
@[simp] theorem setLink_qps (s : State) (k : Nat) (l : LinkSt) : (setLink s k l).qps = s.qps := rfl
@[simp] theorem setLink_hdm (s : State) (k : Nat) (l : LinkSt) : (setLink s k l).hdm = s.hdm := rfl
@[simp] theorem setLink_taken (s : State) (k : Nat) (l : LinkSt) : (setLink s k l).taken = s.taken := rfl
@[simp] theorem setLink_takes (s : State) (k : Nat) (l : LinkSt) : (setLink s k l).takes = s.takes := rfl
@[simp] theorem setLink_msix (s : State) (k : Nat) (l : LinkSt) : (setLink s k l).msix = s.msix := rfl
@[simp] theorem setLink_cxlResp (s : State) (k : Nat) (l : LinkSt) : (setLink s k l).cxlResp = s.cxlResp := rfl
@[simp] theorem setLink_waits (s : State) (k : Nat) (l : LinkSt) : (setLink s k l).waits = s.waits := rfl
@[simp] theorem setLink_pmem (s : State) (k : Nat) (l : LinkSt) : (setLink s k l).pmem = s.pmem := rfl
@[simp] theorem setLink_pmemBad (s : State) (k : Nat) (l : LinkSt) : (setLink s k l).pmemBad = s.pmemBad := rfl
@[simp] theorem setLink_mem (s : State) (k : Nat) (l : LinkSt) : (setLink s k l).mem = s.mem := rfl
@[simp] theorem setLink_movers (s : State) (k : Nat) (l : LinkSt) : (setLink s k l).movers = s.movers := rfl
@[simp] theorem setLink_streams (s : State) (k : Nat) (l : LinkSt) : (setLink s k l).streams = s.streams := rfl
@[simp] theorem setLink_tiles (s : State) (k : Nat) (l : LinkSt) : (setLink s k l).tiles = s.tiles := rfl
@[simp] theorem setLink_harn (s : State) (k : Nat) (l : LinkSt) : (setLink s k l).harn = s.harn := rfl
@[simp] theorem setLink_overs (s : State) (k : Nat) (l : LinkSt) : (setLink s k l).overs = s.overs := rfl
@[simp] theorem setLink_insts (s : State) (k : Nat) (l : LinkSt) : (setLink s k l).insts = s.insts := rfl
@[simp] theorem setLink_saves (s : State) (k : Nat) (l : LinkSt) : (setLink s k l).saves = s.saves := rfl
@[simp] theorem setLink_rests (s : State) (k : Nat) (l : LinkSt) : (setLink s k l).rests = s.rests := rfl
@[simp] theorem setLink_ccs (s : State) (k : Nat) (l : LinkSt) : (setLink s k l).ccs = s.ccs := rfl
@[simp] theorem setLink_credits (s : State) (k : Nat) (l : LinkSt) : (setLink s k l).credits = s.credits := rfl
@[simp] theorem setLink_groups (s : State) (k : Nat) (l : LinkSt) : (setLink s k l).groups = s.groups := rfl
@[simp] theorem setLink_admits (s : State) (k : Nat) (l : LinkSt) : (setLink s k l).admits = s.admits := rfl
@[simp] theorem setLink_adapters (s : State) (k : Nat) (l : LinkSt) : (setLink s k l).adapters = s.adapters := rfl
@[simp] theorem setLink_everLoaded (s : State) (k : Nat) (l : LinkSt) : (setLink s k l).everLoaded = s.everLoaded := rfl
@[simp] theorem setLink_graphs (s : State) (k : Nat) (l : LinkSt) : (setLink s k l).graphs = s.graphs := rfl
@[simp] theorem setLink_fwds (s : State) (k : Nat) (l : LinkSt) : (setLink s k l).fwds = s.fwds := rfl
@[simp] theorem setLink_fwdNext (s : State) (k : Nat) (l : LinkSt) : (setLink s k l).fwdNext = s.fwdNext := rfl
@[simp] theorem setLink_objs (s : State) (k : Nat) (l : LinkSt) : (setLink s k l).objs = s.objs := rfl
@[simp] theorem setLink_syncOut (s : State) (k : Nat) (l : LinkSt) : (setLink s k l).syncOut = s.syncOut := rfl
@[simp] theorem setLink_waves (s : State) (k : Nat) (l : LinkSt) : (setLink s k l).waves = s.waves := rfl
@[simp] theorem setLink_relRecs (s : State) (k : Nat) (l : LinkSt) : (setLink s k l).relRecs = s.relRecs := rfl
@[simp] theorem setLink_sf (s : State) (k : Nat) (l : LinkSt) : (setLink s k l).sf = s.sf := rfl
@[simp] theorem setLink_i3c (s : State) (k : Nat) (l : LinkSt) : (setLink s k l).i3c = s.i3c := rfl
@[simp] theorem setLink_ps (s : State) (k : Nat) (l : LinkSt) : (setLink s k l).ps = s.ps := rfl
@[simp] theorem setLink_flt (s : State) (k : Nat) (l : LinkSt) : (setLink s k l).flt = s.flt := rfl
@[simp] theorem setLink_dbg (s : State) (k : Nat) (l : LinkSt) : (setLink s k l).dbg = s.dbg := rfl
@[simp] theorem setLink_snaps (s : State) (k : Nat) (l : LinkSt) : (setLink s k l).snaps = s.snaps := rfl
@[simp] theorem setLink_hwc (s : State) (k : Nat) (l : LinkSt) : (setLink s k l).hwc = s.hwc := rfl
@[simp] theorem setLink_fwc (s : State) (k : Nat) (l : LinkSt) : (setLink s k l).fwc = s.fwc := rfl
@[simp] theorem setLink_evPend (s : State) (k : Nat) (l : LinkSt) : (setLink s k l).evPend = s.evPend := rfl
@[simp] theorem setLink_clk (s : State) (k : Nat) (l : LinkSt) : (setLink s k l).clk = s.clk := rfl
@[simp] theorem setLink_clks (s : State) (k : Nat) (l : LinkSt) : (setLink s k l).clks = s.clks := rfl
@[simp] theorem setLink_w1c (s : State) (k : Nat) (l : LinkSt) : (setLink s k l).w1c = s.w1c := rfl
@[simp] theorem setLink_busy (s : State) (k : Nat) (l : LinkSt) : (setLink s k l).busy = s.busy := rfl
@[simp] theorem setLink_fv (s : State) (k : Nat) (l : LinkSt) : (setLink s k l).fv = s.fv := rfl
@[simp] theorem setLink_pending (s : State) (k : Nat) (l : LinkSt) : (setLink s k l).pending = s.pending := rfl

/-! `mbReply` -/

@[simp] theorem mbReply_fuses (s : State) (a b : Nat) : (mbReply s a b).fuses = s.fuses := rfl
@[simp] theorem mbReply_store (s : State) (a b : Nat) : (mbReply s a b).store = s.store := rfl
@[simp] theorem mbReply_sup (s : State) (a b : Nat) : (mbReply s a b).sup = s.sup := rfl
@[simp] theorem mbReply_time (s : State) (a b : Nat) : (mbReply s a b).time = s.time := rfl
@[simp] theorem mbReply_pw (s : State) (a b : Nat) : (mbReply s a b).pw = s.pw := rfl
@[simp] theorem mbReply_life (s : State) (a b : Nat) : (mbReply s a b).life = s.life := rfl
@[simp] theorem mbReply_st (s : State) (a b : Nat) : (mbReply s a b).st = s.st := rfl
@[simp] theorem mbReply_tr (s : State) (a b : Nat) : (mbReply s a b).tr = s.tr := rfl
@[simp] theorem mbReply_ctxs (s : State) (a b : Nat) : (mbReply s a b).ctxs = s.ctxs := rfl
@[simp] theorem mbReply_pkgs (s : State) (a b : Nat) : (mbReply s a b).pkgs = s.pkgs := rfl
@[simp] theorem mbReply_qpOwner (s : State) (a b : Nat) : (mbReply s a b).qpOwner = s.qpOwner := rfl
@[simp] theorem mbReply_winOwn (s : State) (a b : Nat) : (mbReply s a b).winOwn = s.winOwn := rfl
@[simp] theorem mbReply_split (s : State) (a b : Nat) : (mbReply s a b).split = s.split := rfl
@[simp] theorem mbReply_splitOn (s : State) (a b : Nat) : (mbReply s a b).splitOn = s.splitOn := rfl
@[simp] theorem mbReply_ports (s : State) (a b : Nat) : (mbReply s a b).ports = s.ports := rfl
@[simp] theorem mbReply_qps (s : State) (a b : Nat) : (mbReply s a b).qps = s.qps := rfl
@[simp] theorem mbReply_hdm (s : State) (a b : Nat) : (mbReply s a b).hdm = s.hdm := rfl
@[simp] theorem mbReply_taken (s : State) (a b : Nat) : (mbReply s a b).taken = s.taken := rfl
@[simp] theorem mbReply_takes (s : State) (a b : Nat) : (mbReply s a b).takes = s.takes := rfl
@[simp] theorem mbReply_msix (s : State) (a b : Nat) : (mbReply s a b).msix = s.msix := rfl
@[simp] theorem mbReply_cxlResp (s : State) (a b : Nat) : (mbReply s a b).cxlResp = s.cxlResp := rfl
@[simp] theorem mbReply_waits (s : State) (a b : Nat) : (mbReply s a b).waits = s.waits := rfl
@[simp] theorem mbReply_pmem (s : State) (a b : Nat) : (mbReply s a b).pmem = s.pmem := rfl
@[simp] theorem mbReply_pmemBad (s : State) (a b : Nat) : (mbReply s a b).pmemBad = s.pmemBad := rfl
@[simp] theorem mbReply_mem (s : State) (a b : Nat) : (mbReply s a b).mem = s.mem := rfl
@[simp] theorem mbReply_movers (s : State) (a b : Nat) : (mbReply s a b).movers = s.movers := rfl
@[simp] theorem mbReply_streams (s : State) (a b : Nat) : (mbReply s a b).streams = s.streams := rfl
@[simp] theorem mbReply_tiles (s : State) (a b : Nat) : (mbReply s a b).tiles = s.tiles := rfl
@[simp] theorem mbReply_harn (s : State) (a b : Nat) : (mbReply s a b).harn = s.harn := rfl
@[simp] theorem mbReply_overs (s : State) (a b : Nat) : (mbReply s a b).overs = s.overs := rfl
@[simp] theorem mbReply_insts (s : State) (a b : Nat) : (mbReply s a b).insts = s.insts := rfl
@[simp] theorem mbReply_saves (s : State) (a b : Nat) : (mbReply s a b).saves = s.saves := rfl
@[simp] theorem mbReply_rests (s : State) (a b : Nat) : (mbReply s a b).rests = s.rests := rfl
@[simp] theorem mbReply_ccs (s : State) (a b : Nat) : (mbReply s a b).ccs = s.ccs := rfl
@[simp] theorem mbReply_credits (s : State) (a b : Nat) : (mbReply s a b).credits = s.credits := rfl
@[simp] theorem mbReply_groups (s : State) (a b : Nat) : (mbReply s a b).groups = s.groups := rfl
@[simp] theorem mbReply_admits (s : State) (a b : Nat) : (mbReply s a b).admits = s.admits := rfl
@[simp] theorem mbReply_adapters (s : State) (a b : Nat) : (mbReply s a b).adapters = s.adapters := rfl
@[simp] theorem mbReply_everLoaded (s : State) (a b : Nat) : (mbReply s a b).everLoaded = s.everLoaded := rfl
@[simp] theorem mbReply_graphs (s : State) (a b : Nat) : (mbReply s a b).graphs = s.graphs := rfl
@[simp] theorem mbReply_fwds (s : State) (a b : Nat) : (mbReply s a b).fwds = s.fwds := rfl
@[simp] theorem mbReply_fwdNext (s : State) (a b : Nat) : (mbReply s a b).fwdNext = s.fwdNext := rfl
@[simp] theorem mbReply_objs (s : State) (a b : Nat) : (mbReply s a b).objs = s.objs := rfl
@[simp] theorem mbReply_syncOut (s : State) (a b : Nat) : (mbReply s a b).syncOut = s.syncOut := rfl
@[simp] theorem mbReply_waves (s : State) (a b : Nat) : (mbReply s a b).waves = s.waves := rfl
@[simp] theorem mbReply_relRecs (s : State) (a b : Nat) : (mbReply s a b).relRecs = s.relRecs := rfl
@[simp] theorem mbReply_sf (s : State) (a b : Nat) : (mbReply s a b).sf = s.sf := rfl
@[simp] theorem mbReply_net (s : State) (a b : Nat) : (mbReply s a b).net = s.net := rfl
@[simp] theorem mbReply_i3c (s : State) (a b : Nat) : (mbReply s a b).i3c = s.i3c := rfl
@[simp] theorem mbReply_ps (s : State) (a b : Nat) : (mbReply s a b).ps = s.ps := rfl
@[simp] theorem mbReply_flt (s : State) (a b : Nat) : (mbReply s a b).flt = s.flt := rfl
@[simp] theorem mbReply_dbg (s : State) (a b : Nat) : (mbReply s a b).dbg = s.dbg := rfl
@[simp] theorem mbReply_snaps (s : State) (a b : Nat) : (mbReply s a b).snaps = s.snaps := rfl
@[simp] theorem mbReply_hwc (s : State) (a b : Nat) : (mbReply s a b).hwc = s.hwc := rfl
@[simp] theorem mbReply_fwc (s : State) (a b : Nat) : (mbReply s a b).fwc = s.fwc := rfl
@[simp] theorem mbReply_evPend (s : State) (a b : Nat) : (mbReply s a b).evPend = s.evPend := rfl
@[simp] theorem mbReply_clk (s : State) (a b : Nat) : (mbReply s a b).clk = s.clk := rfl
@[simp] theorem mbReply_clks (s : State) (a b : Nat) : (mbReply s a b).clks = s.clks := rfl
@[simp] theorem mbReply_w1c (s : State) (a b : Nat) : (mbReply s a b).w1c = s.w1c := rfl
@[simp] theorem mbReply_busy (s : State) (a b : Nat) : (mbReply s a b).busy = s.busy := rfl
@[simp] theorem mbReply_fv (s : State) (a b : Nat) : (mbReply s a b).fv = s.fv := rfl
@[simp] theorem mbReply_pending (s : State) (a b : Nat) : (mbReply s a b).pending = s.pending := rfl

/-! `holdDesc` -/

@[simp] theorem holdDesc_fuses (s : State) (d : Nat) : (holdDesc s d).fuses = s.fuses := rfl
@[simp] theorem holdDesc_store (s : State) (d : Nat) : (holdDesc s d).store = s.store := rfl
@[simp] theorem holdDesc_sup (s : State) (d : Nat) : (holdDesc s d).sup = s.sup := rfl
@[simp] theorem holdDesc_time (s : State) (d : Nat) : (holdDesc s d).time = s.time := rfl
@[simp] theorem holdDesc_pw (s : State) (d : Nat) : (holdDesc s d).pw = s.pw := rfl
@[simp] theorem holdDesc_life (s : State) (d : Nat) : (holdDesc s d).life = s.life := rfl
@[simp] theorem holdDesc_st (s : State) (d : Nat) : (holdDesc s d).st = s.st := rfl
@[simp] theorem holdDesc_tr (s : State) (d : Nat) : (holdDesc s d).tr = s.tr := rfl
@[simp] theorem holdDesc_mb (s : State) (d : Nat) : (holdDesc s d).mb = s.mb := rfl
@[simp] theorem holdDesc_ctxs (s : State) (d : Nat) : (holdDesc s d).ctxs = s.ctxs := rfl
@[simp] theorem holdDesc_pkgs (s : State) (d : Nat) : (holdDesc s d).pkgs = s.pkgs := rfl
@[simp] theorem holdDesc_qpOwner (s : State) (d : Nat) : (holdDesc s d).qpOwner = s.qpOwner := rfl
@[simp] theorem holdDesc_winOwn (s : State) (d : Nat) : (holdDesc s d).winOwn = s.winOwn := rfl
@[simp] theorem holdDesc_split (s : State) (d : Nat) : (holdDesc s d).split = s.split := rfl
@[simp] theorem holdDesc_splitOn (s : State) (d : Nat) : (holdDesc s d).splitOn = s.splitOn := rfl
@[simp] theorem holdDesc_ports (s : State) (d : Nat) : (holdDesc s d).ports = s.ports := rfl
@[simp] theorem holdDesc_qps (s : State) (d : Nat) : (holdDesc s d).qps = s.qps := rfl
@[simp] theorem holdDesc_hdm (s : State) (d : Nat) : (holdDesc s d).hdm = s.hdm := rfl
@[simp] theorem holdDesc_takes (s : State) (d : Nat) : (holdDesc s d).takes = s.takes := rfl
@[simp] theorem holdDesc_msix (s : State) (d : Nat) : (holdDesc s d).msix = s.msix := rfl
@[simp] theorem holdDesc_cxlResp (s : State) (d : Nat) : (holdDesc s d).cxlResp = s.cxlResp := rfl
@[simp] theorem holdDesc_waits (s : State) (d : Nat) : (holdDesc s d).waits = s.waits := rfl
@[simp] theorem holdDesc_pmem (s : State) (d : Nat) : (holdDesc s d).pmem = s.pmem := rfl
@[simp] theorem holdDesc_pmemBad (s : State) (d : Nat) : (holdDesc s d).pmemBad = s.pmemBad := rfl
@[simp] theorem holdDesc_mem (s : State) (d : Nat) : (holdDesc s d).mem = s.mem := rfl
@[simp] theorem holdDesc_movers (s : State) (d : Nat) : (holdDesc s d).movers = s.movers := rfl
@[simp] theorem holdDesc_streams (s : State) (d : Nat) : (holdDesc s d).streams = s.streams := rfl
@[simp] theorem holdDesc_tiles (s : State) (d : Nat) : (holdDesc s d).tiles = s.tiles := rfl
@[simp] theorem holdDesc_harn (s : State) (d : Nat) : (holdDesc s d).harn = s.harn := rfl
@[simp] theorem holdDesc_overs (s : State) (d : Nat) : (holdDesc s d).overs = s.overs := rfl
@[simp] theorem holdDesc_insts (s : State) (d : Nat) : (holdDesc s d).insts = s.insts := rfl
@[simp] theorem holdDesc_saves (s : State) (d : Nat) : (holdDesc s d).saves = s.saves := rfl
@[simp] theorem holdDesc_rests (s : State) (d : Nat) : (holdDesc s d).rests = s.rests := rfl
@[simp] theorem holdDesc_ccs (s : State) (d : Nat) : (holdDesc s d).ccs = s.ccs := rfl
@[simp] theorem holdDesc_credits (s : State) (d : Nat) : (holdDesc s d).credits = s.credits := rfl
@[simp] theorem holdDesc_groups (s : State) (d : Nat) : (holdDesc s d).groups = s.groups := rfl
@[simp] theorem holdDesc_admits (s : State) (d : Nat) : (holdDesc s d).admits = s.admits := rfl
@[simp] theorem holdDesc_adapters (s : State) (d : Nat) : (holdDesc s d).adapters = s.adapters := rfl
@[simp] theorem holdDesc_everLoaded (s : State) (d : Nat) : (holdDesc s d).everLoaded = s.everLoaded := rfl
@[simp] theorem holdDesc_graphs (s : State) (d : Nat) : (holdDesc s d).graphs = s.graphs := rfl
@[simp] theorem holdDesc_fwds (s : State) (d : Nat) : (holdDesc s d).fwds = s.fwds := rfl
@[simp] theorem holdDesc_fwdNext (s : State) (d : Nat) : (holdDesc s d).fwdNext = s.fwdNext := rfl
@[simp] theorem holdDesc_objs (s : State) (d : Nat) : (holdDesc s d).objs = s.objs := rfl
@[simp] theorem holdDesc_syncOut (s : State) (d : Nat) : (holdDesc s d).syncOut = s.syncOut := rfl
@[simp] theorem holdDesc_waves (s : State) (d : Nat) : (holdDesc s d).waves = s.waves := rfl
@[simp] theorem holdDesc_relRecs (s : State) (d : Nat) : (holdDesc s d).relRecs = s.relRecs := rfl
@[simp] theorem holdDesc_sf (s : State) (d : Nat) : (holdDesc s d).sf = s.sf := rfl
@[simp] theorem holdDesc_net (s : State) (d : Nat) : (holdDesc s d).net = s.net := rfl
@[simp] theorem holdDesc_i3c (s : State) (d : Nat) : (holdDesc s d).i3c = s.i3c := rfl
@[simp] theorem holdDesc_ps (s : State) (d : Nat) : (holdDesc s d).ps = s.ps := rfl
@[simp] theorem holdDesc_flt (s : State) (d : Nat) : (holdDesc s d).flt = s.flt := rfl
@[simp] theorem holdDesc_dbg (s : State) (d : Nat) : (holdDesc s d).dbg = s.dbg := rfl
@[simp] theorem holdDesc_snaps (s : State) (d : Nat) : (holdDesc s d).snaps = s.snaps := rfl
@[simp] theorem holdDesc_hwc (s : State) (d : Nat) : (holdDesc s d).hwc = s.hwc := rfl
@[simp] theorem holdDesc_fwc (s : State) (d : Nat) : (holdDesc s d).fwc = s.fwc := rfl
@[simp] theorem holdDesc_evPend (s : State) (d : Nat) : (holdDesc s d).evPend = s.evPend := rfl
@[simp] theorem holdDesc_clk (s : State) (d : Nat) : (holdDesc s d).clk = s.clk := rfl
@[simp] theorem holdDesc_clks (s : State) (d : Nat) : (holdDesc s d).clks = s.clks := rfl
@[simp] theorem holdDesc_w1c (s : State) (d : Nat) : (holdDesc s d).w1c = s.w1c := rfl
@[simp] theorem holdDesc_busy (s : State) (d : Nat) : (holdDesc s d).busy = s.busy := rfl
@[simp] theorem holdDesc_fv (s : State) (d : Nat) : (holdDesc s d).fv = s.fv := rfl
@[simp] theorem holdDesc_pending (s : State) (d : Nat) : (holdDesc s d).pending = s.pending := rfl

/-- A command that changes neither fuses nor the queue is not changed by `unfused`. -/
theorem unfused_eq {s t : State} (hf : t.fuses = s.fuses) (hp : t.pending = s.pending) : unfused s t = t := by
  unfold unfused; rw [← hf, ← hp]

/-- A command that leaves the queue is not changed by `queued`. -/
theorem queued_eq {s t : State} (hp : t.pending = s.pending) : queued s t = t := by
  unfold queued; rw [← hp]

/-! What events write -/

@[simp] theorem butEvents_pmWrite (s : State) (p a : Nat) (bs : Bytes) : (pmWrite s p a bs).butEvents = s.butEvents := rfl
@[simp] theorem butEvents_setPort (s : State) (p : Nat) (v : PortSt) : (setPort s p v).butEvents = s.butEvents := rfl
@[simp] theorem butEvents_fireMsix (s : State) (p v : Nat) : (fireMsix s p v).butEvents = s.butEvents := rfl
@[simp] theorem butEvents_logEvent (s : State) (k c : Nat) (d : Bytes) : (logEvent s k c d).butEvents = s.butEvents := rfl
@[simp] theorem butEvents_hwBump (s : State) (k n : Nat) : (hwBump s k n).butEvents = s.butEvents := by
  unfold hwBump; split <;> rfl

/-- An event written into a ring, or dropped, changes nothing else. -/
@[simp] theorem butEvents_eventToPort (code ctx : Nat) (d : Bytes) (s : State) (p : Nat) :
    (eventToPort code ctx d s p).butEvents = s.butEvents := by
  unfold eventToPort; dsimp only
  split
  · simp
  · split <;> simp

/-- Raising a module event writes rings, interrupts, the log and a counter, and nothing else. -/
@[simp] theorem butEvents_raiseModule (s : State) (code : Nat) (d : Bytes) : (raiseModule s code d).butEvents = s.butEvents := by
  unfold raiseModule
  rw [butEvents_logEvent]
  exact foldl_keeps State.butEvents _ (fun s p => butEvents_eventToPort code _ d s p) _ s

/-- Raising an event of a context writes rings, interrupts, the log and a counter, and nothing else. -/
@[simp] theorem butEvents_raiseCtx (s : State) (code c : Nat) (d : Bytes) : (raiseCtx s code c d).butEvents = s.butEvents := by
  unfold raiseCtx
  rw [butEvents_logEvent]
  exact foldl_keeps State.butEvents _ (fun s p => butEvents_eventToPort code _ d s p) _ s

/-- Two states that agree but for events agree in every other field: the fields that the claims speak of. -/
theorem butEvents_fields {s t : State} (h : t.butEvents = s.butEvents) :
    t.fuses = s.fuses ∧ t.store = s.store ∧ t.sup = s.sup ∧ t.time = s.time ∧ t.pw = s.pw ∧ t.life = s.life ∧ t.mem = s.mem ∧
      t.tiles = s.tiles ∧ t.qps = s.qps ∧ t.taken = s.taken ∧ t.net = s.net ∧ t.fwc = s.fwc ∧ t.mb = s.mb ∧ t.tr = s.tr :=
  ⟨(congrArg State.fuses h :), (congrArg State.store h :), (congrArg State.sup h :), (congrArg State.time h :), (congrArg State.pw h :),
    (congrArg State.life h :), (congrArg State.mem h :), (congrArg State.tiles h :), (congrArg State.qps h :), (congrArg State.taken h :),
    (congrArg State.net h :), (congrArg State.fwc h :), (congrArg State.mb h :), (congrArg State.tr h :)⟩

/-! What sending writes -/

@[simp] theorem butNet_setLink (s : State) (k : Nat) (l : LinkSt) : (setLink s k l).butNet = s.butNet := rfl
@[simp] theorem butNet_hwBump (s : State) (k n : Nat) : (hwBump s k n).butNet = s.butNet := by unfold hwBump; split <;> rfl

@[simp] theorem butNet_launch (s : State) (k vck : Nat) (p : Packet) : (launch s k vck p).butNet = s.butNet := by
  unfold launch; simp

theorem butNet_trySend {s t : State} {p : Packet} {face : Option Nat} (h : trySend s p face = some t) :
    t.butNet = s.butNet := by
  unfold trySend at h
  split at h
  · cases h
  · simp only [Option.map_eq_some_iff] at h
    obtain ⟨kv, _, rfl⟩ := h
    simp

@[simp] theorem butNet_countWait (s : State) (p : Packet) : (countWait s p).1.butNet = s.butNet := by
  unfold countWait; split <;> simp

@[simp] theorem butNet_flushFrom (s : State) (ps : List Packet) : (flushFrom s ps).butNet = s.butNet := by
  induction ps generalizing s with
  | nil => rfl
  | cons p ps ih =>
    unfold flushFrom
    split
    · next t ht => have h := butNet_trySend ht; rw [ih]; exact h
    · dsimp only; rw [ih]; exact butNet_countWait s p

@[simp] theorem butNet_flushOut (s : State) : (flushOut s).butNet = s.butNet := by unfold flushOut; rw [butNet_flushFrom]; rfl

@[simp] theorem butNet_sendPacket (s : State) (p : Packet) : (sendPacket s p).butNet = s.butNet := by
  unfold sendPacket; rw [butNet_flushOut]; rfl

/-- A message queued and sent changes the network's state and its counters only. -/
@[simp] theorem butNet_newMsgP (s : State) (ty dst ctx : Nat) (why : MsgWhy) (g b : Bytes) (bad : List Nat) :
    (newMsgP s ty dst ctx why g b bad).butNet = s.butNet := by
  unfold newMsgP; rw [butNet_flushOut]; rfl

@[simp] theorem butNet_newMsg (s : State) (ty dst ctx : Nat) (why : MsgWhy) (g b : Bytes) :
    (newMsg s ty dst ctx why g b).butNet = s.butNet := butNet_newMsgP s _ _ _ _ _ _ _

@[simp] theorem butNet_sendReply (s : State) (ty dst ctx msg pkt : Nat) (g b : Bytes) (w : List Nat) :
    (sendReply s ty dst ctx msg pkt g b w).butNet = s.butNet := butNet_sendPacket s _

@[simp] theorem butNet_sendCtrl (s : State) (dst ctx : Nat) (why : MsgWhy) (b : Bytes) :
    (sendCtrl s dst ctx why b).butNet = s.butNet := butNet_newMsg s _ _ _ _ _ _

@[simp] theorem butNet_broadcast (s : State) (b : Bytes) : (broadcast s b).butNet = s.butNet :=
  foldl_keeps State.butNet _ (fun s _ => butNet_sendCtrl s _ _ _ _) _ s

/-! What completions and token records write -/

@[simp] theorem butRings_pmWrite (s : State) (p a : Nat) (bs : Bytes) : (pmWrite s p a bs).butRings = s.butRings := rfl
@[simp] theorem butRings_setQp (s : State) (p q : Nat) (v : QpSt) : (setQp s p q v).butRings = s.butRings := rfl
@[simp] theorem butRings_fireMsix (s : State) (p v : Nat) : (fireMsix s p v).butRings = s.butRings := rfl
@[simp] theorem butRings_hwBump (s : State) (k n : Nat) : (hwBump s k n).butRings = s.butRings := by
  unfold hwBump; split <;> rfl

@[simp] theorem butRings_signalCq (s : State) (p q : Nat) : (signalCq s p q).butRings = s.butRings := by
  unfold signalCq; dsimp only; split <;> simp

@[simp] theorem butRings_signalTq (s : State) (p q : Nat) : (signalTq s p q).butRings = s.butRings := by
  unfold signalTq; dsimp only; split <;> simp

/-- A completion record changes its ring, partner memory, interrupts and a counter only. -/
@[simp] theorem butRings_writeCompletion (s : State) (t : Taken) (a b c : Nat) :
    (writeCompletion s t a b c).butRings = s.butRings := by
  unfold writeCompletion; simp

@[simp] theorem butRings_putToken (s : State) (p q : Nat) (r : TokRec) : (putToken s p q r).butRings = s.butRings := by
  unfold putToken; simp

@[simp] theorem butRings_sendToken (s : State) (p q : Nat) (r : TokRec) : (sendToken s p q r).butRings = s.butRings := by
  unfold sendToken; dsimp only; split <;> simp

@[simp] theorem butRings_drainHeld (s : State) (p q n : Nat) : (drainHeld s p q n).butRings = s.butRings := by
  induction n generalizing s with
  | zero => rfl
  | succ n ih =>
    unfold drainHeld; dsimp only
    split
    · rfl
    · split
      · rfl
      · rw [ih]; simp

/-- Completing a descriptor changes the descriptors taken, its queue pair's rings or, for one that another module took, the
network, and nothing else. -/
@[simp] theorem butDesc_complete (s : State) (d a b c : Nat) : (complete s d a b c).butDesc = s.butDesc := by
  unfold complete
  split
  · rfl
  · dsimp only
    split
    · exact (congrArg State.butDesc (butNet_sendCtrl { s with taken := merase s.taken d } _ _ _ _) :)
    · split
      · exact (congrArg State.butDesc (butRings_writeCompletion { s with taken := merase s.taken d } _ _ _ _) :)
      · rfl

@[simp] theorem butDesc_finish (s : State) (d a : Nat) : (finish s d a).butDesc = s.butDesc := butDesc_complete s d a 0 0

@[simp] theorem butDesc_rejectReserved (s : State) : (rejectReserved s).butDesc = s.butDesc := by
  unfold rejectReserved
  refine foldl_keeps State.butDesc _ (fun s e => ?_) _ s
  split <;> simp

/-! What a tile writes -/

@[simp] theorem butTiles_hwBump (s : State) (k n : Nat) : (hwBump s k n).butTiles = s.butTiles := by
  unfold hwBump; split <;> rfl

/-- Setting a tile changes the tiles, and counters where the tile had none. -/
@[simp] theorem butTiles_setTile (s : State) (t : Nat) (x : TileSt) : (setTile s t x).butTiles = s.butTiles := by
  have key (u : State) (m : AMap TileSt) : State.butTiles { u with tiles := m } = u.butTiles := rfl
  unfold setTile; dsimp only; rw [key]
  split
  · rfl
  · refine (foldl_keeps State.butTiles _ ?_ _ _).trans (foldl_keeps State.butTiles _ ?_ _ _) <;> intro s l <;>
      exact butTiles_hwBump s _ _

/-- A tile that the state lists is replaced, and nothing else changes. -/
theorem setTile_has {s : State} {t : Nat} (x : TileSt) (h : mhas s.tiles t = true) :
    setTile s t x = { s with tiles := mset s.tiles t x } := by
  unfold setTile; simp [h]

@[simp] theorem butTiles_setCore (s : State) (t : Nat) (c : TileCore) : (setCore s t c).butTiles = s.butTiles :=
  butTiles_setTile s t _

@[simp] theorem butTiles_setLane (s : State) (t l : Nat) (f : LaneSt → LaneSt) : (setLane s t l f).butTiles = s.butTiles :=
  butTiles_setTile s t _

@[simp] theorem butTiles_setFlag (s : State) (t f : Nat) (b : Bool) : (setFlag s t f b).butTiles = s.butTiles :=
  butTiles_setCore s t _

@[simp] theorem butTiles_orStep (s : State) (t f : Nat) : (orStep s t f).butTiles = s.butTiles := by
  unfold orStep; split
  · rfl
  · exact butTiles_setCore s t _

@[simp] theorem butTiles_advanceLane (s : State) (t l : Nat) (w : InstrWord) : (advanceLane s t l w).butTiles = s.butTiles :=
  butTiles_setTile s t _

end Sys2Proof.Machine
end

