-- ==== Sys2Proof/Laws/Counters.lean ====
section
/-!
SUPPORT. Laws of counters: what counting does to a hardware counter's 40 bits and its epoch.
-/
namespace Sys2Proof.Machine

theorem add_count (c : HwCtr) (n : Nat) : (c.add n).count = (c.count + n) % 2 ^ 40 := rfl

theorem add_epoch (c : HwCtr) (n : Nat) : (c.add n).epoch = (c.epoch + (c.count + n) / 2 ^ 40) % 256 := rfl

theorem foldl_add (ns : List Nat) (c : HwCtr) : ∃ h w, ns.foldl HwCtr.add c =
    { c with count := if ns = [] then c.count else (c.count + ns.sum) % 2 ^ 40, epoch := if ns = [] then c.epoch else (c.epoch + (c.count + ns.sum) / 2 ^ 40) % 256, half := h, wrapped := w } := by
  induction ns generalizing c with
  | nil => exact ⟨c.half, c.wrapped, rfl⟩
  | cons n ns ih =>
    obtain ⟨h, w, e⟩ := ih (c.add n)
    refine ⟨h, w, ?_⟩
    rw [List.foldl_cons, e, add_count, add_epoch]
    simp only [List.sum_cons, reduceCtorEq, if_false]
    by_cases hn : ns = []
    · subst hn; simp [HwCtr.add]
    · simp only [hn, if_false, HwCtr.add]
      congr 1
      · omega
      · omega

theorem arith1 (x k : Nat) (h : k < 2 ^ 40) : x % 2 ^ 24 * 2 ^ 40 + k = (x * 2 ^ 40 + k) % 2 ^ 64 := by omega

theorem arith2 (x e k : Nat) (h : k < 2 ^ 40) :
    ((x % 2 ^ 24 + (e + 256 - e) % 256) % 2 ^ 24) * 2 ^ 40 + k = ((x % 2 ^ 24) * 2 ^ 40 + k) % 2 ^ 64 := by omega

theorem arith5 (x e k : Nat) (h : k < 2 ^ 40) :
    ((((x % 2 ^ 24 + (e + 256 - e) % 256) % 2 ^ 24) + (e + 256 - e) % 256) % 2 ^ 24) * 2 ^ 40 + k = ((x % 2 ^ 24) * 2 ^ 40 + k) % 2 ^ 64 := by omega

theorem arith3 (x e k n : Nat) (h : k < 2 ^ 40) (h2 : e < 256) (h3 : True) (hn : (k + n) / 2 ^ 40 < 256) :
    ((x % 2 ^ 24 + ((e + (k + n) / 2 ^ 40) % 256 + 256 - e) % 256) % 2 ^ 24) * 2 ^ 40 + (k + n) % 2 ^ 40 =
      ((x % 2 ^ 24) * 2 ^ 40 + k + n) % 2 ^ 64 := by omega

theorem arith4 (x e k n : Nat) (h : k < 2 ^ 40) (h2 : e < 256) (h3 : True) (hn : (k + n) / 2 ^ 40 < 256) :
    (((x % 2 ^ 24 + ((e + (k + n) / 2 ^ 40) % 256 + 256 - e) % 256) % 2 ^ 24 +
      ((e + (k + n) / 2 ^ 40) % 256 + 256 - (e + (k + n) / 2 ^ 40) % 256) % 256) % 2 ^ 24) * 2 ^ 40 + (k + n) % 2 ^ 40 =
      ((x % 2 ^ 24) * 2 ^ 40 + k + n) % 2 ^ 64 := by omega

end Sys2Proof.Machine
end

