-- ==== Sys2Proof/Laws/Desc.lean ====
section
/-!
SUPPORT. What the shared operations over descriptors do.
-/
namespace Sys2Proof.Machine

/-- A descriptor that starts runs its row's effect. -/
theorem withDesc_starts {s : State} {d : Nat} {t : Taken} {isRow : Taken → Bool} {named : List (Nat × Nat)} {act : Taken → State}
    (h : s.starts d t named) (hr : isRow t = true) : withDesc s d isRow named act = act t := by
  obtain ⟨h1, h2, h3, h4⟩ := h
  simp [withDesc, h1, h2, h3, h4, hr]

/-- A descriptor that fails a check of its head completes with that check's status. -/
theorem withDesc_fails {s : State} {d : Nat} {t : Taken} {isRow : Taken → Bool} {named : List (Nat × Nat)} {act : Taken → State}
    (h1 : mget s.taken d = some t) (h2 : mayStart s d t = true) (h3 : coresRun s = true) (h4 : headStatus s t named ≠ stOk)
    (hr : isRow t = true) : withDesc s d isRow named act = finish s d (headStatus s t named) := by
  simp [withDesc, h1, h2, h3, h4, hr]

/-- Nothing happens at a row that is not of the descriptor, before the descriptor may start, or while no core runs. -/
theorem withDesc_waits {s : State} {d : Nat} {t : Taken} {isRow : Taken → Bool} {named : List (Nat × Nat)} {act : Taken → State}
    (h1 : mget s.taken d = some t) (h : isRow t = false ∨ mayStart s d t = false ∨ coresRun s = false) :
    withDesc s d isRow named act = s := by
  rcases h with h | h | h <;> simp [withDesc, h1, h]

end Sys2Proof.Machine
end

