-- ==== Sys2Proof/Laws/Memory.lean ====
section
/-!
SUPPORT. Laws of the memories: every operation keeps the canonical form, and what a memory reads as after a write.
-/
namespace Sys2Proof.Machine

/-- The canonical form, said at once for the whole list. -/
theorem memWf_iff (m : Mem) : memWf m = true ↔ m.Pairwise (fun c d => c.1 < d.1) ∧ ∀ c ∈ m, c.2 ≠ emptyByte := by
  induction m with
  | nil => simp [memWf]
  | cons c m ih =>
    cases m with
    | nil => simp [memWf]
    | cons d m =>
      simp only [memWf, Bool.and_eq_true, bne_iff_ne, decide_eq_true_eq, ih, List.pairwise_cons, List.forall_mem_cons]
      constructor
      · rintro ⟨⟨h1, h2⟩, ⟨h3, h4⟩, h5, h6⟩
        exact ⟨⟨⟨h2, fun x hx => Nat.lt_trans h2 (h3 x hx)⟩, h3, h4⟩, h1, h5, h6⟩
      · rintro ⟨⟨⟨h2, _⟩, h3, h4⟩, h1, h5, h6⟩
        exact ⟨⟨h1, h2⟩, ⟨h3, h4⟩, h5, h6⟩

theorem memWf_filter {m : Mem} (p : Host.Cell → Bool) (h : memWf m = true) : memWf (m.filter p) = true := by
  rw [memWf_iff] at h ⊢
  exact ⟨h.1.filter p, fun c hc => h.2 c (List.mem_filter.1 hc).1⟩

theorem mem_mset {V : Type} (m : AMap V) (k : Nat) (v : V) (e : Nat × V) (h : e ∈ mset m k v) : e = (k, v) ∨ e ∈ m := by
  induction m with
  | nil => simpa [mset] using h
  | cons a m ih =>
    obtain ⟨i, w⟩ := a
    simp only [mset] at h
    split at h
    · simpa using h
    · split at h
      · rcases List.mem_cons.1 h with h | h <;> simp [h]
      · rcases List.mem_cons.1 h with h | h
        · simp [h]
        · rcases ih h with h | h <;> simp [h]

theorem mset_rising {V : Type} (m : AMap V) (k : Nat) (v : V) (h : m.Pairwise fun c d => c.1 < d.1) :
    (mset m k v).Pairwise fun c d => c.1 < d.1 := by
  induction m with
  | nil => simp [mset]
  | cons a m ih =>
    obtain ⟨i, w⟩ := a
    obtain ⟨h1, h2⟩ := List.pairwise_cons.1 h
    simp only [mset]
    split
    · next hk =>
      refine List.pairwise_cons.2 ⟨fun c hc => ?_, h⟩
      rcases List.mem_cons.1 hc with hc | hc
      · simpa [hc] using hk
      · exact Nat.lt_trans hk (h1 c hc)
    · split
      · next hk => subst hk; exact List.pairwise_cons.2 ⟨h1, h2⟩
      · next hk hne =>
        refine List.pairwise_cons.2 ⟨fun c hc => ?_, ih h2⟩
        rcases mem_mset m k v c hc with hc | hc
        · subst hc; simp only; omega
        · exact h1 c hc

/-- A write of one byte keeps the canonical form. -/
theorem memWf_writeByte {m : Mem} (a : Nat) (b : Byte) (h : memWf m = true) : memWf (writeByte m a b) = true := by
  unfold writeByte
  split
  · exact memWf_filter _ h
  · next hb =>
    rw [memWf_iff] at h ⊢
    refine ⟨mset_rising m a b h.1, fun c hc => ?_⟩
    rcases mem_mset m a b c hc with hc | hc
    · subst hc; exact hb
    · exact h.2 c hc

theorem memWf_writeBytes {m : Mem} (a : Nat) (bs : Bytes) (h : memWf m = true) : memWf (writeBytes m a bs) = true := by
  induction bs generalizing m a with
  | nil => exact h
  | cons b bs ih => exact ih (a + 1) (memWf_writeByte a b h)

theorem memWf_zeroBytes {m : Mem} (a n : Nat) (h : memWf m = true) : memWf (zeroBytes m a n) = true := memWf_filter _ h

theorem memWf_writeCells {m : Mem} (cs : List Host.Cell) (h : memWf m = true) : memWf (writeCells m cs) = true := by
  induction cs generalizing m with
  | nil => exact h
  | cons c cs ih => exact ih (memWf_writeByte c.1 c.2 h)

/-- Memory at reset is in canonical form. -/
theorem reset_memory_wf : State.reset.mem.wf = true ∧ State.reset.partnersWf = true := by decide

/-- What a byte reads as after one byte has been written. -/
theorem readByte_writeByte (m : Mem) (a x : Nat) (b : Byte) :
    readByte (writeByte m a b) x = if a = x then b else readByte m x := by
  unfold readByte writeByte
  split
  · next hb =>
    by_cases hx : a = x
    · simp [mgetD, hx, hb]
    · simp [mgetD, mget_merase, hx]
  · simp [mgetD_mset]

/-- A write of bytes leaves every byte outside them as it was. -/
theorem readByte_writeBytes_outside (m : Mem) (a x : Nat) (bs : Bytes) (h : x < a ∨ a + bs.length ≤ x) :
    readByte (writeBytes m a bs) x = readByte m x := by
  induction bs generalizing m a with
  | nil => rfl
  | cons b bs ih =>
    simp only [List.length_cons] at h
    rw [writeBytes, ih (writeByte m a b) (a + 1) (by omega), readByte_writeByte]
    simp; omega

/-- A byte that a write covers reads as the byte written. -/
theorem readByte_writeBytes_inside (m : Mem) (a i : Nat) (bs : Bytes) (h : i < bs.length) :
    readByte (writeBytes m a bs) (a + i) = bs.getD i emptyByte := by
  induction bs generalizing m a i with
  | nil => simp at h
  | cons b bs ih =>
    cases i with
    | zero =>
      rw [writeBytes, readByte_writeBytes_outside _ _ _ _ (by omega), readByte_writeByte]
      simp
    | succ i =>
      simp only [List.length_cons] at h
      rw [writeBytes, show a + (i + 1) = (a + 1) + i by omega, ih (writeByte m a b) (a + 1) i (by omega)]
      simp

/-- A filled range reads as zeros, and nothing else changes. -/
theorem readByte_zeroBytes (m : Mem) (a n x : Nat) :
    readByte (zeroBytes m a n) x = if a ≤ x ∧ x < a + n then emptyByte else readByte m x := by
  unfold readByte zeroBytes mgetD
  induction m with
  | nil => simp
  | cons c m ih =>
    obtain ⟨i, w⟩ := c
    by_cases hi : a ≤ i ∧ i < a + n
    · have : (List.filter (fun c : Host.Cell => !(decide (a ≤ c.1) && decide (c.1 < a + n))) ((i, w) :: m)) =
          List.filter (fun c : Host.Cell => !(decide (a ≤ c.1) && decide (c.1 < a + n))) m := by
        rw [List.filter_cons]; simp [hi]
      rw [this, ih]
      by_cases hx : i = x
      · subst hx; simp [hi]
      · simp [mget, hx]
    · have : (List.filter (fun c : Host.Cell => !(decide (a ≤ c.1) && decide (c.1 < a + n))) ((i, w) :: m)) =
          (i, w) :: List.filter (fun c : Host.Cell => !(decide (a ≤ c.1) && decide (c.1 < a + n))) m := by
        rw [List.filter_cons]; simp [hi]
      rw [this]
      by_cases hx : i = x
      · subst hx; simp [mget, hi]
      · simpa [mget, hx] using ih

end Sys2Proof.Machine
end

