-- ==== Sys2Proof/Laws/Protect.lean ====
section
/-!
SUPPORT. Laws of stored data: what reads, writes and rebuilds leave as it was.
-/
namespace Sys2Proof.Machine

theorem butMemory_of_butEvents {s t : State} (h : t.butEvents = s.butEvents) : t.butMemory = s.butMemory :=
  (congrArg (fun u : State => { u with mem := .reset, w1c := [] }) h :)

@[simp] theorem butMemory_hwBump (s : State) (k n : Nat) : (hwBump s k n).butMemory = s.butMemory :=
  butMemory_of_butEvents (butEvents_hwBump s k n)

@[simp] theorem butMemory_raiseModule (s : State) (c : Nat) (d : Bytes) : (raiseModule s c d).butMemory = s.butMemory :=
  butMemory_of_butEvents (butEvents_raiseModule s c d)

@[simp] theorem butMemory_setTierMem (s : State) (t : Nat) (m : Mem) : (setTierMem s t m).butMemory = s.butMemory := by
  unfold setTierMem; split
  · rfl
  · split <;> rfl

@[simp] theorem butMemory_setTierPoison (s : State) (t : Nat) (w : List Nat) : (setTierPoison s t w).butMemory = s.butMemory := by
  unfold setTierPoison; split
  · rfl
  · split <;> rfl

@[simp] theorem butMemory_setTierBad (s : State) (t : Nat) (b : AMap BadWord) : (setTierBad s t b).butMemory = s.butMemory := by
  unfold setTierBad; split
  · rfl
  · split <;> rfl

@[simp] theorem butMemory_dropBad (s : State) (t lo hi : Nat) : (dropBad s t lo hi).butMemory = s.butMemory := by
  unfold dropBad; dsimp only; split
  · rfl
  · split <;> rfl

@[simp] theorem butMemory_clearPoison (s : State) (t o n : Nat) : (clearPoison s t o n).butMemory = s.butMemory := by
  unfold clearPoison; simp

@[simp] theorem butMemory_poisonRange (s : State) (t o n : Nat) : (poisonRange s t o n).butMemory = s.butMemory := by
  unfold poisonRange; split <;> simp

@[simp] theorem butMemory_writeTier (s : State) (t o : Nat) (b : Bytes) : (writeTier s t o b).butMemory = s.butMemory := by
  unfold writeTier; simp

@[simp] theorem butMemory_zeroTier (s : State) (t o n : Nat) : (zeroTier s t o n).butMemory = s.butMemory := by
  unfold zeroTier; simp

@[simp] theorem butMemory_objZero (s : State) (e : DirEntry) : (objZero s e).butMemory = s.butMemory :=
  foldl_keeps State.butMemory _ (fun s _ => butMemory_zeroTier s _ _ _) _ s

@[simp] theorem butMemory_noteW1c (s : State) (k : Nat) (b : Bool) : (noteW1c s k b).butMemory = s.butMemory := by
  unfold noteW1c; split <;> rfl

@[simp] theorem butMemory_poisonRecord (s : State) (t w c n : Nat) : (poisonRecord s t w c n).butMemory = s.butMemory := by
  unfold poisonRecord; split
  · exact butMemory_noteW1c _ _ _
  · rfl

@[simp] theorem butMemory_poisonWords (s : State) (t : Nat) (ws : List Nat) : (poisonWords s t ws).butMemory = s.butMemory := by
  unfold poisonWords; simp

@[simp] theorem butMemory_setBucket (s : State) (t u : Nat) (b : Bucket) : (setBucket s t u b).butMemory = s.butMemory := by
  unfold setBucket; split <;> rfl

@[simp] theorem butMemory_addBucket (s : State) (t w n : Nat) : (addBucket s t w n).butMemory = s.butMemory := by
  unfold addBucket; dsimp only
  repeat' split
  all_goals simp

@[simp] theorem butMemory_bucketCorrection (s : State) (t w : Nat) : (bucketCorrection s t w).butMemory = s.butMemory := by
  unfold bucketCorrection; split <;> simp

@[simp] theorem butMemory_correctWord (s : State) (t w : Nat) : (correctWord s t w).butMemory = s.butMemory := by
  unfold correctWord; dsimp only; split <;> simp

@[simp] theorem butMemory_setCheckBad (s : State) (t : Nat) (b : AMap BadWord) : (setCheckBad s t b).butMemory = s.butMemory := by
  unfold setCheckBad; split <;> rfl

@[simp] theorem butMemory_unskew (s : State) (t p : Nat) : (unskew s t p).butMemory = s.butMemory := by unfold unskew; split <;> rfl

@[simp] theorem butMemory_correctCheck (s : State) (t p i : Nat) : (correctCheck s t p i).butMemory = s.butMemory := by
  unfold correctCheck; simp

@[simp] theorem butMemory_checkPage (s : State) (t p : Nat) : (checkPage s t p).butMemory = s.butMemory := by
  unfold checkPage; dsimp only; split <;> simp

/-- A rebuild of a page changes memory and its protection, counters and events, and nothing else. -/
@[simp] theorem butMemory_rebuildPage (s : State) (t : Nat) (ws : List Nat) (c : Nat) : (rebuildPage s t ws c).butMemory = s.butMemory := by
  unfold rebuildPage; split
  · rfl
  · dsimp only; split
    · rw [butMemory_poisonRecord, foldl_keeps State.butMemory _ (fun s i => butMemory_correctCheck s _ _ i),
        foldl_keeps State.butMemory _ (fun s w => butMemory_correctWord s t w)]
      simp
    · split <;> simp

@[simp] theorem butMemory_endRebuild (s : State) (r : Rebuild) : (endRebuild s r).butMemory = s.butMemory := by
  unfold endRebuild; rw [butMemory_rebuildPage]; rfl

@[simp] theorem butMemory_readWords (s : State) (t lo hi c : Nat) : (readWords s t lo hi c).butMemory = s.butMemory := by
  unfold readWords; dsimp only
  rw [foldl_keeps State.butMemory _ (fun s w => butMemory_correctWord s t w)]
  split
  · exact foldl_keeps State.butMemory _ (fun s w => by simp) _ s
  · exact foldl_keeps State.butMemory _ (fun s w => butMemory_rebuildPage s _ _ _) _ s

/-- A read by a requester changes what protects memory, counters and events, and nothing else. -/
@[simp] theorem butMemory_demand (s : State) (t o n c : Nat) : (demand s t o n c).butMemory = s.butMemory := by
  unfold demand; split
  · rfl
  · rw [butMemory_readWords, foldl_keeps State.butMemory _ (fun s r => butMemory_endRebuild s r)]

@[simp] theorem butMemory_readBack (s : State) (t o n : Nat) : (readBack s t o n).butMemory = s.butMemory := by
  unfold readBack; dsimp only
  rw [foldl_keeps State.butMemory _ (fun s p => butMemory_unskew s t p), foldl_keeps State.butMemory _ (fun s w => butMemory_readWords s t w w 3),
    foldl_keeps State.butMemory _ (fun s r => butMemory_endRebuild s r)]

@[simp] theorem butMemory_objDemand (s : State) (e : DirEntry) (o n : Nat) : (objDemand s e o n).butMemory = s.butMemory :=
  foldl_keeps State.butMemory _ (fun s _ => butMemory_demand s _ _ _ _) _ s

@[simp] theorem butMemory_demandHome (s : State) (e : DirEntry) : (demandHome s e).butMemory = s.butMemory :=
  foldl_keeps State.butMemory _ (fun s _ => butMemory_demand s _ _ _ _) _ s

@[simp] theorem butMemory_carryPoison (s : State) (t o : Nat) (js : List Nat) : (carryPoison s t o js).butMemory = s.butMemory :=
  foldl_keeps State.butMemory _ (fun s _ => butMemory_poisonRange s _ _ _) _ s

/-- A requester's write changes memory and its protection, counters and events, and nothing else. -/
@[simp] theorem butMemory_storeTier (s : State) (t o : Nat) (b : Bytes) : (storeTier s t o b).butMemory = s.butMemory := by
  unfold storeTier; rw [butMemory_writeTier]; split <;> simp

@[simp] theorem butMemory_objWrite (s : State) (e : DirEntry) (o : Nat) (b : Bytes) : (objWrite s e o b).butMemory = s.butMemory :=
  foldl_keeps State.butMemory _ (fun s _ => butMemory_storeTier s _ _ _) _ s

@[simp] theorem butMemory_objLand (s : State) (e : DirEntry) (o : Nat) (b : Bytes) (js : List Nat) :
    (objLand s e o b js).butMemory = s.butMemory := by
  unfold objLand; rw [foldl_keeps State.butMemory _ (fun s _ => butMemory_poisonRange s _ _ _), butMemory_objWrite]

@[simp] theorem butMemory_copyTier (s : State) (a b : Nat × Nat) (n : Nat) : (copyTier s a b n).butMemory = s.butMemory := by
  unfold copyTier; simp

/-! ### The canonical form of the memories -/

theorem wf_setTierMem {s : State} (t : Nat) {m : Mem} (h : s.mem.wf = true) (hm : memWf m = true) :
    (setTierMem s t m).mem.wf = true := by
  simp only [Memory.wf, Bool.and_eq_true] at h ⊢
  unfold setTierMem
  split
  · exact ⟨⟨hm, h.1.2⟩, h.2⟩
  · split
    · exact ⟨⟨h.1.1, hm⟩, h.2⟩
    · exact ⟨h.1, hm⟩

theorem tierMem_wf {s : State} (t : Nat) (h : s.mem.wf = true) : memWf (tierMem s t) = true := by
  simp only [Memory.wf, Bool.and_eq_true] at h
  unfold tierMem
  split
  · exact h.1.1
  · split
    · exact h.1.2
    · exact h.2

theorem clearPoison_wf {s : State} (t o n : Nat) (h : s.mem.wf = true) : (clearPoison s t o n).mem.wf = true := by
  simp only [clearPoison, dropBad, setTierPoison, Memory.wf] at h ⊢
  repeat' split
  all_goals exact h

/-- A write into a tier keeps the canonical form. -/
theorem writeTier_wf {s : State} (t o : Nat) (b : Bytes) (h : s.mem.wf = true) : (writeTier s t o b).mem.wf = true :=
  clearPoison_wf t o _ (wf_setTierMem t h (memWf_writeBytes o b (tierMem_wf t h)))

/-- Filling a run of a tier with zeros keeps the canonical form. -/
theorem zeroTier_wf {s : State} (t o n : Nat) (h : s.mem.wf = true) : (zeroTier s t o n).mem.wf = true :=
  clearPoison_wf t o n (wf_setTierMem t h (memWf_zeroBytes o n (tierMem_wf t h)))

theorem foldl_wf {α : Type} {f : State → α → State} (h : ∀ s x, s.mem.wf = true → (f s x).mem.wf = true) (l : List α) {s : State}
    (hs : s.mem.wf = true) : (l.foldl f s).mem.wf = true := by
  induction l generalizing s with
  | nil => exact hs
  | cons x l ih => exact ih (h s x hs)

theorem objZero_wf {s : State} (e : DirEntry) (h : s.mem.wf = true) : (objZero s e).mem.wf = true :=
  foldl_wf (fun _ _ h => zeroTier_wf _ _ _ h) _ h

/-- Filling a home with an object's bytes keeps the canonical form. -/
theorem objFill_wf {s : State} (e : DirEntry) (cs : List Host.Cell) (bad : List Nat) (h : s.mem.wf = true) :
    (objFill s e cs bad).mem.wf = true := by
  have h1 := wf_setTierMem e.tier (objZero_wf e h) (memWf_writeCells (cs.map fun c => (homeAt e c.1, c.2))
    (tierMem_wf e.tier (objZero_wf e h)))
  simp only [objFill, setTierPoison, Memory.wf] at h1 ⊢
  repeat' split
  all_goals exact h1

/-- Two memories with the same bytes are both in canonical form, or neither is. -/
theorem wf_of_bytes {a b : Memory} (h : a.t1 = b.t1 ∧ a.t2 = b.t2 ∧ a.t3 = b.t3) (hb : b.wf = true) : a.wf = true := by
  obtain ⟨h1, h2, h3⟩ := h
  simpa [Memory.wf, h1, h2, h3] using hb

theorem bytes_of_butEvents {s t : State} (h : t.butEvents = s.butEvents) : t.bytes = s.bytes := (congrArg State.bytes h :)

@[simp] theorem bytes_hwBump (s : State) (k n : Nat) : (hwBump s k n).bytes = s.bytes := bytes_of_butEvents (by simp)
@[simp] theorem bytes_raiseModule (s : State) (c : Nat) (d : Bytes) : (raiseModule s c d).bytes = s.bytes :=
  bytes_of_butEvents (by simp)

@[simp] theorem bytes_noteW1c (s : State) (k : Nat) (b : Bool) : (noteW1c s k b).bytes = s.bytes := by
  unfold noteW1c; split <;> rfl

@[simp] theorem bytes_poisonRecord (s : State) (t w c n : Nat) : (poisonRecord s t w c n).bytes = s.bytes := by
  unfold poisonRecord; split
  · exact bytes_noteW1c _ _ _
  · rfl

@[simp] theorem bytes_setTierBad (s : State) (t : Nat) (b : AMap BadWord) : (setTierBad s t b).bytes = s.bytes := by
  unfold setTierBad; split
  · rfl
  · split <;> rfl

@[simp] theorem bytes_setTierPoison (s : State) (t : Nat) (w : List Nat) : (setTierPoison s t w).bytes = s.bytes := by
  unfold setTierPoison; split
  · rfl
  · split <;> rfl

@[simp] theorem bytes_poisonRange (s : State) (t o n : Nat) : (poisonRange s t o n).bytes = s.bytes := by
  unfold poisonRange; split <;> simp

@[simp] theorem bytes_poisonWords (s : State) (t : Nat) (ws : List Nat) : (poisonWords s t ws).bytes = s.bytes := by
  unfold poisonWords; simp

@[simp] theorem bytes_setBucket (s : State) (t u : Nat) (b : Bucket) : (setBucket s t u b).bytes = s.bytes := by
  unfold setBucket; split <;> rfl

@[simp] theorem bytes_addBucket (s : State) (t w n : Nat) : (addBucket s t w n).bytes = s.bytes := by
  unfold addBucket; dsimp only
  repeat' split
  all_goals simp

@[simp] theorem bytes_bucketCorrection (s : State) (t w : Nat) : (bucketCorrection s t w).bytes = s.bytes := by
  unfold bucketCorrection; split <;> simp

@[simp] theorem bytes_correctWord (s : State) (t w : Nat) : (correctWord s t w).bytes = s.bytes := by
  unfold correctWord; dsimp only; split <;> simp

@[simp] theorem bytes_setCheckBad (s : State) (t : Nat) (b : AMap BadWord) : (setCheckBad s t b).bytes = s.bytes := by
  unfold setCheckBad; split <;> rfl

@[simp] theorem bytes_unskew (s : State) (t p : Nat) : (unskew s t p).bytes = s.bytes := by unfold unskew; split <;> rfl

@[simp] theorem bytes_correctCheck (s : State) (t p i : Nat) : (correctCheck s t p i).bytes = s.bytes := by
  unfold correctCheck; simp

@[simp] theorem bytes_checkPage (s : State) (t p : Nat) : (checkPage s t p).bytes = s.bytes := by
  unfold checkPage; dsimp only; split <;> simp

@[simp] theorem bytes_rebuildPage (s : State) (t : Nat) (ws : List Nat) (c : Nat) : (rebuildPage s t ws c).bytes = s.bytes := by
  unfold rebuildPage; split
  · rfl
  · dsimp only; split
    · rw [bytes_poisonRecord, foldl_keeps State.bytes _ (fun s i => bytes_correctCheck s _ _ i),
        foldl_keeps State.bytes _ (fun s w => bytes_correctWord s t w)]
      simp
    · split <;> simp

@[simp] theorem bytes_endRebuild (s : State) (r : Rebuild) : (endRebuild s r).bytes = s.bytes := by
  unfold endRebuild; rw [bytes_rebuildPage]; rfl

@[simp] theorem bytes_readWords (s : State) (t lo hi c : Nat) : (readWords s t lo hi c).bytes = s.bytes := by
  unfold readWords; dsimp only
  rw [foldl_keeps State.bytes _ (fun s w => bytes_correctWord s t w)]
  split
  · exact foldl_keeps State.bytes _ (fun s w => by simp) _ s
  · exact foldl_keeps State.bytes _ (fun s w => bytes_rebuildPage s _ _ _) _ s

/-- A read changes no byte of memory: a correction gives back the data that was written (R208, R212). -/
@[simp] theorem bytes_demand (s : State) (t o n c : Nat) : (demand s t o n c).bytes = s.bytes := by
  unfold demand; split
  · rfl
  · rw [bytes_readWords, foldl_keeps State.bytes _ (fun s r => bytes_endRebuild s r)]

@[simp] theorem bytes_readBack (s : State) (t o n : Nat) : (readBack s t o n).bytes = s.bytes := by
  unfold readBack; dsimp only
  rw [foldl_keeps State.bytes _ (fun s p => bytes_unskew s t p), foldl_keeps State.bytes _ (fun s w => bytes_readWords s t w w 3),
    foldl_keeps State.bytes _ (fun s r => bytes_endRebuild s r)]

@[simp] theorem bytes_objDemand (s : State) (e : DirEntry) (o n : Nat) : (objDemand s e o n).bytes = s.bytes :=
  foldl_keeps State.bytes _ (fun s _ => bytes_demand s _ _ _ _) _ s

@[simp] theorem bytes_demandHome (s : State) (e : DirEntry) : (demandHome s e).bytes = s.bytes :=
  foldl_keeps State.bytes _ (fun s _ => bytes_demand s _ _ _ _) _ s

@[simp] theorem bytes_carryPoison (s : State) (t o : Nat) (js : List Nat) : (carryPoison s t o js).bytes = s.bytes :=
  foldl_keeps State.bytes _ (fun s _ => bytes_poisonRange s _ _ _) _ s

theorem wf_of_state_bytes {s t : State} (h : t.bytes = s.bytes) (hs : s.mem.wf = true) : t.mem.wf = true := by
  simp only [State.bytes, Prod.mk.injEq] at h
  exact wf_of_bytes h hs

/-- A requester's write keeps the canonical form. -/
theorem storeTier_wf {s : State} (t o : Nat) (b : Bytes) (h : s.mem.wf = true) : (storeTier s t o b).mem.wf = true := by
  unfold storeTier
  refine writeTier_wf t o b (wf_of_state_bytes ?_ h)
  split <;> simp

theorem objWrite_wf {s : State} (e : DirEntry) (o : Nat) (b : Bytes) (h : s.mem.wf = true) : (objWrite s e o b).mem.wf = true :=
  foldl_wf (fun _ _ h => storeTier_wf _ _ _ h) _ h

theorem mem_mset_all {V : Type} (m : AMap V) (k : Nat) (v : V) (p : Nat × V → Bool) (hm : m.all p = true) (hv : p (k, v) = true) :
    (mset m k v).all p = true := by
  rw [List.all_eq_true] at hm ⊢
  intro e he
  rcases mem_mset m k v e he with h | h
  · simpa [h] using hv
  · exact hm e h

theorem mget_mem {V : Type} (m : AMap V) (k : Nat) (v : V) (h : mget m k = some v) : (k, v) ∈ m := by
  induction m with
  | nil => cases h
  | cons e m ih =>
    obtain ⟨i, w⟩ := e
    unfold mget at h
    split at h
    · next hi => cases h; simp [hi]
    · exact List.mem_cons_of_mem _ (ih h)

/-- A write into partner memory keeps its canonical form. -/
theorem pmWrite_wf {s : State} (p a : Nat) (b : Bytes) (h : s.partnersWf = true) : (pmWrite s p a b).partnersWf = true := by
  refine mem_mset_all s.pmem p _ (fun e => memWf e.2) h (memWf_writeBytes a b ?_)
  unfold pmemOf mgetD
  cases hg : mget s.pmem p with
  | none => rfl
  | some v => exact List.all_eq_true.1 h _ (mget_mem _ _ _ hg)

end Sys2Proof.Machine
end

