-- ==== Sys2Proof/Laws/Plant.lean ====
section
/-!
SUPPORT. The serving operations leave the plant as it was: one simp lemma for each operation that writes none of it.
-/
namespace Sys2Proof.Machine

/-- The plant of a state, from its fields. -/
@[simp] theorem plant_mk
    x0 x1 x2 x3 x4 x5 x6 x7 x8 x9 x10 x11 x12 x13 x14 x15 x16 x17 x18 x19 x20 x21 x22 x23 x24 x25 x26 x27 x28 x29 x30 x31
    x32 x33 x34 x35 x36 x37 x38 x39 x40 x41 x42 x43 x44 x45 x46 x47 x48 x49 x50 x51 x52 x53 x54 x55 x56 x57 x58 x59 x60 x61 x62 :
    (State.mk x0 x1 x2 x3 x4 x5 x6 x7 x8 x9 x10 x11 x12 x13 x14 x15 x16 x17 x18 x19 x20 x21 x22 x23 x24 x25 x26 x27 x28 x29 x30 x31
      x32 x33 x34 x35 x36 x37 x38 x39 x40 x41 x42 x43 x44 x45 x46 x47 x48 x49 x50 x51 x52 x53 x54 x55 x56 x57 x58 x59 x60 x61 x62).plant =
      ⟨x1, x2, x3, x4, x5, x6, x7, x8, x11, x12, x13, x14, x17, x47, x50⟩ := rfl

/-- The parts of the plant, read from it. -/
theorem toPlant (s : State) :
    s.store = s.plant.store ∧ s.sup = s.plant.sup ∧ s.time = s.plant.time ∧ s.pw = s.plant.pw ∧ s.life = s.plant.life ∧
      s.st = s.plant.st ∧ s.tr = s.plant.tr ∧ s.mb = s.plant.mb ∧ s.qpOwner = s.plant.qpOwner ∧ s.winOwn = s.plant.winOwn ∧
      s.split = s.plant.split ∧ s.splitOn = s.plant.splitOn ∧ s.hdm = s.plant.hdm ∧ s.sf = s.plant.sf ∧ s.ps = s.plant.ps :=
  ⟨rfl, rfl, rfl, rfl, rfl, rfl, rfl, rfl, rfl, rfl, rfl, rfl, rfl, rfl, rfl⟩

@[simp] theorem plant_foldl {α : Type} (f : State → α → State) (h : ∀ s x, (f s x).plant = s.plant) (l : List α) (s : State) :
    (l.foldl f s).plant = s.plant := foldl_keeps State.plant f h l s
theorem plant_foldl1 {α β : Type} (f : State × β → α → State × β) (h : ∀ x a, (f x a).1.plant = x.1.plant) (l : List α) (x : State × β) :
    (l.foldl f x).1.plant = x.1.plant := foldl_keeps (fun x => x.1.plant) f h l x
@[simp] theorem plant_ite (c : Prop) [Decidable c] (a b : State) : (if c then a else b).plant = if c then a.plant else b.plant := by
  split <;> rfl
theorem plant_ite_of {c : Prop} [Decidable c] {a b s : State} (ha : a.plant = s.plant) (hb : b.plant = s.plant) :
    (if c then a else b).plant = s.plant := by split <;> assumption
theorem plant_of_butMemory {s t : State} (h : t.butMemory = s.butMemory) : t.plant = s.plant := (congrArg State.plant h :)
theorem plant_of_butDesc {s t : State} (h : t.butDesc = s.butDesc) : t.plant = s.plant := (congrArg State.plant h :)
theorem plant_of_butNet {s t : State} (h : t.butNet = s.butNet) : t.plant = s.plant := (congrArg State.plant h :)

/-- What a checked access leaves, read off its answer. -/
theorem plant_of_snd {x : Got × State} {g : Got} {u s : State} (h : x = (g, u)) (hx : x.2.plant = s.plant) : u.plant = s.plant := by
  rw [h] at hx; exact hx

@[simp] theorem plant_useFree (s : State) : (useFree s).2.plant = s.plant := by
  unfold useFree
  rfl

@[simp] theorem plant_noteW1c (s : State) (k : Nat) (b : Bool) : (noteW1c s k b).plant = s.plant := by
  unfold noteW1c
  simp [toPlant]

@[simp] theorem plant_hwBump (s : State) (k n : Nat) : (hwBump s k n).plant = s.plant := by
  unfold hwBump
  simp [toPlant]

@[simp] theorem plant_fwBump (s : State) (k n : Nat) : (fwBump s k n).plant = s.plant := by
  unfold fwBump
  simp [toPlant]

@[simp] theorem plant_logEvent (s : State) (kind ctx : Nat) (detail : Bytes) : (logEvent s kind ctx detail).plant = s.plant := by
  unfold logEvent
  rfl

@[simp] theorem plant_pmLand (s : State) (p a : Nat) (bs : Bytes) (bad : List Nat) : (pmLand s p a bs bad).plant = s.plant := by
  unfold pmLand
  rfl

@[simp] theorem plant_pmWrite (s : State) (p a : Nat) (bs : Bytes) : (pmWrite s p a bs).plant = s.plant := by
  unfold pmWrite
  rfl

@[simp] theorem plant_setQp (s : State) (p q : Nat) (v : QpSt) : (setQp s p q v).plant = s.plant := by
  unfold setQp
  rfl

@[simp] theorem plant_setPort (s : State) (p : Nat) (v : PortSt) : (setPort s p v).plant = s.plant := by
  unfold setPort
  rfl

@[simp] theorem plant_fireMsix (s : State) (p v : Nat) : (fireMsix s p v).plant = s.plant := by
  unfold fireMsix
  rfl

@[simp] theorem plant_eventToPort (code ctx : Nat) (detail : Bytes) (s : State) (p : Nat) :
    (eventToPort code ctx detail s p).plant = s.plant := by
  unfold eventToPort
  simp [toPlant]

@[simp] theorem plant_raiseModule (s : State) (code : Nat) (detail : Bytes) : (raiseModule s code detail).plant = s.plant := by
  unfold raiseModule
  simp

@[simp] theorem plant_raiseCtx (s : State) (code ctx : Nat) (detail : Bytes) : (raiseCtx s code ctx detail).plant = s.plant := by
  unfold raiseCtx
  simp

@[simp] theorem plant_signalCq (s : State) (p q : Nat) : (signalCq s p q).plant = s.plant := by
  unfold signalCq
  simp

@[simp] theorem plant_signalTq (s : State) (p q : Nat) : (signalTq s p q).plant = s.plant := by
  unfold signalTq
  simp

@[simp] theorem plant_writeCompletion (s : State) (t : Taken) (status r0 r1 : Nat) :
    (writeCompletion s t status r0 r1).plant = s.plant := by
  unfold writeCompletion
  simp [toPlant]

@[simp] theorem plant_putToken (s : State) (p q : Nat) (r : TokRec) : (putToken s p q r).plant = s.plant := by
  unfold putToken
  simp

@[simp] theorem plant_sendToken (s : State) (p q : Nat) (r : TokRec) : (sendToken s p q r).plant = s.plant := by
  unfold sendToken
  simp

@[simp] theorem plant_drainHeld (s : State) (p q n : Nat) : (drainHeld s p q n).plant = s.plant := by
  induction n generalizing s with
  | zero => rfl
  | succ n ih =>
    unfold drainHeld; dsimp only
    split
    · rfl
    · split
      · rfl
      · rw [ih, plant_putToken]; rfl

@[simp] theorem plant_setTierMem (s : State) (tier : Nat) (m : Mem) : (setTierMem s tier m).plant = s.plant := by
  unfold setTierMem
  simp [toPlant]

@[simp] theorem plant_setTierPoison (s : State) (tier : Nat) (w : List Nat) : (setTierPoison s tier w).plant = s.plant := by
  unfold setTierPoison
  simp [toPlant]

@[simp] theorem plant_dropBad (s : State) (tier lo hi : Nat) : (dropBad s tier lo hi).plant = s.plant := by
  unfold dropBad
  simp [toPlant]

@[simp] theorem plant_clearPoison (s : State) (tier off n : Nat) : (clearPoison s tier off n).plant = s.plant := by
  unfold clearPoison
  simp

@[simp] theorem plant_poisonRange (s : State) (tier off n : Nat) : (poisonRange s tier off n).plant = s.plant := by
  unfold poisonRange
  simp

@[simp] theorem plant_writeTier (s : State) (tier off : Nat) (bs : Bytes) : (writeTier s tier off bs).plant = s.plant := by
  unfold writeTier
  simp

@[simp] theorem plant_zeroTier (s : State) (tier off n : Nat) : (zeroTier s tier off n).plant = s.plant := by
  unfold zeroTier
  simp

@[simp] theorem plant_dirSet (s : State) (obj : Nat) (e : DirEntry) : (dirSet s obj e).plant = s.plant := by
  unfold dirSet
  rfl

@[simp] theorem plant_dirDel (s : State) (obj : Nat) : (dirDel s obj).plant = s.plant := by
  unfold dirDel
  rfl

@[simp] theorem plant_endContexts (s : State) : (endContexts s).plant = s.plant := by
  unfold endContexts
  rfl

@[simp] theorem plant_objZero (s : State) (e : DirEntry) : (objZero s e).plant = s.plant := by
  unfold objZero
  simp

@[simp] theorem plant_objFill (s : State) (e : DirEntry) (cells : List Host.Cell) (bad : List Nat) :
    (objFill s e cells bad).plant = s.plant := by
  unfold objFill
  simp

@[simp] theorem plant_setTierBad (s : State) (tier : Nat) (b : AMap BadWord) : (setTierBad s tier b).plant = s.plant := by
  unfold setTierBad
  simp [toPlant]

@[simp] theorem plant_poisonRecord (s : State) (tier word cause words : Nat) : (poisonRecord s tier word cause words).plant = s.plant := by
  unfold poisonRecord
  simp [toPlant]

@[simp] theorem plant_poisonWords (s : State) (tier : Nat) (ws : List Nat) : (poisonWords s tier ws).plant = s.plant := by
  unfold poisonWords
  simp

@[simp] theorem plant_setBucket (s : State) (tier unit : Nat) (b : Bucket) : (setBucket s tier unit b).plant = s.plant := by
  unfold setBucket
  simp [toPlant]

@[simp] theorem plant_addBucket (s : State) (tier word n : Nat) : (addBucket s tier word n).plant = s.plant := by
  unfold addBucket
  simp

@[simp] theorem plant_bucketCorrection (s : State) (tier word : Nat) : (bucketCorrection s tier word).plant = s.plant := by
  unfold bucketCorrection
  simp

@[simp] theorem plant_correctWord (s : State) (tier word : Nat) : (correctWord s tier word).plant = s.plant := by
  unfold correctWord
  simp

@[simp] theorem plant_setCheckBad (s : State) (tier : Nat) (b : AMap BadWord) : (setCheckBad s tier b).plant = s.plant := by
  unfold setCheckBad
  simp [toPlant]

@[simp] theorem plant_unskew (s : State) (tier page : Nat) : (unskew s tier page).plant = s.plant := by
  unfold unskew
  simp [toPlant]

@[simp] theorem plant_correctCheck (s : State) (tier page i : Nat) : (correctCheck s tier page i).plant = s.plant := by
  unfold correctCheck
  simp

@[simp] theorem plant_checkPage (s : State) (tier page : Nat) : (checkPage s tier page).plant = s.plant := by
  unfold checkPage
  simp

@[simp] theorem plant_rebuildPage (s : State) (tier : Nat) (reported : List Nat) (cause : Nat) :
    (rebuildPage s tier reported cause).plant = s.plant := by
  unfold rebuildPage
  dsimp only; (repeat' split) <;> simp

@[simp] theorem plant_endRebuild (s : State) (r : Rebuild) : (endRebuild s r).plant = s.plant := by
  unfold endRebuild
  simp [toPlant]

@[simp] theorem plant_readWords (s : State) (tier lo hi cause : Nat) : (readWords s tier lo hi cause).plant = s.plant := by
  unfold readWords
  simp

@[simp] theorem plant_demand (s : State) (tier off n cause : Nat) : (demand s tier off n cause).plant = s.plant := by
  unfold demand
  simp

@[simp] theorem plant_readBack (s : State) (tier off n : Nat) : (readBack s tier off n).plant = s.plant := by
  unfold readBack
  simp

@[simp] theorem plant_storeTier (s : State) (tier off : Nat) (bs : Bytes) : (storeTier s tier off bs).plant = s.plant := by
  unfold storeTier
  simp

@[simp] theorem plant_carryPoison (s : State) (tier off : Nat) (js : List Nat) : (carryPoison s tier off js).plant = s.plant := by
  unfold carryPoison
  simp

@[simp] theorem plant_countTier (s : State) (tier off n : Nat) (write : Bool) : (countTier s tier off n write).plant = s.plant := by
  unfold countTier
  simp

@[simp] theorem plant_copyTier (s : State) (a b : Nat × Nat) (n : Nat) : (copyTier s a b n).plant = s.plant := by
  unfold copyTier
  simp

@[simp] theorem plant_objWrite (s : State) (e : DirEntry) (off : Nat) (bs : Bytes) : (objWrite s e off bs).plant = s.plant := by
  unfold objWrite
  simp

@[simp] theorem plant_objDemand (s : State) (e : DirEntry) (off n : Nat) : (objDemand s e off n).plant = s.plant := by
  unfold objDemand
  simp

@[simp] theorem plant_countObj (s : State) (e : DirEntry) (off n : Nat) (write : Bool) : (countObj s e off n write).plant = s.plant := by
  unfold countObj
  simp

@[simp] theorem plant_objLand (s : State) (e : DirEntry) (off : Nat) (bs : Bytes) (bad : List Nat) :
    (objLand s e off bs bad).plant = s.plant := by
  unfold objLand
  simp

@[simp] theorem plant_takeTier (s : State) (tier off n : Nat) : (takeTier s tier off n).2.2.plant = s.plant := by
  unfold takeTier
  simp

@[simp] theorem plant_takeObj (s : State) (e : DirEntry) (off n : Nat) : (takeObj s e off n).2.2.plant = s.plant := by
  unfold takeObj
  simp

@[simp] theorem plant_demandOwn (s : State) (ctx : Nat) (h : Nat × Nat) (n : Nat) : (demandOwn s ctx h n).plant = s.plant := by
  unfold demandOwn
  (repeat' split) <;> simp

@[simp] theorem plant_demandHome (s : State) (e : DirEntry) : (demandHome s e).plant = s.plant := by
  unfold demandHome
  simp

@[simp] theorem plant_scrubAdvance (s : State) (tier unit : Nat) : (scrubAdvance s tier unit).plant = s.plant := by
  unfold scrubAdvance
  simp [toPlant]

@[simp] theorem plant_scrubOne (s : State) (tier page : Nat) : (scrubOne s tier page).plant = s.plant := by
  unfold scrubOne
  simp

@[simp] theorem plant_copyTarget (s : State) (r : Repair) : (copyTarget s r).plant = s.plant := by
  unfold copyTarget
  simp

@[simp] theorem plant_repairFields (s : State) (v : W64) : (repairFields s v).plant = s.plant := by
  unfold repairFields
  rfl

@[simp] theorem plant_repairGo (s : State) : (repairGo s).plant = s.plant := by
  unfold repairGo
  simp [toPlant]

@[simp] theorem plant_startRebuilds (s : State) (tier off n : Nat) : (startRebuilds s tier off n).plant = s.plant := by
  unfold startRebuilds
  simp [toPlant]

@[simp] theorem plant_objRebuilds (s : State) (e : DirEntry) (off n : Nat) : (objRebuilds s e off n).plant = s.plant := by
  unfold objRebuilds
  simp

@[simp] theorem plant_repairCommit (s : State) : (repairCommit s).plant = s.plant := by
  unfold repairCommit
  simp [toPlant]

@[simp] theorem plant_serviceCtr (s : State) (k : Nat) : (serviceCtr s k).plant = s.plant := by
  unfold serviceCtr
  (repeat' split) <;> simp [toPlant]

@[simp] theorem plant_fuseLog (s : State) (kind value : Nat) (subject : Digest) : (fuseLog s kind value subject).plant = s.plant := by
  unfold fuseLog
  rfl

@[simp] theorem plant_dbErr (s : State) (p : Nat) : (dbErr s p).plant = s.plant := by
  unfold dbErr
  rfl

@[simp] theorem plant_enableQp (s : State) (p q : Nat) : (enableQp s p q).plant = s.plant := by
  unfold enableQp
  simp

@[simp] theorem plant_disableQp (s : State) (p q : Nat) : (disableQp s p q).plant = s.plant := by
  unfold disableQp
  rfl

@[simp] theorem plant_setLink (s : State) (k : Nat) (l : LinkSt) : (setLink s k l).plant = s.plant := by
  unfold setLink
  rfl

@[simp] theorem plant_launch (s : State) (k vck : Nat) (p : Packet) : (launch s k vck p).plant = s.plant := by
  unfold launch
  simp

@[simp] theorem plant_countWait (s : State) (p : Packet) : (countWait s p).1.plant = s.plant := by
  unfold countWait
  (repeat' split) <;> simp

theorem plant_trySend {s t : State} {p : Packet} {face : Option Nat} (h : trySend s p face = some t) : t.plant = s.plant :=
  plant_of_butNet (butNet_trySend h)

@[simp] theorem plant_flushFrom (s : State) (ps : List Packet) : (flushFrom s ps).plant = s.plant :=
  plant_of_butNet (butNet_flushFrom s ps)

@[simp] theorem plant_flushOut (s : State) : (flushOut s).plant = s.plant := by
  unfold flushOut
  simp [toPlant]

@[simp] theorem plant_sendPacket (s : State) (p : Packet) : (sendPacket s p).plant = s.plant := by
  unfold sendPacket
  simp [toPlant]

@[simp] theorem plant_newMsgP (s : State) (ty dst ctx : Nat) (why : MsgWhy) (target payload : Bytes) (bad : List Nat) :
    (newMsgP s ty dst ctx why target payload bad).plant = s.plant := by
  unfold newMsgP
  simp [toPlant]

@[simp] theorem plant_newMsg (s : State) (ty dst ctx : Nat) (why : MsgWhy) (target payload : Bytes) :
    (newMsg s ty dst ctx why target payload).plant = s.plant := by
  unfold newMsg
  simp

@[simp] theorem plant_sendReply (s : State) (ty dst ctx msg pkt : Nat) (target payload : Bytes) (poison : List Nat) :
    (sendReply s ty dst ctx msg pkt target payload poison).plant = s.plant := by
  unfold sendReply
  simp

@[simp] theorem plant_writeFar (s : State) (dst ctx : Nat) (why : MsgWhy) (obj off epoch : Nat) (data : Bytes) (bad : List Nat) :
    (writeFar s dst ctx why obj off epoch data bad).plant = s.plant := by
  unfold writeFar
  simp

@[simp] theorem plant_sendCtrl (s : State) (dst ctx : Nat) (why : MsgWhy) (body : Bytes) :
    (sendCtrl s dst ctx why body).plant = s.plant := by
  unfold sendCtrl
  simp

@[simp] theorem plant_broadcast (s : State) (body : Bytes) : (broadcast s body).plant = s.plant := by
  unfold broadcast
  simp

@[simp] theorem plant_announceEntry (s : State) (obj : Nat) (e : DirEntry) : (announceEntry s obj e).plant = s.plant := by
  unfold announceEntry
  simp

@[simp] theorem plant_snoop (s : State) (ls : List (Nat × Nat)) : (snoop s ls).plant = s.plant := by
  unfold snoop
  simp

@[simp] theorem plant_addWait (s : State) (w : Wait) : (addWait s w).2.plant = s.plant := by
  unfold addWait
  rfl

@[simp] theorem plant_askLines (s : State) (obj : Nat) (e : DirEntry) (off n : Nat) : (askLines s obj e off n).plant = s.plant := by
  unfold askLines
  simp

@[simp] theorem plant_usedLines (s : State) (obj off n : Nat) : (usedLines s obj off n).plant = s.plant := by
  unfold usedLines
  rfl

@[simp] theorem plant_answer (s : State) (r : CxlResp) : (answer s r).plant = s.plant := by
  unfold answer
  rfl

@[simp] theorem plant_serveRead (s : State) (e : DirEntry) (b len : Nat) : (serveRead s e b len).plant = s.plant := by
  unfold serveRead
  simp

@[simp] theorem plant_serveWrite (s : State) (e : DirEntry) (b : Nat) (data : Bytes) : (serveWrite s e b data).plant = s.plant := by
  unfold serveWrite
  simp

@[simp] theorem plant_cxlReadNow (s : State) (p n off len : Nat) : (cxlReadNow s p n off len).plant = s.plant := by
  unfold cxlReadNow
  dsimp only; (repeat' split) <;> simp

@[simp] theorem plant_cxlWriteNow (s : State) (p n off : Nat) (data : Bytes) : (cxlWriteNow s p n off data).plant = s.plant := by
  unfold cxlWriteNow
  dsimp only; (repeat' split) <;> simp

@[simp] theorem plant_cxlRead (s : State) (p n off len : Nat) : (cxlRead s p n off len).plant = s.plant := by
  unfold cxlRead
  simp

@[simp] theorem plant_cxlWrite (s : State) (p n off : Nat) (data : Bytes) : (cxlWrite s p n off data).plant = s.plant := by
  unfold cxlWrite
  simp

@[simp] theorem plant_releaseWaits (s : State) : (releaseWaits s).plant = s.plant := by
  refine plant_foldl _ (fun s w => ?_) _ s
  repeat' split
  all_goals first | rfl | (simp; rfl) | simp [toPlant]

@[simp] theorem plant_biWriteEnd (s : State) (w p n off : Nat) (data : Bytes) : (biWriteEnd s w p n off data).plant = s.plant := by
  unfold biWriteEnd
  simp [toPlant]

@[simp] theorem plant_complete (s : State) (d status r0 r1 : Nat) : (complete s d status r0 r1).plant = s.plant := by
  unfold complete
  (repeat' split) <;> simp [toPlant]

@[simp] theorem plant_finish (s : State) (d status : Nat) : (finish s d status).plant = s.plant := by
  unfold finish
  simp

@[simp] theorem plant_holdDesc (s : State) (d : Nat) : (holdDesc s d).plant = s.plant := by
  unfold holdDesc
  rfl

theorem plant_withDesc {s : State} {d : Nat} {isRow : Taken → Bool} {named : List (Nat × Nat)} {act : Taken → State}
    (h : ∀ t, (act t).plant = s.plant) : (withDesc s d isRow named act).plant = s.plant := by
  unfold withDesc; split
  · rfl
  · repeat' split
    all_goals simp [h]

@[simp] theorem plant_rejectReserved (s : State) : (rejectReserved s).plant = s.plant := by
  unfold rejectReserved
  simp

@[simp] theorem plant_widthErr (s : State) : (widthErr s).plant = s.plant := by
  unfold widthErr
  rfl

@[simp] theorem plant_settleRebuilds (s : State) : (settleRebuilds s).plant = s.plant := by
  unfold settleRebuilds
  simp

@[simp] theorem plant_countHome (s : State) (e : DirEntry) (write : Bool) : (countHome s e write).plant = s.plant := by
  unfold countHome
  simp

@[simp] theorem plant_announceGone (s : State) (obj : Nat) (e : DirEntry) : (announceGone s obj e).plant = s.plant := by
  unfold announceGone
  simp

@[simp] theorem plant_commitEntry (s : State) (obj : Nat) (e : DirEntry) : (commitEntry s obj e).plant = s.plant := by
  unfold commitEntry
  simp

@[simp] theorem plant_moveDone (s : State) (copied : Nat) : (moveDone s copied).plant = s.plant := by
  unfold moveDone
  simp

@[simp] theorem plant_moveCreate (s : State) (d : Nat) (t : Taken) (r : MoveReq) (data : Bytes) :
    (moveCreate s d t r data).plant = s.plant := by
  unfold moveCreate
  simp

@[simp] theorem plant_moveExport (s : State) (d : Nat) (t : Taken) (r : MoveReq) (e : DirEntry) :
    (moveExport s d t r e).plant = s.plant := by
  unfold moveExport
  dsimp only; (repeat' split) <;> simp [toPlant]

@[simp] theorem plant_zeroDest (s : State) (n e : DirEntry) : (zeroDest s n e).plant = s.plant := by
  unfold zeroDest
  simp

@[simp] theorem plant_relocateHere (s : State) (d obj : Nat) (e n : DirEntry) : (relocateHere s d obj e n).plant = s.plant := by
  unfold relocateHere
  simp [toPlant]

@[simp] theorem plant_relocateAway (s : State) (d obj : Nat) (e n : DirEntry) : (relocateAway s d obj e n).plant = s.plant := by
  unfold relocateAway
  simp [toPlant]

@[simp] theorem plant_relocateOff (s : State) (d obj : Nat) (e : DirEntry) (status : Nat) :
    (relocateOff s d obj e status).plant = s.plant := by
  unfold relocateOff
  simp [toPlant]

@[simp] theorem plant_relocateSend (s : State) (d obj : Nat) (m : Moving) (e : DirEntry) : (relocateSend s d obj m e).plant = s.plant := by
  unfold relocateSend
  simp [toPlant]

@[simp] theorem plant_relocateAwayDone (s : State) (d obj : Nat) (status : Nat) (more : Bool) :
    (relocateAwayDone s d obj status more).plant = s.plant := by
  unfold relocateAwayDone
  (repeat' split) <;> simp [toPlant]

@[simp] theorem plant_dropOffer (s : State) (obj : Nat) : (dropOffer s obj).plant = s.plant := by
  unfold dropOffer
  (repeat' split) <;> simp [toPlant]

@[simp] theorem plant_moveFreeEnd (s : State) (d obj : Nat) (e : DirEntry) : (moveFreeEnd s d obj e).plant = s.plant := by
  unfold moveFreeEnd
  simp

@[simp] theorem plant_moveAct (s : State) (d obj : Nat) (r : MoveReq) (e : DirEntry) : (moveAct s d obj r e).plant = s.plant := by
  unfold moveAct
  simp

@[simp] theorem plant_moveHome (s : State) (d : Nat) (r : MoveReq) (e : DirEntry) : (moveHome s d r e).plant = s.plant := by
  unfold moveHome
  simp [toPlant]

@[simp] theorem plant_forwardDesc (s : State) (d m : Nat) (t : Taken) (data : Bytes) : (forwardDesc s d m t data).plant = s.plant := by
  unfold forwardDesc
  dsimp only; (repeat' split) <;> simp [toPlant]

@[simp] theorem plant_forwardData (s : State) (d m : Nat) (ctx : Nat) : (forwardData s d m ctx).plant = s.plant := by
  unfold forwardData
  (repeat' split) <;> simp [toPlant]

@[simp] theorem plant_exportEnd (s : State) (d status : Nat) : (exportEnd s d status).plant = s.plant := by
  unfold exportEnd
  (repeat' split) <;> simp [toPlant]

theorem plant_atModule {s : State} {d m : Nat} {t : Taken} {data : Bytes} {act : State} (h : act.plant = s.plant) :
    (atModule s d m t data act).plant = s.plant := by
  unfold atModule; repeat' split
  all_goals simp [h]

@[simp] theorem plant_moveExisting (s : State) (d : Nat) (t : Taken) : (moveExisting s d t).plant = s.plant := by
  unfold moveExisting; dsimp only; split
  · simp
  · split
    · simp
    · split
      · repeat' split
        all_goals simp
      · refine plant_atModule ?_
        repeat' split
        all_goals simp

@[simp] theorem plant_moveNew (s : State) (d : Nat) (t : Taken) (b : Bytes) : (moveNew s d t b).plant = s.plant := by
  unfold moveNew; dsimp only; split
  · simp
  · refine plant_atModule ?_
    split <;> simp

@[simp] theorem plant_moveResume (s : State) (d : Nat) : (moveResume s d).plant = s.plant := by
  unfold moveResume
  (repeat' split) <;> simp [toPlant]

@[simp] theorem plant_setObj (s : State) (k : Nat) (o : SyncObj) : (setObj s k o).plant = s.plant := by
  unfold setObj
  rfl

@[simp] theorem plant_relRecord (s : State) (r : RelRec) : (relRecord s r).plant = s.plant := by
  unfold relRecord
  simp [toPlant]

@[simp] theorem plant_closeGen (s : State) (k g : Nat) (absent : List Nat) : (closeGen s k g absent).plant = s.plant := by
  unfold closeGen
  (repeat' split) <;> simp [toPlant]

@[simp] theorem plant_wakeTile (s : State) (t : Nat) : (wakeTile s t).plant = s.plant := by
  unfold wakeTile
  rfl

@[simp] theorem plant_wakeTiles (s : State) (k g : Nat) (o : SyncObj) (ts : List Nat) : (wakeTiles s k g o ts).plant = s.plant := by
  unfold wakeTiles
  simp [toPlant]

@[simp] theorem plant_wakeWho (s : State) (v g tread : Nat) (w : Who) : (wakeWho s v g tread w).plant = s.plant := by
  cases w <;> simp [wakeWho, toPlant]

@[simp] theorem plant_releaseGen (s : State) (k g tread : Nat) (kind : RelKind) : (releaseGen s k g tread kind).1.plant = s.plant := by
  unfold releaseGen; dsimp only; split
  · rfl
  · dsimp only; split <;> split <;> simp

@[simp] theorem plant_fireGen (s : State) (k g tread : Nat) (kind : RelKind) : (fireGen s k g tread kind).1.plant = s.plant := by
  unfold fireGen
  dsimp only; (repeat' split) <;> simp [toPlant]

@[simp] theorem plant_settleObj (s : State) (k : Nat) (allow : RelKind → Bool) : (settleObj s k allow).1.plant = s.plant := by
  unfold settleObj
  (repeat' split) <;> simp

@[simp] theorem plant_arriveAt (s : State) (k m tread : Nat) : (arriveAt s k m tread).1.plant = s.plant := by
  unfold arriveAt
  dsimp only; (repeat' split) <;> simp

@[simp] theorem plant_runTask (s : State) (t : Task) : (runTask s t).1.plant = s.plant := by
  cases t <;> simp [runTask]

@[simp] theorem plant_runTasks (n : Nat) (s : State) (ts : List Task) : (runTasks n s ts).plant = s.plant := by
  induction n generalizing s ts with
  | zero => cases ts <;> rfl
  | succ n ih =>
    cases ts with
    | nil => rfl
    | cons t ts => exact (ih _ _).trans (plant_runTask s t)

@[simp] theorem plant_syncRun (s : State) (ts : List Task) : (syncRun s ts).plant = s.plant := plant_runTasks _ s ts

@[simp] theorem plant_serveCounter (s : State) (k : Nat) : (serveCounter s k).plant = s.plant := by
  unfold serveCounter; split
  · rfl
  · dsimp only
    exact (plant_foldl _ (fun s w => plant_wakeWho s _ _ _ _) _ _).trans
      ((plant_foldl _ (fun s w => plant_wakeTile s w) _ _).trans (plant_setObj s k _))

@[simp] theorem plant_serveSem (s : State) (k n : Nat) : (serveSem s k n).plant = s.plant := by
  induction n generalizing s with
  | zero => rfl
  | succ n ih =>
    unfold serveSem; repeat' split
    all_goals first | rfl | (dsimp only; rw [ih]; simp)

@[simp] theorem plant_syncOp (s : State) (k op n : Nat) (who : Who) (m : Option Nat) (hold : Bool) (e : Option Nat) :
    (syncOp s k op n who m hold e).2.plant = s.plant := by
  unfold syncOp; split
  · rfl
  · split
    · rfl
    · dsimp only
      split
      · split
        · rfl
        · repeat' split
          all_goals simp
      · simp
      · repeat' split
        all_goals simp
      · split <;> simp
      · repeat' split
        all_goals simp
      · split <;> simp
      · simp
      · simp
      · simp
      · simp

@[simp] theorem plant_syncSend (s : State) (ctx home phys op n req : Nat) (why : MsgWhy) (who : Who) (reg : Option Nat) :
    (syncSend s ctx home phys op n req why who reg).plant = s.plant := by
  unfold syncSend
  simp [toPlant]

@[simp] theorem plant_fireRow (s : State) (o : SyncIx) (allow : RelKind → Bool) : (fireRow s o allow).plant = s.plant := by
  unfold fireRow
  simp

@[simp] theorem plant_syncSet (s : State) (d op : Nat) (t : Taken) : (syncSet s d op t).plant = s.plant := by
  unfold syncSet
  dsimp only; (repeat' split) <;> simp

@[simp] theorem plant_syncWait (s : State) (d op : Nat) (t : Taken) : (syncWait s d op t).plant = s.plant := by
  unfold syncWait
  dsimp only; (repeat' split) <;> simp

@[simp] theorem plant_dropWaits (s : State) (p : Who → Bool) : (dropWaits s p).plant = s.plant := by
  unfold dropWaits
  rfl

@[simp] theorem plant_coreOp (s : State) (ctx vid op n : Nat) : (coreOp s ctx vid op n).plant = s.plant := by
  unfold coreOp
  (repeat' split) <;> simp

@[simp] theorem plant_demandImage (s : State) (t : Taken) : (demandImage s t).plant = s.plant := by
  unfold demandImage
  simp

@[simp] theorem plant_loadHarness (s : State) (d : Nat) (t : Taken) (given : Bytes) : (loadHarness s d t given).plant = s.plant := by
  unfold loadHarness
  dsimp only; (repeat' split) <;> simp [toPlant]

@[simp] theorem plant_dropHarness (s : State) (k : Nat) : (dropHarness s k).plant = s.plant := by
  unfold dropHarness
  (repeat' split) <;> simp [toPlant]

@[simp] theorem plant_setTile (s : State) (t : Nat) (x : TileSt) : (setTile s t x).plant = s.plant := by
  unfold setTile
  simp [toPlant]

@[simp] theorem plant_setCore (s : State) (t : Nat) (c : TileCore) : (setCore s t c).plant = s.plant := by
  unfold setCore
  simp

@[simp] theorem plant_orStep (s : State) (t fl : Nat) : (orStep s t fl).plant = s.plant := by
  unfold orStep
  simp

@[simp] theorem plant_writeSlot (s : State) (t q : Nat) (v : Queue) (i : Nat) (e : Entry) : (writeSlot s t q v i e).plant = s.plant := by
  unfold writeSlot
  simp

@[simp] theorem plant_admitEntry (s : State) (t q : Nat) (e : Entry) : (admitEntry s t q e).plant = s.plant := by
  unfold admitEntry
  simp

@[simp] theorem plant_arriveQueue (s : State) (t q : Nat) (e : Entry) : (arriveQueue s t q e).plant = s.plant := by
  unfold arriveQueue
  simp

@[simp] theorem plant_onTiles (s : State) (ts : List Nat) (f : TileSt → TileSt) : (onTiles s ts f).plant = s.plant := by
  unfold onTiles
  simp

@[simp] theorem plant_freezeTiles (s : State) (ts : List Nat) : (freezeTiles s ts).plant = s.plant := by
  unfold freezeTiles
  simp

@[simp] theorem plant_thawTiles (s : State) (ts : List Nat) : (thawTiles s ts).plant = s.plant := by
  unfold thawTiles
  simp

@[simp] theorem plant_scanInto (s : State) (t : Nat) (b : Bytes) : (scanInto s t b).1.plant = s.plant := by
  unfold scanInto
  (repeat' split) <;> simp

@[simp] theorem plant_countFrames (s : State) (k : Nat) (ps : List KvPage) : (countFrames s k ps).plant = s.plant := by
  unfold countFrames
  simp

@[simp] theorem plant_copyRuns (s : State) (a b : DirEntry) (oa ob : Nat) (runs : List ((Nat × Nat) × (Nat × Nat))) :
    (copyRuns s a b oa ob runs).plant = s.plant := by
  unfold copyRuns; dsimp only
  refine (plant_foldl _ (fun s d => by simp) _ _).trans ?_
  exact plant_foldl1 _ (fun x r => by simp) _ _

@[simp] theorem plant_copySlot (s : State) (g : Group) (pages : List KvPage) (src dst : Nat) :
    (copySlot s g pages src dst).plant = s.plant := by
  unfold copySlot; dsimp only; split
  · rw [plant_fwBump]
    refine plant_foldl _ (fun s i => ?_) _ s
    split <;> simp
  · rfl

@[simp] theorem plant_copyPage (s : State) (g : Group) (p : KvPage) (dest : Nat) : (copyPage s g p dest).plant = s.plant := by
  unfold copyPage
  refine plant_foldl _ (fun s x => ?_) _ s
  (repeat' split) <;> first | rfl | simp_all

@[simp] theorem plant_compact (s : State) (g : Group) (pages : List KvPage) (len : Nat) (path : List Nat) :
    (compact s g pages len path).plant = s.plant := by
  unfold compact
  simp

@[simp] theorem plant_setGroup (s : State) (g : Group) : (setGroup s g).plant = s.plant := by
  unfold setGroup
  rfl

@[simp] theorem plant_writeTrailer (s : State) (port status : Nat) (x : SealSt) : (writeTrailer s port status x).plant = s.plant := by
  unfold writeTrailer
  rfl

@[simp] theorem plant_tokenTo (s : State) (ctx p q : Nat) (r : TokRec) : (tokenTo s ctx p q r).plant = s.plant := by
  unfold tokenTo
  simp [toPlant]

@[simp] theorem plant_writeKept (s : State) (k : Nat) (r : Settled) (step pos : Nat) (ts : List Nat) :
    (writeKept s k r step pos ts).plant = s.plant := by
  induction ts generalizing s pos with
  | nil => rfl
  | cons t ts ih =>
    unfold writeKept; split
    · rfl
    · dsimp only; rw [ih, plant_tokenTo]
      repeat' split
      all_goals simp [toPlant]

@[simp] theorem plant_writeSettled (s : State) (ctx step : Nat) (r : Settled) : (writeSettled s ctx step r).plant = s.plant := by
  unfold writeSettled; dsimp only; repeat' split
  all_goals simp [toPlant]

@[simp] theorem plant_deliver (s : State) (g : Group) (step gen : Nat) (rs : List (Nat × Settled)) :
    (deliver s g step gen rs).plant = s.plant := by
  unfold deliver
  simp [toPlant]

@[simp] theorem plant_freeObject (s : State) (obj : Nat) : (freeObject s obj).plant = s.plant := by
  unfold freeObject
  (repeat' split) <;> simp

@[simp] theorem plant_dropVersion (s : State) (k : Nat) : (dropVersion s k).plant = s.plant := by
  unfold dropVersion
  (repeat' split) <;> simp [toPlant]

@[simp] theorem plant_releaseRef (s : State) (k : Nat) : (releaseRef s k).plant = s.plant := by
  unfold releaseRef
  (repeat' split) <;> simp [toPlant]

@[simp] theorem plant_releaseVersion (s : State) (ctx : Nat) (q : Req) (rid : Nat) : (releaseVersion s ctx q rid).plant = s.plant := by
  unfold releaseVersion
  (repeat' split) <;> simp

@[simp] theorem plant_freeAll (s : State) (g : Group) (r : Nat) : (freeAll s g r).1.plant = s.plant := by
  unfold freeAll
  (repeat' split) <;> simp

@[simp] theorem plant_endReq (s : State) (g : Group) (r status : Nat) : (endReq s g r status).1.plant = s.plant := by
  unfold endReq
  (repeat' split) <;> simp

@[simp] theorem plant_closeReq (s : State) (g : Group) (r d status : Nat) : (closeReq s g r d status).1.plant = s.plant := by
  unfold closeReq
  (repeat' split) <;> simp [toPlant]

@[simp] theorem plant_applyEnds (s : State) (g : Group) (rs : List Nat) : (applyEnds s g rs).1.plant = s.plant := by
  refine foldl_keeps (fun x : State × Group × List (Nat × Settled) => x.1.plant) _ (fun x r => ?_) rs (s, g, [])
  repeat' split
  all_goals simp

@[simp] theorem plant_finishEnds (s : State) (g : Group) (rs : List Nat) : (finishEnds s g rs).1.plant = s.plant := by
  refine foldl_keeps (fun x : State × Group => x.1.plant) _ (fun x r => ?_) rs (s, g)
  repeat' split
  all_goals simp

@[simp] theorem plant_endNow (s : State) (g : Group) (rs : List Nat) : (endNow s g rs).plant = s.plant := by
  unfold endNow
  simp

@[simp] theorem plant_failReqs (s : State) (g : Group) (i : Nat) (status : Option Nat) : (failReqs s g i status).plant = s.plant := by
  unfold failReqs; dsimp only
  rw [plant_setGroup, plant_finishEnds, plant_deliver]
  refine plant_foldl1 _ (fun x r => ?_) _ _
  split
  · rfl
  · split
    · simp
    · split <;> simp

@[simp] theorem plant_captureInst (s : State) (k : Nat) : (captureInst s k).plant = s.plant := by
  unfold captureInst
  (repeat' split) <;> simp [toPlant]

@[simp] theorem plant_endGraphs (s : State) (i status : Nat) : (endGraphs s i status).plant = s.plant := by
  unfold endGraphs
  simp [toPlant]

@[simp] theorem plant_groupArrive (s : State) (k : Nat) : (groupArrive s k).plant = s.plant := by
  unfold groupArrive
  (repeat' split) <;> simp [toPlant]

@[simp] theorem plant_leaveRun (s : State) (k i : Nat) : (leaveRun s k i).plant = s.plant := by
  unfold leaveRun
  rfl

@[simp] theorem plant_arriveAfter (s t : State) (k : Nat) : (arriveAfter s t k).plant = t.plant := by
  unfold arriveAfter; dsimp only; split <;> simp

@[simp] theorem plant_leaveArrive (s : State) (k i : Nat) : (leaveArrive s k i).plant = s.plant := by
  unfold leaveArrive; simp

@[simp] theorem plant_abandonStep (s : State) (i : Nat) (status : Option Nat) : (abandonStep s i status).plant = s.plant := by
  unfold abandonStep
  dsimp only; (repeat' split) <;> simp [toPlant]

@[simp] theorem plant_abandonArrive (s : State) (i : Nat) : (abandonArrive s i).plant = s.plant := by
  unfold abandonArrive; split <;> simp

@[simp] theorem plant_failStep (s : State) (i status : Nat) : (failStep s i status).plant = s.plant := by
  unfold failStep
  simp

@[simp] theorem plant_takeEntries (s : State) (t q n : Nat) : (takeEntries s t q n).2.plant = s.plant := by
  unfold takeEntries
  simp

@[simp] theorem plant_putEntry (s : State) (t q val : Nat) : (putEntry s t q val).plant = s.plant := by
  unfold putEntry
  simp

@[simp] theorem plant_readT1 (s : State) (t a n : Nat) : (readT1 s t a n).2.plant = s.plant := by
  unfold readT1
  dsimp only; (repeat' split) <;> simp

@[simp] theorem plant_writeT1 (s : State) (t a : Nat) (bs : Bytes) : (writeT1 s t a bs).2.plant = s.plant := by
  unfold writeT1; split <;> simp

@[simp] theorem plant_readRef (s : State) (t r idx none0 : Nat) : (readRef s t r idx none0).2.plant = s.plant := by
  unfold readRef
  (repeat' split) <;> simp

@[simp] theorem plant_writeRef (s : State) (t r idx v : Nat) : (writeRef s t r idx v).2.plant = s.plant := by
  unfold writeRef; dsimp only; split <;> simp

@[simp] theorem plant_readS (s : State) (t o : Nat) : (readS s t o).2.plant = s.plant := by
  unfold readS
  (repeat' split) <;> simp

@[simp] theorem plant_writeS (s : State) (t o v : Nat) : (writeS s t o v).plant = s.plant := by
  unfold writeS
  simp

@[simp] theorem plant_useBanks (s : State) (t p m : Nat) : (useBanks s t p m).plant = s.plant := by
  unfold useBanks
  simp

@[simp] theorem plant_landStream (s : State) (key : Nat) (st : Stream) (n : Nat) (b : Bytes) (bad : List Nat) :
    (landStream s key st n b bad).plant = s.plant := by
  unfold landStream; dsimp only
  refine (plant_foldl _ (fun s w => plant_poisonRange s _ _ _) _ _).trans (plant_foldl _ (fun s i => ?_) _ _)
  refine Eq.trans (b := (storeTier (countTier s _ _ _ _) _ _ _).plant) rfl ?_
  simp

@[simp] theorem plant_takeCredit (s : State) (t : Nat) (b : Bytes) : (takeCredit s t b).plant = s.plant := by
  unfold takeCredit
  (repeat' split) <;> simp [toPlant]

@[simp] theorem plant_creditFor (s : State) (ctx key : Nat) (b : Bytes) (t : Nat) : (creditFor s ctx key b t).plant = s.plant := by
  unfold creditFor
  simp

@[simp] theorem plant_freeUnit (s : State) (key : Nat) (st : Stream) (n : Nat) : (freeUnit s key st n).plant = s.plant := by
  unfold freeUnit
  (repeat' split) <;> simp

@[simp] theorem plant_exchangeArrive (s : State) (key : Nat) (st : Stream) (n : Nat) (b : Bytes) (bad : List Nat) :
    (exchangeArrive s key st n b bad).plant = s.plant := by
  unfold exchangeArrive
  (repeat' split) <;> simp

theorem plant_exchangePut_of {s : State} {t key : Nat} {st : Stream} {w : StreamTo} {b : Bytes} {x : Got × State}
    (h : exchangePut s t key st w b = some x) : x.2.plant = s.plant := by
  unfold exchangePut at h; dsimp only at h
  repeat' split at h
  all_goals (cases h; try simp [toPlant])

@[simp] theorem plant_closeExchange (s : State) (ts : List Nat) : (closeExchange s ts).plant = s.plant := by
  unfold closeExchange
  simp [toPlant]

@[simp] theorem plant_openStreamAt (s : State) (key : Nat) (st : Stream) : (openStreamAt s key st).plant = s.plant := by
  unfold openStreamAt
  simp [toPlant]

@[simp] theorem plant_openExchange (s : State) (i : Inst) : (openExchange s i).plant = s.plant := by
  unfold openExchange
  simp

@[simp] theorem plant_setLane (s : State) (t l : Nat) (f : LaneSt → LaneSt) : (setLane s t l f).plant = s.plant := by
  unfold setLane
  simp

@[simp] theorem plant_trapLane (s : State) (t l status : Nat) : (trapLane s t l status).plant = s.plant := by
  unfold trapLane
  dsimp only; (repeat' split) <;> simp

@[simp] theorem plant_settleGot (t l : Nat) (r : Got × State) : (settleGot t l r).plant = r.2.plant := by
  unfold settleGot; split <;> simp

@[simp] theorem plant_consumeTokens (s : State) (t : Nat) (w : InstrWord) : (consumeTokens s t w).plant = s.plant := by
  unfold consumeTokens
  simp

@[simp] theorem plant_advanceLane (s : State) (t l : Nat) (w : InstrWord) : (advanceLane s t l w).plant = s.plant := by
  unfold advanceLane
  simp

@[simp] theorem plant_progRead (s : State) (t pc : Nat) : (progRead s t pc).2.plant = s.plant := by
  unfold progRead
  rfl

theorem plant_laneEval {s : State} {t l : Nat} {w : InstrWord} {act : State → InstrWord → Got × State}
    (h : ∀ s w, (act s w).2.plant = s.plant) : (laneEval s t l w act).plant = s.plant := by
  unfold laneEval; dsimp only
  split
  · next he => simpa using plant_of_snd he (plant_progRead _ _ _)
  · next he =>
    have e := plant_of_snd he (plant_progRead _ _ _)
    split
    · split <;> simp [e]
    · split
      · simp [e]
      · split
        · next hx => simpa [e] using plant_of_snd hx (h _ _)
        · next hx => simpa [e] using plant_of_snd hx (h _ _)

theorem plant_laneRow {s : State} {t l : Nat} {isRow : InstrWord → Bool} {act : State → InstrWord → Got × State}
    (h : ∀ s w, (act s w).2.plant = s.plant) : (laneRow s t l isRow act).plant = s.plant := by
  unfold laneRow; split
  · rfl
  · split
    · exact plant_laneEval h
    · rfl

theorem plant_opRow {s : State} {t l op : Nat} {act : State → InstrWord → Got × State}
    (h : ∀ s w, (act s w).2.plant = s.plant) : (opRow s t l op act).plant = s.plant := plant_laneRow h

@[simp] theorem plant_plain (f : State → InstrWord → State) (s : State) (w : InstrWord) : (plain f s w).2.plant = (f s w).plant := rfl

@[simp] theorem plant_setlcAct (t : Nat) (s : State) (w : InstrWord) : (setlcAct t s w).plant = s.plant := by
  unfold setlcAct
  simp

@[simp] theorem plant_setFlag (s : State) (t f : Nat) (on : Bool) : (setFlag s t f on).plant = s.plant := by
  unfold setFlag
  simp

@[simp] theorem plant_flagAct (t : Nat) (on : Bool) (s : State) (w : InstrWord) : (flagAct t on s w).plant = s.plant := by
  unfold flagAct
  simp

@[simp] theorem plant_sendAct (t : Nat) (s : State) (w : InstrWord) : (sendAct t s w).2.plant = s.plant := by
  unfold sendAct
  dsimp only; (repeat' split) <;> simp

@[simp] theorem plant_eosAct (t : Nat) (s : State) (w : InstrWord) : (eosAct t s w).plant = s.plant := by
  unfold eosAct
  simp

@[simp] theorem plant_takeResult (s : State) (t reg item gen : Nat) : (takeResult s t reg item gen).plant = s.plant := by
  unfold takeResult
  simp

@[simp] theorem plant_holdSync (s : State) (t : Nat) (w : InstrWord) : (holdSync s t w).plant = s.plant := by
  unfold holdSync
  simp

@[simp] theorem plant_syncHere (s : State) (t : Nat) (w : InstrWord) (op n phys : Nat) : (syncHere s t w op n phys).2.plant = s.plant := by
  unfold syncHere
  dsimp only; (repeat' split) <;> simp

@[simp] theorem plant_syncThere (s : State) (t : Nat) (w : InstrWord) (ctx op n home phys : Nat) :
    (syncThere s t w ctx op n home phys).2.plant = s.plant := by
  unfold syncThere
  simp

@[simp] theorem plant_syncAct (t op : Nat) (s : State) (w : InstrWord) : (syncAct t op s w).2.plant = s.plant := by
  unfold syncAct; repeat' split
  all_goals first | rfl | simp

@[simp] theorem plant_anySync (t : Nat) (s : State) (w : InstrWord) : (anySync t s w).2.plant = s.plant := by
  unfold anySync; split
  · exact plant_syncAct _ _ _ _
  · rfl

@[simp] theorem plant_syncRow (s : State) (t op : Nat) : (syncRow s t op).plant = s.plant :=
  plant_laneRow fun s w => plant_syncAct t op s w

@[simp] theorem plant_checkWhere (s : State) (t n : Nat) (w : Where) : (checkWhere s t n w).2.plant = s.plant := by
  cases w <;> simp only [checkWhere] <;> (try split) <;> simp

@[simp] theorem plant_checkAll (s : State) (t : Nat) (ws : List (Where × Nat)) : (checkAll s t ws).2.plant = s.plant := by
  induction ws generalizing s with
  | nil => rfl
  | cons w ws ih =>
    obtain ⟨w, n⟩ := w
    have h := plant_checkWhere s t n w
    simp only [checkAll]; split
    · next he => rw [he] at h; exact h
    · next he => rw [he] at h; exact (ih _).trans h
theorem plant_checkAll_of {s u : State} {t : Nat} {ws : List (Where × Nat)} {g : Got} (h : checkAll s t ws = (g, u)) : u.plant = s.plant := by
  have := plant_checkAll s t ws; rw [h] at this; exact this
theorem plant_readRef_of {s u : State} {t r i v : Nat} {g : Got} (h : readRef s t r i v = (g, u)) : u.plant = s.plant := by
  have := plant_readRef s t r i v; rw [h] at this; exact this
theorem plant_writeRef_of {s u : State} {t r i v : Nat} {g : Got} (h : writeRef s t r i v = (g, u)) : u.plant = s.plant := by
  have := plant_writeRef s t r i v; rw [h] at this; exact this

@[simp] theorem plant_writeWhere (s : State) (t : Nat) (w : Where) (bs : Bytes) : (writeWhere s t w bs).2.plant = s.plant := by
  cases w <;> simp [writeWhere]

@[simp] theorem plant_setOp (s : State) (t l : Nat) (o : Option OpSt) : (setOp s t l o).plant = s.plant := by
  unfold setOp
  simp

@[simp] theorem plant_putBank (s : State) (t k : Nat) (r : Bank × Nat) : (putBank s t k r).plant = s.plant := by
  unfold putBank
  simp

@[simp] theorem plant_mxeStart (s : State) (t : Nat) (w : InstrWord) : (mxeStart s t w).plant = s.plant := by
  unfold mxeStart
  (repeat' split) <;> simp

@[simp] theorem plant_mxeLoad (s : State) (t : Nat) (w : InstrWord) : (mxeLoad s t w).plant = s.plant := by
  unfold mxeLoad
  simp

@[simp] theorem plant_mxeAdd (s : State) (t : Nat) (w : InstrWord) (lo hi : Nat) : (mxeAdd s t w lo hi).2.plant = s.plant := by
  unfold mxeAdd
  dsimp only; split
  · next h => exact plant_of_snd h (by simp)
  · next h =>
    have e := plant_of_snd (s := s) h (by simp)
    (repeat' split) <;> simp [e]

@[simp] theorem plant_mxeDrain (s : State) (t : Nat) (w : InstrWord) : (mxeDrain s t w).2.plant = s.plant := by
  unfold mxeDrain
  simp

@[simp] theorem plant_mxeEnd (s : State) (t : Nat) (o : OpSt) : (mxeEnd s t o).2.plant = s.plant := by
  unfold mxeEnd
  dsimp only; split
  · next h => exact plant_of_snd h (by simp)
  · next h =>
    have e := plant_of_snd (s := s) h (by simp)
    split <;> simp [e]

@[simp] theorem plant_mxeAct (t : Nat) (s : State) (w : InstrWord) : (mxeAct t s w).2.plant = s.plant := by
  unfold mxeAct; dsimp only; split
  · next he => exact plant_checkAll_of he
  · next he =>
    have h := plant_checkAll_of he
    split
    · simp [h]
    · split <;> simp [h]

@[simp] theorem plant_mergeAct (t : Nat) (s : State) (w : InstrWord) : (mergeAct t s w).2.plant = s.plant := by
  unfold mergeAct; split
  · next h => exact plant_of_snd h (by simp)
  · next h =>
    have e := plant_of_snd (s := s) h (by simp)
    simp [e]

@[simp] theorem plant_mergeEnd (s : State) (t : Nat) (w : InstrWord) : (mergeEnd s t w).plant = s.plant := by
  unfold mergeEnd
  simp

@[simp] theorem plant_loadEnd (s : State) (t : Nat) (o : OpSt) : (loadEnd s t o).plant = s.plant := by
  unfold loadEnd
  simp

@[simp] theorem plant_drainTick (s : State) (t : Nat) : (drainTick s t).plant = s.plant := by
  unfold drainTick
  dsimp only; (repeat' split) <;> simp

@[simp] theorem plant_mxeTick (s : State) (t : Nat) : (mxeTick s t).1.plant = s.plant := by
  unfold mxeTick; dsimp only
  repeat' split
  all_goals simp

@[simp] theorem plant_mxeAddAll (s : State) (t : Nat) (w : InstrWord) (l : List Nat) : (mxeAddAll s t w l).2.plant = s.plant := by
  induction l generalizing s with
  | nil => rfl
  | cons lo los ih =>
    unfold mxeAddAll; split
    · next he => exact plant_of_snd he (plant_mxeAdd _ _ _ _ _)
    · next he => exact (ih _).trans (plant_of_snd he (plant_mxeAdd _ _ _ _ _))

@[simp] theorem plant_mxeRunOut (s : State) (t : Nat) (o : OpSt) : (mxeRunOut s t o).2.plant = s.plant := by
  unfold mxeRunOut; dsimp only; split
  · next he => exact plant_of_snd he (plant_mxeAddAll _ _ _ _)
  · next he => exact (plant_mxeEnd _ _ _).trans (plant_of_snd he (plant_mxeAddAll _ _ _ _))

@[simp] theorem plant_endDrain (s : State) (t : Nat) : (endDrain s t).plant = s.plant := by
  unfold endDrain
  simp

@[simp] theorem plant_vopAct (t : Nat) (s : State) (w : InstrWord) : (vopAct t s w).2.plant = s.plant := by
  unfold vopAct; dsimp only
  split
  · next h1 => exact plant_of_snd h1 (plant_readRef _ _ _ _ _)
  · next h1 =>
    have e1 := plant_of_snd h1 (plant_readRef _ _ _ _ _)
    split
    · next h2 => exact (plant_of_snd h2 (plant_readRef _ _ _ _ _)).trans e1
    · next h2 =>
      have e2 := (plant_of_snd h2 (plant_readRef _ _ _ _ _)).trans e1
      split
      · next h3 => exact (plant_of_snd h3 (by split <;> simp)).trans e2
      · next h3 =>
        have e3 := (plant_of_snd h3 (by split <;> simp)).trans e2
        split
        · next h4 => exact (plant_of_snd h4 (by simp)).trans e3
        · next h4 =>
          have e4 := (plant_of_snd h4 (by simp)).trans e3
          split
          · simp [e4]
          · simp [e4]

@[simp] theorem plant_sopB (s : State) (t : Nat) (w : InstrWord) : (sopB s t w).2.plant = s.plant := by
  unfold sopB
  (repeat' split) <;> simp

@[simp] theorem plant_sopAct (t : Nat) (s : State) (w : InstrWord) : (sopAct t s w).2.plant = s.plant := by
  unfold sopAct
  dsimp only; split
  · next h => exact plant_of_snd h (by simp)
  · next h =>
    have e := plant_of_snd (s := s) h (by simp)
    split
    · next h2 => exact (plant_of_snd h2 (by simp)).trans e
    · next h2 =>
      have e2 := (plant_of_snd h2 (plant_sopB _ _ _)).trans e
      split
      · split
        · exact e2
        · split
          · next h3 => exact (plant_of_snd h3 (by simp)).trans e2
          · next h3 => exact (plant_writeS _ _ _ _).trans ((plant_of_snd h3 (plant_readT1 _ _ _ _)).trans e2)
      · split
        · split <;> simp [e2]
        · simp [e2]

@[simp] theorem plant_kvLand (s : State) (t tier off n : Nat) : (kvLand s t tier off n).plant = s.plant := by
  unfold kvLand
  (repeat' split) <;> simp

@[simp] theorem plant_t2Copy (s : State) (t : Nat) (w : InstrWord) (lo hi : Nat) : (t2Copy s t w lo hi).2.plant = s.plant := by
  unfold t2Copy
  dsimp only; split
  · split <;> simp
  · split
    · next h => exact plant_of_snd h (by simp)
    · next h =>
      refine (plant_foldl _ (fun s i => plant_kvLand s _ _ _ _) _ _).trans ?_
      simpa using plant_of_snd (s := s) h (by simp)

@[simp] theorem plant_t2Act (t : Nat) (s : State) (w : InstrWord) : (t2Act t s w).2.plant = s.plant := by
  unfold t2Act; dsimp only; split
  · rfl
  · split
    · next h => exact plant_of_snd h (by split <;> simp)
    · next h => exact (plant_setOp _ _ _ _).trans (plant_of_snd h (by split <;> simp))

@[simp] theorem plant_t2End (s : State) (t : Nat) (w : InstrWord) : (t2End s t w).plant = s.plant := by
  unfold t2End
  simp

@[simp] theorem plant_t2Rest (s : State) (t : Nat) (o : OpSt) : (t2Rest s t o).plant = s.plant := by
  unfold t2Rest
  split
  · next h => simpa using plant_of_snd (s := s) h (by simp)
  · next h => simpa using plant_of_snd (s := s) h (by simp)

@[simp] theorem plant_t2Tick (s : State) (t : Nat) : (t2Tick s t).1.plant = s.plant := by
  unfold t2Tick; dsimp only; split
  · rfl
  · (repeat' split) <;> simp

@[simp] theorem plant_galRemote (s : State) (t ctx : Nat) (w : InstrWord) (obj : Nat) (e : DirEntry) :
    (galRemote s t ctx w obj e).plant = s.plant := by
  unfold galRemote
  simp

@[simp] theorem plant_galAct (t : Nat) (s : State) (w : InstrWord) : (galAct t s w).2.plant = s.plant := by
  unfold galAct
  dsimp only; (repeat' split) <;> simp

@[simp] theorem plant_galEnd (s : State) (t : Nat) (w : InstrWord) (bytes : Nat) : (galEnd s t w bytes).plant = s.plant := by
  unfold galEnd
  simp

@[simp] theorem plant_galStreamDone (s : State) (t : Nat) (w : InstrWord) : (galStreamDone s t w).plant = s.plant := by
  unfold galStreamDone; dsimp only; split
  · rfl
  · split
    · split
      · rfl
      · split <;> split <;> simp [toPlant]
    · split
      · simp
      · split
        · simp
        · split
          · simp [toPlant]
          · split
            · simp
            · next h => simpa using plant_exchangePut_of h
            · next h => simpa using plant_exchangePut_of h

@[simp] theorem plant_galAddressDone (s : State) (t : Nat) (w : InstrWord) : (galAddressDone s t w).plant = s.plant := by
  unfold galAddressDone
  simp

@[simp] theorem plant_galAddressGo (s : State) (t : Nat) (w : InstrWord) : (galAddressGo s t w).plant = s.plant := by
  unfold galAddressGo
  (repeat' split) <;> simp

@[simp] theorem plant_galTick (s : State) (t : Nat) : (galTick s t).1.plant = s.plant := by
  unfold galTick
  dsimp only; (repeat' split) <;> simp

@[simp] theorem plant_startReturn (s : State) (t q : Nat) : (startReturn s t q).plant = s.plant := by
  unfold startReturn
  simp

@[simp] theorem plant_actOf (t : Nat) (w : InstrWord) (s : State) (v : InstrWord) : (actOf t w s v).2.plant = s.plant := by
  have key : ∀ f, actOf t w = f → (f s v).2.plant = s.plant := by
    intro f hf
    unfold actOf at hf
    split at hf <;> subst hf <;> simp
  exact key _ rfl

@[simp] theorem plant_runLane (t : Nat) (s : State) (l : Nat) : (runLane t s l).plant = s.plant :=
  plant_laneRow fun s w => plant_actOf t w s w

@[simp] theorem plant_setEngine (s : State) (e : Nat) (q : List Fetch) : (setEngine s e q).plant = s.plant := by
  unfold setEngine
  rfl

@[simp] theorem plant_onFetch (s : State) (e i : Nat) (f : Fetch → Fetch) : (onFetch s e i f).plant = s.plant := by
  unfold onFetch
  rfl

@[simp] theorem plant_fetchLost (s : State) (e i status : Nat) : (fetchLost s e i status).plant = s.plant := by
  unfold fetchLost
  (repeat' split) <;> simp

@[simp] theorem plant_fetchRemote (s : State) (e i : Nat) (f : Fetch) (d : DirEntry) (at_ : Nat) :
    (fetchRemote s e i f d at_).plant = s.plant := by
  unfold fetchRemote
  simp

@[simp] theorem plant_issueFetch (s : State) (e i : Nat) (f : Fetch) (st : Stream) : (issueFetch s e i f st).plant = s.plant := by
  unfold issueFetch
  dsimp only; (repeat' split) <;> simp [toPlant]

@[simp] theorem plant_askDep (s : State) (e i : Nat) (f : Fetch) (home phys n : Nat) : (askDep s e i f home phys n).plant = s.plant := by
  unfold askDep
  simp

@[simp] theorem plant_unitDone (s : State) (e i : Nat) (f : Fetch) (st : Stream) : (unitDone s e i f st).plant = s.plant := by
  unfold unitDone
  simp

@[simp] theorem plant_unitLanded (s : State) (e i : Nat) (f : Fetch) (st : Stream) : (unitLanded s e i f st).plant = s.plant := by
  unfold unitLanded
  simp [toPlant]

@[simp] theorem plant_landFetch (s : State) (e i : Nat) (f : Fetch) (st : Stream) (d : DirEntry) :
    (landFetch s e i f st d).plant = s.plant := by
  unfold landFetch
  simp

@[simp] theorem plant_landStore (s : State) (e i : Nat) (f : Fetch) (st : Stream) (d : DirEntry) :
    (landStore s e i f st d).plant = s.plant := by
  unfold landStore
  (repeat' split) <;> simp [toPlant]

@[simp] theorem plant_fetchRedirect (s : State) (e i : Nat) (f : Fetch) (st : Stream) (d : DirEntry) :
    (fetchRedirect s e i f st d).plant = s.plant := by
  unfold fetchRedirect
  simp

@[simp] theorem plant_fetchHere (s : State) (e i : Nat) (f : Fetch) (st : Stream) (d : DirEntry) :
    (fetchHere s e i f st d).plant = s.plant := by
  unfold fetchHere
  simp

theorem plant_openStream_of {s u : State} {t a b c d : Nat} {x y z : Nat} (h : openStream s t a b c d = some (x, y, z, u)) : u.plant = s.plant := by
  unfold openStream at h
  dsimp only at h
  split at h
  · cases h
  · simp only [Option.some.injEq, Prod.mk.injEq] at h
    obtain ⟨_, _, _, rfl⟩ := h; rfl

@[simp] theorem plant_postFetches (s : State) (ctx kind tile : Nat) (st : Nat × Nat × Nat) (unit slots n : Nat) (whole : Bool) (fs : List (Nat × Nat × Nat)) :
    (postFetches s ctx kind tile st unit slots n whole fs).plant = s.plant := by
  unfold postFetches
  rfl

@[simp] theorem plant_streamIn (s : State) (ctx kind tile unit slots rate obj : Nat) (fs : List (Nat × Nat × Nat)) :
    (streamIn s ctx kind tile unit slots rate obj fs).2.plant = s.plant := by
  unfold streamIn; split
  · rfl
  · split
    · rfl
    · next h => simpa using plant_openStream_of h

@[simp] theorem plant_itemStreams (s : State) (ctx tile : Nat) (o : ShapeOp) (i : Item) :
    (itemStreams s ctx tile o i).2.plant = s.plant := by
  unfold itemStreams
  simp

@[simp] theorem plant_writeWork (s : State) (ctx tile op start : Nat) (o : ShapeOp) (is : List Item) :
    (writeWork s ctx tile op start o is).plant = s.plant := by
  have e : ∀ (l : List (Item × Nat)) (x : State × Bytes), (l.foldl (fun (x : State × Bytes) i =>
      let y := itemStreams x.1 ctx tile o i.1
      (y.2, x.2 ++ workEntry x.1 o i.1 (i.2 + 1 == is.length) y.1)) x).1.plant = x.1.plant :=
    fun l x => plant_foldl1 _ (fun x i => by simp) _ _
  unfold writeWork; dsimp only at e ⊢; rw [plant_storeTier]
  split <;> exact e _ _

@[simp] theorem plant_expandOp (s : State) (i : Inst) (start op : Nat) (o : ShapeOp) (items : List Item) :
    (expandOp s i start op o items).plant = s.plant := by
  unfold expandOp
  simp

@[simp] theorem plant_expandGraph (s : State) (i : Inst) (start : Nat) (recs : Bytes) (tabs : AMap Bytes) :
    (expandGraph s i start recs tabs).plant = s.plant := by
  unfold expandGraph
  simp

@[simp] theorem plant_readTables (s : State) (ctx : Nat) (p : Shape) (h : Nat × Nat) (far : Bytes) :
    (readTables s ctx p h far).plant = s.plant := by
  unfold readTables
  simp

@[simp] theorem plant_startGraphs (s : State) (k : Nat) : (startGraphs s k).plant = s.plant := by
  unfold startGraphs
  (repeat' split) <;> simp [toPlant]

@[simp] theorem plant_openPages (s : State) (g : Group) (x : Nat × PageStream) (a w : Bool) : (openPages s g x a w).1.plant = s.plant := by
  have e3 (u : State) (n : AMap Stream) : ({ u with streams := n } : State).plant = u.plant := rfl
  unfold openPages; split
  · next h => dsimp only; rw [plant_postFetches, plant_fwBump, e3]; exact plant_openStream_of h
  · rfl

@[simp] theorem plant_prefetchPages (s : State) (k : Nat) : (prefetchPages s k).plant = s.plant := by
  have e3 (u : State) (n : AMap Group) : ({ u with groups := n } : State).plant = u.plant := rfl
  unfold prefetchPages; split
  · rfl
  · split
    · split
      · rfl
      · dsimp only; rw [e3]
        exact plant_foldl1 _ (fun x i => plant_foldl1 _ (fun x y => by simp) _ _) _ _
    · rfl

@[simp] theorem plant_emitPages (s : State) (g : Group) (k : Nat) (i : Inst) (es : List PEntry) :
    (emitPages s g k i es).plant = s.plant := by
  unfold emitPages; split
  · rfl
  · refine plant_foldl _ (fun s x => ?_) _ _
    split
    · simp
    · dsimp only; split <;> simp

@[simp] theorem plant_withTokenRoom (s : State) (g : Group) (rs : List (Nat × Req)) : (withTokenRoom s g rs).1.plant = s.plant := by
  unfold withTokenRoom
  simp

@[simp] theorem plant_endLong (s : State) (g : Group) : (endLong s g).1.plant = s.plant := by
  unfold endLong; dsimp only; rw [plant_finishEnds, plant_deliver]
  exact plant_foldl1 _ (fun x r => by simp) _ _

@[simp] theorem plant_limitVersions (s : State) (g : Group) (n : Nat) (ws : List Wish) : (limitVersions s g n ws).1.plant = s.plant := by
  refine plant_foldl1 _ (fun x w => ?_) _ _
  repeat' split
  all_goals simp

@[simp] theorem plant_takePages (s : State) (g : Group) (ws : List Wish) : (takePages s g ws).1.plant = s.plant := by
  refine plant_foldl1 _ (fun x w => ?_) _ _
  split
  · rfl
  · dsimp only
    repeat' split
    all_goals first | rfl | simp

@[simp] theorem plant_startMove (s : State) (g : Group) (r j : Nat) : (startMove s g r j).1.plant = s.plant := by
  unfold startMove
  (repeat' split) <;> simp

@[simp] theorem plant_demotePages (s : State) (g : Group) : (demotePages s g).1.plant = s.plant := by
  refine plant_foldl1 _ (fun x j => ?_) _ _
  exact plant_startMove x.1 x.2 j.1 j.2

@[simp] theorem plant_promotePages (s : State) (g : Group) (rs : List Nat) : (promotePages s g rs).1.plant = s.plant := by
  refine plant_foldl1 _ (fun x j => ?_) _ _
  split <;> simp

@[simp] theorem plant_planInst (s : State) (g : Group) (rs : List (Nat × Req)) (i : Nat) (inst : Inst) :
    (planInst s g rs i inst).1.plant = s.plant := by
  unfold planInst
  simp [toPlant]

@[simp] theorem plant_floorArrive (s : State) (k : Nat) : (floorArrive s k).plant = s.plant := by
  unfold floorArrive
  (repeat' split) <;> simp [toPlant]

@[simp] theorem plant_planReached (s : State) (k : Nat) : (planReached s k).plant = s.plant := by
  unfold planReached
  (repeat' split) <;> simp [toPlant]

@[simp] theorem plant_planStep (s : State) (g : Group) (k : Nat) : (planStep s g k).plant = s.plant := by
  have e1 : ∀ (is : List (Nat × Inst)) (c : State × List (Nat × Req)) (g : Group),
      (is.foldl (fun (x : State × Group × List PEntry × List (Nat × Nat × KvPage) × Nat) i =>
        let y := planInst x.1 x.2.1 c.2 i.1 i.2
        (y.1, y.2.1, x.2.2.1 ++ y.2.2.1, x.2.2.2.1 ++ y.2.2.2.1, max x.2.2.2.2 y.2.2.2.2)) (c.1, g, [], [], 0)).1.plant = c.1.plant := by
    intro is c g
    refine plant_foldl1 _ (fun x i => ?_) _ _
    exact plant_planInst _ _ _ _ _
  have e2 : ∀ (l : List Nat) (u : State) (c : Nat) (b : Bytes), (l.foldl (fun (x : State × List Nat) m =>
      (sendCtrl x.1 m c .firmware b, x.2 ++ [x.1.net.msgNext])) (u, [])).1.plant = u.plant := by
    intro l u c b
    refine plant_foldl1 _ (fun x m => ?_) _ _
    exact plant_sendCtrl _ _ _ _ _
  have e3 (u : State) (n : Nat) : ({ u with fv := n } : State).plant = u.plant := rfl
  have e5 := (e1 (groupInsts s g) (withTokenRoom s g (candidates s g)) g).trans (plant_withTokenRoom _ _ _)
  unfold planStep
  dsimp only at e5 ⊢
  generalize List.foldl _ ((withTokenRoom s g (candidates s g)).1, g, ([] : List PEntry), ([] : List (Nat × Nat × KvPage)), 0) (groupInsts s g) = x at e5 ⊢
  split
  · rw [plant_setGroup]; exact e5
  · rw [plant_planReached, plant_setGroup, e3, e2, plant_promotePages, plant_demotePages]; exact e5

@[simp] theorem plant_stepPlan (s : State) (k : Nat) : (stepPlan s k).plant = s.plant := by
  unfold stepPlan; split
  · rfl
  · split
    · rfl
    · exact (plant_planStep _ _ _).trans (plant_endLong _ _)

@[simp] theorem plant_applyAlloc (x : State × Group) (b : Bytes) : (applyAlloc x b).1.plant = x.1.plant := by
  unfold applyAlloc; dsimp only
  (repeat' split) <;> simp

@[simp] theorem plant_takePlan (s : State) (ctx src : Nat) (b : Bytes) : (takePlan s ctx src b).plant = s.plant := by
  unfold takePlan; split
  · rfl
  · dsimp only; rw [plant_prefetchPages, plant_setGroup]
    exact plant_foldl1 _ (fun x i => by simp) _ _

@[simp] theorem plant_expandPass (s : State) (g : Group) (k : Nat) (i : Inst) (pass : Nat) : (expandPass s g k i pass).plant = s.plant := by
  unfold expandPass
  (repeat' split) <;> simp

@[simp] theorem plant_writeLengths (s : State) (g : Group) (i : Inst) (tab : Bytes) : (writeLengths s g i tab).plant = s.plant := by
  unfold writeLengths
  simp

@[simp] theorem plant_deferPart (s : State) (k : Nat) (p : Plan) : (deferPart s k p).plant = s.plant := by
  unfold deferPart; dsimp only
  refine plant_foldl _ (fun s i => ?_) _ _
  rw [plant_leaveRun]; cases mget s.groups k <;> simp

@[simp] theorem plant_deferGroup (s : State) (g : Group) : (deferGroup s g).plant = s.plant := by
  unfold deferGroup
  simp

@[simp] theorem plant_routeStep (s : State) (g : Group) (p : Plan) (r : List LayerLogits) : (routeStep s g p r).1.plant = s.plant := by
  unfold routeStep; dsimp only
  refine plant_foldl1 _ (fun x l => ?_) _ _
  exact plant_foldl _ (fun s y => by simp) _ _

@[simp] theorem plant_dropPages (s : State) (q : Req) : (dropPages s q).1.plant = s.plant := by
  unfold dropPages
  simp

@[simp] theorem plant_writeOut (s : State) (q : Req) (vals : List W32) : (writeOut s q vals).plant = s.plant := by
  unfold writeOut
  dsimp only; (repeat' split) <;> simp

@[simp] theorem plant_switchPages (s : State) (g : Group) : (switchPages s g).1.plant = s.plant := by
  refine plant_foldl1 _ (fun x r => ?_) _ _
  split <;> simp

@[simp] theorem plant_closeStreams (s : State) (ts : List Nat) : (closeStreams s ts).plant = s.plant := by
  unfold closeStreams
  simp [toPlant]

@[simp] theorem plant_finishGraphs (s : State) (k : Nat) (i : Inst) : (finishGraphs s k i).plant = s.plant := by
  unfold finishGraphs
  simp [toPlant]

@[simp] theorem plant_endInst (s : State) (k : Nat) (i : Inst) : (endInst s k i).plant = s.plant := by
  unfold endInst
  simp [toPlant]

@[simp] theorem plant_settleEnd (x : Settling) (p : Shape) (r : Nat) (q : Req) (ts : List Nat) (late : Bool) :
    (settleEnd x p r q ts late).s.plant = x.s.plant := by
  unfold settleEnd; dsimp only
  repeat' split
  all_goals simp
@[simp] theorem plant_settleChunk (x : Settling) (p : Shape) (e : PEntry) (o : EntryOut) (q : Req) (slot : Nat) (ds : List (List Nat))
    (ends prefill : Bool) : (settleChunk x p e o q slot ds ends prefill).s.plant = x.s.plant := by
  unfold settleChunk; dsimp only
  repeat' split
  all_goals simp
@[simp] theorem plant_settleTree (x : Settling) (p : Shape) (e : PEntry) (o : EntryOut) (q : Req) (slot : Nat) (ds : List (List Nat)) :
    (settleTree x p e o q slot ds).s.plant = x.s.plant := by
  unfold settleTree; dsimp only; rw [plant_settleEnd]; simp
@[simp] theorem plant_settleEntry (x : Settling) (e : PEntry) (o : EntryOut) (slot : Nat) (ds : List (List Nat)) :
    (settleEntry x e o slot ds).s.plant = x.s.plant := by
  unfold settleEntry; dsimp only
  repeat' split
  all_goals simp
@[simp] theorem plant_applySlo (x : Settling) : (applySlo x).s.plant = x.s.plant := by
  refine foldl_keeps (fun x : Settling => x.s.plant) _ (fun x r => ?_) _ _
  repeat' split
  all_goals simp
@[simp] theorem plant_settleGroup (s : State) (g : Group) (p : Plan) (o : List EntryOut) (r : List LayerLogits) :
    (settleGroup s g p o r).plant = s.plant := by
  have e1 : ∀ (l : List (PEntry × Nat)) (slots : List Nat) (ds : List (List Nat)) (x : Settling), (l.foldl (fun x e =>
      settleEntry x e.1 (o.getD e.2 { nodeTokens := [], logits := [] }) (slots.getD e.2 0) ds) x).s.plant = x.s.plant := by
    intro l slots ds x
    refine foldl_keeps (fun x : Settling => x.s.plant) _ (fun x e => ?_) _ _
    exact plant_settleEntry _ _ _ _ _
  have e2 : ∀ (l : List (Nat × Inst)) (u : State), (l.foldl (fun s i => endInst s i.1 i.2) u).plant = u.plant := by
    intro l u
    refine plant_foldl _ (fun s i => ?_) _ _
    exact plant_endInst _ _ _
  unfold settleGroup; dsimp only
  rw [plant_ite, plant_groupArrive, ite_self, plant_setGroup, plant_switchPages, plant_finishEnds]
  split
  · rw [plant_deliver, plant_applyEnds, plant_applySlo, e1]; exact (e2 _ _).trans (plant_routeStep _ _ _ _)
  · rw [plant_applyEnds, e1]; exact (e2 _ _).trans (plant_routeStep _ _ _ _)

@[simp] theorem plant_takeSettle (s : State) (ctx : Nat) (b : Bytes) : (takeSettle s ctx b).plant = s.plant := by
  unfold takeSettle
  simp

@[simp] theorem plant_mapVid (s : State) (ctx vid phys home kind : Nat) : (mapVid s ctx vid phys home kind).plant = s.plant := by
  unfold mapVid
  rfl

@[simp] theorem plant_declare (s : State) (ctx k : Nat) (hd : Bytes) (d : SyncDecl) : (declare s ctx k hd d).plant = s.plant := by
  unfold declare
  dsimp only; (repeat' split) <;> simp [toPlant]

@[simp] theorem plant_declareAll (s : State) (ctx k : Nat) (h : HImg) : (declareAll s ctx k h).plant = s.plant := by
  unfold declareAll
  simp [toPlant]

@[simp] theorem plant_undeclareAll (s : State) (ctx k : Nat) : (undeclareAll s ctx k).plant = s.plant := by
  unfold undeclareAll
  rfl

@[simp] theorem plant_freshProg (s : State) (t : Nat) : (freshProg s t).plant = s.plant := by
  unfold freshProg
  rfl

@[simp] theorem plant_clearTile (s : State) (t : Nat) : (clearTile s t).plant = s.plant := by
  unfold clearTile
  simp

@[simp] theorem plant_configTile (s : State) (k rel t : Nat) (x : TileImg) : (configTile s k rel t x).plant = s.plant := by
  unfold configTile
  simp

@[simp] theorem plant_pinAll (s : State) (objs : List Nat) (up : Bool) : (pinAll s objs up).plant = s.plant := by
  refine plant_foldl _ (fun s o => ?_) _ _
  split <;> simp

@[simp] theorem plant_placeInst (s : State) (k ctx uid group first : Nat) (h : HImg) (roles : List (Nat × Nat × Nat)) (x : Resolve) :
    (placeInst s k ctx uid group first h roles x).plant = s.plant := by
  unfold placeInst
  simp [toPlant]

@[simp] theorem plant_formGroup (s : State) (ctx num : Nat) (h : Harness) (hdr : Bytes) (x : Resolve) :
    (formGroup s ctx num h hdr x).plant = s.plant := by
  unfold formGroup
  dsimp only; (repeat' split) <;> simp

@[simp] theorem plant_enterGroup (s : State) (ctx num : Nat) (h : Harness) (hdr : Bytes) (x : Resolve) :
    (enterGroup s ctx num h hdr x).plant = s.plant := by
  unfold enterGroup
  simp

@[simp] theorem plant_dropGroup (s : State) (g : Group) : (dropGroup s g).plant = s.plant := by
  unfold dropGroup
  rfl

@[simp] theorem plant_endAll (s : State) (g : Group) (st : Nat) : (endAll s g st).plant = s.plant := by
  have e : ∀ l : List Nat, (l.foldl (fun (x : State × Group × List (Nat × Settled)) r =>
    match (x.2.1).req? r with
    | none => x
    | some q =>
      if q.live || q.state == .held then
        let y := endReq x.1 x.2.1 r st
        (y.1, y.2, x.2.2 ++ [endRecord g r st q])
      else x) (s, g, [])).1.plant = s.plant := by
    intro l
    refine plant_foldl1 _ (fun x r => ?_) _ _
    repeat' split
    all_goals simp
  unfold endAll; dsimp only
  rw [plant_setGroup, plant_finishEnds]
  split
  · rw [plant_deliver]; exact e _
  · exact e _

@[simp] theorem plant_leaveGroup (s : State) (k ctx num : Nat) (done : Bool) : (leaveGroup s k ctx num done).plant = s.plant := by
  unfold leaveGroup
  dsimp only; (repeat' split) <;> simp

@[simp] theorem plant_demandBound (s : State) (ctx : Nat) (h : HImg) (roles : List (Nat × Nat × Nat)) :
    (demandBound s ctx h roles).plant = s.plant := by
  unfold demandBound
  refine plant_foldl _ (fun s x => ?_) _ s
  (repeat' split) <;> first | rfl | simp_all

@[simp] theorem plant_bindHarness (s : State) (d : Nat) (t : Taken) (table : Bytes) : (bindHarness s d t table).plant = s.plant := by
  have e : ∀ (c : Prop) [Decidable c] (l : List Nat) (u : State), (if c then l.foldl clearTile u else u).plant = u.plant := by
    intro c _ l u; split
    · exact plant_foldl _ (fun s t => plant_clearTile s t) _ _
    · rfl
  unfold bindHarness; dsimp only
  repeat' split
  all_goals simp [toPlant]

@[simp] theorem plant_discardQueues (s : State) (ts : List Nat) : (discardQueues s ts).plant = s.plant := by
  unfold discardQueues
  simp

@[simp] theorem plant_dropParked (s : State) (ts : List Nat) : (dropParked s ts).plant = s.plant := by
  refine plant_foldl _ (fun s t => ?_) _ _
  split <;> simp

@[simp] theorem plant_dropTileWork (s : State) (ts : List Nat) : (dropTileWork s ts).plant = s.plant := by
  unfold dropTileWork
  simp [toPlant]

@[simp] theorem plant_removeInst (s : State) (k : Nat) (keepPark : Bool) : (removeInst s k keepPark).plant = s.plant := by
  unfold removeInst
  (repeat' split) <;> simp [toPlant]

@[simp] theorem plant_unstop (s : State) : (unstop s).plant = s.plant := by
  unfold unstop
  simp [toPlant]

@[simp] theorem plant_finishUnbind (s : State) (k : Nat) : (finishUnbind s k).plant = s.plant := by
  unfold finishUnbind
  (repeat' split) <;> simp

@[simp] theorem plant_setSwitch (s : State) (k : Nat) (w : Option Switch) : (setSwitch s k w).plant = s.plant := by
  unfold setSwitch
  rfl

@[simp] theorem plant_abandonSwitch (s : State) (k status : Nat) : (abandonSwitch s k status).plant = s.plant := by
  unfold abandonSwitch
  (repeat' split) <;> simp

@[simp] theorem plant_startSwitch (s : State) (k : Nat) (i : Inst) (overlay mode fallback limit commit desc : Nat) :
    (startSwitch s k i overlay mode fallback limit commit desc).plant = s.plant := by
  unfold startSwitch
  rfl

@[simp] theorem plant_reassignIdle (s : State) (k : Nat) : (reassignIdle s k).plant = s.plant := by
  unfold reassignIdle
  (repeat' split) <;> simp

@[simp] theorem plant_applyNext (s : State) (k : Nat) (i : Inst) (w : Switch) : (applyNext s k i w).plant = s.plant := by
  unfold applyNext
  simp

@[simp] theorem plant_clearRegion (s : State) (ts : List Nat) : (clearRegion s ts).plant = s.plant := by
  unfold clearRegion
  simp

@[simp] theorem plant_parkStep (s : State) (k : Nat) (i : Inst) : (parkStep s k i).plant = s.plant := by
  unfold parkStep
  simp [toPlant]

@[simp] theorem plant_resumeStep (s : State) (k : Nat) (i : Inst) : (resumeStep s k i).plant = s.plant := by
  unfold resumeStep
  (repeat' split) <;> simp [toPlant]

@[simp] theorem plant_switchFrozen (s : State) (k : Nat) (i : Inst) (w : Switch) : (switchFrozen s k i w).plant = s.plant := by
  unfold switchFrozen
  dsimp only; (repeat' split) <;> simp

@[simp] theorem plant_ringEpochs (s : State) (t : Nat) (c : TileCore) (ep : Nat) : (ringEpochs s t c ep).plant = s.plant := by
  unfold ringEpochs
  simp

@[simp] theorem plant_applyTile (s : State) (t : Nat) (x : TileImg) (inits : List InitData) (resume stalled : Bool) :
    (applyTile s t x inits resume stalled).plant = s.plant := by
  unfold applyTile
  dsimp only; (repeat' split) <;> simp

@[simp] theorem plant_wroteProg (s : State) (t first n : Nat) : (wroteProg s t first n).plant = s.plant := by
  unfold wroteProg
  rfl

@[simp] theorem plant_applyBayTiles (s : State) (i : Inst) (uid b : Nat) (r : Bool) : (applyBayTiles s i uid b r).plant = s.plant := by
  refine plant_foldl _ (fun s t => ?_) _ _
  split <;> simp

@[simp] theorem plant_endSwitch (s : State) (k : Nat) (w : Switch) : (endSwitch s k w).plant = s.plant := by
  unfold endSwitch
  dsimp only; (repeat' split) <;> simp [toPlant]

@[simp] theorem plant_abandonEarly (s : State) (k : Nat) (i : Inst) : (abandonEarly s k i).plant = s.plant := by
  unfold abandonEarly
  (repeat' split) <;> simp

@[simp] theorem plant_dropCopies (s : State) (ctx : Nat) : (dropCopies s ctx).plant = s.plant := by
  unfold dropCopies
  refine plant_foldl _ (fun s x => ?_) _ s
  (repeat' split) <;> first | rfl | simp_all [toPlant]

@[simp] theorem plant_writeArea (s : State) (d : Nat) (sv : Save) (e : DirEntry) (area : Bytes) (bad : List Nat) :
    (writeArea s d sv e area bad).plant = s.plant := by
  unfold writeArea
  simp

@[simp] theorem plant_endSave (s : State) (d : Nat) : (endSave s d).plant = s.plant := by
  unfold endSave; split
  · rfl
  · dsimp only; rw [plant_complete]; split
    · refine (plant_foldl _ (fun s i => ?_) _ _).trans ((plant_foldl _ (fun s i => ?_) _ _).trans rfl)
      · simp [toPlant]
      · cases mget s.groups (groupKey i.2.ctx i.2.group) <;> simp
    · refine (plant_foldl _ (fun s i => ?_) _ _).trans rfl
      split <;> simp

@[simp] theorem plant_writeSave (s : State) (d : Nat) (sv : Save) (e : DirEntry) : (writeSave s d sv e).plant = s.plant := by
  have e3 (u : State) (n : AMap Save) : ({ u with saves := n } : State).plant = u.plant := rfl
  have e4 (u : State) (c : AMap CcState) (n : Nat) : ({ u with ccs := c, fv := n } : State).plant = u.plant := rfl
  have k : ∀ (l : List (Nat × Inst)) (f : State → Bytes → List Nat → Nat × Inst → State × Bytes × List Nat)
      (_ : ∀ u b p i, (f u b p i).1.plant = u.plant), (l.foldl (fun x i => f x.1 x.2.1 x.2.2 i) (s, [], [])).1.plant = s.plant :=
    fun l f h => plant_foldl1 _ (fun x i => h _ _ _ _) _ _
  unfold writeSave; dsimp only
  split
  · rw [plant_endSave, plant_writeArea, e3]
    refine plant_foldl1 _ (fun x i => ?_) _ _
    dsimp only; rw [e4]
    refine (plant_foldl _ (fun s t => plant_demand s _ _ _ _) _ _).trans ?_
    split
    · rfl
    · exact plant_onTiles _ _ _
  · rw [plant_writeArea, e3]
    refine plant_foldl1 _ (fun x i => ?_) _ _
    dsimp only; rw [e4]
    refine (plant_foldl _ (fun s t => plant_demand s _ _ _ _) _ _).trans ?_
    split
    · rfl
    · exact plant_onTiles _ _ _

@[simp] theorem plant_restoreObjs (s : State) (ctx lo hi : Nat) (c : CcState) : (restoreObjs s ctx lo hi c).plant = s.plant := by
  unfold restoreObjs
  simp [toPlant]

@[simp] theorem plant_endListed (s : State) (g : Group) (es : List (Nat × Nat)) : (endListed s g es).plant = s.plant := by
  unfold endListed; dsimp only
  rw [plant_setGroup, plant_finishEnds, plant_deliver]
  refine plant_foldl1 _ (fun x r => ?_) _ _
  split <;> simp

@[simp] theorem plant_restoreGroup (s : State) (c : CcState) (ren : AMap Nat) (freeze : Nat) (old : Option Group) :
    (restoreGroup s c ren freeze old).plant = s.plant := by
  unfold restoreGroup
  (repeat' split) <;> simp [toPlant]

@[simp] theorem plant_restoreTiles (s : State) (i : Inst) (b : Bytes) : (restoreTiles s i b).plant = s.plant := by
  unfold restoreTiles
  simp

@[simp] theorem plant_bindArea (s : State) (ctx first : Nat) (b far : Bytes) : (bindArea s ctx first b far).2.2.1.plant = s.plant := by
  have e3 (u : State) (n : AMap Inst) : ({ u with insts := n } : State).plant = u.plant := rfl
  unfold bindArea; split
  · dsimp only; split
    · rfl
    · dsimp only; rw [e3, plant_placeInst, plant_demandBound]
  · rfl

@[simp] theorem plant_bindAreas (s : State) (ctx : Nat) (fs : Bytes) (as : List Bytes) (far : Bytes) :
    (bindAreas s ctx fs as far).2.2.plant = s.plant := by
  refine foldl_keeps (fun x : Nat × List Restored × State × Bytes => x.2.2.1.plant) _ (fun x a => ?_) _ _
  split
  · rfl
  · exact plant_bindArea _ _ _ _ _

@[simp] theorem plant_restoreStreams (s : State) (c : CcState) (i : Inst) : (restoreStreams s c i).plant = s.plant := by
  unfold restoreStreams; dsimp only
  refine (plant_foldl _ (fun s f => by simp) _ _).trans ?_
  refine plant_foldl1 _ (fun x st => ?_) _ _
  rfl

@[simp] theorem plant_restoreCc (s : State) (ctx resume : Nat) (rs : List Restored) (olds : AMap Group) :
    (restoreCc s ctx resume rs olds).plant = s.plant := by
  unfold restoreCc; dsimp only; split
  · rfl
  · next r0 c0 _ _ =>
    refine (plant_foldl _ (fun s x => ?_) _ _).trans ((plant_foldl _ (fun s x => ?_) _ _).trans ((plant_foldl _ (fun s x => ?_) _ _).trans ?_))
    · repeat' split
      all_goals simp
    · cases mget s.insts x.1.inst <;> simp
    · rfl
    · refine Eq.trans ?_ ((plant_restoreObjs { s with objs := mkeep s.objs fun _ o => o.ctx != ctx } ctx (fld r0.area 8 8) resume c0).trans rfl)
      rfl

@[simp] theorem plant_restoreCtx (s : State) (d : Nat) (t : Taken) (b f : Bytes) (p : Bool) : (restoreCtx s d t b f p).plant = s.plant := by
  have e1 : ∀ (l : List (Nat × Inst)) (gs : AMap Group) (u : State),
      (l.foldl (fun s i => removeInst s i.1 false) { u with groups := gs }).plant = u.plant := by
    intro l gs u
    refine (plant_foldl _ (fun s i => ?_) _ _).trans rfl
    exact plant_removeInst s _ false
  have e2 : ∀ (l : List Restored) (u : State), (l.foldl (fun s r => (mget s.insts r.inst).elim s fun i => restoreTiles s i r.area) u).plant = u.plant := by
    intro l u
    refine plant_foldl _ (fun s r => ?_) _ _
    cases mget s.insts r.inst <;> simp
  have e3 (u : State) (g : AMap Group) : ({ u with groups := g } : State).plant = u.plant := rfl
  have e4 (u : State) (g : AMap Restore) : ({ u with rests := g } : State).plant = u.plant := rfl
  unfold restoreCtx; dsimp only
  cases s.flt.sliceStopped
  · simp only [Bool.false_eq_true, if_false]
    repeat' split
    all_goals first
      | (rw [plant_finish, e3]; done)
      | rw [plant_finish, e3, plant_bindAreas]
      | rw [e4, plant_holdDesc, plant_restoreCc, e2, plant_bindAreas]
  · simp only [if_true]
    repeat' split
    all_goals first
      | (rw [plant_finish, e3]; exact e1 _ _ _)
      | (rw [plant_finish, e3, plant_bindAreas]; exact e1 _ _ _)
      | (rw [e4, plant_holdDesc, plant_restoreCc, e2, plant_bindAreas]; exact e1 _ _ _)

@[simp] theorem plant_openAt (s : State) (g : Group) (p : Bytes) (n take admitter : Nat) (toks : Option (List Nat)) (ver : Option Nat) :
    (openAt s g p n take admitter toks ver).2.plant = s.plant := by
  unfold openAt
  rfl

@[simp] theorem plant_admitReq (s : State) (ctx rid : Nat) (t : Taken) (sl : Option SealSt) :
    (admitReq s ctx rid t sl).plant = s.plant := by
  unfold admitReq
  rfl

@[simp] theorem plant_bindVersion (s : State) (ctx id v : Nat) : (bindVersion s ctx id v).2.2.plant = s.plant := by
  unfold bindVersion; repeat' split
  all_goals rfl
theorem plant_bindVersion_of {s u : State} {ctx id v a : Nat} {b : Option (Nat × AdVer)} (h : bindVersion s ctx id v = (a, b, u)) :
    u.plant = s.plant := by have := plant_bindVersion s ctx id v; rw [h] at this; exact this

@[simp] theorem plant_unbindVersion (s : State) (ctx : Nat) (p : Bytes) : (unbindVersion s ctx p).plant = s.plant := by
  unfold unbindVersion
  (repeat' split) <;> simp

@[simp] theorem plant_openBound (s : State) (d : Nat) (t : Taken) (g : Group) (p : Bytes) (n : Nat) (prompt : Bytes) (sl : Option SealSt) :
    (openBound s d t g p n prompt sl).plant = s.plant := by
  unfold openBound
  simp [toPlant]

@[simp] theorem plant_reqOpen (s : State) (d : Nat) (t : Taken) (a b : Bytes) : (reqOpen s d t a b).plant = s.plant := by
  unfold reqOpen; dsimp only
  split
  · simp
  · split
    · simp
    · split
      · simp
      · split
        · simp
        · split
          · simp
          · split
            · simp
            · split
              · simp
              · split
                · split
                  · next h => have e := plant_bindVersion_of h; split <;> simp [e]
                  · next h => have e := plant_bindVersion_of h; simp [e]
                · simp [toPlant]

@[simp] theorem plant_appendAtLead (s : State) (d : Nat) (t : Taken) (g : Group) (r : Nat) (prompt : Bytes) :
    (appendAtLead s d t g r prompt).plant = s.plant := by
  unfold appendAtLead
  (repeat' split) <;> simp [toPlant]

theorem plant_atLead {s : State} {d : Nat} {t : Taken} {act : Group → Nat → State} (h : ∀ g r, (act g r).plant = s.plant) :
    (atLead s d t act).plant = s.plant := by
  unfold atLead; split
  · simp
  · split
    · exact h _ _
    · exact plant_atModule rfl

@[simp] theorem plant_reqAppend (s : State) (d : Nat) (t : Taken) (b : Bytes) : (reqAppend s d t b).plant = s.plant := by
  unfold reqAppend; split
  · simp
  · split
    · simp
    · split
      · simp
      · dsimp only; split
        · simp
        · split
          · simp
          · refine (plant_atModule rfl).trans ?_
            split <;> rfl

@[simp] theorem plant_cancelAtLead (s : State) (d : Nat) (g : Group) (r : Nat) : (cancelAtLead s d g r).plant = s.plant := by
  unfold cancelAtLead
  (repeat' split) <;> simp

@[simp] theorem plant_closeAtLead (s : State) (d : Nat) (g : Group) (r : Nat) : (closeAtLead s d g r).plant = s.plant := by
  unfold closeAtLead
  (repeat' split) <;> simp

@[simp] theorem plant_placeShare (s : State) (ctx tier : Nat) (bytes : Bytes) : (placeShare s ctx tier bytes).2.2.plant = s.plant := by
  unfold placeShare
  (repeat' split) <;> simp [toPlant]

@[simp] theorem plant_adImage (s : State) (t : Taken) (given : Bytes) : (adImage s t given).2.2.plant = s.plant := by
  unfold adImage
  dsimp only; (repeat' split) <;> simp

@[simp] theorem plant_endLoad (s : State) (k : Nat) : (endLoad s k).plant = s.plant := by
  unfold endLoad
  (repeat' split) <;> simp [toPlant]

@[simp] theorem plant_sharePlaced (s : State) (k m status : Nat) : (sharePlaced s k m status).plant = s.plant := by
  unfold sharePlaced
  (repeat' split) <;> simp [toPlant]

@[simp] theorem plant_loadVersion (s : State) (d : Nat) (t : Taken) (b : Bytes) : (loadVersion s d t b).plant = s.plant := by
  unfold loadVersion
  simp [toPlant]

@[simp] theorem plant_takeShare (s : State) (d owner : Nat) (t : Taken) (b : Bytes) : (takeShare s d owner t b).plant = s.plant := by
  unfold takeShare
  (repeat' split) <;> simp [toPlant]

@[simp] theorem plant_retireVersion (s : State) (ctx id version : Nat) : (retireVersion s ctx id version).2.plant = s.plant := by
  unfold retireVersion
  (repeat' split) <;> simp [toPlant]

@[simp] theorem plant_sendDone (s : State) (key : Nat) : (sendDone s key).plant = s.plant := by
  unfold sendDone
  simp [toPlant]

@[simp] theorem plant_addDone (s : State) (k : Nat) (p : Packet) (status : Nat) : (addDone s k p status).plant = s.plant := by
  unfold addDone
  simp [toPlant]

@[simp] theorem plant_dropRx (s : State) (n : Nat) : (dropRx s n).plant = s.plant := by
  unfold dropRx
  (repeat' split) <;> simp [toPlant]

theorem plant_withRx {s : State} {p ty : Nat} {act : State → RxPacket → State} (h : ∀ r, (act s r).plant = s.plant) :
    (withRx s p ty act).plant = s.plant := by
  unfold withRx; split
  · rfl
  · repeat' split
    all_goals first | rfl | exact h _ | simp

@[simp] theorem plant_takeWhole (s : State) (ps : List (Nat × RxPacket)) (status : Nat) : (takeWhole s ps status).plant = s.plant := by
  unfold takeWhole
  simp

@[simp] theorem plant_descMsgEnd (s : State) (d id : Nat) (m : Msg) (status : Nat) : (descMsgEnd s d id m status).plant = s.plant := by
  unfold descMsgEnd
  split
  · rfl
  · dsimp only
    split
    · simp
    · refine plant_ite_of ?_ (plant_ite_of ?_ (plant_ite_of ?_ (plant_ite_of ?_ (plant_ite_of ?_ (plant_ite_of ?_ ?_)))))
      all_goals first
        | (simp [toPlant]; done)
        | ((repeat' split) <;> simp [toPlant])

@[simp] theorem plant_cxlMsgEnd (s : State) (w : Nat) (m : Msg) (status : Nat) : (cxlMsgEnd s w m status).plant = s.plant := by
  unfold cxlMsgEnd
  (repeat' split) <;> simp [toPlant]

@[simp] theorem plant_ownMsgEnd (s : State) (id status : Nat) : (ownMsgEnd s id status).plant = s.plant := by
  unfold ownMsgEnd
  dsimp only; (repeat' split) <;> simp [toPlant]

@[simp] theorem plant_msgEnd (s : State) (id status : Nat) : (msgEnd s id status).plant = s.plant := by
  unfold msgEnd
  (repeat' split) <;> simp [toPlant]

@[simp] theorem plant_msgAnswer (s : State) (id pkt status : Nat) : (msgAnswer s id pkt status).plant = s.plant := by
  unfold msgAnswer
  (repeat' split) <;> simp [toPlant]

@[simp] theorem plant_sendRedirect (s : State) (p : Packet) (obj : Nat) (e : DirEntry) : (sendRedirect s p obj e).plant = s.plant := by
  unfold sendRedirect
  simp [toPlant]

@[simp] theorem plant_landBytes (s : State) (e : DirEntry) (off : Nat) (p : Packet) : (landBytes s e off p).plant = s.plant := by
  unfold landBytes
  simp

@[simp] theorem plant_landStaging (s : State) (k : Nat) (g : Staging) (off : Nat) (p : Packet) :
    (landStaging s k g off p).plant = s.plant := by
  unfold landStaging
  rfl

@[simp] theorem plant_landPrompt (s : State) (p : Packet) (off : Nat) : (landPrompt s p off).plant = s.plant := by
  unfold landPrompt
  (repeat' split) <;> simp [toPlant]

@[simp] theorem plant_sendData (s : State) (k : Packet) (bs : Bytes) (bad : List Nat) : (sendData s k bs bad).plant = s.plant := by
  unfold sendData
  simp [toPlant]

@[simp] theorem plant_readStaging (s : State) (k : Packet) (obj : Nat) (g : Staging) (off n : Nat) :
    (readStaging s k obj g off n).plant = s.plant := by
  unfold readStaging
  simp [toPlant]

@[simp] theorem plant_landAtTile (s : State) (f : Fetch) (st : Stream) (off : Nat) (bs : Bytes) (bad : List Nat) :
    (landAtTile s f st off bs bad).plant = s.plant := by
  unfold landAtTile
  simp

theorem plant_deliverData_of {s u : State} {id off : Nat} {m : Msg} {bs : Bytes} {bad : List Nat}
    (h : deliverData s id m off bs bad = some u) : u.plant = s.plant := by
  unfold deliverData at h; dsimp only at h
  repeat' split at h
  all_goals first
    | (cases h; done)
    | (cases h; rfl)
    | (cases h; simp; done)
    | (cases h; simp [toPlant]; done)
    | (cases h; split <;> first | rfl | simp [toPlant])

@[simp] theorem plant_reissue (s : State) (id i : Nat) (m : Msg) (e : DirEntry) : (reissue s id i m e).plant = s.plant := by
  unfold reissue; dsimp only
  repeat' split
  all_goals first
    | (simp; done)
    | (next h => simpa using plant_deliverData_of h)
    | (simp [toPlant]; done)

@[simp] theorem plant_faultRecord (s : State) (code member earlier : Nat) : (faultRecord s code member earlier).plant = s.plant := by
  unfold faultRecord
  simp [toPlant]

@[simp] theorem plant_takeStop (s : State) (cause member stop earlier : Nat) : (takeStop s cause member stop earlier).plant = s.plant := by
  unfold takeStop
  simp [toPlant]

@[simp] theorem plant_decideStop (s : State) (cause member earlier : Nat) : (decideStop s cause member earlier).plant = s.plant := by
  unfold decideStop
  simp [toPlant]

@[simp] theorem plant_loseAnswers (s : State) (i : Nat) : (loseAnswers s i).plant = s.plant := by
  unfold loseAnswers; dsimp only
  refine (plant_foldl _ (fun s o => ?_) _ _).trans ((plant_foldl _ (fun s n => ?_) _ _).trans ((plant_foldl _ (fun s k => ?_) _ _).trans
    (plant_foldl _ (fun s d => ?_) _ _)))
  · split <;> simp [toPlant]
  · split <;> simp [toPlant]
  · simp
  · simp [toPlant]

@[simp] theorem plant_markGone (s : State) (i : Nat) : (markGone s i).plant = s.plant := by
  unfold markGone
  simp [toPlant]

@[simp] theorem plant_secondFault (s : State) (member : Nat) : (secondFault s member).plant = s.plant := by
  unfold secondFault
  (repeat' split) <;> simp

@[simp] theorem plant_compareCopies (s : State) (i : Nat) : (compareCopies s i).plant = s.plant := by
  unfold compareCopies
  simp

@[simp] theorem plant_applyLinks (s : State) (j seq : Nat) (links : List PeerLink) : (applyLinks s j seq links).plant = s.plant := by
  unfold applyLinks
  simp [toPlant]

@[simp] theorem plant_sendLinkState (s : State) : (sendLinkState s).plant = s.plant := by
  unfold sendLinkState
  simp [toPlant]

@[simp] theorem plant_leaveUp (s : State) (k state cause : Nat) : (leaveUp s k state cause).plant = s.plant := by
  unfold leaveUp
  rfl

@[simp] theorem plant_goDown (s : State) (k cause : Nat) : (goDown s k cause).plant = s.plant := by
  unfold goDown
  simp

@[simp] theorem plant_enableLink (s : State) (k : Nat) (en : Bool) : (enableLink s k en).plant = s.plant := by
  unfold enableLink
  simp [toPlant]

@[simp] theorem plant_startHello (s : State) (k : Nat) : (startHello s k).plant = s.plant := by
  unfold startHello
  simp [toPlant]

@[simp] theorem plant_failHello (s : State) (k cause : Nat) : (failHello s k cause).plant = s.plant := by
  unfold failHello
  rfl

@[simp] theorem plant_sendDelay (s : State) (k : Nat) : (sendDelay s k).plant = s.plant := by
  unfold sendDelay
  dsimp only; (repeat' split) <;> simp

@[simp] theorem plant_sendHelloB (s : State) (k : Nat) (a : Bytes) : (sendHelloB s k a).plant = s.plant := by
  unfold sendHelloB
  dsimp only; (repeat' split) <;> simp [toPlant]

@[simp] theorem plant_advanceAck (s : State) (k a : Nat) : (advanceAck s k a).plant = s.plant := by
  unfold advanceAck; dsimp only; repeat' split
  all_goals simp

@[simp] theorem plant_resend (s : State) (k : Nat) : (resend s k).plant = s.plant := by
  unfold resend
  dsimp only; (repeat' split) <;> simp

@[simp] theorem plant_sendAck (s : State) (k : Nat) : (sendAck s k).plant = s.plant := by
  unfold sendAck
  rfl

@[simp] theorem plant_takeHeader (s : State) (k : Nat) (p : Packet) (ce : Bool) : (takeHeader s k p ce).plant = s.plant := by
  unfold takeHeader
  simp

@[simp] theorem plant_takePacket (s : State) (k : Nat) (p : Packet) : (takePacket s k p).plant = s.plant := by
  unfold takePacket
  simp [toPlant]

@[simp] theorem plant_fwdEnded (s : State) (d : Nat) (t : Taken) (status : Nat) : (fwdEnded s d t status).plant = s.plant := by
  unfold fwdEnded
  (repeat' split) <;> simp [toPlant]

@[simp] theorem plant_endBind (s : State) (k status : Nat) : (endBind s k status).plant = s.plant := by
  unfold endBind
  dsimp only; (repeat' split) <;> simp

@[simp] theorem plant_abandonRestore (s : State) (d : Nat) (r : Restore) : (abandonRestore s d r).plant = s.plant := by
  unfold abandonRestore
  simp [toPlant]

@[simp] theorem plant_stopInsts (s : State) : (stopInsts s).plant = s.plant := by
  unfold stopInsts
  simp [toPlant]

@[simp] theorem plant_adapterResult (s : State) (k : Packet) (b : Bytes) : (adapterResult s k b).plant = s.plant := by
  unfold adapterResult
  dsimp only; (repeat' split) <;> simp [toPlant]

@[simp] theorem plant_retrainLinks (s : State) (o : Option SliceRec) : (retrainLinks s o).plant = s.plant := by
  refine plant_foldl _ (fun s k => ?_) _ _
  dsimp only; repeat' split
  all_goals simp

@[simp] theorem plant_renumber (s : State) (ix : Nat) : (renumber s ix).plant = s.plant := by
  unfold renumber
  rfl

@[simp] theorem plant_takeRecord (s : State) (r : SliceRec) : (takeRecord s r).plant = s.plant := by
  unfold takeRecord
  simp [toPlant]

@[simp] theorem plant_enterLc (s : State) (lc : LcState) (token : Bytes) : (enterLc s lc token).plant = s.plant := by
  unfold enterLc
  rfl

@[simp] theorem plant_sealContext (s : State) (c : Nat) : (sealContext s c).plant = s.plant := by
  unfold sealContext
  simp [toPlant]

@[simp] theorem plant_importKey (s : State) (d : Nat) (t : Taken) (b : Bytes) : (importKey s d t b).plant = s.plant := by
  unfold importKey
  simp [toPlant]

@[simp] theorem plant_stagePackage (s : State) (d : Nat) (t : Taken) (data : Bytes) : (stagePackage s d t data).plant = s.plant := by
  unfold stagePackage
  simp

@[simp] theorem plant_createTarget (s : State) (h : Nat × DirEntry) (data : Bytes) : (createTarget s h data).plant = s.plant := by
  unfold createTarget
  simp

@[simp] theorem plant_admitPackage (s : State) (d : Nat) (t : Taken) (e : DirEntry) (b tab : Bytes) :
    (admitPackage s d t e b tab).plant = s.plant := by
  unfold admitPackage
  simp [toPlant]

@[simp] theorem plant_demandTargets (s : State) (t : Taken) : (demandTargets s t).plant = s.plant := by
  unfold demandTargets
  dsimp only; (repeat' split) <;> simp

@[simp] theorem plant_dropHome (s : State) (o : Nat × DirEntry) : (dropHome s o).plant = s.plant := by
  unfold dropHome
  simp

@[simp] theorem plant_evictPackage (s : State) (d id : Nat) : (evictPackage s d id).plant = s.plant := by
  unfold evictPackage
  (repeat' split) <;> simp [toPlant]

@[simp] theorem plant_sendIbi (s : State) (code : Nat) : (sendIbi s code).plant = s.plant := by
  unfold sendIbi
  simp [toPlant]

@[simp] theorem plant_notify (s : State) (code : Nat) : (notify s code).plant = s.plant := by
  unfold notify
  simp [toPlant]

theorem plant_withI3c {s : State} {act : State → State} (h : (act s).plant = s.plant) : (withI3c s act).plant = s.plant := by
  unfold withI3c; split
  · exact h
  · rfl

@[simp] theorem plant_i3cRefuse (s : State) : (i3cRefuse s).plant = s.plant := by
  unfold i3cRefuse
  rfl

@[simp] theorem plant_answerRemove (s : State) : (answerRemove s).plant = s.plant := by
  unfold answerRemove
  simp [toPlant]

@[simp] theorem plant_logReset (s : State) (code port cause : Nat) : (logReset s code port cause).plant = s.plant := by
  unfold logReset
  rfl

@[simp] theorem plant_settleMoves (s : State) : (settleMoves s).plant = s.plant := by
  refine (plant_foldl _ (fun s m => ?_) _ _).trans rfl
  repeat' split
  all_goals simp

@[simp] theorem plant_clearSealed (s : State) : (clearSealed s).plant = s.plant := by
  unfold clearSealed
  simp [toPlant]

@[simp] theorem plant_clearArray (s : State) : (clearArray s).plant = s.plant := by
  unfold clearArray
  rfl

@[simp] theorem plant_loseLocal (s : State) (p : Nat) (k : Nat) : (loseLocal s p k).plant = s.plant := by
  unfold loseLocal
  (repeat' split) <;> simp

@[simp] theorem plant_loseFar (s : State) (p : Nat) : (loseFar s p).plant = s.plant := by
  refine plant_foldl _ (fun s a => ?_) _ _
  dsimp only; repeat' split
  all_goals simp

@[simp] theorem plant_portLogged (s : State) (code p cause : Nat) : (portLogged s code p cause).plant = s.plant := by
  unfold portLogged
  rfl

@[simp] theorem plant_discardInst (s : State) (k : Nat) : (discardInst s k).plant = s.plant := by
  unfold discardInst
  (repeat' split) <;> simp

@[simp] theorem plant_dropPreempt (s : State) : (dropPreempt s).plant = s.plant := by
  unfold dropPreempt
  simp [toPlant]

@[simp] theorem plant_resetArray (s : State) : (resetArray s).plant = s.plant := by
  unfold resetArray
  simp [toPlant]

@[simp] theorem plant_warmRequest (s : State) : (warmRequest s).plant = s.plant := by
  unfold warmRequest
  simp [toPlant]

@[simp] theorem plant_faultLink (s : State) (k : Nat) : (faultLink s k).plant = s.plant := by
  unfold faultLink
  simp [toPlant]

@[simp] theorem plant_enterFaulted (s : State) (code : Nat) : (enterFaulted s code).plant = s.plant := by
  unfold enterFaulted
  simp [toPlant]

@[simp] theorem plant_poisonSram (s : State) : (poisonSram s).plant = s.plant := by
  unfold poisonSram
  rfl

@[simp] theorem plant_zeroSlice (s : State) (t : Nat) : (zeroSlice s t).plant = s.plant := by
  unfold zeroSlice
  rfl

@[simp] theorem plant_zeroStack (s : State) (k : Nat) : (zeroStack s k).plant = s.plant := by
  unfold zeroStack
  rfl

@[simp] theorem plant_loopLink (s : State) (k : Nat) : (loopLink s k).plant = s.plant := by
  unfold loopLink
  simp

@[simp] theorem plant_zeroTile (s : State) (t : Nat) : (zeroTile s t).plant = s.plant := by
  unfold zeroTile
  simp

@[simp] theorem plant_scanGo (s : State) (cmd : Nat) : (scanGo s cmd).plant = s.plant := by
  unfold scanGo
  simp [toPlant]

@[simp] theorem plant_scanOutAll (s : State) (tier a : Nat) (ts : List Nat) : (scanOutAll s tier a ts).plant = s.plant := by
  induction ts generalizing s a with
  | nil => rfl
  | cons t ts ih => exact (ih _ _).trans (plant_writeTier _ _ _ _)

@[simp] theorem plant_scanInAll (s : State) (tier a : Nat) (ts : List Nat) : (scanInAll s tier a ts).plant = s.plant := by
  have e3 (u : State) (n : Debug) : ({ u with dbg := n } : State).plant = u.plant := rfl
  induction ts generalizing s a with
  | nil => rfl
  | cons t ts ih =>
    have e : ∀ u : State, (if poisoned u tier a scanBytes then (u, false) else scanInto u t (readTier u tier a scanBytes)).1.plant = u.plant := by
      intro u; split <;> simp
    unfold scanInAll; dsimp only
    have e1 := (e (demand s tier a scanBytes 1)).trans (plant_demand _ _ _ _ _)
    generalize (if poisoned (demand s tier a scanBytes 1) tier a scanBytes then (demand s tier a scanBytes 1, false)
      else scanInto (demand s tier a scanBytes 1) t (readTier (demand s tier a scanBytes 1) tier a scanBytes)) = x at e1
    split
    · exact (ih _ _).trans e1
    · rw [e3]; exact (plant_foldl _ (fun s t => plant_setCore s t _) _ _).trans e1

@[simp] theorem plant_qdEnable (s : State) : (qdEnable s).plant = s.plant := by
  unfold qdEnable
  simp [toPlant]

@[simp] theorem plant_sampleTile (s : State) (t : Nat) : (sampleTile s t).plant = s.plant := by
  unfold sampleTile
  simp [toPlant]

@[simp] theorem plant_writeQp (s : State) (p q w v : Nat) : (writeQp s p q w v).plant = s.plant := by
  unfold writeQp
  (repeat' split) <;> simp

@[simp] theorem plant_writeLink (s : State) (k o v : Nat) : (writeLink s k o v).plant = s.plant := by
  unfold writeLink
  simp

@[simp] theorem plant_writeCe (s : State) (a v : Nat) : (writeCe s a v).plant = s.plant := by
  unfold writeCe
  simp [toPlant]

@[simp] theorem plant_writeQdepth (s : State) (v : Nat) : (writeQdepth s v).plant = s.plant := by
  unfold writeQdepth
  simp [toPlant]

@[simp] theorem plant_writeScan (s : State) (a v : Nat) : (writeScan s a v).plant = s.plant := by
  unfold writeScan
  simp [toPlant]

@[simp] theorem plant_serviceSets (s : State) (sets : Nat) : (serviceSets s sets).plant = s.plant := by
  unfold serviceSets
  simp

@[simp] theorem plant_freeRecords (s : State) (ctx sets : Nat) : (freeRecords s ctx sets).plant = s.plant := by
  unfold freeRecords
  rfl

@[simp] theorem plant_progressed (s : State) (t : Nat) : (progressed s t).plant = s.plant := by
  unfold progressed
  simp

@[simp] theorem plant_hopOut (pre s : State) (t q : Nat) : (hopOut pre s t q).plant = s.plant := by
  unfold hopOut; dsimp only; split
  · rfl
  · split
    · rfl
    · split
      · rfl
      · simp only [plant_progressed, plant_arriveQueue, plant_setCore, plant_useBanks]

@[simp] theorem plant_passOn (pre s : State) (t q d : Nat) : (passOn pre s t q d).plant = s.plant := by
  unfold passOn
  dsimp only; (repeat' split) <;> simp

@[simp] theorem plant_moveTile (pre s : State) (t : Nat) : (moveTile pre s t).plant = s.plant := by
  unfold moveTile; split
  · rfl
  · exact (plant_foldl _ (fun s q => plant_foldl _ (fun s d => plant_passOn _ s _ _ _) _ _) _ _).trans
      (plant_foldl _ (fun s q => plant_hopOut _ s _ _) _ _)

@[simp] theorem plant_countLanes (s : State) (t : Nat) : (countLanes s t).plant = s.plant := by
  unfold countLanes
  simp

@[simp] theorem plant_countQueue (t : Nat) (x : TileSt) (s : State) (q : Nat) : (countQueue t x s q).plant = s.plant := by
  unfold countQueue
  simp

@[simp] theorem plant_addWaits (s : State) (t l : Nat) (c : Option Nat) : (addWaits s t l c).plant = s.plant := by
  unfold addWaits
  (repeat' split) <;> simp

@[simp] theorem plant_unitsTick (s : State) (t : Nat) : (unitsTick s t).plant = s.plant := by
  unfold unitsTick; simp only [plant_addWaits, plant_galTick, plant_t2Tick, plant_setLane, plant_mxeTick]

@[simp] theorem plant_runTile (s : State) (t : Nat) : (runTile s t).plant = s.plant := by
  have e : ∀ u : State, ((List.range 5).foldl (runLane t) u).plant = u.plant := fun u => plant_foldl _ (fun s l => plant_runLane t s l) _ _
  unfold runTile; dsimp only; split
  · exact (plant_unitsTick _ _).trans ((plant_foldl _ (fun s q => plant_startReturn s t q) _ _).trans (e s))
  · exact e s

@[simp] theorem plant_nextMicro (s : State) (k : Nat) (i : Inst) : (nextMicro s k i).plant = s.plant := by
  unfold nextMicro
  simp [toPlant]

@[simp] theorem plant_nextPass (s : State) (k : Nat) (i : Inst) : (nextPass s k i).plant = s.plant := by
  have e : ∀ (o : Option Group) (u : State) (p : Nat), u.plant = s.plant → (o.elim u fun g => expandPass u g k i p).plant = s.plant := by
    intro o u p hu; cases o <;> simp [hu]
  have e3 (u : State) (n : AMap Inst) : ({ u with insts := n } : State).plant = u.plant := rfl
  unfold nextPass; dsimp only; split
  · rfl
  · refine e _ _ _ ?_
    rw [e3]; exact plant_foldl _ (fun s t => plant_setTile _ _ _) _ s

@[simp] theorem plant_carryOn (s : State) : (carryOn s).plant = s.plant := by
  unfold carryOn; split
  · rfl
  · refine plant_foldl _ (fun s i => ?_) _ _
    dsimp only; cases mget (nextMicro s i.1 i.2).insts i.1 <;> simp

@[simp] theorem plant_clkLinks (s : State) : (clkLinks s).plant = s.plant := by
  unfold clkLinks
  simp

theorem plant_partnerData_of {s : State} {d : Nat} {data : Bytes} {x : Bytes × State} (h : partnerData s d data = some x) :
    x.2.plant = s.plant := by
  unfold partnerData at h
  repeat' split at h
  all_goals first | (cases h; done) | (cases h; rfl)

theorem plant_exportRead_of {s u : State} {d m status r0 r1 : Nat} (h : exportRead s d m status r0 r1 = some u) :
    u.plant = s.plant := by
  have e3 (u : State) (n : Memory) : ({ u with mem := n } : State).plant = u.plant := rfl
  unfold exportRead at h; dsimp only at h
  repeat' split at h
  all_goals first
    | (cases h; done)
    | (cases h; exact (plant_foldl _ (fun s i => plant_newMsg _ _ _ _ _ _ _) _ _).trans (e3 _ _))

@[simp] theorem plant_startInst (s : State) (k : Nat) (i : Inst) (t n g : Nat) : (startInst s k i t n g).plant = s.plant := by
  unfold startInst; dsimp only
  rw [plant_openExchange, plant_closeExchange]
  exact (plant_onTiles s _ _ :)

@[simp] theorem plant_startGroup (s : State) (g : Group) (p : Plan) (t : Nat) : (startGroup s g p t).plant = s.plant := by
  unfold startGroup; dsimp only
  refine (plant_foldl _ (fun s i => by simp) _ _).trans ?_
  simp

@[simp] theorem plant_startAlone (s : State) (i : Nat × Inst) : (startAlone s i).plant = s.plant := by
  unfold startAlone; split <;> simp

end Sys2Proof.Machine
end

