-- ==== Sys2Proof/Laws/Events.lean ====
section
/-!
SUPPORT. Laws of the plant's events: OP_NOW under a hardware cause, the free gate count, results of self-tests.
-/
namespace Sys2Proof.Machine

theorem forceRecord_time (s : State) (ob act res old new : Nat) : (forceRecord s ob act res old new).time = s.time := by
  unfold forceRecord; dsimp only
  split
  · rfl
  · split <;> rfl

theorem sendFloor_now (s : State) (m op c : Nat) : (sendFloor s m op c).pw.now = s.pw.now := by
  unfold sendFloor
  dsimp only
  split
  · rfl
  · exact congrArg (fun p : Plant => p.pw.now) ((plant_broadcast _ _).trans (plant_hwBump _ _ _))

theorem requestOwn_now (s : State) : (requestOwn s).pw.now = s.pw.now := by
  unfold requestOwn
  dsimp only
  split
  · exact sendFloor_now _ _ _ _
  · rfl

theorem settlePoint_now (s : State) (h : hwCause s = true) : (settlePoint s).pw.now = 0 := by
  unfold settlePoint
  have : pointInForce s = 0 := if_pos h
  simp [this]

theorem warn_step (s : State) (die hbm : Int) (h0 : s.pw.restartHold = false) :
    let u := senseTemp s die hbm
    let f := u.time.ticks / 4096
    exec (.thermalWarningStep die hbm) s = .next (unfused s (if u.pw.warnOp = 15 ∧ (!u.pw.warnOn) = true ∨ f < u.pw.warnFlights + 16 then u
      else if atWarning die hbm then requestOwn { u with pw.warnOn := true, pw.thermal := true, pw.warnOp := u.pw.warnOp - 1, pw.warnFlights := f }
      else if die ≤ 90 ∧ hbm ≤ 85 then requestOwn { u with pw.warnOn := false, pw.warnOp := min 15 (u.pw.warnOp + 1), pw.warnFlights := f,
                                                           pw.thermal := u.pw.tripOn || decide (min 15 (u.pw.warnOp + 1) < 15) }
      else { u with pw.warnFlights := f })) := by
  intro u f
  have hr : ((senseTemp s die hbm).pw.restartHold && !atWarning die hbm && !(senseTemp s die hbm).pw.tripOn &&
      decide (((senseTemp s die hbm).pw.coolResume.getD ((senseTemp s die hbm).time.ticks / 4096)) + 16 ≤ (senseTemp s die hbm).time.ticks / 4096)) = false := by
    show (s.pw.restartHold && _ && _ && _) = false
    rw [h0]; rfl
  simp only [exec, execThermalWarningStep, hr, Bool.false_eq_true, if_false]
  rfl

theorem abort_brake (s : State) : (abortProgram { s with pw.brake := true }).pw.brake = true := by
  unfold abortProgram
  dsimp only
  split <;> rfl

theorem freq_pos (n : Nat) : 0 < freqMhz n := by
  unfold freqMhz
  iterate 16 (rcases n with _ | n; · decide)
  simp

theorem reportUnit_st (p n : Nat) (s : State) (r : UnitResult) : (reportUnit p n s r).st =
    { s.st with fail := s.st.fail || verdictOf r == 2, marginal := s.st.marginal || verdictOf r == 1 } := by
  unfold reportUnit noteW1c
  refine (apply_ite State.st _ _ _).trans ?_
  (repeat' split) <;> simp only [fwBump_st]

theorem reports_st (p n : Nat) (rs : List UnitResult) (s : State) : ∃ m, (rs.foldl (reportUnit p n) s).st =
    { s.st with fail := s.st.fail || rs.any fun r => verdictOf r == 2, marginal := m } := by
  induction rs generalizing s with
  | nil => exact ⟨s.st.marginal, by simp⟩
  | cons r rs ih =>
    obtain ⟨m, h⟩ := ih (reportUnit p n s r)
    refine ⟨m, ?_⟩
    simp only [List.foldl_cons]
    rw [h, reportUnit_st]
    simp [Bool.or_assoc]

theorem start_eq (s : State) (program unit : Nat) (effect : State → State) (h1 : s.st.ctlBusy = false) (h2 : s.sup.booted = true) :
    (s.fuses.lc = .scrapped → startProgram s program unit effect = s) ∧
    (s.fuses.lc ≠ .scrapped →
      let u : State := { s with st.ctlProgram := program, st.ctlUnit := unit % 2048 }
      startProgram s program unit effect =
        if s.fuses.lc = .provisioned ∨ s.fuses.lc = .deployed then { u with st.ctlResult := 2 }
        else if program ≠ 1 ∧ (!allQpsOff s) = true then { u with st.ctlResult := 3 }
        else if s.pw.coolantStop = true ∨ s.pw.brake = true then { u with st.ctlResult := 5 }
        else effect { u with st.ctlBusy := true, st.ctlQueued := s.st.running, st.running := true, st.ctlResult := 0,
                             st.sliceTread := if s.st.running then s.st.sliceTread else s.time.tread }) := by
  refine ⟨fun h => if_pos (.inl h), fun h => ?_⟩
  intro u
  exact if_neg (by simp [h, h1, h2])

end Sys2Proof.Machine
end

