-- ==== Sys2Proof/Laws/Lanes.lean ====
section
/-!
SUPPORT. Laws of lanes: when a row fires, waits or is not its lane's, and what a lane that works on its own tile leaves as it was.
-/
namespace Sys2Proof.Machine

theorem tileOf_progRead {s r : State} {t pc : Nat} {g : Got} (h : progRead s t pc = (g, r)) (j : Nat) : tileOf r j = tileOf s j := by
  have : r = (progRead s t pc).2 := by rw [h]
  rw [this]; rfl

theorem laneRow_reads {s : State} {t l : Nat} {w : InstrWord} {row : InstrWord → Bool} {act : State → InstrWord → Got × State}
    (h : s.evaluates t l w) (hr : row w = true) : laneRow s t l row act = laneEval s t l w act := by
  obtain ⟨h1, h2, h3, h4, h5, h6⟩ := h
  simp [laneRow, laneReady, h1, h2, h3, h4, h5, h6, hr]

/-- A lane that fires does what its action does, takes its tokens and moves on. -/
theorem laneRow_fires {s u : State} {t l : Nat} {w : InstrWord} {row : InstrWord → Bool} {act : State → InstrWord → Got × State}
    (h : s.fires u t l w) (hr : row w = true) :
    laneRow s t l row act = match act u w with
      | (.trap status, u) => trapLane u t l status
      | (.val _, u) => u.fired t l w := by
  obtain ⟨r, ⟨h1, h2⟩, h3, h4, rfl⟩ := h
  rw [laneRow_reads h1 hr]
  simp only [State.bankWaits, tileOf_progRead h2] at h4
  simp only [laneEval, h2, h3, h4, List.isEmpty_nil, Bool.not_true, Bool.false_eq_true, if_false, State.served, tileOf_progRead h2]
  rfl

/-- A lane that something holds back notes every cause. -/
theorem laneRow_blocked {s r : State} {t l : Nat} {w : InstrWord} {row : InstrWord → Bool} {act : State → InstrWord → Got × State}
    (h : s.reads r t l w) (hr : row w = true) (hc : laneCauses r t l w ≠ []) :
    laneRow s t l row act = setLane (if 0x7 ∈ laneCauses r t l w ∧ l ≠ 4 then
        startRebuilds r 1 (t2Off t (t2Range (tileOf r t).core w).1) (t2Range (tileOf r t).core w).2 else r) t l
      fun y => { y with evaluated := true, waits := laneCauses r t l w } := by
  obtain ⟨h1, h2⟩ := h
  rw [laneRow_reads h1 hr]
  have hc' : (!(laneCauses r t l w).isEmpty) = true := by simpa using hc
  simp only [laneEval, h2, hc', if_true, tileOf_progRead h2, Bool.and_eq_true, List.contains_iff_mem, bne_iff_ne]

/-- A lane that waits for banks of T1 notes what has been served. -/
theorem laneRow_banks {s r : State} {t l : Nat} {w : InstrWord} {row : InstrWord → Bool} {act : State → InstrWord → Got × State}
    (h : s.reads r t l w) (hr : row w = true) (hc : laneCauses r t l w = []) (hb : r.bankWaits t l w ≠ []) :
    laneRow s t l row act = setLane (useBanks r t (l + 1) (r.served t l w).2) t l
      fun y => { y with evaluated := true, waits := r.bankWaits t l w, served := (r.served t l w).1 } := by
  obtain ⟨h1, h2⟩ := h
  rw [laneRow_reads h1 hr]
  have hb' : (!(bankCauses (t1Needs (tileOf s t).core w) ((tileOf s t).lane l).served (takenBanks r t (l + 1))).isEmpty) = true := by
    rw [State.bankWaits, tileOf_progRead h2] at hb; simpa using hb
  simp only [laneEval, h2, hc, List.isEmpty_nil, Bool.not_true, Bool.false_eq_true, if_false, hb', if_true, State.served, State.bankWaits, tileOf_progRead h2]

theorem laneRow_other {s : State} {t l : Nat} {w : InstrWord} {row : InstrWord → Bool} {act : State → InstrWord → Got × State}
    (h : s.evaluates t l w) (hr : row w = false) : laneRow s t l row act = s := by
  obtain ⟨h1, h2, h3, h4, h5, h6⟩ := h
  simp [laneRow, h6, hr]

theorem laneRow_idle {s : State} {t l : Nat} {row : InstrWord → Bool} {act : State → InstrWord → Got × State}
    (h : mhas s.tiles t = false ∨ lanesRun s t = false ∨ (tileOf s t).frozen = true ∨ ((tileOf s t).lane l).halted = true ∨
        ((tileOf s t).lane l).evaluated = true ∨ mget (tileOf s t).cfg.prog ((tileOf s t).lane l).pc = none) :
    laneRow s t l row act = s := by
  unfold laneRow laneReady
  cases hp : mget (tileOf s t).cfg.prog ((tileOf s t).lane l).pc with
  | none => simp [hp]
  | some w =>
    rcases h with h | h | h | h | h | h <;> simp_all

theorem laneRow_trap {s r : State} {t l e : Nat} {w : InstrWord} {row : InstrWord → Bool} {act : State → InstrWord → Got × State}
    (h : s.evaluates t l w) (hr : row w = true) (hp : progRead s t ((tileOf s t).lane l).pc = (.trap e, r)) :
    laneRow s t l row act = trapLane r t l e := by
  rw [laneRow_reads h hr]; simp only [laneEval, hp]

theorem progRead_trap {s r : State} {t pc e : Nat} (h : progRead s t pc = (.trap e, r)) : e = ePoison := by
  unfold progRead at h
  dsimp only at h
  split at h
  · simp_all
  · simp_all

/-- Only tile `t`'s lanes, flags, loop counters and queues, and what reading the program store corrects, may differ. -/
def Own (t : Nat) (a b : State) : Prop :=
  b.butLane = a.butLane ∧ (∀ j, j ≠ t → mget b.tiles j = mget a.tiles j) ∧
      (tileOf b t).core.s = (tileOf a t).core.s ∧ (tileOf b t).core.v = (tileOf a t).core.v ∧
      (tileOf b t).core.bank0 = (tileOf a t).core.bank0 ∧ (tileOf b t).core.bank1 = (tileOf a t).core.bank1 ∧
      (tileOf b t).cfg = (tileOf a t).cfg ∧ (tileOf b t).inst = (tileOf a t).inst

theorem Own.refl (t : Nat) (a : State) : Own t a a := ⟨rfl, fun _ _ => rfl, rfl, rfl, rfl, rfl, rfl, rfl⟩

theorem Own.trans {t : Nat} {a b c : State} (h : Own t a b) (k : Own t b c) : Own t a c := by
  obtain ⟨h1, h2, h3, h4, h5, h6, h7, h8⟩ := h
  obtain ⟨k1, k2, k3, k4, k5, k6, k7, k8⟩ := k
  exact ⟨k1.trans h1, fun j hj => (k2 j hj).trans (h2 j hj), k3.trans h3, k4.trans h4, k5.trans h5, k6.trans h6, k7.trans h7, k8.trans h8⟩

theorem butLane_of {a b : State} (h : b.butTiles = a.butTiles) : b.butLane = a.butLane :=
  congrArg (fun u : State => { u with mem.sramBad := [], mem.sramPoison := [] }) h

theorem tiles_hwBump (s : State) (k n : Nat) : (hwBump s k n).tiles = s.tiles := by unfold hwBump; split <;> rfl

theorem Own.bump {t : Nat} {a b : State} (h : Own t a b) (k n : Nat) : Own t a (hwBump b k n) :=
  h.trans ⟨butLane_of (butTiles_hwBump _ _ _), fun j _ => by rw [tiles_hwBump], by simp only [tileOf, tiles_hwBump], by simp only [tileOf, tiles_hwBump], by simp only [tileOf, tiles_hwBump],
    by simp only [tileOf, tiles_hwBump], by simp only [tileOf, tiles_hwBump], by simp only [tileOf, tiles_hwBump]⟩

theorem tiles_setTile (s : State) (t : Nat) (x : TileSt) : (setTile s t x).tiles = mset s.tiles t x := by
  unfold setTile; dsimp only
  split
  · rfl
  · rw [foldl_keeps State.tiles _ (fun s l => tiles_hwBump s _ _), foldl_keeps State.tiles _ (fun s l => tiles_hwBump s _ _)]

theorem tileOf_setTile (s : State) (t : Nat) (x : TileSt) : tileOf (setTile s t x) t = x := by
  simp [tileOf, tiles_setTile, mgetD]

theorem Own.tile {t : Nat} {a b : State} (h : Own t a b) {x : TileSt} (h1 : x.core.s = (tileOf b t).core.s) (h2 : x.core.v = (tileOf b t).core.v)
    (h3 : x.core.bank0 = (tileOf b t).core.bank0) (h4 : x.core.bank1 = (tileOf b t).core.bank1) (h5 : x.cfg = (tileOf b t).cfg)
    (h6 : x.inst = (tileOf b t).inst) : Own t a (setTile b t x) :=
  h.trans ⟨butLane_of (butTiles_setTile _ _ _), fun j hj => by rw [tiles_setTile, mget_mset_other _ _ (Ne.symm hj)],
    by rw [tileOf_setTile, h1], by rw [tileOf_setTile, h2], by rw [tileOf_setTile, h3], by rw [tileOf_setTile, h4], by rw [tileOf_setTile, h5], by rw [tileOf_setTile, h6]⟩

theorem Own.fold {α : Type} {t : Nat} {a : State} {f : State → α → State} (hf : ∀ b x, Own t a b → Own t a (f b x)) (l : List α) {b : State} (h : Own t a b) :
    Own t a (l.foldl f b) := by
  induction l generalizing b with
  | nil => exact h
  | cons x l ih => exact ih (hf b x h)

theorem core_touch (x : TileSt) : x.touch.core = x.core ∧ x.touch.cfg = x.cfg ∧ x.touch.inst = x.inst := by
  unfold TileSt.touch; split <;> exact ⟨rfl, rfl, rfl⟩

theorem Own.put {t : Nat} {a b : State} (h : Own t a b) (q v : Nat) : Own t a (putEntry b t q v) := by
  obtain ⟨e1, e2, e3⟩ := core_touch (tileOf b t)
  refine Own.bump (Own.tile h ?_ ?_ ?_ ?_ ?_ ?_) _ _ <;> simp only [e1, e2, e3] <;> rfl

theorem Own.took {t : Nat} {a b : State} (h : Own t a b) (q n : Nat) : Own t a (takeEntries b t q n).2 := by
  obtain ⟨e1, e2, e3⟩ := core_touch (tileOf b t)
  unfold takeEntries
  refine Own.tile h ?_ ?_ ?_ ?_ ?_ ?_ <;> simp only [e1, e2, e3] <;> rfl

theorem Own.fires {t l : Nat} {a b : State} (h : Own t a b) (w : InstrWord) : Own t a (b.fired t l w) := by
  unfold State.fired
  refine Own.tile ?_ rfl rfl rfl rfl rfl rfl
  unfold consumeTokens
  exact Own.fold (fun b q hb => hb.took _ _) _ h

theorem Own.read {t pc : Nat} {a b r : State} (h : Own t a b) {g : Got} (hp : progRead b t pc = (g, r)) : Own t a r := by
  have : r = (progRead b t pc).2 := by rw [hp]
  rw [this]
  exact h.trans ⟨rfl, fun _ _ => rfl, rfl, rfl, rfl, rfl, rfl, rfl⟩

theorem Own.banks {t : Nat} {a b : State} (h : Own t a b) (p m : Nat) : Own t a (useBanks b t p m) := by
  unfold useBanks
  split
  · exact h
  · refine Own.tile h ?_ ?_ ?_ ?_ ?_ ?_ <;> rfl

theorem sreg_setS (c : TileCore) (i v : Nat) : (c.setS i v).sreg i = v % 2 ^ 64 := by
  simp [TileCore.setS, TileCore.sreg, mgetD]

end Sys2Proof.Machine
end

