-- ==== Sys2Proof/Laws/Packets.lean ====
section
/-!
SUPPORT. Laws of packets: when a packet row acts, and what it answers in A2.
-/
namespace Sys2Proof.Machine

theorem withRx_eq {s : State} {p ty : Nat} {r : RxPacket} {act : State → RxPacket → State} (hr : mget s.net.rx p = some r)
    (hd : r.pkt.dst = s.net.index) (ht : r.pkt.ty = ty) (ha : (s.ps.state ≠ 2 ∧ s.pw.coolantStop = false) ∨ r.pkt.cls ≠ 0) : withRx s p ty act = act s r := by
  unfold withRx
  simp only [hr]
  rw [if_neg (by simp [hd, ht]), if_neg ?_]
  rintro ⟨a, b⟩
  rcases ha with ⟨c, d⟩ | c
  · rcases a with a | a
    · exact c a
    · rw [d] at a; cases a
  · exact c b

theorem withRx_busy {s : State} {p ty : Nat} {r : RxPacket} {act : State → RxPacket → State} (hr : mget s.net.rx p = some r)
    (hd : r.pkt.dst = s.net.index) (ht : r.pkt.ty = ty) (ha : s.ps.state = 2 ∨ s.pw.coolantStop = true) (hc : r.pkt.cls = 0) :
    withRx s p ty act = addDone (dropRx s p) r.link r.pkt eBusy := by
  unfold withRx
  simp only [hr]
  rw [if_neg (by simp [hd, ht]), if_pos ⟨ha, hc⟩]

theorem set_hw_index (s : State) (j n k : Nat) (l : LinkSt) : (setLink (hwBump s j n) k l).net.index = s.net.index := by
  show (hwBump s j n).net.index = _
  rw [hwBump_net]

end Sys2Proof.Machine
end

