-- ==== Sys2Proof/Laws/Rows.lean ====
section
/-!
SUPPORT. Frames by row: the commands of the serving work leave the module's plant as it was, one lemma a command.
-/
namespace Sys2Proof.Machine

theorem plant_unfused (s t : State) : (unfused s t).plant = t.plant := rfl

theorem plant_inRx {s : State} {p ty : Nat} {act : State → RxPacket → State} (h : ∀ r, (act s r).plant = s.plant) :
    (withRx s p ty act).plant = s.plant := by
  unfold withRx
  (repeat' split) <;> simp [h]

theorem plant_inCtrl {s : State} {p k l : Nat} {runs : Bool} {rs : List (Nat × Nat)} {act : State → Packet → Bytes → State}
    (h : ∀ u k b, u.plant = s.plant → (act u k b).plant = s.plant) : (withCtrl s p k l runs rs act).plant = s.plant := by
  unfold withCtrl
  refine plant_inRx fun r => ?_
  (repeat' split) <;> first | rfl | (simp; done) | (apply h; simp)

theorem plant_inI3c {s : State} {act : State → State} (h : ∀ u, u.plant = s.plant → (act u).plant = s.plant) :
    (withI3c s act).plant = s.plant := by
  unfold withI3c
  split
  · exact h _ rfl
  · rfl

theorem arrayReset_plant {s s' : State} port (h : exec (.arrayReset port) s = .next s') :
    s'.plant = s.plant := by
  replace h : execArrayReset port s = .next s' := h
  unfold execArrayReset at h
  injection h with h
  subst h
  rw [plant_unfused]
  simp [toPlant]

theorem t3InitComplete_plant {s s' : State} failed (h : exec (.t3InitComplete failed) s = .next s') :
    s'.plant = s.plant := by
  replace h : execT3InitComplete failed s = .next s' := h
  unfold execT3InitComplete at h
  injection h with h
  subst h
  rw [plant_unfused]
  simp [toPlant]

theorem doorbellSqTail_plant {s s' : State} port page size value (h : exec (.doorbellSqTail port page size value) s = .next s') :
    s'.plant = s.plant := by
  replace h : execDoorbellSqTail port page size value s = .next s' := h
  unfold execDoorbellSqTail at h
  injection h with h
  subst h
  rw [plant_unfused]
  simp

theorem doorbellCqHead_plant {s s' : State} port page size value (h : exec (.doorbellCqHead port page size value) s = .next s') :
    s'.plant = s.plant := by
  replace h : execDoorbellCqHead port page size value s = .next s' := h
  unfold execDoorbellCqHead at h
  injection h with h
  subst h
  rw [plant_unfused]
  simp

theorem doorbellTqHead_plant {s s' : State} port page size value (h : exec (.doorbellTqHead port page size value) s = .next s') :
    s'.plant = s.plant := by
  replace h : execDoorbellTqHead port page size value s = .next s' := h
  unfold execDoorbellTqHead at h
  injection h with h
  subst h
  rw [plant_unfused]
  simp

theorem doorbellEqHead_plant {s s' : State} port page size value (h : exec (.doorbellEqHead port page size value) s = .next s') :
    s'.plant = s.plant := by
  replace h : execDoorbellEqHead port page size value s = .next s' := h
  unfold execDoorbellEqHead at h
  injection h with h
  subst h
  rw [plant_unfused]
  simp

theorem descriptorTake_plant {s s' : State} port qp slot (h : exec (.descriptorTake port qp slot) s = .next s') :
    s'.plant = s.plant := by
  replace h : execDescriptorTake port qp slot s = .next s' := h
  unfold execDescriptorTake at h
  injection h with h
  subst h
  rw [plant_unfused]
  simp [toPlant]

theorem qpEnable_plant {s s' : State} port qp (h : exec (.qpEnable port qp) s = .next s') :
    s'.plant = s.plant := by
  replace h : execQpEnable port qp s = .next s' := h
  unfold execQpEnable at h
  injection h with h
  subst h
  rw [plant_unfused]
  simp

theorem qpDisable_plant {s s' : State} port qp (h : exec (.qpDisable port qp) s = .next s') :
    s'.plant = s.plant := by
  replace h : execQpDisable port qp s = .next s' := h
  unfold execQpDisable at h
  injection h with h
  subst h
  rw [plant_unfused]
  simp

theorem ringInterruptDelay_plant {s s' : State} port qp token (h : exec (.ringInterruptDelay port qp token) s = .next s') :
    s'.plant = s.plant := by
  replace h : execRingInterruptDelay port qp token s = .next s' := h
  unfold execRingInterruptDelay at h
  injection h with h
  subst h
  rw [plant_unfused]
  simp

theorem cxlMemRead_plant {s s' : State} port n offset len (h : exec (.cxlMemRead port n offset len) s = .next s') :
    s'.plant = s.plant := by
  replace h : execCxlMemRead port n offset len s = .next s' := h
  unfold execCxlMemRead at h
  injection h with h
  subst h
  rw [plant_unfused]
  split <;> simp [toPlant]

theorem cxlMemWrite_plant {s s' : State} port n offset data (h : exec (.cxlMemWrite port n offset data) s = .next s') :
    s'.plant = s.plant := by
  replace h : execCxlMemWrite port n offset data s = .next s' := h
  unfold execCxlMemWrite at h
  injection h with h
  subst h
  rw [plant_unfused]
  split <;> simp [toPlant]

theorem nop_plant {s s' : State} d (h : exec (.nop d) s = .next s') :
    s'.plant = s.plant := by
  replace h : execNop d s = .next s' := h
  unfold execNop at h
  injection h with h
  subst h
  rw [plant_unfused]
  refine plant_withDesc fun x => ?_
  simp

theorem fence_plant {s s' : State} d (h : exec (.fence d) s = .next s') :
    s'.plant = s.plant := by
  replace h : execFence d s = .next s' := h
  unfold execFence at h
  injection h with h
  subst h
  rw [plant_unfused]
  refine plant_withDesc fun x => ?_
  simp

theorem pkgStage_plant {s s' : State} d data (h : exec (.pkgStage d data) s = .next s') :
    s'.plant = s.plant := by
  replace h : execPkgStage d data s = .next s' := h
  unfold execPkgStage at h
  injection h with h
  subst h
  rw [plant_unfused]
  refine plant_withDesc fun x => ?_
  split
  · next h =>
    have e := plant_partnerData_of h
    refine (plant_atModule ?_).trans e
    split <;> simp
  · rfl

theorem pkgAdmit_plant {s s' : State} d pkg table (h : exec (.pkgAdmit d pkg table) s = .next s') :
    s'.plant = s.plant := by
  replace h : execPkgAdmit d pkg table s = .next s' := h
  unfold execPkgAdmit at h
  injection h with h
  subst h
  rw [plant_unfused]
  refine plant_withDesc fun x => ?_
  try dsimp only
  (repeat' split) <;> first | rfl | (simp; done)

theorem pkgEvict_plant {s s' : State} d (h : exec (.pkgEvict d) s = .next s') :
    s'.plant = s.plant := by
  replace h : execPkgEvict d s = .next s' := h
  unfold execPkgEvict at h
  injection h with h
  subst h
  rw [plant_unfused]
  refine plant_withDesc fun x => ?_
  simp

theorem harnessLoad_plant {s s' : State} d image (h : exec (.harnessLoad d image) s = .next s') :
    s'.plant = s.plant := by
  replace h : execHarnessLoad d image s = .next s' := h
  unfold execHarnessLoad at h
  injection h with h
  subst h
  rw [plant_unfused]
  refine plant_withDesc fun x => ?_
  simp

theorem harnessRelease_plant {s s' : State} d (h : exec (.harnessRelease d) s = .next s') :
    s'.plant = s.plant := by
  replace h : execHarnessRelease d s = .next s' := h
  unfold execHarnessRelease at h
  injection h with h
  subst h
  rw [plant_unfused]
  refine plant_withDesc fun x => ?_
  try dsimp only
  (repeat' split) <;> first | rfl | (simp; done)

theorem overlayRegister_plant {s s' : State} d image (h : exec (.overlayRegister d image) s = .next s') :
    s'.plant = s.plant := by
  replace h : execOverlayRegister d image s = .next s' := h
  unfold execOverlayRegister at h
  injection h with h
  subst h
  rw [plant_unfused]
  refine plant_withDesc fun x => ?_
  try dsimp only
  (repeat' split) <;> first | rfl | (simp [toPlant]; done)

theorem overlaySwitch_plant {s s' : State} d (h : exec (.overlaySwitch d) s = .next s') :
    s'.plant = s.plant := by
  replace h : execOverlaySwitch d s = .next s' := h
  unfold execOverlaySwitch at h
  injection h with h
  subst h
  rw [plant_unfused]
  refine plant_withDesc fun x => ?_
  try dsimp only
  (repeat' split) <;> first | rfl | (simp; done)

theorem overlayStagingDone_plant {s s' : State} inst (h : exec (.overlayStagingDone inst) s = .next s') :
    s'.plant = s.plant := by
  replace h : execOverlayStagingDone inst s = .next s' := h
  unfold execOverlayStagingDone at h
  injection h with h
  subst h
  rw [plant_unfused]
  try dsimp only
  (repeat' split) <;> first | rfl | (simp [toPlant]; done)

theorem overlayCommitTread_plant {s s' : State} inst (h : exec (.overlayCommitTread inst) s = .next s') :
    s'.plant = s.plant := by
  replace h : execOverlayCommitTread inst s = .next s' := h
  unfold execOverlayCommitTread at h
  injection h with h
  subst h
  rw [plant_unfused]
  try dsimp only
  (repeat' split) <;> first | rfl | (simp [toPlant]; done)

theorem regionDrained_plant {s s' : State} inst (h : exec (.regionDrained inst) s = .next s') :
    s'.plant = s.plant := by
  replace h : execRegionDrained inst s = .next s' := h
  unfold execRegionDrained at h
  injection h with h
  subst h
  rw [plant_unfused]
  try dsimp only
  (repeat' split) <;> first | rfl | (simp; done)

theorem drainLimitExpiry_plant {s s' : State} inst (h : exec (.drainLimitExpiry inst) s = .next s') :
    s'.plant = s.plant := by
  replace h : execDrainLimitExpiry inst s = .next s' := h
  unfold execDrainLimitExpiry at h
  injection h with h
  subst h
  rw [plant_unfused]
  try dsimp only
  (repeat' split) <;> first | rfl | (simp; done)

theorem switchFreezeDone_plant {s s' : State} inst (h : exec (.switchFreezeDone inst) s = .next s') :
    s'.plant = s.plant := by
  replace h : execSwitchFreezeDone inst s = .next s' := h
  unfold execSwitchFreezeDone at h
  injection h with h
  subst h
  rw [plant_unfused]
  try dsimp only
  (repeat' split) <;> first | rfl | (simp; done)

theorem switchParkDone_plant {s s' : State} inst (h : exec (.switchParkDone inst) s = .next s') :
    s'.plant = s.plant := by
  replace h : execSwitchParkDone inst s = .next s' := h
  unfold execSwitchParkDone at h
  injection h with h
  subst h
  rw [plant_unfused]
  try dsimp only
  (repeat' split) <;> first | rfl | (simp [toPlant]; done)

theorem bayApplyDone_plant {s s' : State} inst (h : exec (.bayApplyDone inst) s = .next s') :
    s'.plant = s.plant := by
  replace h : execBayApplyDone inst s = .next s' := h
  unfold execBayApplyDone at h
  injection h with h
  subst h
  rw [plant_unfused]
  try dsimp only
  (repeat' split) <;> first | rfl | (simp; done)

theorem harnessBind_plant {s s' : State} d table (h : exec (.harnessBind d table) s = .next s') :
    s'.plant = s.plant := by
  replace h : execHarnessBind d table s = .next s' := h
  unfold execHarnessBind at h
  injection h with h
  subst h
  rw [plant_unfused]
  refine plant_withDesc fun x => ?_
  simp

theorem harnessUnbind_plant {s s' : State} d (h : exec (.harnessUnbind d) s = .next s') :
    s'.plant = s.plant := by
  replace h : execHarnessUnbind d s = .next s' := h
  unfold execHarnessUnbind at h
  injection h with h
  subst h
  rw [plant_unfused]
  refine plant_withDesc fun x => ?_
  try dsimp only
  (repeat' split) <;> first | rfl | (simp [toPlant]; done)

theorem reqOpen_plant {s s' : State} d params prompt (h : exec (.reqOpen d params prompt) s = .next s') :
    s'.plant = s.plant := by
  replace h : execReqOpen d params prompt s = .next s' := h
  unfold execReqOpen at h
  injection h with h
  subst h
  rw [plant_unfused]
  refine plant_withDesc fun x => ?_
  simp

theorem reqAppend_plant {s s' : State} d prompt (h : exec (.reqAppend d prompt) s = .next s') :
    s'.plant = s.plant := by
  replace h : execReqAppend d prompt s = .next s' := h
  unfold execReqAppend at h
  injection h with h
  subst h
  rw [plant_unfused]
  refine plant_withDesc fun x => ?_
  simp

theorem reqCancel_plant {s s' : State} d (h : exec (.reqCancel d) s = .next s') :
    s'.plant = s.plant := by
  replace h : execReqCancel d s = .next s' := h
  unfold execReqCancel at h
  injection h with h
  subst h
  rw [plant_unfused]
  refine plant_withDesc fun x => plant_atLead fun g r => ?_
  simp

theorem reqClose_plant {s s' : State} d (h : exec (.reqClose d) s = .next s') :
    s'.plant = s.plant := by
  replace h : execReqClose d s = .next s' := h
  unfold execReqClose at h
  injection h with h
  subst h
  rw [plant_unfused]
  refine plant_withDesc fun x => plant_atLead fun g r => ?_
  simp

theorem adapterLoad_plant {s s' : State} d image (h : exec (.adapterLoad d image) s = .next s') :
    s'.plant = s.plant := by
  replace h : execAdapterLoad d image s = .next s' := h
  unfold execAdapterLoad at h
  injection h with h
  subst h
  rw [plant_unfused]
  refine plant_withDesc fun x => ?_
  try dsimp only
  (repeat' split) <;> first | rfl | (simp; done)

theorem adapterRetire_plant {s s' : State} d (h : exec (.adapterRetire d) s = .next s') :
    s'.plant = s.plant := by
  replace h : execAdapterRetire d s = .next s' := h
  unfold execAdapterRetire at h
  injection h with h
  subst h
  rw [plant_unfused]
  refine plant_withDesc fun x => ?_
  try dsimp only
  (repeat' split) <;> first | rfl | (simp [toPlant]; done)

theorem runGraph_plant {s s' : State} d far (h : exec (.runGraph d far) s = .next s') :
    s'.plant = s.plant := by
  replace h : execRunGraph d far s = .next s' := h
  unfold execRunGraph at h
  injection h with h
  subst h
  rw [plant_unfused]
  refine plant_withDesc fun x => ?_
  try dsimp only
  (repeat' split) <;> first | rfl | (simp; done) | exact plant_readTables s _ _ _ _

theorem syncSetArrive_plant {s s' : State} d (h : exec (.syncSetArrive d) s = .next s') :
    s'.plant = s.plant := by
  replace h : execSyncSetArrive d s = .next s' := h
  unfold execSyncSetArrive at h
  injection h with h
  subst h
  rw [plant_unfused]
  refine plant_withDesc fun x => ?_
  simp

theorem syncSetAdd_plant {s s' : State} d (h : exec (.syncSetAdd d) s = .next s') :
    s'.plant = s.plant := by
  replace h : execSyncSetAdd d s = .next s' := h
  unfold execSyncSetAdd at h
  injection h with h
  subst h
  rw [plant_unfused]
  refine plant_withDesc fun x => ?_
  simp

theorem syncSetPost_plant {s s' : State} d (h : exec (.syncSetPost d) s = .next s') :
    s'.plant = s.plant := by
  replace h : execSyncSetPost d s = .next s' := h
  unfold execSyncSetPost at h
  injection h with h
  subst h
  rw [plant_unfused]
  refine plant_withDesc fun x => ?_
  simp

theorem syncSetBase_plant {s s' : State} d (h : exec (.syncSetBase d) s = .next s') :
    s'.plant = s.plant := by
  replace h : execSyncSetBase d s = .next s' := h
  unfold execSyncSetBase at h
  injection h with h
  subst h
  rw [plant_unfused]
  refine plant_withDesc fun x => ?_
  simp

theorem syncWaitWait_plant {s s' : State} d (h : exec (.syncWaitWait d) s = .next s') :
    s'.plant = s.plant := by
  replace h : execSyncWaitWait d s = .next s' := h
  unfold execSyncWaitWait at h
  injection h with h
  subst h
  rw [plant_unfused]
  refine plant_withDesc fun x => ?_
  simp

theorem syncWaitAcquire_plant {s s' : State} d (h : exec (.syncWaitAcquire d) s = .next s') :
    s'.plant = s.plant := by
  replace h : execSyncWaitAcquire d s = .next s' := h
  unfold execSyncWaitAcquire at h
  injection h with h
  subst h
  rw [plant_unfused]
  refine plant_withDesc fun x => ?_
  simp

theorem syncWaitTimeout_plant {s s' : State} d (h : exec (.syncWaitTimeout d) s = .next s') :
    s'.plant = s.plant := by
  replace h : execSyncWaitTimeout d s = .next s' := h
  unfold execSyncWaitTimeout at h
  injection h with h
  subst h
  rw [plant_unfused]
  try dsimp only
  (repeat' split) <;> first | rfl | (simp [toPlant]; done)

theorem syncWaitSatisfied_plant {s s' : State} d (h : exec (.syncWaitSatisfied d) s = .next s') :
    s'.plant = s.plant := by
  replace h : execSyncWaitSatisfied d s = .next s' := h
  unfold execSyncWaitSatisfied at h
  injection h with h
  subst h
  rw [plant_unfused]
  try dsimp only
  (repeat' split) <;> first | rfl | (simp; done)

theorem moveRelocate_plant {s s' : State} d (h : exec (.moveRelocate d) s = .next s') :
    s'.plant = s.plant := by
  replace h : execMoveRelocate d s = .next s' := h
  unfold execMoveRelocate at h
  injection h with h
  subst h
  rw [plant_unfused]
  refine plant_withDesc fun x => ?_
  simp

theorem moveImport_plant {s s' : State} d data (h : exec (.moveImport d data) s = .next s') :
    s'.plant = s.plant := by
  replace h : execMoveImport d data s = .next s' := h
  unfold execMoveImport at h
  injection h with h
  subst h
  rw [plant_unfused]
  refine plant_withDesc fun x => ?_
  split
  · next h => simpa using plant_partnerData_of h
  · rfl

theorem moveExport_plant {s s' : State} d (h : exec (.moveExport d) s = .next s') :
    s'.plant = s.plant := by
  replace h : execMoveExport d s = .next s' := h
  unfold execMoveExport at h
  injection h with h
  subst h
  rw [plant_unfused]
  refine plant_withDesc fun x => ?_
  simp

theorem moveAlloc_plant {s s' : State} d (h : exec (.moveAlloc d) s = .next s') :
    s'.plant = s.plant := by
  replace h : execMoveAlloc d s = .next s' := h
  unfold execMoveAlloc at h
  injection h with h
  subst h
  rw [plant_unfused]
  refine plant_withDesc fun x => ?_
  simp

theorem moveFree_plant {s s' : State} d (h : exec (.moveFree d) s = .next s') :
    s'.plant = s.plant := by
  replace h : execMoveFree d s = .next s' := h
  unfold execMoveFree at h
  injection h with h
  subst h
  rw [plant_unfused]
  refine plant_withDesc fun x => ?_
  simp

theorem attest_plant {s s' : State} d (h : exec (.attest d) s = .next s') :
    s'.plant = s.plant := by
  replace h : execAttest d s = .next s' := h
  unfold execAttest at h
  injection h with h
  subst h
  rw [plant_unfused]
  refine plant_withDesc fun x => ?_
  simp

theorem keyImport_plant {s s' : State} d blob (h : exec (.keyImport d blob) s = .next s') :
    s'.plant = s.plant := by
  replace h : execKeyImport d blob s = .next s' := h
  unfold execKeyImport at h
  injection h with h
  subst h
  rw [plant_unfused]
  refine plant_withDesc fun x => ?_
  simp

theorem keyClear_plant {s s' : State} d (h : exec (.keyClear d) s = .next s') :
    s'.plant = s.plant := by
  replace h : execKeyClear d s = .next s' := h
  unfold execKeyClear at h
  injection h with h
  subst h
  rw [plant_unfused]
  refine plant_withDesc fun x => ?_
  simp [toPlant]

theorem ctxSave_plant {s s' : State} d (h : exec (.ctxSave d) s = .next s') :
    s'.plant = s.plant := by
  replace h : execCtxSave d s = .next s' := h
  unfold execCtxSave at h
  injection h with h
  subst h
  rw [plant_unfused]
  refine plant_withDesc fun x => ?_
  try dsimp only
  (repeat' split) <;> first | rfl | (simp [toPlant]; done)

theorem ctxSaveFreeze_plant {s s' : State} d (h : exec (.ctxSaveFreeze d) s = .next s') :
    s'.plant = s.plant := by
  replace h : execCtxSaveFreeze d s = .next s' := h
  unfold execCtxSaveFreeze at h
  injection h with h
  subst h
  rw [plant_unfused]
  try dsimp only
  (repeat' split) <;> first | rfl | (simp [toPlant]; done)

theorem sendFenceSatisfied_plant {s s' : State} d (h : exec (.sendFenceSatisfied d) s = .next s') :
    s'.plant = s.plant := by
  replace h : execSendFenceSatisfied d s = .next s' := h
  unfold execSendFenceSatisfied at h
  injection h with h
  subst h
  rw [plant_unfused]
  split
  · rfl
  · split
    · rfl
    · split
      · exact plant_writeSave _ _ _ _
      · next sv _ _ _ _ =>
        have e3 (n : AMap Save) : ({ s with saves := n } : State).plant = s.plant := rfl
        rw [plant_endSave, e3]

theorem ctxRestore_plant {s s' : State} d area (h : exec (.ctxRestore d area) s = .next s') :
    s'.plant = s.plant := by
  replace h : execCtxRestore d area s = .next s' := h
  unfold execCtxRestore at h
  injection h with h
  subst h
  rw [plant_unfused]
  refine plant_withDesc fun x => ?_
  dsimp only
  split
  · simp
  · split
    · simp
    · split
      · simp
      · split
        · simp
        · split
          · split <;> simp
          · rw [plant_restoreCtx, plant_of_butMemory (butMemory_objDemand _ _ _ _)]

theorem resumeTreadRelease_plant {s s' : State} d (h : exec (.resumeTreadRelease d) s = .next s') :
    s'.plant = s.plant := by
  replace h : execResumeTreadRelease d s = .next s' := h
  unfold execResumeTreadRelease at h
  injection h with h
  subst h
  rw [plant_unfused]
  split
  · rfl
  · split
    · rfl
    · rw [plant_complete]
      refine (foldl_keeps State.plant _ (fun u k => ?_) _ _).trans rfl
      cases mget u.insts k with
      | none => rfl
      | some i => dsimp only [Option.elim]; split <;> simp

theorem telemetrySnap_plant {s s' : State} d (h : exec (.telemetrySnap d) s = .next s') :
    s'.plant = s.plant := by
  replace h : execTelemetrySnap d s = .next s' := h
  unfold execTelemetrySnap at h
  injection h with h
  subst h
  rw [plant_unfused]
  refine plant_withDesc fun x => ?_
  simp [toPlant]

theorem telemetryLatch_plant {s s' : State} d (h : exec (.telemetryLatch d) s = .next s') :
    s'.plant = s.plant := by
  replace h : execTelemetryLatch d s = .next s' := h
  unfold execTelemetryLatch at h
  injection h with h
  subst h
  rw [plant_unfused]
  try dsimp only
  (repeat' split) <;> first | rfl | (simp [toPlant]; done)

theorem instrNop_plant {s s' : State} t l (h : exec (.instrNop t l) s = .next s') :
    s'.plant = s.plant := by
  replace h : execInstrNop t l s = .next s' := h
  unfold execInstrNop at h
  injection h with h
  subst h
  rw [plant_unfused]
  exact plant_laneRow fun w => by simp

theorem setlc_plant {s s' : State} t l (h : exec (.setlc t l) s = .next s') :
    s'.plant = s.plant := by
  replace h : execSetlc t l s = .next s' := h
  unfold execSetlc at h
  injection h with h
  subst h
  rw [plant_unfused]
  exact plant_laneRow fun w => by simp

theorem setf_plant {s s' : State} t l (h : exec (.setf t l) s = .next s') :
    s'.plant = s.plant := by
  replace h : execSetf t l s = .next s' := h
  unfold execSetf at h
  injection h with h
  subst h
  rw [plant_unfused]
  exact plant_laneRow fun w => by simp

theorem clrf_plant {s s' : State} t l (h : exec (.clrf t l) s = .next s') :
    s'.plant = s.plant := by
  replace h : execClrf t l s = .next s' := h
  unfold execClrf at h
  injection h with h
  subst h
  rw [plant_unfused]
  exact plant_laneRow fun w => by simp

theorem jump_plant {s s' : State} t l (h : exec (.jump t l) s = .next s') :
    s'.plant = s.plant := by
  replace h : execJump t l s = .next s' := h
  unfold execJump at h
  injection h with h
  subst h
  rw [plant_unfused]
  exact plant_laneRow fun w => by simp

theorem halt_plant {s s' : State} t l (h : exec (.halt t l) s = .next s') :
    s'.plant = s.plant := by
  replace h : execHalt t l s = .next s' := h
  unfold execHalt at h
  injection h with h
  subst h
  rw [plant_unfused]
  exact plant_laneRow fun w => by simp

theorem send_plant {s s' : State} t l (h : exec (.send t l) s = .next s') :
    s'.plant = s.plant := by
  replace h : execSend t l s = .next s' := h
  unfold execSend at h
  injection h with h
  subst h
  rw [plant_unfused]
  exact plant_laneRow fun w => by simp

theorem eos_plant {s s' : State} t l (h : exec (.eos t l) s = .next s') :
    s'.plant = s.plant := by
  replace h : execEos t l s = .next s' := h
  unfold execEos at h
  injection h with h
  subst h
  rw [plant_unfused]
  exact plant_laneRow fun w => by simp

theorem syncArrive_plant {s s' : State} t (h : exec (.syncArrive t) s = .next s') :
    s'.plant = s.plant := by
  replace h : execSyncArrive t s = .next s' := h
  unfold execSyncArrive at h
  injection h with h
  subst h
  rw [plant_unfused]
  refine plant_laneRow fun s w => ?_
  simp

theorem syncAdd_plant {s s' : State} t (h : exec (.syncAdd t) s = .next s') :
    s'.plant = s.plant := by
  replace h : execSyncAdd t s = .next s' := h
  unfold execSyncAdd at h
  injection h with h
  subst h
  rw [plant_unfused]
  simp

theorem syncWait_plant {s s' : State} t (h : exec (.syncWait t) s = .next s') :
    s'.plant = s.plant := by
  replace h : execSyncWait t s = .next s' := h
  unfold execSyncWait at h
  injection h with h
  subst h
  rw [plant_unfused]
  simp

theorem take_plant {s s' : State} t (h : exec (.take t) s = .next s') :
    s'.plant = s.plant := by
  replace h : execTake t s = .next s' := h
  unfold execTake at h
  injection h with h
  subst h
  rw [plant_unfused]
  simp

theorem complete_plant {s s' : State} t (h : exec (.complete t) s = .next s') :
    s'.plant = s.plant := by
  replace h : execComplete t s = .next s' := h
  unfold execComplete at h
  injection h with h
  subst h
  rw [plant_unfused]
  simp

theorem acquire_plant {s s' : State} t (h : exec (.acquire t) s = .next s') :
    s'.plant = s.plant := by
  replace h : execAcquire t s = .next s' := h
  unfold execAcquire at h
  injection h with h
  subst h
  rw [plant_unfused]
  simp

theorem post_plant {s s' : State} t (h : exec (.post t) s = .next s') :
    s'.plant = s.plant := by
  replace h : execPost t s = .next s' := h
  unfold execPost at h
  injection h with h
  subst h
  rw [plant_unfused]
  simp

theorem setBase_plant {s s' : State} ctx vid base (h : exec (.setBase ctx vid base) s = .next s') :
    s'.plant = s.plant := by
  replace h : execSetBase ctx vid base s = .next s' := h
  unfold execSetBase at h
  injection h with h
  subst h
  rw [plant_unfused]
  simp

theorem newStep_plant {s s' : State} ctx vid n (h : exec (.newStep ctx vid n) s = .next s') :
    s'.plant = s.plant := by
  replace h : execNewStep ctx vid n s = .next s' := h
  unfold execNewStep at h
  injection h with h
  subst h
  rw [plant_unfused]
  simp

theorem restart_plant {s s' : State} ctx vid n (h : exec (.restart ctx vid n) s = .next s') :
    s'.plant = s.plant := by
  replace h : execRestart ctx vid n s = .next s' := h
  unfold execRestart at h
  injection h with h
  subst h
  rw [plant_unfused]
  simp

theorem barrierTimedRelease_plant {s s' : State} o (h : exec (.barrierTimedRelease o) s = .next s') :
    s'.plant = s.plant := by
  replace h : execBarrierTimedRelease o s = .next s' := h
  unfold execBarrierTimedRelease at h
  injection h with h
  subst h
  rw [plant_unfused]
  simp

theorem barrierTimeout_plant {s s' : State} o (h : exec (.barrierTimeout o) s = .next s') :
    s'.plant = s.plant := by
  replace h : execBarrierTimeout o s = .next s' := h
  unfold execBarrierTimeout at h
  injection h with h
  subst h
  rw [plant_unfused]
  simp

theorem barrierFloorRelease_plant {s s' : State} o (h : exec (.barrierFloorRelease o) s = .next s') :
    s'.plant = s.plant := by
  replace h : execBarrierFloorRelease o s = .next s' := h
  unfold execBarrierFloorRelease at h
  injection h with h
  subst h
  rw [plant_unfused]
  simp

theorem generationRetire_plant {s s' : State} o (h : exec (.generationRetire o) s = .next s') :
    s'.plant = s.plant := by
  replace h : execGenerationRetire o s = .next s' := h
  unfold execGenerationRetire at h
  injection h with h
  subst h
  rw [plant_unfused]
  try dsimp only
  (repeat' split) <;> first | rfl | (simp; done)

theorem riserWaveStart_plant {s s' : State} o wave (h : exec (.riserWaveStart o wave) s = .next s') :
    s'.plant = s.plant := by
  replace h : execRiserWaveStart o wave s = .next s' := h
  unfold execRiserWaveStart at h
  injection h with h
  subst h
  rw [plant_unfused]
  simp [toPlant]

theorem mxeOp_plant {s s' : State} t (h : exec (.mxeOp t) s = .next s') :
    s'.plant = s.plant := by
  replace h : execMxeOp t s = .next s' := h
  unfold execMxeOp at h
  injection h with h
  subst h
  rw [plant_unfused]
  exact plant_laneRow fun w => by simp

theorem merge_plant {s s' : State} t (h : exec (.merge t) s = .next s') :
    s'.plant = s.plant := by
  replace h : execMerge t s = .next s' := h
  unfold execMerge at h
  injection h with h
  subst h
  rw [plant_unfused]
  exact plant_laneRow fun w => by simp

theorem mxeOpComplete_plant {s s' : State} t (h : exec (.mxeOpComplete t) s = .next s') :
    s'.plant = s.plant := by
  replace h : execMxeOpComplete t s = .next s' := h
  unfold execMxeOpComplete at h
  injection h with h
  subst h
  rw [plant_unfused]
  dsimp only
  (repeat' split) <;> simp

theorem vop_plant {s s' : State} t (h : exec (.vop t) s = .next s') :
    s'.plant = s.plant := by
  replace h : execVop t s = .next s' := h
  unfold execVop at h
  injection h with h
  subst h
  rw [plant_unfused]
  exact plant_laneRow fun w => by simp

theorem sop_plant {s s' : State} t (h : exec (.sop t) s = .next s') :
    s'.plant = s.plant := by
  replace h : execSop t s = .next s' := h
  unfold execSop at h
  injection h with h
  subst h
  rw [plant_unfused]
  exact plant_laneRow fun w => by simp

theorem t2Read_plant {s s' : State} t (h : exec (.t2Read t) s = .next s') :
    s'.plant = s.plant := by
  replace h : execT2Read t s = .next s' := h
  unfold execT2Read at h
  injection h with h
  subst h
  rw [plant_unfused]
  exact plant_laneRow fun w => by simp

theorem t2Write_plant {s s' : State} t (h : exec (.t2Write t) s = .next s') :
    s'.plant = s.plant := by
  replace h : execT2Write t s = .next s' := h
  unfold execT2Write at h
  injection h with h
  subst h
  rw [plant_unfused]
  exact plant_laneRow fun w => by simp

theorem t2MoveComplete_plant {s s' : State} t (h : exec (.t2MoveComplete t) s = .next s') :
    s'.plant = s.plant := by
  replace h : execT2MoveComplete t s = .next s' := h
  unfold execT2MoveComplete at h
  injection h with h
  subst h
  rw [plant_unfused]
  try dsimp only
  (repeat' split) <;> first | rfl | (simp; done)

theorem galGet_plant {s s' : State} t (h : exec (.galGet t) s = .next s') :
    s'.plant = s.plant := by
  replace h : execGalGet t s = .next s' := h
  unfold execGalGet at h
  injection h with h
  subst h
  rw [plant_unfused]
  exact plant_laneRow fun w => by simp

theorem galPut_plant {s s' : State} t (h : exec (.galPut t) s = .next s') :
    s'.plant = s.plant := by
  replace h : execGalPut t s = .next s' := h
  unfold execGalPut at h
  injection h with h
  subst h
  rw [plant_unfused]
  exact plant_laneRow fun w => by simp

theorem galleryTransferDone_plant {s s' : State} t (h : exec (.galleryTransferDone t) s = .next s') :
    s'.plant = s.plant := by
  replace h : execGalleryTransferDone t s = .next s' := h
  unfold execGalleryTransferDone at h
  injection h with h
  subst h
  rw [plant_unfused]
  try dsimp only
  (repeat' split) <;> first | rfl | (simp; done)

theorem spillReturn_plant {s s' : State} t q (h : exec (.spillReturn t q) s = .next s') :
    s'.plant = s.plant := by
  replace h : execSpillReturn t q s = .next s' := h
  unfold execSpillReturn at h
  injection h with h
  subst h
  rw [plant_unfused]
  simp

theorem fabricWatchdogExpiry_plant {s s' : State} t (h : exec (.fabricWatchdogExpiry t) s = .next s') :
    s'.plant = s.plant := by
  replace h : execFabricWatchdogExpiry t s = .next s' := h
  unfold execFabricWatchdogExpiry at h
  injection h with h
  subst h
  rw [plant_unfused]
  try dsimp only
  (repeat' split) <;> first | rfl | (simp; done)

theorem fetchIssue_plant {s s' : State} engine (h : exec (.fetchIssue engine) s = .next s') :
    s'.plant = s.plant := by
  replace h : execFetchIssue engine s = .next s' := h
  unfold execFetchIssue at h
  injection h with h
  subst h
  rw [plant_unfused]
  try dsimp only
  (repeat' split) <;> first | rfl | (simp; done)

theorem fetchUnitLanded_plant {s s' : State} engine index (h : exec (.fetchUnitLanded engine index) s = .next s') :
    s'.plant = s.plant := by
  replace h : execFetchUnitLanded engine index s = .next s' := h
  unfold execFetchUnitLanded at h
  injection h with h
  subst h
  rw [plant_unfused]
  try dsimp only
  (repeat' split) <;> first | rfl | (simp; done)

theorem pageRebuild_plant {s s' : State} tier word (h : exec (.pageRebuild tier word) s = .next s') :
    s'.plant = s.plant := by
  replace h : execPageRebuild tier word s = .next s' := h
  unfold execPageRebuild at h
  injection h with h
  subst h
  rw [plant_unfused]
  simp [toPlant]

theorem pageRebuildDone_plant {s s' : State} tier page (h : exec (.pageRebuildDone tier page) s = .next s') :
    s'.plant = s.plant := by
  replace h : execPageRebuildDone tier page s = .next s' := h
  unfold execPageRebuildDone at h
  injection h with h
  subst h
  rw [plant_unfused]
  try dsimp only
  (repeat' split) <;> first | rfl | (simp; done)

theorem ceBucketLeak_plant {s s' : State} tier (h : exec (.ceBucketLeak tier) s = .next s') :
    s'.plant = s.plant := by
  replace h : execCeBucketLeak tier s = .next s' := h
  unfold execCeBucketLeak at h
  injection h with h
  subst h
  rw [plant_unfused]
  try dsimp only
  (repeat' split) <;> first | rfl | (simp [toPlant]; done)

theorem patrolScrubPage_plant {s s' : State} tier unit (h : exec (.patrolScrubPage tier unit) s = .next s') :
    s'.plant = s.plant := by
  replace h : execPatrolScrubPage tier unit s = .next s' := h
  unfold execPatrolScrubPage at h
  injection h with h
  subst h
  rw [plant_unfused]
  simp [toPlant]

theorem repairGo_plant {s s' : State} value (h : exec (.repairGo value) s = .next s') :
    s'.plant = s.plant := by
  replace h : execRepairGo value s = .next s' := h
  unfold execRepairGo at h
  injection h with h
  subst h
  rw [plant_unfused]
  (repeat' split) <;> first | rfl | simp

theorem repairCommit_plant {s s' : State} value (h : exec (.repairCommit value) s = .next s') :
    s'.plant = s.plant := by
  replace h : execRepairCommit value s = .next s' := h
  unfold execRepairCommit at h
  injection h with h
  subst h
  rw [plant_unfused]
  (repeat' split) <;> first | rfl | simp

theorem stepPlan_plant {s s' : State} group (h : exec (.stepPlan group) s = .next s') :
    s'.plant = s.plant := by
  replace h : execStepPlan group s = .next s' := h
  unfold execStepPlan at h
  injection h with h
  subst h
  rw [plant_unfused]
  simp

theorem stepStart_plant {s s' : State} group (h : exec (.stepStart group) s = .next s') :
    s'.plant = s.plant := by
  replace h : execStepStart group s = .next s' := h
  unfold execStepStart at h
  injection h with h
  subst h
  rw [plant_unfused]
  split
  · rfl
  · split
    · rfl
    · next g _ _ =>
      have e : (if g.lead = s.net.index then
          let r := settleObj s g.bar (· == .arrival)
          syncRun r.1 r.2
        else s).plant = s.plant := by split <;> simp
      dsimp only at e ⊢
      generalize (if g.lead = s.net.index then syncRun _ _ else s) = u at e ⊢
      split
      · exact e
      · split
        · split
          · exact e
          · split
            · exact (plant_startGroup _ _ _ _).trans e
            · exact (plant_deferGroup _ _).trans e
        · exact (plant_foldl _ (fun s i => plant_startAlone s i) _ _).trans e

theorem groupFirstStep_plant {s s' : State} group (h : exec (.groupFirstStep group) s = .next s') :
    s'.plant = s.plant := by
  replace h : execGroupFirstStep group s = .next s' := h
  unfold execGroupFirstStep at h
  injection h with h
  subst h
  rw [plant_unfused]
  simp

theorem stepSettle_plant {s s' : State} group outs routing (h : exec (.stepSettle group outs routing) s = .next s') :
    s'.plant = s.plant := by
  replace h : execStepSettle group outs routing s = .next s' := h
  unfold execStepSettle at h
  injection h with h
  subst h
  rw [plant_unfused]
  try dsimp only
  (repeat' split) <;> first | rfl | (simp; done)

theorem periodEstimateUpdate_plant {s s' : State} group (h : exec (.periodEstimateUpdate group) s = .next s') :
    s'.plant = s.plant := by
  replace h : execPeriodEstimateUpdate group s = .next s' := h
  unfold execPeriodEstimateUpdate at h
  injection h with h
  subst h
  rw [plant_unfused]
  try dsimp only
  (repeat' split) <;> first | rfl | (simp [toPlant]; done)

theorem roleEvaluation_plant {s s' : State} group (h : exec (.roleEvaluation group) s = .next s') :
    s'.plant = s.plant := by
  replace h : execRoleEvaluation group s = .next s' := h
  unfold execRoleEvaluation at h
  injection h with h
  subst h
  rw [plant_unfused]
  try dsimp only
  (repeat' split) <;> first | rfl | (simp [toPlant]; done)

theorem linkEnable_plant {s s' : State} k en (h : exec (.linkEnable k en) s = .next s') :
    s'.plant = s.plant := by
  replace h : execLinkEnable k en s = .next s' := h
  unfold execLinkEnable at h
  injection h with h
  subst h
  rw [plant_unfused]
  simp

theorem linkTrained_plant {s s' : State} k lanes (h : exec (.linkTrained k lanes) s = .next s') :
    s'.plant = s.plant := by
  replace h : execLinkTrained k lanes s = .next s' := h
  unfold execLinkTrained at h
  injection h with h
  subst h
  rw [plant_unfused]
  simp

theorem linkDown_plant {s s' : State} k cause (h : exec (.linkDown k cause) s = .next s') :
    s'.plant = s.plant := by
  replace h : execLinkDown k cause s = .next s' := h
  unfold execLinkDown at h
  injection h with h
  subst h
  rw [plant_unfused]
  simp

theorem linkRetrain_plant {s s' : State} k (h : exec (.linkRetrain k) s = .next s') :
    s'.plant = s.plant := by
  replace h : execLinkRetrain k s = .next s' := h
  unfold execLinkRetrain at h
  injection h with h
  subst h
  rw [plant_unfused]
  simp [toPlant]

theorem helloA_plant {s s' : State} k payload rxNs (h : exec (.helloA k payload rxNs) s = .next s') :
    s'.plant = s.plant := by
  replace h : execHelloA k payload rxNs s = .next s' := h
  unfold execHelloA at h
  injection h with h
  subst h
  rw [plant_unfused]
  try dsimp only
  (repeat' split) <;> first | rfl | (simp; done)

theorem helloB_plant {s s' : State} k payload (h : exec (.helloB k payload) s = .next s') :
    s'.plant = s.plant := by
  replace h : execHelloB k payload s = .next s' := h
  unfold execHelloB at h
  injection h with h
  subst h
  rw [plant_unfused]
  try dsimp only
  (repeat' split) <;> first | rfl | (simp; done)

theorem helloDelay_plant {s s' : State} k payload (h : exec (.helloDelay k payload) s = .next s') :
    s'.plant = s.plant := by
  replace h : execHelloDelay k payload s = .next s' := h
  unfold execHelloDelay at h
  injection h with h
  subst h
  rw [plant_unfused]
  try dsimp only
  (repeat' split) <;> first | rfl | (simp; done)

theorem helloRetry_plant {s s' : State} k (h : exec (.helloRetry k) s = .next s') :
    s'.plant = s.plant := by
  replace h : execHelloRetry k s = .next s' := h
  unfold execHelloRetry at h
  injection h with h
  subst h
  rw [plant_unfused]
  try dsimp only
  (repeat' split) <;> first | rfl | (simp; done)

theorem frameReceive_plant {s s' : State} k f (h : exec (.frameReceive k f) s = .next s') :
    s'.plant = s.plant := by
  replace h : execFrameReceive k f s = .next s' := h
  unfold execFrameReceive at h
  injection h with h
  subst h
  rw [plant_unfused]
  try dsimp only
  (repeat' split) <;> first | rfl | (simp; done)

theorem gtAck_plant {s s' : State} k ack negative (h : exec (.gtAck k ack negative) s = .next s') :
    s'.plant = s.plant := by
  replace h : execGtAck k ack negative s = .next s' := h
  unfold execGtAck at h
  injection h with h
  subst h
  rw [plant_unfused]
  simp

theorem ackTimer_plant {s s' : State} k (h : exec (.ackTimer k) s = .next s') :
    s'.plant = s.plant := by
  replace h : execAckTimer k s = .next s' := h
  unfold execAckTimer at h
  injection h with h
  subst h
  rw [plant_unfused]
  simp

theorem retryTimeout_plant {s s' : State} k (h : exec (.retryTimeout k) s = .next s') :
    s'.plant = s.plant := by
  replace h : execRetryTimeout k s = .next s' := h
  unfold execRetryTimeout at h
  injection h with h
  subst h
  rw [plant_unfused]
  simp

theorem gtWrite_plant {s s' : State} p (h : exec (.gtWrite p) s = .next s') :
    s'.plant = s.plant := by
  replace h : execGtWrite p s = .next s' := h
  unfold execGtWrite at h
  injection h with h
  subst h
  rw [plant_unfused]
  refine plant_inRx fun r => ?_
  try dsimp only
  (repeat' split) <;> first | rfl | (simp; done)

theorem gtRead_plant {s s' : State} p (h : exec (.gtRead p) s = .next s') :
    s'.plant = s.plant := by
  replace h : execGtRead p s = .next s' := h
  unfold execGtRead at h
  injection h with h
  subst h
  rw [plant_unfused]
  refine plant_inRx fun r => ?_
  try dsimp only
  (repeat' split) <;> first | rfl | (simp; done)

theorem gtData_plant {s s' : State} p (h : exec (.gtData p) s = .next s') :
    s'.plant = s.plant := by
  replace h : execGtData p s = .next s' := h
  unfold execGtData at h
  injection h with h
  subst h
  rw [plant_unfused]
  refine plant_inRx fun r => ?_
  dsimp only
  split
  · simp
  · split
    · simp
    · split
      · next h => simpa using plant_deliverData_of h
      · simp

theorem gtStream_plant {s s' : State} p (h : exec (.gtStream p) s = .next s') :
    s'.plant = s.plant := by
  replace h : execGtStream p s = .next s' := h
  unfold execGtStream at h
  injection h with h
  subst h
  rw [plant_unfused]
  refine plant_inRx fun r => ?_
  try dsimp only
  (repeat' split) <;> first | rfl | (simp; done)

theorem gtSync_plant {s s' : State} p (h : exec (.gtSync p) s = .next s') :
    s'.plant = s.plant := by
  replace h : execGtSync p s = .next s' := h
  unfold execGtSync at h
  injection h with h
  subst h
  rw [plant_unfused]
  refine plant_inRx fun r => ?_
  try dsimp only
  (repeat' split) <;> first | rfl | (simp [toPlant]; done)

theorem gtSyncRsp_plant {s s' : State} p (h : exec (.gtSyncRsp p) s = .next s') :
    s'.plant = s.plant := by
  replace h : execGtSyncRsp p s = .next s' := h
  unfold execGtSyncRsp at h
  injection h with h
  subst h
  rw [plant_unfused]
  refine plant_inRx fun r => ?_
  try dsimp only
  (repeat' split) <;> first | rfl | (simp [toPlant]; done)

theorem gtDir_plant {s s' : State} p (h : exec (.gtDir p) s = .next s') :
    s'.plant = s.plant := by
  replace h : execGtDir p s = .next s' := h
  unfold execGtDir at h
  injection h with h
  subst h
  rw [plant_unfused]
  refine plant_inRx fun r => ?_
  try dsimp only
  (repeat' split) <;> first | rfl | (simp; done) | (simp [toPlant]; done)

theorem gtDone_plant {s s' : State} p (h : exec (.gtDone p) s = .next s') :
    s'.plant = s.plant := by
  replace h : execGtDone p s = .next s' := h
  unfold execGtDone at h
  injection h with h
  subst h
  rw [plant_unfused]
  refine plant_inRx fun r => ?_
  simp

theorem gtRedirect_plant {s s' : State} p (h : exec (.gtRedirect p) s = .next s') :
    s'.plant = s.plant := by
  replace h : execGtRedirect p s = .next s' := h
  unfold execGtRedirect at h
  injection h with h
  subst h
  rw [plant_unfused]
  refine plant_inRx fun r => ?_
  try dsimp only
  (repeat' split) <;> first | rfl | (simp; done)

theorem gtForward_plant {s s' : State} p (h : exec (.gtForward p) s = .next s') :
    s'.plant = s.plant := by
  replace h : execGtForward p s = .next s' := h
  unfold execGtForward at h
  injection h with h
  subst h
  rw [plant_unfused]
  split
  · rfl
  · split
    · rfl
    · split
      · simp
      · split
        · simp
        · split
          · next h => rw [plant_dropRx, plant_trySend h]
          · exact (plant_countWait s _ :)

theorem packetTimeout_plant {s s' : State} msg (h : exec (.packetTimeout msg) s = .next s') :
    s'.plant = s.plant := by
  replace h : execPacketTimeout msg s = .next s' := h
  unfold execPacketTimeout at h
  injection h with h
  subst h
  rw [plant_unfused]
  try dsimp only
  (repeat' split) <;> first | rfl | (simp; done)

theorem ecnRateRaise_plant {s s' : State} k (h : exec (.ecnRateRaise k) s = .next s') :
    s'.plant = s.plant := by
  replace h : execEcnRateRaise k s = .next s' := h
  unfold execEcnRateRaise at h
  injection h with h
  subst h
  rw [plant_unfused]
  simp

theorem linkState_plant {s s' : State} p (h : exec (.linkState p) s = .next s') :
    s'.plant = s.plant := by
  replace h : execLinkState p s = .next s' := h
  unfold execLinkState at h
  injection h with h
  subst h
  rw [plant_unfused]
  refine plant_inCtrl fun u k b hu => ?_
  try dsimp only
  (repeat' split) <;> first | rfl | exact hu | (simp; done) | (simp [hu]; done)

theorem descFwd_plant {s s' : State} p (h : exec (.descFwd p) s = .next s') :
    s'.plant = s.plant := by
  replace h : execDescFwd p s = .next s' := h
  unfold execDescFwd at h
  injection h with h
  subst h
  rw [plant_unfused]
  refine plant_inCtrl fun u k b hu => ?_
  try dsimp only
  (repeat' split) <;> first | rfl | exact hu | (simp [toPlant]; done) | (simp [toPlant, hu]; done)

theorem descDone_plant {s s' : State} p (h : exec (.descDone p) s = .next s') :
    s'.plant = s.plant := by
  replace h : execDescDone p s = .next s' := h
  unfold execDescDone at h
  injection h with h
  subst h
  rw [plant_unfused]
  refine plant_inCtrl fun u k b hu => ?_
  dsimp only
  split
  · split
    · next h => exact (plant_exportRead_of h).trans hu
    · simpa [toPlant] using hu
  · exact hu

theorem reqFwd_plant {s s' : State} p (h : exec (.reqFwd p) s = .next s') :
    s'.plant = s.plant := by
  replace h : execReqFwd p s = .next s' := h
  unfold execReqFwd at h
  injection h with h
  subst h
  rw [plant_unfused]
  refine plant_inCtrl fun u k b hu => ?_
  try dsimp only
  (repeat' split) <;> first | rfl | exact hu | (simp; done) | (simp [hu]; done)

theorem reqAck_plant {s s' : State} p (h : exec (.reqAck p) s = .next s') :
    s'.plant = s.plant := by
  replace h : execReqAck p s = .next s' := h
  unfold execReqAck at h
  injection h with h
  subst h
  rw [plant_unfused]
  refine plant_inCtrl fun u k b hu => ?_
  try dsimp only
  (repeat' split) <;> first | rfl | exact hu | (simp [toPlant]; done) | (simp [toPlant, hu]; done)

theorem stepPlanReceive_plant {s s' : State} p (h : exec (.stepPlanReceive p) s = .next s') :
    s'.plant = s.plant := by
  replace h : execStepPlanReceive p s = .next s' := h
  unfold execStepPlanReceive at h
  injection h with h
  subst h
  rw [plant_unfused]
  refine plant_inCtrl fun u k b hu => ?_
  try dsimp only
  (repeat' split) <;> first | rfl | exact hu | (simp; done) | (simp [hu]; done)

theorem settle_plant {s s' : State} p (h : exec (.settle p) s = .next s') :
    s'.plant = s.plant := by
  replace h : execSettle p s = .next s' := h
  unfold execSettle at h
  injection h with h
  subst h
  rw [plant_unfused]
  refine plant_inCtrl fun u k b hu => ?_
  try dsimp only
  (repeat' split) <;> first | rfl | exact hu | (simp; done) | (simp [hu]; done)

theorem bind_plant {s s' : State} p (h : exec (.bind p) s = .next s') :
    s'.plant = s.plant := by
  replace h : execBind p s = .next s' := h
  unfold execBind at h
  injection h with h
  subst h
  rw [plant_unfused]
  refine plant_inCtrl fun u k b hu => ?_
  try dsimp only
  (repeat' split) <;> first | rfl | exact hu | (simp [toPlant]; done) | (simp [toPlant, hu]; done)

theorem sliceStop_plant {s s' : State} p (h : exec (.sliceStop p) s = .next s') :
    s'.plant = s.plant := by
  replace h : execSliceStop p s = .next s' := h
  unfold execSliceStop at h
  injection h with h
  subst h
  rw [plant_unfused]
  refine plant_inCtrl fun u k b hu => ?_
  try dsimp only
  (repeat' split) <;> first | rfl | exact hu | (simp; done) | (simp [hu]; done)

theorem sliceStopTread_plant {s s' : State} (h : exec (.sliceStopTread) s = .next s') :
    s'.plant = s.plant := by
  replace h : execSliceStopTread s = .next s' := h
  unfold execSliceStopTread at h
  injection h with h
  subst h
  rw [plant_unfused]
  try dsimp only
  (repeat' split) <;> first | rfl | (simp [toPlant]; done)

theorem adapterCtrl_plant {s s' : State} p (h : exec (.adapterCtrl p) s = .next s') :
    s'.plant = s.plant := by
  replace h : execAdapterCtrl p s = .next s' := h
  unfold execAdapterCtrl at h
  injection h with h
  subst h
  rw [plant_unfused]
  refine plant_inCtrl fun u k b hu => ?_
  dsimp only
  (repeat' split) <;> first | exact hu | (simp [hu]; done) | (cases (versionOf u k.ctx (fld b 4 4) (fld b 8 4)) <;> simp [hu])

theorem beaconSend_plant {s s' : State} (h : exec (.beaconSend) s = .next s') :
    s'.plant = s.plant := by
  replace h : execBeaconSend s = .next s' := h
  unfold execBeaconSend at h
  injection h with h
  subst h
  rw [plant_unfused]
  simp [toPlant]

theorem i3cStatusRead_plant {s s' : State} (h : exec (.i3cStatusRead) s = .next s') :
    s'.plant = s.plant := by
  replace h : execI3cStatusRead s = .next s' := h
  unfold execI3cStatusRead at h
  injection h with h
  subst h
  rw [plant_unfused]
  refine plant_inI3c fun u hu => ?_
  try dsimp only
  (repeat' split) <;> first | rfl | exact hu | (simp [toPlant]; done) | (simp [toPlant, hu]; done)

theorem i3cNotifyRepeat_plant {s s' : State} (h : exec (.i3cNotifyRepeat) s = .next s') :
    s'.plant = s.plant := by
  replace h : execI3cNotifyRepeat s = .next s' := h
  unfold execI3cNotifyRepeat at h
  injection h with h
  subst h
  rw [plant_unfused]
  refine plant_inI3c fun u hu => ?_
  try dsimp only
  (repeat' split) <;> first | rfl | exact hu | (simp; done) | (simp [hu]; done)

theorem i3cWriteRefused_plant {s s' : State} index data (h : exec (.i3cWriteRefused index data) s = .next s') :
    s'.plant = s.plant := by
  replace h : execI3cWriteRefused index data s = .next s' := h
  unfold execI3cWriteRefused at h
  injection h with h
  subst h
  rw [plant_unfused]
  refine plant_inI3c fun u hu => ?_
  try dsimp only
  (repeat' split) <;> first | rfl | exact hu | (simp [toPlant]; done) | (simp [toPlant, hu]; done)

theorem heartbeatMissed_plant {s s' : State} core (h : exec (.heartbeatMissed core) s = .next s') :
    s'.plant = s.plant := by
  replace h : execHeartbeatMissed core s = .next s' := h
  unfold execHeartbeatMissed at h
  injection h with h
  subst h
  rw [plant_unfused]
  simp

theorem firmwarePoison_plant {s s' : State} (h : exec (.firmwarePoison) s = .next s') :
    s'.plant = s.plant := by
  replace h : execFirmwarePoison s = .next s' := h
  unfold execFirmwarePoison at h
  injection h with h
  subst h
  rw [plant_unfused]
  simp

theorem counterHalfWrapService_plant {s s' : State} counter (h : exec (.counterHalfWrapService counter) s = .next s') :
    s'.plant = s.plant := by
  replace h : execCounterHalfWrapService counter s = .next s' := h
  unfold execCounterHalfWrapService at h
  injection h with h
  subst h
  rw [plant_unfused]
  try dsimp only
  (repeat' split) <;> first | rfl | (simp; done)

theorem counterSweep_plant {s s' : State} (h : exec (.counterSweep) s = .next s') :
    s'.plant = s.plant := by
  replace h : execCounterSweep s = .next s' := h
  unfold execCounterSweep at h
  injection h with h
  subst h
  rw [plant_unfused]
  simp

theorem scanFreeze_plant {s s' : State} (h : exec (.scanFreeze) s = .next s') :
    s'.plant = s.plant := by
  replace h : execScanFreeze s = .next s' := h
  unfold execScanFreeze at h
  injection h with h
  subst h
  rw [plant_unfused]
  simp

theorem scanOut_plant {s s' : State} (h : exec (.scanOut) s = .next s') :
    s'.plant = s.plant := by
  replace h : execScanOut s = .next s' := h
  unfold execScanOut at h
  injection h with h
  subst h
  rw [plant_unfused]
  simp

theorem scanIn_plant {s s' : State} (h : exec (.scanIn) s = .next s') :
    s'.plant = s.plant := by
  replace h : execScanIn s = .next s' := h
  unfold execScanIn at h
  injection h with h
  subst h
  rw [plant_unfused]
  simp

theorem scanRelease_plant {s s' : State} (h : exec (.scanRelease) s = .next s') :
    s'.plant = s.plant := by
  replace h : execScanRelease s = .next s' := h
  unfold execScanRelease at h
  injection h with h
  subst h
  rw [plant_unfused]
  simp

theorem scanCommandDone_plant {s s' : State} (h : exec (.scanCommandDone) s = .next s') :
    s'.plant = s.plant := by
  replace h : execScanCommandDone s = .next s' := h
  unfold execScanCommandDone at h
  injection h with h
  subst h
  rw [plant_unfused]
  simp [toPlant]

theorem qdepthSampleEnable_plant {s s' : State} (h : exec (.qdepthSampleEnable) s = .next s') :
    s'.plant = s.plant := by
  replace h : execQdepthSampleEnable s = .next s' := h
  unfold execQdepthSampleEnable at h
  injection h with h
  subst h
  rw [plant_unfused]
  simp [toPlant]

theorem qdepthSample_plant {s s' : State} (h : exec (.qdepthSample) s = .next s') :
    s'.plant = s.plant := by
  replace h : execQdepthSample s = .next s' := h
  unfold execQdepthSample at h
  injection h with h
  subst h
  rw [plant_unfused]
  simp [toPlant]

theorem ceSettingWrite_plant {s s' : State} offset value (h : exec (.ceSettingWrite offset value) s = .next s') :
    s'.plant = s.plant := by
  replace h : execCeSettingWrite offset value s = .next s' := h
  unfold execCeSettingWrite at h
  injection h with h
  subst h
  rw [plant_unfused]
  simp

theorem portLinkTrained_plant {s s' : State} port width speed (h : exec (.portLinkTrained port width speed) s = .next s') :
    s'.plant = s.plant := by
  replace h : execPortLinkTrained port width speed s = .next s' := h
  unfold execPortLinkTrained at h
  injection h with h
  subst h
  rw [plant_unfused]
  simp [toPlant]

theorem backInvalidateResponse_plant {s s' : State} w (h : exec (.backInvalidateResponse w) s = .next s') :
    s'.plant = s.plant := by
  replace h : execBackInvalidateResponse w s = .next s' := h
  unfold execBackInvalidateResponse at h
  injection h with h
  subst h
  rw [plant_unfused]
  try dsimp only
  (repeat' split) <;> first | rfl | (simp [toPlant]; done)

theorem doneRecordHoldExpiry_plant {s s' : State} k (h : exec (.doneRecordHoldExpiry k) s = .next s') :
    s'.plant = s.plant := by
  replace h : execDoneRecordHoldExpiry k s = .next s' := h
  unfold execDoneRecordHoldExpiry at h
  injection h with h
  subst h
  rw [plant_unfused]
  simp

theorem t2InitComplete_plant {s s' : State} (h : exec (.t2InitComplete) s = .next s') :
    s'.plant = s.plant := by
  replace h : execT2InitComplete s = .next s' := h
  unfold execT2InitComplete at h
  injection h with h
  subst h
  rw [plant_unfused]
  simp [toPlant]

theorem i3cCommand_plant {s s' : State} c (h : exec (.i3cCommand c) s = .next s') :
    s'.plant = s.plant := by
  replace h : execI3cCommand c s = .next s' := h
  unfold execI3cCommand at h
  injection h with h
  subst h
  rw [plant_unfused]
  refine plant_inI3c fun u hu => ?_
  try dsimp only
  (repeat' split) <;> first | rfl | exact hu | (simp [toPlant]; done) | (simp [toPlant, hu]; done)

end Sys2Proof.Machine
end

