-- ==== Sys2Proof/Laws/Tiers.lean ====
section
/-!
SUPPORT. Laws of tiers: what a write to a tier changes, and what the protection of stored data leaves as it was.
-/
namespace Sys2Proof.Machine

theorem tierMem_bytes {s t : State} (h : t.bytes = s.bytes) (k : Nat) : tierMem t k = tierMem s k := by
  simp only [State.bytes, Prod.mk.injEq] at h
  unfold tierMem; simp [h]

theorem storeTier_eq (s : State) (t o : Nat) (bs : Bytes) : ∃ v, storeTier s t o bs = writeTier v t o bs ∧ v.bytes = s.bytes := by
  unfold storeTier
  refine ⟨_, rfl, ?_⟩
  split
  · rfl
  · simp

theorem tierMem_writeTier (s : State) (t o : Nat) (bs : Bytes) (ht : t ≤ 2) :
    tierMem (writeTier s t o bs) t = writeBytes (tierMem s t) o bs := by
  have h : t = 0 ∨ t = 1 ∨ t = 2 := by omega
  rcases h with rfl | rfl | rfl <;> rfl

theorem tierMem_writeTier_other (s : State) (t o j : Nat) (bs : Bytes) (ht : t ≤ 2) (hj : j ≤ 2) (h : j ≠ t) :
    tierMem (writeTier s t o bs) j = tierMem s j := by
  have h1 : t = 0 ∨ t = 1 ∨ t = 2 := by omega
  have h2 : j = 0 ∨ j = 1 ∨ j = 2 := by omega
  rcases h1 with rfl | rfl | rfl <;> rcases h2 with rfl | rfl | rfl <;> first | rfl | exact absurd rfl h

/-- The directory, the soft repairs and the BUSY bit of `REPAIR_CTL`, which protection does not write. -/
def rest (s : State) : AMap DirEntry × List Repair × Bool := (s.mem.dir, s.mem.soft, s.mem.repBusy)

/-- What protection does not write. -/
def core3 (s : State) : (Mem × Mem × Mem) × (AMap DirEntry × List Repair × Bool) × State := (s.bytes, rest s, s.butMemory)

theorem dir_hwBump (s : State) (k n : Nat) : rest (hwBump s k n) = rest s := by unfold hwBump; split <;> rfl

theorem dir_raiseModule (s : State) (c : Nat) (d : Bytes) : rest (raiseModule s c d) = rest s := (congrArg rest (butEvents_raiseModule s c d) :)

theorem dir_setTierBad (s : State) (t : Nat) (b : AMap BadWord) : rest (setTierBad s t b) = rest s := by
  unfold setTierBad; split
  · rfl
  · split <;> rfl

theorem dir_setTierPoison (s : State) (t : Nat) (b : List Nat) : rest (setTierPoison s t b) = rest s := by
  unfold setTierPoison; split
  · rfl
  · split <;> rfl

theorem dir_poisonRecord (s : State) (t w c n : Nat) : rest (poisonRecord s t w c n) = rest s := by
  unfold poisonRecord noteW1c
  repeat' split
  all_goals rfl

theorem dir_setCheckBad (s : State) (t : Nat) (b : AMap BadWord) : rest (setCheckBad s t b) = rest s := by unfold setCheckBad; split <;> rfl

theorem dir_unskew (s : State) (t p : Nat) : rest (unskew s t p) = rest s := by unfold unskew; split <;> rfl

theorem dir_poisonWords (s : State) (t : Nat) (ws : List Nat) : rest (poisonWords s t ws) = rest s := by
  unfold poisonWords; dsimp only; rw [dir_hwBump, dir_setTierBad, dir_setTierPoison]

theorem dir_setBucket (s : State) (t u : Nat) (b : Bucket) : rest (setBucket s t u b) = rest s := by unfold setBucket; split <;> rfl

theorem dir_addBucket (s : State) (t w n : Nat) : rest (addBucket s t w n) = rest s := by
  unfold addBucket; dsimp only
  repeat' split
  all_goals simp only [dir_raiseModule, dir_hwBump, dir_setBucket]

theorem dir_correctWord (s : State) (t w : Nat) : rest (correctWord s t w) = rest s := by
  unfold correctWord bucketCorrection; dsimp only
  split
  · rw [dir_hwBump, dir_setTierBad]
  · split
    · rw [dir_hwBump, dir_setTierBad]
    · rw [dir_addBucket, dir_hwBump, dir_setTierBad]

theorem dir_correctCheck (s : State) (t p i : Nat) : rest (correctCheck s t p i) = rest s := by
  unfold correctCheck; dsimp only; rw [dir_addBucket, dir_hwBump, dir_setCheckBad]

theorem dir_checkPage (s : State) (t p : Nat) : rest (checkPage s t p) = rest s := by
  unfold checkPage; split
  · dsimp only; rw [dir_poisonRecord, dir_hwBump, dir_poisonWords, dir_unskew]
  · rfl

theorem dir_rebuildPage (s : State) (t : Nat) (ws : List Nat) (c : Nat) : rest (rebuildPage s t ws c) = rest s := by
  unfold rebuildPage; split
  · rfl
  · dsimp only; split
    · rw [dir_poisonRecord, foldl_keeps rest _ (fun s i => dir_correctCheck s t _ i),
        foldl_keeps rest _ (fun s w => dir_correctWord s t w), dir_hwBump, dir_poisonWords]
    · split
      · rw [dir_checkPage, dir_addBucket, dir_hwBump, dir_setCheckBad, dir_setTierBad]
      · rw [dir_unskew, dir_poisonRecord, dir_poisonWords, dir_hwBump, dir_setCheckBad, dir_setTierBad]

theorem core3_correctWord (s : State) (t w : Nat) : core3 (correctWord s t w) = core3 s := by
  simp only [core3, bytes_correctWord, dir_correctWord, butMemory_correctWord]

theorem core3_rebuildPage (s : State) (t : Nat) (ws : List Nat) (c : Nat) : core3 (rebuildPage s t ws c) = core3 s := by
  simp only [core3, bytes_rebuildPage, dir_rebuildPage, butMemory_rebuildPage]

theorem core3_endRebuild (s : State) (r : Rebuild) : core3 (endRebuild s r) = core3 s := by
  unfold endRebuild; rw [core3_rebuildPage]; rfl

theorem core3_scrubOne (s : State) (t p : Nat) : core3 (scrubOne s t p) = core3 s := by
  unfold scrubOne; dsimp only
  simp only [core3, bytes_checkPage, dir_checkPage, butMemory_checkPage, bytes_setCheckBad, dir_setCheckBad, butMemory_setCheckBad]
  rw [foldl_keeps State.bytes _ (fun s i => bytes_correctCheck s t p i), foldl_keeps rest _ (fun s i => dir_correctCheck s t p i),
    foldl_keeps State.butMemory _ (fun s i => butMemory_correctCheck s t p i), foldl_keeps State.bytes _ (fun s w => bytes_correctWord s t w),
    foldl_keeps rest _ (fun s w => dir_correctWord s t w), foldl_keeps State.butMemory _ (fun s w => butMemory_correctWord s t w)]
  simp only [bytes_rebuildPage, dir_rebuildPage, butMemory_rebuildPage]

theorem core3_hwBump (s : State) (k n : Nat) : core3 (hwBump s k n) = core3 s := by
  simp only [core3, bytes_hwBump, dir_hwBump, butMemory_hwBump]

theorem core3_scrubAdvance (s : State) (t u : Nat) : core3 (scrubAdvance s t u) = core3 s := by
  unfold scrubAdvance; dsimp only; split <;> rfl

theorem core3_ite {s a b : State} {p : Prop} [Decidable p] (h1 : core3 a = core3 s) (h2 : core3 b = core3 s) :
    core3 (if p then a else b) = core3 s := by split <;> assumption

theorem filter_sub {α : Type} (l : List α) (p : α → Bool) : l.filter p ⊆ l := fun _ h => (List.mem_filter.mp h).1

theorem keep_sub {V : Type} (m : AMap V) (p : Nat → V → Bool) : mkeep m p ⊆ m := filter_sub _ _

/-- The wrong words, check areas and misfitting pages of a tier are among those of `s`. -/
def Shrinks (k : Nat) (s u : State) : Prop :=
  tierBad u k ⊆ tierBad s k ∧ checkBad u k ⊆ checkBad s k ∧ skewed u k ⊆ skewed s k

theorem shrinks_trans {k : Nat} {s u v : State} (h : Shrinks k s u) (g : Shrinks k u v) : Shrinks k s v :=
  ⟨fun _ a => h.1 (g.1 a), fun _ a => h.2.1 (g.2.1 a), fun _ a => h.2.2 (g.2.2 a)⟩

theorem shrinks_mem {k : Nat} {s u : State} (h : tierBad u k = tierBad s k ∧ checkBad u k = checkBad s k ∧ skewed u k = skewed s k) :
    Shrinks k s u := by
  unfold Shrinks; rw [h.1, h.2.1, h.2.2]; exact ⟨fun _ a => a, fun _ a => a, fun _ a => a⟩

theorem shrinks_ite {k : Nat} {s a b : State} {p : Prop} [Decidable p] (h : Shrinks k s a) (g : Shrinks k s b) : Shrinks k s (if p then a else b) := by
  split <;> assumption

theorem shrinks_hwBump (k : Nat) (s : State) (i n : Nat) : Shrinks k s (hwBump s i n) := by
  refine shrinks_mem ?_
  unfold hwBump; split <;> exact ⟨rfl, rfl, rfl⟩

theorem shrinks_butEvents {k : Nat} {s u : State} (h : u.butEvents = s.butEvents) : Shrinks k s u := by
  have e : u.mem = s.mem := (congrArg State.mem h :)
  refine shrinks_mem ?_
  unfold tierBad checkBad skewed; rw [e]; exact ⟨rfl, rfl, rfl⟩

theorem shrinks_poisonRecord (k : Nat) (s : State) (t w c n : Nat) : Shrinks k s (poisonRecord s t w c n) := by
  refine shrinks_mem ?_
  unfold poisonRecord noteW1c
  repeat' split
  all_goals exact ⟨rfl, rfl, rfl⟩

theorem shrinks_setBucket (k : Nat) (s : State) (t u : Nat) (b : Bucket) : Shrinks k s (setBucket s t u b) := by
  refine shrinks_mem ?_
  unfold setBucket; split <;> exact ⟨rfl, rfl, rfl⟩

theorem shrinks_addBucket (k : Nat) (s : State) (t w n : Nat) : Shrinks k s (addBucket s t w n) := by
  unfold addBucket; dsimp only
  refine shrinks_ite (shrinks_setBucket _ _ _ _ _) ?_
  have b (u n : Nat) (x : Bucket) : Shrinks k s (hwBump (setBucket s t u x) n 1) := shrinks_trans (shrinks_setBucket k s t _ _) (shrinks_hwBump k _ _ _)
  exact shrinks_ite (b _ _ _) (shrinks_trans (b _ _ _) (shrinks_butEvents (butEvents_raiseModule _ _ _)))

theorem shrinks_setTierBad {k : Nat} {s : State} {b : AMap BadWord} (hk : k = 1 ∨ k = 2) (h : b ⊆ tierBad s k) : Shrinks k s (setTierBad s k b) := by
  rcases hk with rfl | rfl <;> exact ⟨h, fun _ a => a, fun _ a => a⟩

theorem shrinks_setCheckBad {k : Nat} {s : State} {b : AMap BadWord} (hk : k = 1 ∨ k = 2) (h : b ⊆ checkBad s k) : Shrinks k s (setCheckBad s k b) := by
  rcases hk with rfl | rfl <;> exact ⟨fun _ a => a, h, fun _ a => a⟩

theorem shrinks_unskew {k : Nat} (hk : k = 1 ∨ k = 2) (s : State) (p : Nat) : Shrinks k s (unskew s k p) := by
  rcases hk with rfl | rfl <;> exact ⟨fun _ a => a, fun _ a => a, fun _ h => (List.mem_filter.mp h).1⟩

theorem shrinks_setTierPoison {k : Nat} (hk : k = 1 ∨ k = 2) (s : State) (ws : List Nat) : Shrinks k s (setTierPoison s k ws) := by
  rcases hk with rfl | rfl <;> exact ⟨fun _ a => a, fun _ a => a, fun _ a => a⟩

theorem shrinks_poisonWords {k : Nat} (hk : k = 1 ∨ k = 2) (s : State) (ws : List Nat) : Shrinks k s (poisonWords s k ws) := by
  unfold poisonWords; dsimp only
  exact shrinks_trans (shrinks_trans (shrinks_setTierPoison hk s _) (shrinks_setTierBad hk (keep_sub _ _))) (shrinks_hwBump k _ _ _)

theorem shrinks_correctWord {k : Nat} (hk : k = 1 ∨ k = 2) (s : State) (w : Nat) : Shrinks k s (correctWord s k w) := by
  have h0 : k ≠ 0 := by omega
  unfold correctWord bucketCorrection; dsimp only
  rw [if_neg h0]
  have a := shrinks_trans (shrinks_setTierBad (b := merase (tierBad s k) w) hk (filter_sub _ _)) (shrinks_hwBump k _ (kProt (7 + k)) 1)
  exact shrinks_ite a (shrinks_trans a (shrinks_addBucket _ _ _ _ _))

theorem shrinks_correctCheck {k : Nat} (hk : k = 1 ∨ k = 2) (s : State) (p i : Nat) : Shrinks k s (correctCheck s k p i) := by
  unfold correctCheck; dsimp only
  exact shrinks_trans (shrinks_trans (shrinks_setCheckBad hk (filter_sub _ _)) (shrinks_hwBump k _ _ _)) (shrinks_addBucket _ _ _ _ _)

theorem shrinks_checkPage {k : Nat} (hk : k = 1 ∨ k = 2) (s : State) (p : Nat) : Shrinks k s (checkPage s k p) := by
  unfold checkPage; split
  · exact shrinks_trans (shrinks_trans (shrinks_trans (shrinks_unskew hk s p) (shrinks_poisonWords hk _ _)) (shrinks_hwBump k _ _ _))
      (shrinks_poisonRecord _ _ _ _ _ _)
  · exact shrinks_mem ⟨rfl, rfl, rfl⟩

theorem shrinks_foldl {k : Nat} (f : State → Nat → State) (h : ∀ s w, Shrinks k s (f s w)) (ws : List Nat) (s : State) : Shrinks k s (ws.foldl f s) := by
  induction ws generalizing s with
  | nil => exact shrinks_mem ⟨rfl, rfl, rfl⟩
  | cons w ws ih => exact shrinks_trans (h s w) (ih _)

/-- A rebuild of a page adds no wrong word. -/
theorem shrinks_rebuildPage {k : Nat} (hk : k = 1 ∨ k = 2) (s : State) (ws : List Nat) (c : Nat) : Shrinks k s (rebuildPage s k ws c) := by
  unfold rebuildPage; split
  · exact shrinks_mem ⟨rfl, rfl, rfl⟩
  · dsimp only; split
    · exact shrinks_trans (shrinks_trans (shrinks_trans (shrinks_trans (shrinks_poisonWords hk s _) (shrinks_hwBump k _ _ _))
        (shrinks_foldl _ (fun s w => shrinks_correctWord hk s w) _ _)) (shrinks_foldl _ (fun s i => shrinks_correctCheck hk s _ i) _ _))
        (shrinks_poisonRecord _ _ _ _ _ _)
    · have a (p q : Nat → BadWord → Bool) : Shrinks k s (hwBump (setCheckBad (setTierBad s k (mkeep (tierBad s k) p)) k
          (mkeep (checkBad (setTierBad s k (mkeep (tierBad s k) p)) k) q)) (kProt (9 + k)) 1) :=
        shrinks_trans (shrinks_trans (shrinks_setTierBad hk (keep_sub _ _)) (shrinks_setCheckBad hk (keep_sub _ _))) (shrinks_hwBump k _ _ _)
      split
      · exact shrinks_trans (shrinks_trans (a _ _) (shrinks_addBucket _ _ _ _ _)) (shrinks_checkPage hk _ _)
      · exact shrinks_trans (shrinks_trans (shrinks_trans (a _ _) (shrinks_poisonWords hk _ _)) (shrinks_poisonRecord _ _ _ _ _ _)) (shrinks_unskew hk _ _)

theorem mkeys_nil {V : Type} {m n : AMap V} {p : Nat → V → Bool} (h : m ⊆ n) (hn : mkeys n p = []) : mkeys m p = [] := by
  unfold mkeys at *
  simp only [List.map_eq_nil_iff, List.filter_eq_nil_iff] at *
  exact fun e he => hn e (h he)

/-- Where no word of a page's check area is wrong, the end of its scrub is the check of its symbols. -/
theorem scrub_end {k : Nat} (hk : k = 1 ∨ k = 2) {s : State} {page : Nat} (h1 : (mkeys (checkBad s k) fun j _ => j / 2 == page) = []) :
    (let s := ([0, 1].filter fun i => mget (checkBad s k) (2 * page + i) == some .single).foldl (fun s i => correctCheck s k page i) s
     checkPage (setCheckBad s k (mkeep (checkBad s k) fun j _ => j / 2 != page)) k page) = checkPage s k page := by
  unfold mkeys at h1
  simp only [List.map_eq_nil_iff, List.filter_eq_nil_iff] at h1
  have e2 : ∀ i, i < 2 → mget (checkBad s k) (2 * page + i) = none := by
    intro i hi
    generalize checkBad s k = m at h1
    induction m with
    | nil => rfl
    | cons x m ih =>
      obtain ⟨j, v⟩ := x
      have := h1 (j, v) List.mem_cons_self
      unfold mget
      rw [if_neg (by rintro rfl; simp at this; omega)]
      exact ih fun e he => h1 e (List.mem_cons_of_mem _ he)
  have e3 : setCheckBad s k (mkeep (checkBad s k) fun j _ => j / 2 != page) = s := by
    have : (mkeep (checkBad s k) fun j _ => j / 2 != page) = checkBad s k := by
      unfold mkeep
      rw [List.filter_eq_self]
      intro e he
      simpa using h1 e he
    rw [this]
    rcases hk with rfl | rfl <;> rfl
  have e4 : ([0, 1].filter fun i => mget (checkBad s k) (2 * page + i) == some .single) = [] := by
    have a := e2 0 (by omega)
    have b := e2 1 (by omega)
    simp only [Nat.add_zero] at a
    simp [a, b]
  dsimp only
  rw [e4]
  simp only [List.foldl_nil]
  rw [e3]

theorem mkeys_page (m : AMap BadWord) (k page : Nat) (x : BadWord) : (mkeys m fun w b => b == x && pageOf k w == page) =
    ((m.filter fun e => pageOf k e.1 == page).filter fun e => e.2 == x).map (·.1) := by
  unfold mkeys
  rw [List.filter_filter]

theorem dir_endRebuild (s : State) (r : Rebuild) : rest (endRebuild s r) = rest s := (dir_rebuildPage _ _ _ _).trans rfl

theorem dir_readWords (s : State) (t lo hi c : Nat) : rest (readWords s t lo hi c) = rest s := by
  unfold readWords; dsimp only
  rw [foldl_keeps rest _ (fun s w => dir_correctWord s t w)]
  split
  · exact foldl_keeps rest _ (fun s w => (dir_poisonRecord _ _ _ _ _).trans (dir_poisonWords _ _ _)) _ s
  · exact foldl_keeps rest _ (fun s w => dir_rebuildPage s _ _ _) _ s

/-- What the end of a repair keeps. -/
def core4 (s : State) : (AMap DirEntry × List Repair × Bool) × Fuses × List Repair × List Repair := (rest s, s.fuses, s.store.repairMap, s.store.stackRows)

theorem core4_copyTarget (s : State) (r : Repair) : core4 (copyTarget s r) = core4 s := by
  unfold copyTarget
  refine foldl_keeps core4 _ (fun s w => ?_) _ s
  have h := butMemory_readWords s r.tier w w 1
  have a : (readWords s r.tier w w 1).fuses = s.fuses := (congrArg State.fuses h :)
  have b : (readWords s r.tier w w 1).store = s.store := (congrArg State.store h :)
  simp only [core4, dir_readWords, a, b]

theorem core4_butEvents {s t : State} (h : t.butEvents = s.butEvents) : core4 t = core4 s := (congrArg core4 h :)

theorem core4_logEvent (s : State) (k c : Nat) (d : Bytes) : core4 (logEvent s k c d) = core4 s := by
  rfl

theorem core4_markLimit (s : State) (c : Nat) : core4 (markLimit s c) = core4 s := by unfold markLimit; split <;> rfl

theorem core4_raiseLimit (s : State) (c v : Nat) : core4 (raiseLimit s c v) = core4 s :=
  (core4_markLimit _ _).trans (core4_butEvents (butEvents_raiseModule s _ _))

theorem core4_commitLife (s : State) (c : Bool) : core4 (commitLife s c) = core4 s := by
  unfold commitLife; split
  · rfl
  · dsimp only; split
    · rw [core4_raiseLimit]; rfl
    · rfl

theorem core4_raiseSparesLow (s : State) (u : Nat) : core4 (raiseSparesLow s u) = core4 s := by
  unfold raiseSparesLow lifeLimit; split
  · rw [core4_commitLife, core4_raiseLimit]; rfl
  · rfl

theorem core4_countLimit (s : State) (c u l : Nat) : core4 (countLimit s c u l) = core4 s := by
  unfold countLimit lifeLimit
  show core4 (unfused s (if _ then _ else _)) = _
  split
  · have := (core4_commitLife (raiseLimit s c u) false).trans (core4_raiseLimit s c u)
    simp only [core4, Prod.mk.injEq] at this ⊢
    exact ⟨this.1, rfl, this.2.2⟩
  · rfl

/-- A soft repair adds itself to the soft repairs, and writes none of the rest. -/
theorem core4_softRepair (s : State) (r : Repair) : core4 (softRepair s r) = ((s.mem.dir, s.mem.soft ++ [r], s.mem.repBusy), (core4 s).2) := by
  have h := core4_copyTarget s r
  simp only [core4, rest, Prod.mk.injEq] at h
  have k : core4 { copyTarget s r with mem.soft := (copyTarget s r).mem.soft ++ [r] } = ((s.mem.dir, s.mem.soft ++ [r], s.mem.repBusy), (core4 s).2) := by
    simp only [core4, rest, h]
  unfold softRepair; dsimp only
  split
  · exact (core4_raiseSparesLow _ _).trans ((core4_logEvent _ _ _ _).trans k)
  · exact (core4_logEvent _ _ _ _).trans k

end Sys2Proof.Machine
end

