-- ==== Sys2Proof/Laws/Trust.lean ====
section
/-!
SUPPORT. Laws of the trust state: what counts and commits leave as they were, and that the rows that write fuses only move them forward.
-/
namespace Sys2Proof.Machine

def seen (s : State) : Trust × Mailbox := (s.tr, s.mb)

theorem seen_butEvents {s t : State} (h : t.butEvents = s.butEvents) : seen t = seen s := (congrArg seen h :)

theorem seen_markLimit (s : State) (c : Nat) : seen (markLimit s c) = seen s := by unfold markLimit; split <;> rfl

theorem seen_raiseLimit (s : State) (c v : Nat) : seen (raiseLimit s c v) = seen s :=
  (seen_markLimit _ _).trans (seen_butEvents (butEvents_raiseModule s _ _))

theorem seen_commitLife (s : State) (c : Bool) : seen (commitLife s c) = seen s := by
  unfold commitLife; split
  · rfl
  · dsimp only; split
    · rw [seen_raiseLimit]; rfl
    · rfl

theorem seen_countLimit (s : State) (c u l : Nat) : seen (countLimit s c u l) = seen s := by
  unfold countLimit
  show seen (if _ then _ else _) = _
  split
  · exact (seen_commitLife _ _).trans (seen_raiseLimit _ _ _)
  · rfl

theorem owner_countLimit (s : State) (c u l : Nat) : (countLimit s c u l).store.owner = s.store.owner := by
  unfold countLimit
  have k : ∀ s c, (markLimit s c).store = s.store := by intro s c; unfold markLimit; split <;> rfl
  have k1 : ∀ s c v, (raiseLimit s c v).store = s.store := by
    intro s c v; unfold raiseLimit; rw [k]; exact (congrArg State.store (butEvents_raiseModule s _ _) :)
  have k2 : ∀ s c, (commitLife s c).store.owner = s.store.owner := by
    intro s c; unfold commitLife; split
    · rfl
    · dsimp only; split
      · rw [k1]
      · rfl
  show (if _ then _ else _ : State).store.owner = _
  split
  · unfold lifeLimit; rw [k2, k1]
  · rfl

theorem fuses_countLimit (s : State) (c u l : Nat) : (countLimit s c u l).fuses = s.fuses := rfl

theorem seen_plant {s t : State} (h : t.plant = s.plant) : seen t = seen s := by
  have h1 : t.plant.tr = s.plant.tr := by rw [h]
  have h2 : t.plant.mb = s.plant.mb := by rw [h]
  exact Prod.ext h1 h2

theorem seen_dropAll (s : State) : seen (dropAll s) = seen s := by
  refine (seen_plant (plant_foldl _ (fun s (d : Nat × DirEntry) => plant_announceGone s d.1 d.2) _ _) : _).trans
    (seen_plant (plant_foldl _ (fun s d => plant_finish s _ _) _ _))

theorem useOwner_owner (u : State) (d : Digest) : (useOwner u d).store.owner = some d := owner_countLimit _ _ _ _

theorem useOwner_fuses (u : State) (d : Digest) : (useOwner u d).fuses = { u.fuses with ownerUsed := u.fuses.ownerUsed + 1, log := u.fuses.log ++ [{ kind := 2, value := u.fuses.ownerUsed + 1, tread := nowTread u % 2 ^ 48, subject := head8 d }] } := rfl

theorem seen_useOwner (u : State) (d : Digest) : seen (useOwner u d) = seen u := seen_countLimit _ _ _ _

theorem seen_wipe (u : State) : (wipe u).mb = u.mb ∧ (wipe u).tr.debugUnlocked = u.tr.debugUnlocked ∧ (wipe u).tr.challenge = u.tr.challenge := by
  have hs := (seen_dropAll (commitLife u false)).trans (seen_commitLife u false)
  have h1 : (dropAll (commitLife u false)).tr = u.tr := congrArg Prod.fst hs
  have h2 : (dropAll (commitLife u false)).mb = u.mb := congrArg Prod.snd hs
  exact ⟨h2, (congrArg Trust.debugUnlocked h1 :), (congrArg Trust.challenge h1 :)⟩

theorem time_commitLife (u : State) : (commitLife u false).time = u.time := by
  unfold commitLife; split
  · rfl
  · dsimp only; split
    · have k : ∀ s c, (markLimit s c).time = s.time := by intro s c; unfold markLimit; split <;> rfl
      unfold raiseLimit; rw [k]; exact (congrArg State.time (butEvents_raiseModule _ _ _) :)
    · rfl

theorem nowTread_wipe (u : State) : nowTread (wipe u) = nowTread u := by
  have e : ∀ v : State, (dropAll v).time = v.time := by
    intro v
    exact (congrArg Plant.time (plant_foldl _ (fun s (d : Nat × DirEntry) => plant_announceGone s d.1 d.2) _ _) :).trans
      (congrArg Plant.time (plant_foldl _ (fun s d => plant_finish s _ _) _ _) :)
  have e2 : (wipe u).time = u.time := by
    have e1 : (wipe u).time = (dropAll (commitLife u false)).time := rfl
    rw [e1, e, time_commitLife]
  unfold nowTread; rw [e2]

theorem fuses_wipe (s : State) : (wipe s).fuses = s.fuses := rfl

def fine (f g : Fuses) : Prop := Fuses.wf f → Fuses.wf g ∧ Fuses.forward f g

theorem fine_rfl (f : Fuses) : fine f f := fun h => ⟨h, .inl rfl, le_refl _, le_refl _, le_refl _, le_refl _, List.prefix_refl _, rfl, rfl⟩

theorem fine_of_eq {f g : Fuses} (h : g = f) : fine f g := h ▸ fine_rfl f

theorem fuses_withMailbox (s : State) (cmd len : Nat) (act : State → State) :
    (withMailbox s cmd len act).fuses = s.fuses ∨ (withMailbox s cmd len act).fuses = (act { s with mb.cmd := cmd, mb.len := len }).fuses := by
  unfold withMailbox
  split
  · exact .inl rfl
  · dsimp only; split
    · exact .inl rfl
    · split
      · exact .inl rfl
      · exact .inr rfl

theorem fuses_withToken (s : State) (a : Nat) (ha : 1 ≤ a ∧ a ≤ 7) (b : Bytes) (act : State → State) :
    (withToken s a b act).fuses = s.fuses ∨
      ((withToken s a b act).fuses = (act { s with tr.challenge := none, mb.cmd := 0x10, mb.len := b.length }).fuses ∧
        tokenState s a = true ∧ tokenSpent s a = false) := by
  unfold withToken
  split
  · exact .inl rfl
  · next h0 =>
    rcases fuses_withMailbox s 0x10 b.length _ with h | h
    · exact .inl h
    · rw [h]
      dsimp only
      split
      · exact .inl rfl
      · next hst =>
        refine .inr ⟨rfl, ?_⟩
        have hst : tokenStatus s b = stOk := by
          by_contra hx; exact hst hx
        have hk : tokenForm b = true ∧ tokenState s (byteAt b 6) = true ∧ tokenSpent s (byteAt b 6) = false := by
          unfold tokenStatus at hst
          dsimp only at hst
          split at hst
          · cases hst
          next h1 =>
          split at hst
          · cases hst
          next h2 =>
          split at hst
          · cases hst
          next h3 =>
          split at hst
          · cases hst
          next h4 =>
          split at hst
          · cases hst
          next h5 =>
          exact ⟨by simpa using h1, by simpa using h3, by simpa using h5⟩
        obtain ⟨k1, k2, k3⟩ := hk
        have hab : byteAt b 6 = a := by
          have k1' : 1 ≤ byteAt b 6 ∧ byteAt b 6 ≤ 7 := by
            unfold tokenForm at k1
            simp only [Bool.and_eq_true, decide_eq_true_eq] at k1
            omega
          by_contra hne
          exact h0 ⟨hne, k1'⟩
        rw [hab] at k2 k3
        exact ⟨k2, k3⟩

theorem fine_log {f : Fuses} (lc : LcState) (uds : Digest) (o v r d : Nat) (es : List FusedEntry)
    (h1 : lc = f.lc ∨ f.lc.leadsTo lc = true) (ho : f.ownerUsed ≤ o ∧ (o ≤ 15)) (hv : f.svnUsed ≤ v ∧ v ≤ 63) (hr : f.repairUsed ≤ r ∧ r ≤ 8)
    (hd : f.debugUsed ≤ d ∧ d ≤ 4) (hl : es.length + f.lc.rank + f.ownerUsed + f.svnUsed + f.repairUsed + f.debugUsed ≤ lc.rank + o + v + r + d) :
    fine f { order := f.order, lc := lc, uds := uds, ownerUsed := o, svnUsed := v, repairUsed := r, debugUsed := d, log := f.log ++ es, voltMv := f.voltMv } := by
  rintro ⟨a1, a2, a3, a4, a5⟩
  refine ⟨⟨ho.2, hv.2, hr.2, hd.2, ?_⟩, h1, ho.1, hv.1, hr.1, hd.1, List.prefix_append _ _, rfl, rfl⟩
  simp only [List.length_append]
  omega

theorem fine_t7 (s : State) (b : Bytes) : fine s.fuses (withToken s 7 b (fun s => enterLc { (useFree s).2 with fuses.uds := BitVec.ofNat 256 (useFree s).1 } .manufacture b)).fuses := by
  rcases fuses_withToken s 7 (by decide) b (fun s => enterLc { (useFree s).2 with fuses.uds := BitVec.ofNat 256 (useFree s).1 } .manufacture b) with h | ⟨h, h2, h3⟩
  · exact fine_of_eq h
  · rintro ⟨w1, w2, w3, w4, w5⟩
    have hw : Fuses.wf s.fuses := ⟨w1, w2, w3, w4, w5⟩
    revert hw
    have hl : s.fuses.lc = .blank := by
      unfold tokenState at h2; split at h2 <;> simp_all
    rw [h]
    exact fine_log (f := s.fuses) .manufacture (BitVec.ofNat 256 (freeValue s.fv)) s.fuses.ownerUsed s.fuses.svnUsed s.fuses.repairUsed s.fuses.debugUsed [_] (.inr (by rw [hl]; rfl)) ⟨le_refl _, w1⟩ ⟨le_refl _, w2⟩ ⟨le_refl _, w3⟩ ⟨le_refl _, w4⟩ (by rw [hl]; simp only [LcState.rank, List.length]; omega)

theorem fine_t6 (s : State) (b : Bytes) : fine s.fuses (withToken s 6 b (fun s => enterLc s .provisioned b)).fuses := by
  rcases fuses_withToken s 6 (by decide) b (fun s => enterLc s .provisioned b) with h | ⟨h, h2, h3⟩
  · exact fine_of_eq h
  · rintro ⟨w1, w2, w3, w4, w5⟩
    have hw : Fuses.wf s.fuses := ⟨w1, w2, w3, w4, w5⟩
    revert hw
    have hl : s.fuses.lc = .manufacture := by
      unfold tokenState at h2; split at h2 <;> simp_all
    rw [h]
    exact fine_log (f := s.fuses) .provisioned s.fuses.uds s.fuses.ownerUsed s.fuses.svnUsed s.fuses.repairUsed s.fuses.debugUsed [_] (.inr (by rw [hl]; rfl)) ⟨le_refl _, w1⟩ ⟨le_refl _, w2⟩ ⟨le_refl _, w3⟩ ⟨le_refl _, w4⟩ (by rw [hl]; simp only [LcState.rank, List.length]; omega)

theorem fine_t1 (s : State) (b : Bytes) : fine s.fuses (withToken s 1 b (fun s => useOwner (enterLc s .deployed b) (digestAt b 0x48))).fuses := by
  rcases fuses_withToken s 1 (by decide) b (fun s => useOwner (enterLc s .deployed b) (digestAt b 0x48)) with h | ⟨h, h2, h3⟩
  · exact fine_of_eq h
  · rintro ⟨w1, w2, w3, w4, w5⟩
    have hw : Fuses.wf s.fuses := ⟨w1, w2, w3, w4, w5⟩
    revert hw
    have hl : s.fuses.lc = .provisioned := by
      unfold tokenState at h2; split at h2 <;> simp_all
    have hsp : s.fuses.ownerUsed < 15 := by
      simp [tokenSpent] at h3; omega
    have e : (useOwner (enterLc { s with tr.challenge := none, mb.cmd := 0x10, mb.len := b.length } .deployed b) (digestAt b 0x48)).fuses =
        { s.fuses with lc := .deployed, ownerUsed := s.fuses.ownerUsed + 1, log := s.fuses.log ++ [⟨1, 3, nowTread s % 2 ^ 48, head8 (sha3 b)⟩, ⟨2, s.fuses.ownerUsed + 1, nowTread s % 2 ^ 48, head8 (digestAt b 0x48)⟩] } := by
      simp only [useOwner, countLimit, unfused, fuseLog, enterLc, List.append_assoc]; rfl
    rw [h, e]; 
    exact fine_log (f := s.fuses) .deployed s.fuses.uds (s.fuses.ownerUsed + 1) s.fuses.svnUsed s.fuses.repairUsed s.fuses.debugUsed [_, _] (.inr (by rw [hl]; rfl)) ⟨by omega, by omega⟩ ⟨le_refl _, w2⟩ ⟨le_refl _, w3⟩ ⟨le_refl _, w4⟩ (by rw [hl]; simp only [LcState.rank, List.length]; omega)

theorem fine_t2 (s : State) (b : Bytes) : fine s.fuses (withToken s 2 b (fun s => useOwner { s with tr.debugUnlocked := false } (digestAt b 0x48))).fuses := by
  rcases fuses_withToken s 2 (by decide) b (fun s => useOwner { s with tr.debugUnlocked := false } (digestAt b 0x48)) with h | ⟨h, h2, h3⟩
  · exact fine_of_eq h
  · rintro ⟨w1, w2, w3, w4, w5⟩
    have hw : Fuses.wf s.fuses := ⟨w1, w2, w3, w4, w5⟩
    revert hw
    have hsp : s.fuses.ownerUsed < 15 := by
      simp [tokenSpent] at h3; omega
    rw [h]
    exact fine_log (f := s.fuses) s.fuses.lc s.fuses.uds (s.fuses.ownerUsed + 1) s.fuses.svnUsed s.fuses.repairUsed s.fuses.debugUsed [_] (.inl rfl) ⟨by omega, by omega⟩ ⟨le_refl _, w2⟩ ⟨le_refl _, w3⟩ ⟨le_refl _, w4⟩ (by simp only [List.length]; omega)

theorem fine_t3 (s : State) (b : Bytes) : fine s.fuses (withToken s 3 b (fun s => countLimit { fuseLog { s with fuses.debugUsed := s.fuses.debugUsed + 1 } 5 (s.fuses.debugUsed + 1) (sha3 b) with tr.debugUnlocked := true } 4 (s.fuses.debugUsed + 1) 4)).fuses := by
  rcases fuses_withToken s 3 (by decide) b (fun s => countLimit { fuseLog { s with fuses.debugUsed := s.fuses.debugUsed + 1 } 5 (s.fuses.debugUsed + 1) (sha3 b) with tr.debugUnlocked := true } 4 (s.fuses.debugUsed + 1) 4) with h | ⟨h, h2, h3⟩
  · exact fine_of_eq h
  · rintro ⟨w1, w2, w3, w4, w5⟩
    have hw : Fuses.wf s.fuses := ⟨w1, w2, w3, w4, w5⟩
    revert hw
    have hsp : s.fuses.debugUsed < 4 := by
      simp [tokenSpent] at h3; omega
    rw [h]
    exact fine_log (f := s.fuses) s.fuses.lc s.fuses.uds s.fuses.ownerUsed s.fuses.svnUsed s.fuses.repairUsed (s.fuses.debugUsed + 1) [_] (.inl rfl) ⟨le_refl _, w1⟩ ⟨le_refl _, w2⟩ ⟨le_refl _, w3⟩ ⟨by omega, by omega⟩ (by simp only [List.length]; omega)

theorem fine_t4 (s : State) (b : Bytes) : fine s.fuses (withToken s 4 b (fun s => enterLc (wipe { s with tr.debugUnlocked := false }) .returned b)).fuses := by
  rcases fuses_withToken s 4 (by decide) b (fun s => enterLc (wipe { s with tr.debugUnlocked := false }) .returned b) with h | ⟨h, h2, h3⟩
  · exact fine_of_eq h
  · rintro ⟨w1, w2, w3, w4, w5⟩
    have hw : Fuses.wf s.fuses := ⟨w1, w2, w3, w4, w5⟩
    revert hw
    have hl : s.fuses.lc = .deployed := by
      unfold tokenState at h2; split at h2 <;> simp_all
    have e : ∃ x, (enterLc (wipe { s with tr.challenge := none, mb.cmd := 0x10, mb.len := b.length, tr.debugUnlocked := false }) .returned b).fuses =
        { s.fuses with lc := .returned, log := s.fuses.log ++ [x] } := ⟨_, rfl⟩
    obtain ⟨x, e⟩ := e
    rw [h, e]; 
    exact fine_log (f := s.fuses) .returned s.fuses.uds s.fuses.ownerUsed s.fuses.svnUsed s.fuses.repairUsed s.fuses.debugUsed [_] (.inr (by rw [hl]; rfl)) ⟨le_refl _, w1⟩ ⟨le_refl _, w2⟩ ⟨le_refl _, w3⟩ ⟨le_refl _, w4⟩ (by rw [hl]; simp only [LcState.rank, List.length]; omega)

theorem fine_t5 (s : State) (b : Bytes) : fine s.fuses (withToken s 5 b (fun s => { enterLc (wipe { s with tr.debugUnlocked := false }) .scrapped b with fuses.uds := BitVec.allOnes 256, tr.fwRunning := false })).fuses := by
  rcases fuses_withToken s 5 (by decide) b (fun s => { enterLc (wipe { s with tr.debugUnlocked := false }) .scrapped b with fuses.uds := BitVec.allOnes 256, tr.fwRunning := false }) with h | ⟨h, h2, h3⟩
  · exact fine_of_eq h
  · rintro ⟨w1, w2, w3, w4, w5⟩
    have hw : Fuses.wf s.fuses := ⟨w1, w2, w3, w4, w5⟩
    revert hw
    have hl : s.fuses.lc ≠ .scrapped := by
      intro hx; rw [tokenState, hx] at h2; cases h2
    have e : ∃ x, (enterLc (wipe { s with tr.challenge := none, mb.cmd := 0x10, mb.len := b.length, tr.debugUnlocked := false }) .scrapped b).fuses =
        { s.fuses with lc := .scrapped, log := s.fuses.log ++ [x] } := ⟨_, rfl⟩
    obtain ⟨x, e⟩ := e
    have h : (withToken s 5 b (fun s => { enterLc (wipe { s with tr.debugUnlocked := false }) .scrapped b with fuses.uds := BitVec.allOnes 256, tr.fwRunning := false })).fuses = { s.fuses with lc := .scrapped, uds := BitVec.allOnes 256, log := s.fuses.log ++ [x] } := by
      rw [h]; show ({ (enterLc _ _ b).fuses with uds := _ } : Fuses) = _; rw [e]
    rw [h]
    exact fine_log (f := s.fuses) .scrapped (BitVec.allOnes 256) s.fuses.ownerUsed s.fuses.svnUsed s.fuses.repairUsed s.fuses.debugUsed [_] (.inr (by cases h : s.fuses.lc <;> simp_all [LcState.leadsTo])) ⟨le_refl _, w1⟩ ⟨le_refl _, w2⟩ ⟨le_refl _, w3⟩ ⟨le_refl _, w4⟩ (by cases h : s.fuses.lc <;> simp_all [LcState.rank] <;> omega)

theorem fine_tokens (s : State) (b : Bytes) (c : Instr) (t : State) (h : exec c s = .next t)
    (hc : c = .toManufacture b ∨ c = .toProvisioned b ∨ c = .ownerClaim b ∨ c = .ownerTransfer b ∨ c = .debugUnlock b ∨ c = .toReturn b ∨ c = .toScrapped b) :
    fine s.fuses t.fuses := by
  rcases hc with rfl | rfl | rfl | rfl | rfl | rfl | rfl <;> (simp only [exec, execToManufacture, execToProvisioned, execOwnerClaim, execOwnerTransfer, execDebugUnlock, execToReturn, execToScrapped] at h; injection h with h; subst h)
  · exact fine_t7 s b
  · exact fine_t6 s b
  · exact fine_t1 s b
  · exact fine_t2 s b
  · exact fine_t3 s b
  · exact fine_t4 s b
  · have := fine_t5 s b
    unfold queued
    exact this

theorem fine_svn (s : State) : ∀ t, exec .svnCommit s = .next t → fine s.fuses t.fuses := by
  intro t h
  simp only [exec, execSvnCommit] at h; injection h with h; subst h
  show fine _ (withMailbox _ _ _ _).fuses
  rcases fuses_withMailbox s 0x11 s.mb.len _ with h | h
  · rw [h]; exact fine_rfl _
  · rw [h]
    split
    · exact fine_rfl _
    · next hs =>
      have : s.fuses.svnUsed < 63 := by
        by_contra hx
        apply hs
        unfold svnStatus
        split
        · decide
        · rw [if_pos (by show 63 ≤ s.fuses.svnUsed; omega)]; decide
      rintro ⟨w1, w2, w3, w4, w5⟩
      exact fine_log (f := s.fuses) s.fuses.lc s.fuses.uds _ (s.fuses.svnUsed + 1) _ _ [_] (.inl rfl) ⟨le_refl _, w1⟩ ⟨by omega, by omega⟩ ⟨le_refl _, w3⟩ ⟨le_refl _, w4⟩ (by simp; omega) ⟨w1, w2, w3, w4, w5⟩

theorem fine_svn2 (f : Fuses) (s : State) (hf : s.fuses = f) : fine f (landed s (execSvnCommit s)).fuses :=
  hf ▸ fine_svn s (landed s (execSvnCommit s)) (by show execSvnCommit s = _; unfold execSvnCommit landed; rfl)

theorem fine_repair (s : State) : ∀ t, exec .repairDone s = .next t → fine s.fuses t.fuses := by
  intro t h
  simp only [exec, execRepairDone] at h; injection h with h; subst h
  show fine _ (if _ then _ else _ : State).fuses
  split
  · split
    · exact fine_rfl _
    · split
      · next hr =>
        rintro ⟨w1, w2, w3, w4, w5⟩
        exact fine_log (f := s.fuses) s.fuses.lc s.fuses.uds _ _ (s.fuses.repairUsed + 1) _ [_] (.inl rfl) ⟨le_refl _, w1⟩ ⟨le_refl _, w2⟩ ⟨by omega, by omega⟩ ⟨le_refl _, w4⟩ (by simp; omega) ⟨w1, w2, w3, w4, w5⟩
      · exact fine_rfl _
  · exact fine_rfl _

theorem fine_reg (s : State) (p : Port) (bar off size : Nat) (v : W64) : ∀ t, exec (.registerWrite p bar off size v) s = .next t → fine s.fuses t.fuses := by
  intro t h
  simp only [exec, execRegisterWrite] at h; injection h with h; subst h
  show fine _ (if _ then _ else _ : State).fuses
  split
  · exact fine_rfl _
  · split
    · split
      · next ho =>
        unfold writeBar0
        split
        · exact fine_rfl _
        · rw [if_neg (by omega)]
          split
          · exact fine_rfl _
          · rw [if_neg (by omega), ho]
            simp only [writeModule]
            simp
            unfold writeMailbox
            split
            · dsimp only; split
              · exact fine_rfl _
              · split <;> first | exact fine_rfl _ | skip
                · exact fine_svn2 _ _ rfl
                · refine fine_of_eq ?_
                  rcases fuses_withMailbox _ _ _ _ with h | h <;> rw [h] <;> rfl
            all_goals exact fine_rfl _
      · exact fine_rfl _
    · split
      · exact fine_rfl _
      · exact fine_rfl _

end Sys2Proof.Machine
end

