-- ==== Sys2Proof/Laws/Warm.lean ====
section
/-!
SUPPORT. Laws of the warm reset: what its steps leave as it was.
-/
namespace Sys2Proof.Machine

def butH (s : State) : State := { s with mem := .reset, ports := [], pmem := [], pmemBad := [], msix := [], hwc := [], evPend := [], w1c := [], pkgs := [], ctxs := [], harn := [], overs := [], tiles := [], streams := [], movers := [] }

theorem butH_mem {s t : State} (h : t.butMemory = s.butMemory) : butH t = butH s :=
  (congrArg (fun u : State => { u with pkgs := [], ctxs := [], harn := [], overs := [], tiles := [], streams := [], movers := [] }) h :)

theorem butH_rebuilds (s : State) : butH (settleRebuilds s) = butH s :=
  butH_mem (foldl_keeps State.butMemory endRebuild (fun _ _ => (butMemory_rebuildPage _ _ _ _).trans rfl) s.mem.rebuilds s)

theorem butH_dirDel (s : State) (o : Nat) : butH (dirDel s o) = butH s := rfl

theorem butH_dirSet (s : State) (o : Nat) (e) : butH (dirSet s o e) = butH s := rfl

theorem butH_objZero (s : State) (e) : butH (objZero s e) = butH s := butH_mem (butMemory_objZero s e)

theorem butH_moves (s : State) : butH (settleMoves s) = butH s := by
  unfold settleMoves
  refine (foldl_keeps butH _ (fun s m => ?_) _ _).trans rfl
  split
  · rfl
  · split
    · rw [butH_objZero]
    · split
      · rw [butH_dirDel, butH_objZero]
      · rfl

def sealedFold (s : State) : State :=
  (s.mem.dir.filter fun d => ((s.ctxs.filter (·.2.isSealed)).map (·.1)).contains d.2.ctx && d.2.modIx == s.net.index).foldl (fun s d => dirDel (objZero s d.2) d.1) s

theorem sealed_eq (s : State) : clearSealed s = (let cs := (s.ctxs.filter (·.2.isSealed)).map (·.1); let u := sealedFold s;
  { u with ctxs := mkeep u.ctxs fun c _ => !cs.contains c, harn := mkeep u.harn fun _ h => !cs.contains h.ctx,
           overs := mkeep u.overs fun _ o => !cs.contains o.ctx, pkgs := mkeep u.pkgs fun _ p => !cs.contains p.ctx }) := rfl

theorem sealedFold_ctxs (s : State) : (sealedFold s).ctxs = s.ctxs := by
  unfold sealedFold
  refine foldl_keeps State.ctxs _ (fun s d => ?_) _ s
  have h := congrArg State.ctxs (butMemory_objZero s d.2)
  exact h

theorem butH_sealed (s : State) : butH (clearSealed s) = butH s := by
  rw [sealed_eq]
  show butH (sealedFold s) = butH s
  unfold sealedFold
  refine foldl_keeps butH _ (fun s d => ?_) _ s
  rw [butH_dirDel, butH_objZero]

theorem butH_X (s : State) : butH (clearArray (endContexts (clearSealed (settleMoves (settleRebuilds s))))) = butH s := by
  have h1 : ∀ u, butH (clearArray u) = butH u := fun u => rfl
  have h2 : ∀ u, butH (endContexts u) = butH u := fun u => rfl
  rw [h1, h2, butH_sealed, butH_moves, butH_rebuilds]

theorem mget_mkeep_none {V : Type} (m : AMap V) (f : Nat → V → Bool) (k : Nat) (h : ∀ v, f k v = false) : mget (mkeep m f) k = none := by
  induction m with
  | nil => rfl
  | cons x m ih =>
    unfold mkeep at ih ⊢
    rw [List.filter_cons]
    split
    · rename_i hx
      have : ¬ x.1 = k := fun e => by rw [e, h] at hx; cases hx
      simp only [mget, if_neg this]
      exact ih
    · exact ih

end Sys2Proof.Machine
end

