-- ==== Sys2Proof/Machine/AtRest.lean ====
section
/-!
DEFINITION. T3 as it rests: the machine's own view of T3 is the one in the clear, which every requester has; here is what the stacks hold,
line by line, and the path of a read through correction and decryption (05 R189 to R192; 06 R209, R213; notes/assumptions/98.md).
-/
namespace Sys2Proof.Machine

/-- AES-256-XTS on a data unit of 256 bytes: key and tweak; it has an inverse, and the manual takes it from its standard. -/
opaque lineCipher : Digest → BitVec 128 → Equiv.Perm (BitVec 2048)

/-- The tweak of a line: its T3 offset >> 8, 128 bits (R189). -/
def lineTweak (line : Nat) : BitVec 128 := BitVec.ofNat 128 line

/-- Line `line` of T3 in the clear. -/
def clearLine (s : State) (line : Nat) : BitVec 2048 := BitVec.ofNat 2048 (leNat (readTier s 2 (256 * line) 256))

/-- The ciphertext of a line that rests in T3, over which the word code and the page code are computed (R189, R191, R213). -/
def restLine (s : State) (key : Digest) (line : Nat) : BitVec 2048 := lineCipher key (lineTweak line) (clearLine s line)

/-- The path of a read of one line: what the stacks give is corrected first, by the codes, and decrypted after that (R189, R191, R213). -/
def readRest (key : Digest) (line : Nat) (correct : BitVec 2048 → BitVec 2048) (stored : BitVec 2048) : BitVec 2048 :=
  (lineCipher key (lineTweak line)).symm (correct stored)

/-- The path of a write of one line: it is encrypted, and the codes are computed from what then rests there. -/
def writeRest (key : Digest) (line : Nat) (clear : BitVec 2048) : BitVec 2048 := lineCipher key (lineTweak line) clear

/-- A read returns in the clear what was written, whatever wrong bits the stacks give, as long as the codes correct them; a patrol scrub or a
page rebuild sees the ciphertext alone (R189, R191). -/
theorem readRest_restLine {s : State} {key : Digest} {line : Nat} {correct : BitVec 2048 → BitVec 2048} {stored : BitVec 2048}
    (h : correct stored = restLine s key line) : readRest key line correct stored = clearLine s line := by
  simp [readRest, h, restLine]

end Sys2Proof.Machine
end

