-- ==== Sys2Proof/WellFormed.lean ====
section
/-!
DEFINITION. Which commands can come from outside: operand widths, byte counts and encodings that the rows' rules give. The
machine acts on any command; what a test or a program may send is a well-formed one.
-/
namespace Sys2Proof

/-- A value that fits `size` bytes, in an access of a size that a host makes (R557). -/
def accessOk (size value : Nat) : Bool := [1, 2, 4, 8].contains size && decide (value < 256 ^ size)

/-- A context number and a virtual sync ID (R347, R419). -/
def syncName (ctx vid : Nat) : Bool := decide (ctx < 256 ∧ vid < 65536)

/-- Tiers that a command of page rebuild, leak or scrub can name: T2 and T3 (R214, R224, R227). -/
def Tier.paged : Tier → Bool
  | .t1 => false
  | .t2 => true
  | .t3 => true

/-- Units of a tier: slices of T2, pseudo-channels of T3 (R228). -/
def Tier.units : Tier → Nat
  | .t1 => 0
  | .t2 => 2048
  | .t3 => 1536

/-- Operands within what their rows give them; commands without such a condition are well formed. -/
def Instr.wf : Instr → Bool
  | .t3InitComplete failed => decide failed.Nodup
  | .doorbellSqTail _ _ size value => accessOk size value
  | .doorbellCqHead _ _ size value => accessOk size value
  | .doorbellTqHead _ _ size value => accessOk size value
  | .doorbellEqHead _ _ size value => accessOk size value
  | .descriptorTake _ _ bs => bs.length == 64
  | .cxlMemRead _ _ _ len => decide (1 ≤ len ∧ len ≤ 64)
  | .cxlMemWrite _ _ _ data => decide (1 ≤ data.length ∧ data.length ≤ 64)
  | .setBase ctx vid base => syncName ctx vid && decide (base < 2 ^ 64)
  | .newStep ctx vid _ => syncName ctx vid
  | .restart ctx vid _ => syncName ctx vid
  | .pageRebuildDone tier _ => tier.paged
  | .ceBucketLeak tier => tier.paged
  | .patrolScrubPage tier unit => decide (unit < tier.units)
  | .linkDown _ cause => decide (cause < 16)
  | .beacon _ payload _ => payload.length == 16
  | .treadEdge d _ => decide (-1000 < d ∧ d ≤ 1500)
  | .treadLoad data => data.length == 8
  | .cap data => data.length == 4
  | .slot data => data.length == 1
  | .i3cWriteRefused index _ => decide (index < 256)
  | .opVoltageStep mv => decide (mv < 1024)
  | .inFieldPass unit => decide (unit < 2048)
  | .t2March unit => decide (unit < 2048)
  | .t3March unit => decide (unit < 2048)
  | .padSweep unit => decide (unit < 2048)
  | .linkLoopback unit => decide (unit < 2048)
  | .hostLoopback unit => decide (unit < 2048)
  | .tileBist unit => decide (unit < 2048)
  | .ceSettingWrite offset _ => offset == 0x30018 || offset == 0x30020
  | .registerWrite _ bar offset size value => (bar == 0 || bar == 2) && accessOk size value.toNat && decide (offset < 2 ^ 21)
  | .portLinkTrained _ width speed => [4, 8, 16].contains width && (speed == 1 || speed == 2)
  | .i3cCommand (.entdaa addr) => decide (addr < 128)
  | .i3cCommand (.setdasa addr) => decide (addr < 128)
  | .frameReceive _ f => decide (f.udpPort < 65536 ∧ f.an < 4)
  | .i3cCommand .enec | .i3cCommand .disec | .i3cCommand .rstact
  | .coldPowerOn | .inputUndervoltageLockout | .inputOvervoltageShutoff | .thermalShutoff _ _ | .perstDeassertBoot
  | .warmReset | .portReset _ _ | .functionLevelReset _ | .arrayReset _ | .fwLoad _ | .sliceRecord _
  | .contextGrant _ | .contextRevoke _ | .certRead | .logRead | .challenge | .certInstall _ | .toManufacture _
  | .toProvisioned _ | .ownerClaim _ | .ownerTransfer _ | .debugUnlock _ | .toReturn _ | .toScrapped _ | .svnCommit
  | .debugLock | .qpEnable _ _ | .qpDisable _ _ | .ringInterruptDelay _ _ _ | .hdmDecoderCommit _ _ | .nop _
  | .fence _ | .pkgStage _ _ | .pkgAdmit _ _ _ | .pkgEvict _ | .harnessLoad _ _ | .harnessRelease _
  | .overlayRegister _ _ | .overlaySwitch _ | .overlayStagingDone _ | .overlayCommitTread _ | .regionDrained _
  | .drainLimitExpiry _ | .switchFreezeDone _ | .switchParkDone _ | .bayApplyDone _ | .harnessBind _ _
  | .harnessUnbind _ | .reqOpen _ _ _ | .reqAppend _ _ | .reqCancel _ | .reqClose _ | .adapterLoad _ _
  | .adapterRetire _ | .runGraph _ _ | .syncSetArrive _ | .syncSetAdd _ | .syncSetPost _ | .syncSetBase _
  | .syncWaitWait _ | .syncWaitAcquire _ | .syncWaitTimeout _ | .syncWaitSatisfied _ | .moveRelocate _
  | .moveImport _ _ | .moveExport _ | .moveAlloc _ | .moveFree _ | .attest _ | .keyImport _ _ | .keyClear _
  | .ctxSave _ | .ctxSaveFreeze _ | .sendFenceSatisfied _ | .ctxRestore _ _ | .resumeTreadRelease _
  | .telemetrySnap _ | .telemetryLatch _ | .eventLogWrite | .instrNop _ _ | .setlc _ _ | .setf _ _ | .clrf _ _
  | .jump _ _ | .halt _ _ | .send _ _ | .eos _ _ | .syncArrive _ | .syncAdd _ | .syncWait _ | .take _ | .complete _
  | .acquire _ | .post _ | .barrierTimedRelease _ | .barrierTimeout _ | .barrierFloorRelease _ | .generationRetire _
  | .riserWaveStart _ _ | .mxeOp _ | .merge _ | .mxeOpComplete _ | .vop _ | .sop _ | .t2Read _ | .t2Write _
  | .t2MoveComplete _ | .galGet _ | .galPut _ | .galleryTransferDone _ | .spillReturn _ _ | .fabricWatchdogExpiry _
  | .fetchIssue _ | .fetchUnitLanded _ _ | .pageRebuild _ _ | .repairGo _ | .repairCommit _ | .repairDone
  | .stepPlan _ | .stepStart _ | .groupFirstStep _ | .stepSettle _ _ _ | .periodEstimateUpdate _ | .roleEvaluation _
  | .linkEnable _ _ | .linkTrained _ _ | .linkRetrain _ | .helloA _ _ _ | .helloB _ _ | .helloDelay _ _
  | .helloRetry _ | .gtAck _ _ _ | .ackTimer _ | .retryTimeout _ | .gtWrite _ | .gtRead _ | .gtData _ | .gtStream _
  | .gtSync _ | .gtSyncRsp _ | .gtDir _ | .gtDone _ | .gtRedirect _ | .gtForward _ | .packetTimeout _
  | .ecnRateRaise _ | .floorReq _ | .linkState _ | .descFwd _ | .descDone _ | .reqFwd _ | .reqAck _
  | .stepPlanReceive _ | .settle _ | .bind _ | .sliceStop _ | .sliceStopTread | .adapterCtrl _ | .beaconSend
  | .treadLock | .treadHoldoverEntry | .treadRelock | .flightBoundaryTimeCheck | .treadNumberLoaded
  | .treadAnchorWrite _ _ | .treadFallingEdge _ | .capHoldEnd | .capDeadlineCheck | .floorAdopt | .averagePowerCheck
  | .rampEnvelopeUpdate _ | .pull _ | .pullEnd | .thermalWarning _ _ | .thermalWarningStep _ _ | .thermalTrip _ _
  | .pwrBrakeAssert | .pwrBrakeDeassert | .coolantStop | .coolantResume | .i3cStatusRead | .i3cNotifyRepeat
  | .a1Entry | .a1Exit | .a2Entry | .a2Exit | .newelWatchdogExpiry | .newelRestartDone _ | .heartbeatMissed _
  | .firmwarePoison | .counterHalfWrapService _ | .counterSweep | .lifetimeAccumulate | .lifetimeCommit
  | .selftestSliceStart | .selftestSliceEnd _ | .selftestCfgWrite _ | .selftestProgramDone _ | .syncForceSetValue _ _
  | .syncForceRelease _ _ | .scanFreeze | .scanOut | .scanIn | .scanRelease | .scanCommandDone | .qdepthSampleEnable
  | .qdepthSample | .inputOvervoltageRecovery | .thermalTripClear _ _ | .hdmDecoderUncommit _ _
  | .backInvalidateResponse _ | .doneRecordHoldExpiry _ | .t2InitComplete | .voltageRampStart => true

end Sys2Proof
end

