-- ==== Sys2Proof/Tests/Slice0.lean ====
section
/-!
SUPPORT. The model's own tests: ill-formed operands refused, single steps against the spec's tables, and for each statement states and operands
that meet its hypotheses.
-/
set_option Elab.async false

namespace Sys2Proof.Tests
open Sys2Proof.Machine

/-! ### States and operands for the tests -/

/-- A module in service: its firmware runs, port 0 has a link. -/
def live : State :=
  { State.reset with
    sup := { Supply.reset with perst := false, coldBoot := false, booted := true }
    tr := { Trust.reset with fwRunning := true }
    fuses := { Fuses.reset with lc := .deployed }
    ports := [(0, { PortSt.reset with present := true })] }

/-- Bytes of fields of given widths. -/
def cat (fields : List (Nat × Nat)) : Bytes := fields.flatMap fun f => leBytes f.1 f.2

/-- True where the command answers a next state for which `p` holds. -/
def after (c : Instr) (s : State) (p : State → Bool) : Bool :=
  match exec c s with
  | .next t => p t
  | _ => false

/-! ### Well-formedness: an ill-formed operand for each check, refused -/

theorem test_wf_operands :
    (Instr.nop 0).wf = true ∧ (Instr.t3InitComplete [0, 0]).wf = false ∧ (Instr.doorbellSqTail 0 0 3 0).wf = false ∧
      (Instr.doorbellCqHead 0 0 1 256).wf = false ∧ (Instr.doorbellTqHead 0 0 16 0).wf = false ∧ (Instr.doorbellEqHead 0 0 0 0).wf = false ∧
      (Instr.descriptorTake 0 0 []).wf = false ∧ (Instr.cxlMemRead 0 0 0 65).wf = false ∧ (Instr.cxlMemWrite 0 0 0 []).wf = false ∧
      (Instr.setBase 256 0 0).wf = false ∧ (Instr.setBase 0 0 (2 ^ 64)).wf = false ∧ (Instr.newStep 0 65536 0).wf = false ∧
      (Instr.restart 256 0 0).wf = false ∧ (Instr.pageRebuildDone .t1 0).wf = false ∧ (Instr.ceBucketLeak .t1).wf = false ∧
      (Instr.patrolScrubPage .t2 2048).wf = false ∧ (Instr.patrolScrubPage .t3 1536).wf = false ∧ (Instr.patrolScrubPage .t1 0).wf = false := by
  decide +kernel

theorem test_wf_events :
    (Instr.linkDown 0 16).wf = false ∧ (Instr.beacon 0 [] 0).wf = false ∧ (Instr.treadEdge (-1000) 0).wf = false ∧
      (Instr.treadEdge 1501 0).wf = false ∧ (Instr.treadLoad []).wf = false ∧ (Instr.cap []).wf = false ∧ (Instr.slot []).wf = false ∧
      (Instr.i3cWriteRefused 256 []).wf = false ∧ (Instr.opVoltageStep 1024).wf = false ∧ (Instr.inFieldPass 2048).wf = false ∧
      (Instr.t2March 2048).wf = false ∧ (Instr.t3March 2048).wf = false ∧ (Instr.padSweep 2048).wf = false ∧
      (Instr.linkLoopback 2048).wf = false ∧ (Instr.hostLoopback 2048).wf = false ∧ (Instr.tileBist 2048).wf = false ∧
      (Instr.ceSettingWrite 0x30010 0).wf = false ∧ (Instr.registerWrite 0 1 0 4 0).wf = false ∧ (Instr.registerWrite 0 0 0 5 0).wf = false ∧
      (Instr.registerWrite 0 0 (2 ^ 21) 4 0).wf = false ∧ (Instr.portLinkTrained 0 2 1).wf = false ∧ (Instr.portLinkTrained 0 4 3).wf = false ∧
      (Instr.i3cCommand (.entdaa 128)).wf = false ∧ (Instr.i3cCommand (.setdasa 128)).wf = false ∧
      (Instr.frameReceive 0 { fcsOk := true, dstMac := 0, etherType := 0, vlan := none, extHeader := false, udpPort := 65536, checksumOk := true,
                                     icvOk := true, an := 0, ce := false, gt := [] }).wf = false := by
  decide +kernel

/-! ### Supply, boot, trust -/

theorem witness_supply :
    live.sup.on = true ∧ ((120 : Int) ≤ 120 ∨ (110 : Int) ≤ 0) ∧ ((120 : Int) ≤ 0 ∨ (110 : Int) ≤ 110) ∧
      (let s : State := { live with sup := { Supply.reset with on := false } }
       s.sup.on = false ∧ s.sup.off ≠ .overvoltage ∧ s.sup.off ≠ .thermal) ∧
      (let s : State := { live with sup := { Supply.reset with on := false, off := .thermal, inputFell := true } }
       s.sup.on = false ∧ s.sup.inputFell = true) ∧
      (let s : State := { live with sup := { Supply.reset with on := false, off := .overvoltage } }
       s.sup.on = false ∧ s.sup.off = .overvoltage) := by decide +kernel

theorem witness_boot :
    State.reset.sup.pwrgood = true ∧ State.reset.sup.perst = true ∧ State.reset.fuses.lc ≠ .scrapped ∧ State.reset.sup.coldBoot = true ∧
      { State.reset with fuses := { Fuses.reset with lc := .scrapped } }.fuses.lc = .scrapped ∧
      { State.reset with sup := { Supply.reset with coldBoot := false } }.sup.coldBoot = false ∧ live.tr.fwRunning = true ∧
      live.mem.t2Ready = false ∧ live.mem.t3Ready = false ∧ live.mem.initGib = 0 ∧
      { live with mem := { Memory.reset with t2Ready := true } }.mem.t2Ready = true := by decide +kernel

/-- A firmware image of the smallest size, zeros but for its head. -/
def fwImage : Bytes :=
  cat [(4, 0x57465944), (2, 1), (2, 0), (4, 4096), (4, 0), (4, 4096), (4, 0), (4, 4096), (4, 0)] ++ List.replicate 4064 0

theorem test_fw_head : fwHeadOk fwImage = true ∧ byteAt fwImage 6 = 0 ∧ digestAt fwImage 0x20 = 0 ∧ digestAt fwImage 0x40 = 0 := by
  decide +kernel

/-- An image that its signer's key and hashes accept: what they answer is open (notes/assumptions/8.md). -/
theorem witness_fw_load (hr : romSigners 0 = 0) (hx : ∀ b, sha3 b = 0) (hv : ∀ p m x, dsaVerify p m x = true) :
    fwStatus { live with tr := Trust.reset } fwImage = stOk ∧ { live with tr := Trust.reset }.tr.fwRunning = false := by
  refine ⟨?_, rfl⟩
  simp only [fwStatus, hx, hv, test_fw_head.1, test_fw_head.2.1, test_fw_head.2.2.1, test_fw_head.2.2.2]
  have : ((List.finRange 4).any fun i => romSigners i == 0) = true := by
    rw [List.any_eq_true]; exact ⟨0, List.mem_finRange 0, by simp [hr]⟩
  rw [this]; rfl

/-- A slice record of one member, which is this module. -/
def oneMember : Bytes :=
  cat [(4, 0x4C535944), (2, 1), (2, 0), (8, 7), (2, 1), (2, 1), (1, 1), (1, 1), (1, 1), (1, 0), (8, 0), (32, 0), (8, 1)] ++
    List.replicate 56 0 ++ List.replicate 48 0

theorem witness_slice_record :
    sliceRecordOk { live with fuses := Fuses.reset } oneMember = true ∧ { live with fuses := Fuses.reset }.fuses.lc ≠ .scrapped := by
  decide +kernel

theorem witness_mailbox :
    live.fuses.lc ≠ .scrapped ∧ live.sup.booted = true ∧ live.tr.fwRunning = true ∧ (live.store.cert.getD []).length ≤ live.mb.len ∧
      (let s : State := { live with mb := { Mailbox.reset with len := 32 } }
       32 ≤ s.mb.len ∧ (fusedLogBytes s).length ≤ s.mb.len) ∧
      { live with fuses := { Fuses.reset with lc := .scrapped } }.fuses.lc = .scrapped ∧
      { live with sup := Supply.reset }.sup.booted = false ∧ { live with tr := Trust.reset }.tr.fwRunning = false := by decide +kernel

theorem witness_cert_install (hv : ∀ b p, chainValid b p = true) :
    let s : State := { live with fuses := { Fuses.reset with lc := .manufacture } }
    s.fuses.lc = .manufacture ∧ chainValid [] (idkPub s) = true := ⟨rfl, hv _ _⟩

/-- A grant to context `c` on port 0: queue pairs and windows by mask, allocations. -/
def grant (action c qps wins alloc : Nat) : Bytes :=
  cat [(2, c), (1, 0), (1, action), (4, 0), (8, qps), (8, alloc), (8, alloc), (2, wins)] ++ List.replicate 30 0

theorem witness_grants :
    grantForm (grant 1 255 1 1 4096) = true ∧ byteAt (grant 1 255 1 1 4096) 3 = 1 ∧ grantTaken live 255 0 (grant 1 255 1 1 4096) = false ∧
      grantRoom { live with mem := { Memory.reset with t3Ready := true, stacksOk := 24 } } 255 (grant 1 255 1 1 4096) = true ∧
      grantRoom live 255 (grant 1 255 1 1 (2 ^ 60)) = false ∧ grantForm (grant 1 256 1 1 0) = false ∧
      grantTaken { live with qpOwner := [(0, 3)] } 255 0 (grant 1 255 1 1 0) = true ∧ (ctxOf live 255).ek = none ∧
      (ctxOf { live with ctxs := [(255, { ctxOf live 255 with ek := some 1 })] } 255).ek = some 1 ∧
      grantForm (grant 2 3 0 0 0) = true ∧ byteAt (grant 2 3 0 0 0) 3 = 2 ∧
      (let s : State := { live with qpOwner := [(0, 3)], qps := [(0, { QpSt.reset with en := true })] }
       (s.qpOwner.any fun o => o.2 == 3 && o.1 / 64 == 0 && (qpOf s 0 (o.1 % 64)).en) = true) := by decide +kernel

/-- A token. -/
def token (action role : Nat) : Bytes := cat [(4, 0x55415944), (2, 1), (1, action), (1, role)] ++ List.replicate 3852 0

theorem test_token_form : ∀ a ∈ [1, 2, 3, 4, 5, 6, 7], ∀ r ∈ [0, 1], tokenForm (token a r) = true ∧ byteAt (token a r) 6 = a ∧
    byteAt (token a r) 7 = r ∧ digestAt (token a r) 8 = 0 ∧ digestAt (token a r) 0x28 = 0 ∧ digestAt (token a r) 0x48 = 0 := by
  decide +kernel

/-- A module in life-cycle state `lc` that has given the challenge of `token`. -/
def asked (lc : LcState) (owner : Option Digest) : State :=
  { live with
    fuses := { Fuses.reset with lc := lc, log := [{ kind := 2, value := 1, tread := 0, subject := 0 }] }, store := { Store.reset with owner := owner, cert := some [] }
    tr := { Trust.reset with fwRunning := true, challenge := some 0 } }
/-- Every kind of token, accepted; what hashes and signatures answer is open (notes/assumptions/8.md). -/
theorem witness_tokens (hx : ∀ b, sha3 b = 0) (hr : romAuthority = 0) (hv : ∀ p m x, dsaVerify p m x = true) :
    tokenStatus (asked .blank none) (token 7 0) = stOk ∧ tokenStatus (asked .manufacture none) (token 6 0) = stOk ∧
      tokenStatus (asked .provisioned none) (token 1 1) = stOk ∧ tokenStatus (asked .deployed (some 0)) (token 2 1) = stOk ∧
      tokenStatus (asked .deployed (some 0)) (token 3 1) = stOk ∧ tokenStatus (asked .deployed none) (token 4 0) = stOk ∧
      tokenStatus (asked .blank none) (token 5 0) = stOk := by
  have h (s : State) (b : Bytes) (hf : tokenForm b = true) (hi : digestAt b 8 = 0) (hc : s.tr.challenge = some (digestAt b 0x28))
      (hs : tokenState s (byteAt b 6) = true)
      (hg : (if byteAt b 7 = 0 then (0 : Digest) == 0 && (byteAt b 6 == 7 || byteAt b 6 == 6 || (byteAt b 6 == 5 && s.fuses.lc != .deployed) ||
              (byteAt b 6 == 4 && (ownerHeld s).isNone))
            else if byteAt b 6 = 1 then 0 == digestAt b 0x48 else if byteAt b 6 = 2 ∨ byteAt b 6 = 3 ∨ byteAt b 6 = 4 then ownerHeld s == some 0
            else byteAt b 6 == 5 && ownerHeld s == some 0 && (s.fuses.lc == .deployed || s.fuses.lc == .returned)) = true)
      (hn : tokenSpent s (byteAt b 6) = false) (hq : allQpsOff s = true) : tokenStatus s b = stOk := by
    have hd : deviceId s = 0 := by simp [deviceId, hx]
    have hg : tokenSigner s b = true := by simpa [tokenSigner, hx, hr] using hg
    simp [tokenStatus, hf, hi, hd, hc, hs, hg, hv, hn, hq]
  refine ⟨h _ _ ?_ ?_ ?_ ?_ ?_ ?_ ?_, h _ _ ?_ ?_ ?_ ?_ ?_ ?_ ?_, h _ _ ?_ ?_ ?_ ?_ ?_ ?_ ?_, h _ _ ?_ ?_ ?_ ?_ ?_ ?_ ?_,
    h _ _ ?_ ?_ ?_ ?_ ?_ ?_ ?_, h _ _ ?_ ?_ ?_ ?_ ?_ ?_ ?_, h _ _ ?_ ?_ ?_ ?_ ?_ ?_ ?_⟩ <;> decide +kernel

theorem witness_tokens_refused : ∀ a ∈ [1, 2, 3, 4, 5, 6, 7], tokenStatus live (cat [(6, 0), (1, a)]) ≠ stOk ∧ byteAt (cat [(6, 0), (1, a)]) 6 = a := by
  decide +kernel

theorem witness_svn_commit :
    let s : State := { live with tr := { Trust.reset with fwRunning := true, fwSvn := 63 } }
    (let s : State := { s with mb := { Mailbox.reset with arg := 1 } }
     s.mb.arg = s.fuses.svnUsed + 1 ∧ s.fuses.svnUsed < 63 ∧ s.mb.arg ≤ s.tr.fwSvn) ∧ s.mb.arg ≠ s.fuses.svnUsed + 1 ∧
      (let s : State := { s with mb := { Mailbox.reset with arg := 64 }, fuses := { Fuses.reset with svnUsed := 63 } }
       s.mb.arg = s.fuses.svnUsed + 1 ∧ 63 ≤ s.fuses.svnUsed) ∧
      (let s : State := { live with mb := { Mailbox.reset with arg := 1 } }
       s.mb.arg = s.fuses.svnUsed + 1 ∧ s.fuses.svnUsed < 63 ∧ s.tr.fwSvn < s.mb.arg) := by decide +kernel

/-- The fuse invariant holds of fuses used up, and a step from such a state answers a next state. -/
theorem witness_fuses :
    Fuses.wf { Fuses.reset with ownerUsed := 15, svnUsed := 63, repairUsed := 8, debugUsed := 4 } ∧
      ∃ t, step { live with pending := [.debugLock] } = .next t := by
  refine ⟨?_, _, rfl⟩
  unfold Fuses.wf
  decide +kernel

/-! ### Rings, ports and windows -/

/-- Queue pair 0 of port 0, owned by context 3, with all rings of 16 slots. -/
def ring : QpSt := { QpSt.reset with sqLog2 := 4, cqLog2 := 4, tqLog2 := 4 }

/-- `live` with queue pair 0 in state `v`. -/
def withQp (v : QpSt) : State := { live with qpOwner := [(0, 3)], qps := [(0, v)] }

theorem witness_doorbells :
    (let v := qpOf (withQp { ring with en := true }) 0 0
     v.en = true ∧ 15 < 2 ^ v.sqLog2 ∧ 15 < 2 ^ v.cqLog2 ∧ 15 < 2 ^ v.tqLog2 ∧ 2 ^ v.sqLog2 ≤ 16 ∧ 2 ^ v.cqLog2 ≤ 16 ∧ 2 ^ v.tqLog2 ≤ 16) ∧
      (qpOf (withQp ring) 0 0).en = false ∧
      (let po := portOf { live with ports := [(0, { PortSt.reset with eqEn := true, eqLog2 := 4 })] } 0
       po.eqEn = true ∧ 15 < 2 ^ po.eqLog2 ∧ 2 ^ po.eqLog2 ≤ 16) := by decide +kernel

/-- A full token ring defers, a doorbell takes its head: R432, R438. -/
theorem test_doorbell_head :
    after (.doorbellTqHead 0 0 4 15) (withQp { ring with en := true, tqTail := 14, tqUnsig := 3 })
      (fun t => decide ((qpOf t 0 0).tqHead = 15 ∧ (portOf t 0).dbErr = 0)) = true := by decide +kernel

theorem test_doorbell_refused :
    after (.doorbellSqTail 0 0 4 16) (withQp { ring with en := true })
      (fun t => decide ((qpOf t 0 0).sqTail = 0 ∧ (portOf t 0).dbErr = 1)) = true := by decide +kernel

theorem witness_queue_pairs :
    (let s := withQp ring
     (qpOf s 0 0).en = false ∧ mayEnable s 0 0 = true) ∧
      mayEnable { withQp ring with qpOwner := [] } 0 0 = false ∧
      canTake (withQp { ring with en := true, sqTail := 1 }) 0 0 = true ∧
      (let s := withQp { ring with en := true, sqTail := 1, cqTail := 15 }
       2 ^ (qpOf s 0 0).cqLog2 ≤ ringUsed (qpOf s 0 0).cqLog2 (qpOf s 0 0).cqHead (qpOf s 0 0).cqTail + outstanding s 0 0 + 1) ∧
      (let v := qpOf (withQp { ring with delayUs := 1, cqIrq := true, cqUnsig := 1, tqIrq := true, tqUnsig := 1 }) 0 0
       0 < v.delayUs ∧ v.cqIrq = true ∧ 0 < v.cqUnsig ∧ v.tqIrq = true ∧ 0 < v.tqUnsig) ∧
      live.sup.booted = true ∧ 16 ≤ portLanes live 0 ∧ 4 ≤ portLanes { live with splitOn := 2 } 3 ∧ 8 ≤ portLanes { live with splitOn := 1 } 1 := by
  decide +kernel

/-- A home of context 3 at this module. -/
def home (tier base size : Nat) : DirEntry :=
  { ctx := 3, moving := false, absent := false, isSealed := false, epoch := 0, modIx := 0x1FFF, tier := tier, bound := 0,
    stripeSize := size, size := size, base := base, stripes := 1, tileStep := 0, moveTread := 0 }

/-- A window of port 0 onto the first 256 MiB of T2. -/
def window : HdmSt :=
  { en := true, write := true, cache := false, context := 3, target := 0x1FFF * 2 ^ 51 + 2 ^ 48, size := 2 ^ 28, committed := true }

/-- `live` with windows and one home of 4,096 bytes. -/
def windowed (hdm : AMap HdmSt) (e : DirEntry) : State := { live with hdm := hdm, winOwn := [(0, 3)], mem := { Memory.reset with dir := [(9, e)] } }

theorem witness_windows :
    windowOk live window = true ∧ (hdmOf live 0 0).committed = false ∧ (hdmOf (windowed [(0, window)] (home 1 0 4096)) 0 0).committed = true ∧
      cachedLines (windowed [(0, window)] (home 1 0 4096)) 0 window.target 64 = [] ∧
      cachedLines (windowed [(0, window), (16, { window with cache := true })] (home 1 0 4096)) 0 window.target 64 ≠ [] := by
  decide +kernel

theorem witness_window_verdicts :
    verdict (windowed [(0, window)] (home 1 0 4096)) 0 0 4032 64 false = .serve 9 (home 1 0 4096) ∧
      verdict (windowed [(0, window)] (home 1 0 4096)) 0 0 4032 64 true = .serve 9 (home 1 0 4096) ∧
      verdict (windowed [(0, window)] (home 1 0 4096)) 0 0 4096 64 false = .refused ∧
      verdict (windowed [(0, { window with write := false })] (home 1 0 4096)) 0 0 0 64 true = .refused ∧
      verdict (windowed [(0, window)] { home 1 0 4096 with isSealed := true }) 0 0 0 64 false = .sealedHome :=
  ⟨rfl, rfl, rfl, rfl, rfl⟩

theorem witness_back_invalidate :
    mget { live with waits := [(0, .biWrite 0 0 0 [1])] }.waits 0 = some (.biWrite 0 0 0 [1]) := rfl

/-! ### Descriptors -/

/-- A descriptor of 64 bytes: opcode, flags, body. -/
def desc (op : Nat) (body : List (Nat × Nat)) : Bytes := padTo 64 (cat ((1, op) :: (7, 0) :: body))

/-- The descriptor as taken from queue pair 0 of context 3. -/
def took (b : Bytes) : Taken :=
  { origin := none, port := 0, qp := 0, ctx := 3, enable := 0, tread := 0, bytes := b, stage := .taken }

/-- A module that holds one descriptor, number 0. -/
def holding (b : Bytes) : State := { live with taken := [(0, took b)], takes := 1 }

/-- Each descriptor row has a descriptor of its own that may start. -/
theorem witness_descriptor_heads :
    (∀ x ∈ ([(.nop 0, desc 1 []), (.fence 0, desc 2 []), (.pkgStage 0 [], desc 0x10 []), (.pkgAdmit 0 [] [], desc 0x11 []),
        (.pkgEvict 0, desc 0x12 []), (.harnessLoad 0 [], desc 0x20 []), (.harnessRelease 0, desc 0x20 [(1, 1)]),
        (.overlayRegister 0 [], desc 0x21 []), (.overlaySwitch 0, desc 0x21 [(1, 1)]), (.harnessBind 0 [], desc 0x22 []),
        (.harnessUnbind 0, desc 0x22 [(1, 1)]), (.reqOpen 0 [] [], desc 0x30 []), (.reqAppend 0 [], desc 0x31 []),
        (.reqCancel 0, desc 0x32 []), (.reqClose 0, desc 0x33 []), (.adapterLoad 0 [], desc 0x40 []), (.adapterRetire 0, desc 0x41 []),
        (.runGraph 0 [], desc 0x50 []), (.syncSetArrive 0, desc 0x60 []), (.syncSetAdd 0, desc 0x60 [(2, 0), (1, 1)]),
        (.syncSetPost 0, desc 0x60 [(2, 0), (1, 6)]), (.syncSetBase 0, desc 0x60 [(2, 0), (1, 7)]),
        (.syncWaitWait 0, desc 0x61 [(2, 0), (1, 2)]), (.syncWaitAcquire 0, desc 0x61 [(2, 0), (1, 5)]), (.moveRelocate 0, desc 0x70 []),
        (.moveImport 0 [], desc 0x70 [(1, 1)]), (.moveExport 0, desc 0x70 [(1, 2)]), (.moveAlloc 0, desc 0x70 [(1, 3)]),
        (.moveFree 0, desc 0x70 [(1, 4)]), (.attest 0, desc 0x80 []), (.keyImport 0 [], desc 0x81 [(8, 0), (4, 1200)]),
        (.keyClear 0, desc 0x81 []), (.ctxSave 0, desc 0x90 []), (.ctxRestore 0 [], desc 0x91 []), (.telemetrySnap 0, desc 0xA0 [])] :
        List (Instr × Bytes)),
      (descriptorOf x.1).any (fun r => r.1 == 0 && r.2.1 (took x.2) && mayStart (holding x.2) 0 (took x.2) &&
        decide (headStatus (holding x.2) (took x.2) r.2.2 = stOk)) = true) ∧ coresRun live = true := by
  decide +kernel

theorem witness_descriptor_heads_refused :
    (let s := holding (desc 0x70 [])
     opAllowed { s with fuses := Fuses.reset } (took (desc 0x70 [])) = false) ∧
      (let b := desc 0x70 [(1, 4), (1, 1)]
       opAllowed (holding b) (took b) = true ∧ reservedOk (took b) moveFields = false) ∧
      mayStart { holding (desc 1 []) with taken := [(0, { took (desc 1 []) with stage := .waiting })] } 0
        { took (desc 1 []) with stage := .waiting } = false ∧
      coresRun { live with ps := { Pstate.reset with state := 2 } } = false ∧ isMove 0 (took (desc 0x70 [(1, 1)])) = false ∧
      (let s := withQp { ring with en := true, sqTail := 1 }
       canTake s 0 0 = true ∧ s.taken = [] ∧ knownOp (took (desc 0x70 [(1, 5)])) = false ∧ knownOp (took (desc 3 [])) = false) := by
  decide +kernel

/-- A reserved opcode ends with E_PERM (R433): the completion record's status byte. -/
theorem test_reserved_opcode :
    after (.descriptorTake 0 0 (desc 3 [])) (withQp { ring with en := true, sqTail := 1 })
      (fun t => decide (t.taken = [] ∧ (qpOf t 0 0).sqHead = 1 ∧ (qpOf t 0 0).cqTail = 1)) = true := by decide +kernel

/-- `s` with one descriptor, number 0. -/
def give (s : State) (b : Bytes) : State := { s with taken := [(0, took b)], takes := 1 }

/-- `State.starts` by evaluation. -/
theorem starts_of {s : State} {d : Nat} {t : Taken} {named : List (Nat × Nat)}
    (h : (decide (mget s.taken d = some t) && mayStart s d t && coresRun s && decide (headStatus s t named = stOk)) = true) :
    s.starts d t named := by
  simpa [State.starts, and_assoc] using h

/-- Context 3 with room in both tiers. -/
def ctx3 : Ctx := { t2Alloc := 2 ^ 30, t3Alloc := 2 ^ 30, ek := some 0, slots := [], isSealed := false, vids := [] }

/-- A module in service with context 3, all memory ready, and the homes given. -/
def served (dir : AMap DirEntry) : State :=
  { live with ctxs := [(3, ctx3)], mem := { Memory.reset with t2Ready := true, t3Ready := true, stacksOk := 24, dir := dir } }

theorem witness_plain_descriptors :
    (give live (desc 1 [])).starts 0 (took (desc 1 [])) [] ∧ (give live (desc 2 [])).starts 0 (took (desc 2 [])) [] ∧
      (let b := desc 0x80 [(8, 0), (4, 4116), (4, 0), (32, 7)]
       (give live b).starts 0 (took b) [(8, 12), (24, 32)] ∧ (took b).op = 0x80 ∧ attestHeld (give live b) 0 < 16 ∧ 4116 ≤ fld b 16 4) ∧
      (let b := desc 0x81 [(8, 0), (4, 0), (4, 15)]
       (give live b).starts 0 (took b) [(8, 16)] ∧ fld b 16 4 = 0 ∧ keyHeadStatus (give live b) (took b) = stOk) :=
  ⟨starts_of (by decide +kernel), starts_of (by decide +kernel),
    ⟨starts_of (by decide +kernel), by decide +kernel, by decide +kernel, by decide +kernel⟩,
    starts_of (by decide +kernel), by decide +kernel, by decide +kernel⟩

/-- Sixteen reports before it keep an ATTEST out. -/
theorem witness_attest_busy :
    let b := desc 0x80 [(8, 0), (4, 4116)]
    let s := { live with taken := (List.range 17).map fun i => (i, { took b with port := i, stage := if i = 16 then .taken else .waiting }) }
    mget s.taken 16 = some { took b with port := 16 } ∧ mayStart s 16 { took b with port := 16 } = true ∧ 16 ≤ attestHeld s 16 := by
  decide +kernel

/-- A key blob for context 3. -/
def keyBlob : Bytes := cat [(4, 0x494B5944), (2, 1), (1, 3), (1, 0), (2, 3)] ++ List.replicate 1190 0

/-- A blob whose hashes and tags are accepted, in a context that is sealed, that has no cached lines, and that has some. -/
theorem witness_key_import (hx : ∀ b, sha3 b = 0) (hk : ∀ d b, kemOpen d b = some 0) (hg : ∀ k i a c t, gcmOpen k i a c t = some []) :
    let b := desc 0x81 [(8, 0), (4, 1200), (4, 15)]
    (∀ s ∈ [give (served [(9, home 1 0 4096)]) b, give { served [] with ctxs := [(3, { ctx3 with isSealed := true })] } b,
        give { windowed [(0, { window with cache := true })] (home 1 0 4096) with ctxs := [(3, ctx3)] } b],
      s.starts 0 (took b) [(8, 16)] ∧ keyStatus s (took b) (keyBlob.take 1200) = stOk) ∧ fld b 16 4 ≠ 0 ∧
      (((give (served [(9, home 1 0 4096)]) b).mem.dir.filter fun e => e.2.ctx == 3 && !e.2.isSealed).flatMap fun e =>
        homeLines (give (served [(9, home 1 0 4096)]) b) e.2) = [] ∧
      (let s := windowed [(0, { window with cache := true })] (home 1 0 4096)
       ((s.mem.dir.filter fun e => e.2.ctx == 3 && !e.2.isSealed).flatMap fun e => homeLines s e.2) ≠ []) := by
  have h (s : State) (hs : keyHeadStatus s (took (desc 0x81 [(8, 0), (4, 1200), (4, 15)])) = stOk) (he : (ctxOf s 3).ek = some 0)
      (hm : mhas (ctxOf s 3).slots 15 = false) :
      keyStatus s (took (desc 0x81 [(8, 0), (4, 1200), (4, 15)])) (keyBlob.take 1200) = stOk := by
    have e1 : blobForm (keyBlob.take 1200) 3 = true := by decide +kernel
    have e2 : (keyBlob.take 1200).length = 1200 := by decide +kernel
    have e3 : digestAt (keyBlob.take 1200) 0x10 = 0 := by decide +kernel
    have e4 : keySlot (took (desc 0x81 [(8, 0), (4, 1200), (4, 15)])) = 15 := by decide +kernel
    have e5 : (took (desc 0x81 [(8, 0), (4, 1200), (4, 15)])).ctx = 3 := rfl
    simp [keyStatus, hs, e1, e2, e4, e5, hm, blobKey, he, e3, hx, hk, hg]
  refine ⟨fun s hs => ?_, by decide +kernel, by decide +kernel, by decide +kernel⟩
  simp only [List.mem_cons, List.not_mem_nil, or_false] at hs
  rcases hs with rfl | rfl | rfl <;>
    exact ⟨starts_of (by decide +kernel), h _ (by decide +kernel) (by decide +kernel) (by decide +kernel)⟩

/-- A MOVE of object 9 with destination `dst`. -/
def moveDesc (kind dst size : Nat) : Bytes := desc 0x70 [(1, kind), (3, 0), (4, 9), (8, dst), (2, 1), (2, 0), (4, size), (8, size), (8, 0)]

/-- T3 of this module from offset `a`. -/
def inT3 (a : Nat) : Nat := 0x1FFF * 2 ^ 51 + 2 * 2 ^ 48 + a

theorem witness_moves :
    (∀ k ∈ [1, 3],
      let b := moveDesc k (inT3 4096) 4096
      (give (served []) b).starts 0 (took b) moveFields ∧ (took b).op = 0x70 ∧ byteAt b 8 = k ∧ gaModule (moveReq b).dst = 0x1FFF ∧
        createStatus (give (served []) b) 3 (moveReq b) = stOk) ∧
      (∀ k ∈ [0, 2, 4],
        let b := moveDesc k (inT3 4096) 4096
        let s := give (served [(9, home 1 0 4096)]) b
        s.starts 0 (took b) moveFields ∧ byteAt b 8 = k ∧ dirGet s (moveReq b).obj = some (home 1 0 4096) ∧
          homeStatus s (moveReq b) (home 1 0 4096) = stOk ∧ homeLines s (home 1 0 4096) = [] ∧
          sameHome (moveDest s 3 (moveReq b) 4096 0) (home 1 0 4096) = false) ∧
      (let b := moveDesc 4 0 4096
       let s := give (windowed [(0, { window with cache := true })] (home 1 0 4096)) b
       s.starts 0 (took b) moveFields ∧ homeStatus s (moveReq b) (home 1 0 4096) = stOk ∧ homeLines s (home 1 0 4096) ≠ [] ∧
         homeStatus s (moveReq b) { home 1 0 4096 with bound := 1 } ≠ stOk) := by
  refine ⟨?_, ?_, ?_⟩
  · intro k hk
    simp only [List.mem_cons, List.not_mem_nil, or_false] at hk
    rcases hk with rfl | rfl <;> exact ⟨starts_of (by decide +kernel), by decide +kernel⟩
  · intro k hk
    simp only [List.mem_cons, List.not_mem_nil, or_false] at hk
    rcases hk with rfl | rfl | rfl <;> exact ⟨starts_of (by decide +kernel), by decide +kernel⟩
  · exact ⟨starts_of (by decide +kernel), by decide +kernel⟩

/-- A slice of two members, this module the first. -/
def pair : SliceRec :=
  { digest := 0, plain := false, sliceId := 7, epoch := 0, dx := 2, dy := 1, dz := 1, hallPrefix := 0, measurement := 0,
    members := [{ identity := 0, role := 0, x := 0, y := 0, z := 0, hall := false }, { identity := 1, role := 0, x := 1, y := 0, z := 0, hall := false }] }

/-- `s` as member 0 of a slice of two. -/
def inSlice (s : State) : State := { s with net := { Net.reset with index := 0, record := some pair } }

/-- A home of context 3 at the other member. -/
def farHome : DirEntry := { home 1 0 4096 with modIx := 1 }

theorem witness_move_export_far :
    let b := moveDesc 2 0 4096
    let s := give (inSlice (served [(9, farHome)])) b
    s.starts 0 (took b) moveFields ∧ dirGet s (moveReq b).obj = some farHome ∧ farHome.modIx ≠ s.net.index ∧
      moduleStatus s farHome.modIx = stOk ∧ farHome.absent = false ∧ farHome.ctx = (took b).ctx :=
  ⟨starts_of (by decide +kernel), by decide +kernel⟩

/-! ### Harnesses, overlays, packages -/

/-- A shape plan of one operator with one candidate and one tile (Table 7-2). -/
def onePlan : Bytes :=
  cat [(2, 1), (2, 1), (2, 1), (1, 1), (1, 0), (2, 64), (2, 0), (4, 1), (4, 1), (4, 1), (40, 0),
       (1, 1), (1, 0), (2, 0), (4, 1), (4, 64), (4, 64), (4, 1), (4, 0), (2, 0), (1, 1), (1, 0), (4, 0), (2, 1), (2, 0), (4, 0), (4, 96), (20, 0),
       (2, 32), (2, 64), (1, 1), (1, 0), (2, 2), (4, 1), (4, 1), (4, 0), (4, 0), (8, 0), (32, 0), (64, 0)]

/-- A harness of one bay with that plan, no tile listed: what an overlay or a bind reads of it. -/
def plainImage : Bytes :=
  cat [(4, 0x4E485944), (2, 1), (2, 0x200), (4, 768), (1, 0), (1, 0), (2, 16), (1, 1), (1, 0x10), (2, 1), (12, 0), (16, 9), (16, 0),
       (64, 0), (2, 9), (2, 0), (4, 512), (4, 194), (4, 1), (240, 0), (124, 0), (4, 0)] ++ onePlan

/-- Context 3 with that harness, number 9. -/
def harnessed (s : State) : State := { s with harn := [(0, { ctx := 3, uid := 9, image := plainImage, pkg := none })] }

/-- An overlay without patches over harness 9. -/
def plainOverlay : Bytes :=
  cat [(4, 0x564F5944), (2, 1), (1, 1), (1, 0), (4, 128), (4, 0), (16, 9), (16, 10), (1, 0), (7, 2 ^ 56 - 1), (8, 0), (32, 0), (28, 0),
       (4, 3635478262)]

theorem witness_harness_release :
    let b := desc 0x20 [(1, 1), (31, 0), (16, 9)]
    (give (harnessed live) b).starts 0 (took b) loadFields ∧ byteAt b 8 = 1 ∧ zeroAt b 9 31 = true ∧
      harnessOf (give (harnessed live) b) 3 (fld b 40 16) = some (0, { ctx := 3, uid := 9, image := plainImage, pkg := none }) :=
  ⟨starts_of (by decide +kernel), by decide +kernel, by decide +kernel, by decide +kernel⟩

/-- A bind of harness 9 at bay 0 as group 1, with an empty binding table. -/
theorem witness_harness_bind :
    let b := desc 0x22 [(1, 0), (1, 0), (1, 0), (1, 1), (16, 9), (8, 0), (4, 128)]
    let s := { give (harnessed (served [])) b with time := { TimeBase.reset with loaded := true } }
    let tab := padTo 128 ([] : Bytes)
    s.starts 0 (took b) bindFields ∧ byteAt b 8 = 0 ∧ byteAt b 10 = 0 ∧ fld b 36 4 = 128 ∧ 128 = 128 + 16 * fld tab 0 4 ∧
      harnessOf s 3 (fld b 12 16) = some (0, { ctx := 3, uid := 9, image := plainImage, pkg := none }) ∧ mfresh s.insts 8 = some 0 ∧
      (bindCheck s 3 (byteAt b 9) (himgOf plainImage) (rolesOf tab) []).1 = stOk ∧
      groupStatus s 3 (byteAt b 11) { ctx := 3, uid := 9, image := plainImage, pkg := none } (slice tab 0 128)
        (bindCheck s 3 (byteAt b 9) (himgOf plainImage) (rolesOf tab) []).2.2 = stOk ∧ bindDiffers s 3 (byteAt b 11) 0 9 0 = false ∧
      s.time.loaded = true :=
  ⟨starts_of (by decide +kernel), by decide +kernel, by decide +kernel, by decide +kernel, by decide +kernel, by decide +kernel,
    by decide +kernel, by decide +kernel, by decide +kernel, by decide +kernel, rfl⟩

/-- Instance 0: harness 9 in bay 0, group 1 of context 3. -/
def inst : Inst :=
  { ctx := 3, uid := 9, group := 1, first := 0, bays := 1, wdog := 16, overlay := 0, parked := none, stalled := false, sw := none,
    unbind := none, bound := [], stepGen := 0, stepNo := 0, running := false, failed := none, startAt := 0, roles := [], parkRun := none,
    work := { passes := 0, micro := [] }, parkWork := { passes := 0, micro := [] }, table := 0 }

/-- That instance while its step runs. -/
def working : Inst := { inst with running := true }

/-- `s` with instance `i` bound, and overlay 10 of its harness registered. -/
def bound (s : State) (i : Inst) : State :=
  { harnessed s with insts := [(0, i)], overs := [(0, { ctx := 3, base := 9, uid := 10, image := plainOverlay, pkg := none })] }

theorem witness_harness_unbind :
    let b := desc 0x22 [(1, 1), (1, 0), (1, 0)]
    let s := give (bound (served []) inst) b
    s.starts 0 (took b) bindFields ∧ mget s.insts (byteAt b 10) = some inst ∧ inst.ctx = (took b).ctx ∧ inst.sw = none ∧ inst.unbind = none ∧
      s.saves.any (fun x => x.2.ctx == 3) = false :=
  ⟨starts_of (by decide +kernel), by decide +kernel, rfl, rfl, rfl, by decide +kernel⟩

/-- A switch of instance 0 to overlay 10 in state `st`. -/
def switching (st : SwState) (mode limit : Nat) : Switch :=
  { state := st, overlay := 10, mode := mode, fallback := 0, limit := limit, commit := 0, desc := 0, since := 0, applied := 0, stale := 0, discard := 0 }

theorem witness_overlay_switch :
    (∀ mode ∈ [0, 1, 2, 3],
      let b := desc 0x21 [(1, 1), (1, 0), (1, mode), (1, 0), (2, 0), (2, 0), (16, 10), (8, 0)]
      let s := give (bound (served []) inst) b
      s.starts 0 (took b) switchFields ∧ mget s.insts (byteAt b 9) = some inst ∧ byteAt b 10 = mode ∧ byteAt b 11 ≤ 2 ∧
        overlayOf s 3 (fld b 16 16) = some (0, { ctx := 3, base := 9, uid := 10, image := plainOverlay, pkg := none })) ∧
      inst.parked ≠ some 10 ∧ { inst with parked := some 10 }.parked = some 10 ∧
      { inst with sw := some (switching .staging 0 0) }.sw.isSome = true := by
  refine ⟨fun mode hm => ?_, by decide, by decide, by decide⟩
  simp only [List.mem_cons, List.not_mem_nil, or_false] at hm
  rcases hm with rfl | rfl | rfl | rfl <;>
    exact ⟨starts_of (by decide +kernel), by decide +kernel, by decide +kernel, by decide +kernel, by decide +kernel⟩

theorem witness_switch_events :
    (∀ w ∈ [switching .staging 0 0, switching .armed 1 0, switching .armed 0 0, switching .draining 0 0, switching .freezing 1 0,
        switching .parking 2 0, switching .applying 1 0], (mget (bound live { inst with sw := some w }).insts 0).bind (·.sw) = some w) ∧
      regionDrained (bound live { inst with sw := some (switching .draining 0 0) }) inst = true ∧
      (let w := switching .draining 0 4
       w.limit ≠ 0 ∧ w.commit + w.limit ≤ { TimeBase.reset with tread := 4 }.tread ∧ { inst with running := true }.running = true) ∧
      (let i : Inst := { inst with unbind := some { desc := 0, stale := 0, discard := 0 } }
       i.unbind.isSome = true ∧ unbindReady (bound live i) i = true) ∧
      (mget (madj (bound live inst).insts 0 fun i => { i with parked := some i.overlay }) 0).isSome = true := by decide +kernel

theorem witness_packages :
    (let b := desc 0x10 [(8, 0), (8, 4096), (4, 9), (8, inT3 4096)]
     let s := give (served []) b
     let data := cat [(4, 0x4B505944), (2, 1), (2, 0), (8, 4096)] ++ List.replicate 4080 0
     s.starts 0 (took b) [(8, 28)] ∧ gaModule (stageReq b).dst = s.net.index ∧ stageStatus s (took b) data = stOk ∧
       stageStatus s (took b) [] ≠ stOk) ∧
      (∀ n ∈ [0, 1], let b := desc 0x12 [(4, 5)]
       let p : Pkg := { ctx := 3, manifest := 0, objs := [{ obj := 9, entry := 0, kind := 1, digest := 0 }] }
       let s := { give (if n = 0 then served [(9, home 2 0 4096)] else windowed [(0, { window with cache := true })] (home 1 0 4096)) b with
         pkgs := [(5, p)] }
       s.starts 0 (took b) [(8, 4)] ∧ mget s.pkgs (fld b 8 4) = some p ∧ evictStatus s 3 5 = stOk ∧
         ((pkgLive s p).flatMap fun o => homeLines s o.2).length = n) ∧
      evictStatus { served [(9, { home 2 0 4096 with bound := 1 })] with
        pkgs := [(5, { ctx := 3, manifest := 0, objs := [{ obj := 9, entry := 0, kind := 1, digest := 0 }] })] } 3 5 ≠ stOk := by
  refine ⟨⟨starts_of (by decide +kernel), by decide +kernel, by decide +kernel, by decide +kernel⟩, fun n hn => ?_, by decide +kernel⟩
  simp only [List.mem_cons, List.not_mem_nil, or_false] at hn
  rcases hn with rfl | rfl <;>
    exact ⟨starts_of (by decide +kernel), by decide +kernel, by decide +kernel, by decide +kernel⟩

/-- The overlay registers where its digest is accepted (notes/assumptions/8.md). -/
theorem witness_overlay_register (hx : ∀ b, sha3 b = 0) :
    let b := desc 0x21 [(1, 0), (1, 0), (26, 0), (4, 128)]
    let s := give (harnessed (served [])) b
    s.starts 0 (took b) registerFields ∧ byteAt b 8 = 0 ∧ (imageSource s (took b) 3 plainOverlay).1 = stOk ∧
      harnessOf s 3 (fld (imageSource s (took b) 3 plainOverlay).2.1 0x10 16) = some (0, { ctx := 3, uid := 9, image := plainImage, pkg := none }) ∧
      overlayStatus (imageSource s (took b) 3 plainOverlay).2.1 (some (himgOf plainImage)) (imageSource s (took b) 3 plainOverlay).2.2.2 = stOk ∧
      overlayRegionsOk (himgOf plainImage) (patched (himgOf plainImage) (imageSource s (took b) 3 plainOverlay).2.1) = true ∧
      overlayOf s 3 (fld (imageSource s (took b) 3 plainOverlay).2.1 0x20 16) = none ∧ mfresh s.overs 4096 = some 0 := by
  refine ⟨starts_of (by decide +kernel), by decide +kernel, by decide +kernel, by decide +kernel, ?_, by decide +kernel, by decide +kernel,
    by decide +kernel⟩
  have e0 : imageSource (give (harnessed (served [])) (desc 0x21 [(1, 0), (1, 0), (26, 0), (4, 128)]))
      (took (desc 0x21 [(1, 0), (1, 0), (26, 0), (4, 128)])) 3 plainOverlay = (stOk, plainOverlay, none, none) := by decide +kernel
  have e1 : overlayHead plainOverlay = true := by decide +kernel
  have e2 : fld plainOverlay 0x40 32 = 0 := by decide +kernel
  have e3 : (!bayOrderOk plainOverlay (himgOf plainImage).bays || !overlayReserved plainOverlay (himgOf plainImage) ||
      !planOk (patched (himgOf plainImage) plainOverlay) || !checks6to10 (patched (himgOf plainImage) plainOverlay)) = false := by decide +kernel
  have e4 : check11 (patched (himgOf plainImage) plainOverlay) = true := by decide +kernel
  have e5 : overlayDigest plainOverlay = true := by simp [overlayDigest, e2, hx]
  simp only [Bool.or_eq_false_iff, Bool.not_eq_false'] at e3
  simp [e0, overlayStatus, e1, e5, e4, e3]

/-- A package of one entry of one unit, and a target table that places it in T3 of member 0. -/
def package : Bytes :=
  cat [(4, 0x4B505944), (2, 1), (1, 2), (1, 0), (8, 4096), (32, 0), (4, 1), (4, 0), (8, 0), (64, 0), (64, 0), (64, 0),
       (1, 1), (1, 0xFF), (6, 0), (8, 0), (8, 4096), (40, 0)] ++ List.replicate 3776 0

def targets : Bytes := cat [(4, 1), (12, 0), (4, 0), (4, 11), (8, 2 * 2 ^ 48 + 4096), (2, 1), (2, 0), (4, 4096), (8, 0)]

/-- PKG_ADMIT of a package staged at the other member. -/
def admitDesc : Bytes := desc 0x11 [(4, 9), (4, 1), (4, 9), (8, 0)]

/-- Member 0 of a slice of two, whose context 3 holds a content key in slot 1 and a signer in slot 2. -/
def admitting : State :=
  { give (inSlice (served [(9, farHome)])) admitDesc with
    ctxs := [(3, { ctx3 with slots := [(1, { kind := 1, key := 0 }), (2, { kind := 3, key := 0 })] })] }

/-- The package is admitted where hash, signature and tag are accepted (notes/assumptions/8.md). -/
theorem witness_admit (hx : ∀ b, sha3 b = 0) (hv : ∀ p m x, dsaVerify p m x = true) (hg : ∀ k i a c t, gcmOpen k i a c t = some []) :
    admitting.starts 0 (took admitDesc) [(8, 20)] ∧ plainHeld admitting = false ∧ dirGet admitting (fld admitDesc 8 4) = some farHome ∧
      moduleStatus admitting farHome.modIx = stOk ∧ (targetTable admitting (took admitDesc) targets).1 = stOk ∧
      farHome.modIx ≠ admitting.net.index ∧
      admitStatus admitting (took admitDesc) farHome (stagedBytes admitting farHome package)
        (targetTable admitting (took admitDesc) targets).2 package = stOk ∧
      admitStatus admitting (took admitDesc) farHome (stagedBytes admitting farHome []) (targetTable admitting (took admitDesc) targets).2 [] ≠ stOk := by
  refine ⟨starts_of (by decide +kernel), by decide +kernel, by decide +kernel, by decide +kernel, by decide +kernel, by decide +kernel, ?_,
    by decide +kernel⟩
  have e0 : stagedBytes admitting farHome package = package := by
    have h : package.length = 4096 := by decide +kernel
    have : stagedBytes admitting farHome package = package.take 4096 := rfl
    rw [this, List.take_of_length_le (by omega)]
  have e1 : (targetTable admitting (took admitDesc) targets).2 = targets := by decide +kernel
  have e2 : (!pkgForm package farHome.size || !targetsOk admitting (took admitDesc).ctx package targets) = false := by decide +kernel
  have e3 : stagedPoison admitting farHome package 0 (signedLen package + 3732) = false := by decide +kernel
  have e4 : mget (ctxOf admitting (took admitDesc).ctx).slots (byteAt package 6) = some { kind := 3, key := 0 } := by decide +kernel
  have e5 : mget (ctxOf admitting (took admitDesc).ctx).slots (fld (took admitDesc).bytes 12 4) = some { kind := 1, key := 0 } := by decide +kernel
  have e6 : (!targetsFit admitting (took admitDesc).ctx ((targetsOf targets).map (targetHome admitting (took admitDesc).ctx package))) = false := by decide +kernel
  have e7 : (((targetsOf targets).map (targetHome admitting (took admitDesc).ctx package)).any fun h => notReady admitting h.2) = false := by decide +kernel
  have e8 : (((targetsOf targets).map (targetHome admitting (took admitDesc).ctx package)).any fun h => decide (moduleStatus admitting h.2.modIx ≠ stOk)) = false := by
    decide +kernel
  have e9 : ((targetsOf targets).any fun x => let p := pkgEntry package (fld x 0 4); stagedPoison admitting farHome package (entryAt package p)
      (4096 * entryUnits p)) = false := by decide +kernel
  have ea : pkgAuth admitting (took admitDesc).ctx (fld (took admitDesc).bytes 12 4) package = true := by
    simp [pkgAuth, pkgCek, e4, e5, hx, hv, hg]
  rw [e0, e1]
  simp only [admitStatus, e2, e3, ea, e6, e7, e8, e9]
  rfl

/-! ### A whole harness image: 256 tiles that run no program -/

/-- The record of a tile that runs no program: its position, program block 0, every output queue unused, no scalar image. -/
def idleTile (i : Nat) : Bytes := cat [(2, i), (26, 0), (6, 2 ^ 48 - 1), (38, 0), (4, 0xFFFFFFFF), (52, 0)]

/-- Header, plan and a program section of one block that holds one instruction, NOP. -/
def idleHead : Bytes :=
  cat [(4, 0x4E485944), (2, 1), (2, 0x200), (4, 832 + 32768), (1, 0), (1, 0), (2, 16), (1, 1), (1, 0x10), (2, 3), (12, 0), (16, 9), (16, 0),
       (64, 0), (2, 2), (2, 0), (4, 768), (4, 64), (4, 1), (2, 9), (2, 0), (4, 512), (4, 194), (4, 1),
       (2, 1), (2, 0), (4, 832), (4, 32768), (4, 256), (208, 0), (124, 0), (4, 3309773016)] ++ onePlan ++ cat [(4, 1), (60, 0)]

def idleTiles : Bytes := ((List.range 256).map idleTile).flatten

def idleImage : Bytes := idleHead ++ idleTiles

theorem slice_left {a b : Bytes} {o n : Nat} (h : o + n ≤ a.length) : slice (a ++ b) o n = slice a o n := by
  unfold slice
  rw [List.drop_append_of_le_length (by omega), List.take_append_of_le_length (by rw [List.length_drop]; omega)]

theorem drop_pieces {k : Nat} (l : List Bytes) (h : ∀ r ∈ l, r.length = k) (i : Nat) : l.flatten.drop (k * i) = (l.drop i).flatten := by
  induction i generalizing l with
  | zero => simp
  | succ i ih =>
    cases l with
    | nil => simp
    | cons r l =>
      have hr : r.length = k := h r (by simp)
      rw [List.flatten_cons, Nat.mul_succ, Nat.add_comm, ← List.drop_drop, ← hr, List.drop_left, hr, ih l fun x hx => h x (by simp [hx])]
      rfl

/-- A section of records of one length is read back record by record. -/
theorem recsOf_pieces {k : Nat} (l : List Bytes) (h : ∀ r ∈ l, r.length = k) : recsOf l.flatten k 0 l.length = l := by
  refine List.ext_getElem (by simp [recsOf]) fun i h1 h2 => ?_
  have hk := h l[i] (List.getElem_mem h2)
  have hd := drop_pieces l h i
  rw [List.drop_eq_getElem_cons h2, List.flatten_cons] at hd
  simp [recsOf, slice, hd, List.take_left' hk]

theorem length_pieces {k : Nat} (l : List Bytes) (h : ∀ r ∈ l, r.length = k) : l.flatten.length = l.length * k := by
  induction l with
  | nil => simp
  | cons r l ih =>
    rw [List.flatten_cons, List.length_append, ih fun x hx => h x (by simp [hx]), h r (by simp), List.length_cons, Nat.succ_mul, Nat.add_comm]

theorem idleHead_length : idleHead.length = 832 := by decide +kernel
theorem idleTile_length : ∀ r ∈ (List.range 256).map idleTile, r.length = 128 := by decide +kernel
theorem idleTiles_length : idleTiles.length = 32768 := by
  rw [idleTiles, length_pieces _ idleTile_length, List.length_map, List.length_range]
theorem idleImage_length : idleImage.length = 33600 := by
  simp [idleImage, idleHead_length, idleTiles_length]

theorem idle_slice {o n : Nat} (h : o + n ≤ 832) : slice idleImage o n = slice idleHead o n :=
  slice_left (by rw [idleHead_length]; exact h)
theorem idle_fld {o n : Nat} (h : o + n ≤ 832) : fld idleImage o n = fld idleHead o n := by
  unfold fld; rw [idle_slice h]
theorem idle_byte {o : Nat} (h : o + 1 ≤ 832) : byteAt idleImage o = byteAt idleHead o := idle_fld h
theorem idle_zero {o n : Nat} (h : o + n ≤ 832) : zeroAt idleImage o n = zeroAt idleHead o n := by
  unfold zeroAt; rw [idle_slice h]

theorem idle_tables : fld idleImage 0x12 2 = 3 := by rw [idle_fld (by decide)]; decide +kernel

theorem idle_tableAt (ty : Nat) : tableAt idleImage ty = tableAt idleHead ty := by
  have h3 : fld idleHead 0x12 2 = 3 := by decide +kernel
  have f0 := idle_fld (o := 0x80 + 16 * 0) (n := 2) (by decide)
  have f1 := idle_fld (o := 0x80 + 16 * 1) (n := 2) (by decide)
  have f2 := idle_fld (o := 0x80 + 16 * 2) (n := 2) (by decide)
  have g (i : Nat) (h : i < 3) : (fld idleImage (0x84 + 16 * i) 4, fld idleImage (0x88 + 16 * i) 4, fld idleImage (0x8C + 16 * i) 4) =
      (fld idleHead (0x84 + 16 * i) 4, fld idleHead (0x88 + 16 * i) 4, fld idleHead (0x8C + 16 * i) 4) := by
    rw [idle_fld (by omega), idle_fld (by omega), idle_fld (by omega)]
  simp only [tableAt, idle_tables, h3, show List.range 3 = [0, 1, 2] from rfl, List.find?, f0, f1, f2]
  cases (fld idleHead (0x80 + 16 * 0) 2 == ty) <;> cases (fld idleHead (0x80 + 16 * 1) 2 == ty) <;>
    cases (fld idleHead (0x80 + 16 * 2) 2 == ty) <;> simp only [Option.map_some, Option.map_none, g 0 (by decide), g 1 (by decide), g 2 (by decide)]

theorem idle_tiles : sectionOf idleImage 1 = (idleTiles, 256) := by
  have h : tableAt idleHead 1 = some (832, 32768, 256) := by decide +kernel
  have : slice idleImage 832 32768 = idleTiles := by
    have e : idleImage = idleHead ++ idleTiles := rfl
    rw [slice, e, show 832 = idleHead.length from idleHead_length.symm, List.drop_left,
      List.take_of_length_le (Nat.le_of_eq idleTiles_length)]
  simp only [sectionOf, idle_tableAt, h, this]

theorem idle_section {ty : Nat} (x : Option (Nat × Nat × Nat)) (h : tableAt idleHead ty = x) (hx : ∀ y ∈ x, y.1 + y.2.1 ≤ 832) :
    sectionOf idleImage ty = sectionOf idleHead ty := by
  simp only [sectionOf, idle_tableAt, h]
  cases x with
  | none => rfl
  | some y => simp [idle_slice (hx y rfl)]

theorem idle_sections : ∀ ty ∈ [2, 3, 4, 5, 6, 7, 8, 9], sectionOf idleImage ty = sectionOf idleHead ty := by
  intro ty h
  simp only [List.mem_cons, List.not_mem_nil, or_false] at h
  rcases h with rfl | rfl | rfl | rfl | rfl | rfl | rfl | rfl <;>
    exact idle_section _ rfl (by decide +kernel)

theorem idle_recs : recsOf idleTiles 128 0 256 = (List.range 256).map idleTile := by
  have := recsOf_pieces _ idleTile_length
  rwa [List.length_map, List.length_range] at this

/-- One such tile as its record configures it. -/
def idleTileImg : TileImg :=
  { prog := [0], segs := List.replicate 5 (0, 0), outSrc := List.replicate 12 15, lcInit := List.replicate 8 0, fInit := 0,
    sInit := List.replicate 32 0, rings := [], maps := [], inits := [] }

/-- The harness that the image describes. -/
def idleHarness : HImg :=
  { bays := 1, wdog := 16, red := 0, tiles := List.replicate 256 idleTileImg, reconv := [], binds := [], plan := slice idleHead 512 194 }

theorem idle_himg : himgOf idleImage = idleHarness := by
  have hs := idle_sections
  have e (b r) : tileImg idleImage b r = tileImg idleHead b r := by
    simp only [tileImg, hs 3 (by decide), hs 4 (by decide), hs 5 (by decide), hs 6 (by decide)]
  have e2 : ((List.range 256).map idleTile).map (tileImg idleHead (blocksOf (sectionOf idleHead 2).1 (sectionOf idleHead 2).2)) =
      List.replicate 256 idleTileImg := by decide +kernel
  have e7 : (reconvsOf (sectionOf idleHead 7).1 (sectionOf idleHead 7).2).map (·.2) = [] := by decide +kernel
  have e8 : recsOf (sectionOf idleHead 8).1 32 0 (sectionOf idleHead 8).2 = [] := by decide +kernel
  have e9 : (sectionOf idleHead 9).1 = slice idleHead 512 194 := by decide +kernel
  have b1 : byteAt idleImage 0x10 = 1 := by rw [idle_byte (by decide)]; decide +kernel
  have b2 : fld idleImage 0xE 2 = 16 := by rw [idle_fld (by decide)]; decide +kernel
  have b3 : byteAt idleImage 0xD = 0 := by rw [idle_byte (by decide)]; decide +kernel
  simp only [himgOf, idle_tiles, idle_recs, hs 2 (by decide), hs 7 (by decide), hs 8 (by decide), hs 9 (by decide), e7, e8, e9, b1, b2, b3,
    funext (e _), e2, List.map_nil, idleHarness]

theorem zipIdx_copies {α : Type} (a : α) (n : Nat) (p : α × Nat → Bool) (h : ∀ i < n, p (a, i) = true) :
    (List.replicate n a).zipIdx.all p = true := by
  rw [List.all_eq_true]
  intro x hx
  obtain ⟨i, hi, rfl⟩ := List.mem_iff_getElem.1 hx
  simp only [List.length_zipIdx, List.length_replicate] at hi
  simpa using h i hi

theorem idle_harness_ok :
    planOk idleHarness = true ∧ checks6to10 idleHarness = true ∧ check11 idleHarness = true := by
  have h : ((List.range 256).all fun r => check6 1 r idleTileImg && check7 idleTileImg && (idleHarness.red != 0 || check8 idleTileImg)) = true := by decide +kernel
  have h2 : (idleHarness.tiles.zipIdx.all fun x => check6 idleHarness.bays x.2 x.1 && check7 x.1 && (idleHarness.red != 0 || check8 x.1)) = true := by
    rw [List.all_eq_true] at h
    exact zipIdx_copies _ _ _ fun i hi => h i (List.mem_range.2 hi)
  refine ⟨by decide +kernel, ?_, by decide +kernel⟩
  simp only [checks6to10, h2]
  decide +kernel

/-- The CRC of the header, 128 bytes at a time. -/
theorem idle_crc : fld idleHead 0x1FC 4 = crc32 (putBytes (slice idleHead 0 512) 0x1FC [0, 0, 0, 0]) := by
  have e : putBytes (slice idleHead 0 512) 0x1FC [0, 0, 0, 0] =
      slice idleHead 0 128 ++ (slice idleHead 128 128 ++ (slice idleHead 256 128 ++ (slice idleHead 384 124 ++ [0, 0, 0, 0]))) := by
    decide +kernel
  have c1 : (slice idleHead 0 128).foldl crcByte 0xFFFFFFFF = 53734737 := by decide +kernel
  have c2 : (slice idleHead 128 128).foldl crcByte 53734737 = 4019589288 := by decide +kernel
  have c3 : (slice idleHead 256 128).foldl crcByte 4019589288 = 3720852185 := by decide +kernel
  rw [e, crc32, List.foldl_append, c1, List.foldl_append, c2, List.foldl_append, c3]
  decide +kernel

theorem idle_check1 : check1 idleImage = true := by
  have h : (fld idleHead 0 4 == 0x4E485944 && fld idleHead 4 2 == 1 && fld idleHead 6 2 == 0x200 && decide (byteAt idleHead 0xC ≤ steppingA1)) = true := by
    decide +kernel
  simp only [Bool.and_eq_true] at h
  simp only [check1, idle_fld (o := 0) (n := 4) (by decide), idle_fld (o := 4) (n := 2) (by decide), idle_fld (o := 6) (n := 2) (by decide),
    idle_fld (o := 0x1FC) (n := 4) (by decide), idle_byte (o := 0xC) (by decide), idle_slice (o := 0) (n := 512) (by decide), idleImage_length,
    idle_crc, h, BEq.rfl]
  decide

theorem idle_check3 : check3 idleImage = true := by
  have h : fld idleHead 8 4 = 33600 := by decide +kernel
  have e (i : Nat) (hi : i < 3) : (let o := fld idleImage (0x84 + 16 * i) 4
      let ty := fld idleImage (0x80 + 16 * i) 2
      decide (1 ≤ ty ∧ ty ≤ 10) && o % 64 == 0 && decide (512 ≤ o) && decide (o + fld idleImage (0x88 + 16 * i) 4 ≤ 33600)) = true := by
    rw [idle_fld (by omega), idle_fld (by omega), idle_fld (by omega)]
    have : i = 0 ∨ i = 1 ∨ i = 2 := by omega
    rcases this with rfl | rfl | rfl <;> decide +kernel
  have b : (decide (1 ≤ byteAt idleHead 0x10 ∧ byteAt idleHead 0x10 ≤ 8) &&
    decide (byteAt idleHead 0x11 % 16 ≤ 3 ∧ 1 ≤ byteAt idleHead 0x11 / 16 ∧ byteAt idleHead 0x11 / 16 ≤ 4) && decide (16 ≤ fld idleHead 0xE 2)) = true := by
    decide +kernel
  simp only [Bool.and_eq_true] at b
  simp only [check3, idle_tables, idle_fld (o := 8) (n := 4) (by decide), h, idleImage_length, idle_byte (o := 0x10) (by decide),
    idle_byte (o := 0x11) (by decide), idle_fld (o := 0xE) (n := 2) (by decide), b.1.1, b.1.2, b.2, show List.range 3 = [0, 1, 2] from rfl,
    List.all_cons, List.all_nil, e 0 (by decide), e 1 (by decide), e 2 (by decide)]
  decide

theorem idle_check4 : check4 idleImage = true := by
  have b0 : byteAt idleImage 0x10 = 1 := by rw [idle_byte (by decide)]; decide +kernel
  have b1 : byteAt idleImage 0xD = 0 := by rw [idle_byte (by decide)]; decide +kernel
  have t (ty : Nat) (h : ty ∈ [1, 2, 9, 10]) : (tableAt idleHead ty).isSome = decide (ty ≠ 10) := by
    simp only [List.mem_cons, List.not_mem_nil, or_false] at h
    rcases h with rfl | rfl | rfl | rfl <;> decide +kernel
  have s (ty : Nat) (h : ty ∈ [3, 4, 5, 6, 8]) : decide ((sectionOf idleImage ty).2 * recSize ty ≤ (sectionOf idleImage ty).1.length) = true := by
    rw [idle_sections ty (by simp only [List.mem_cons, List.not_mem_nil, or_false] at h ⊢; omega)]
    simp only [List.mem_cons, List.not_mem_nil, or_false] at h
    rcases h with rfl | rfl | rfl | rfl | rfl <;> decide +kernel
  have s3 := s 3 (by decide)
  have s4 := s 4 (by decide)
  have s5 := s 5 (by decide)
  have s6 := s 6 (by decide)
  have s8 := s 8 (by decide)
  simp only [recSize] at s3 s4 s5 s6 s8
  simp only [check4, List.all_cons, List.all_nil, idle_tableAt, idle_tiles, b0, b1, t 1 (by decide), t 2 (by decide), t 9 (by decide),
    t 10 (by decide), s3, s4, s5, s6, s8, idleTiles_length, recSize]
  decide

theorem idle_check5 : check5 idleImage = true := by
  have hs := idle_sections
  have h : (decide (byteAt idleHead 0xD ≤ 1) && zeroAt idleHead 0x14 12 && zeroAt idleHead 0x60 32 && zeroAt idleHead 0x180 124 &&
    (zeroAt idleHead (0x82 + 16 * 0) 2 && (zeroAt idleHead (0x82 + 16 * 1) 2 && (zeroAt idleHead (0x82 + 16 * 2) 2 && true))) &&
    zeroAt idleHead (0x80 + 16 * 3) (16 * (16 - 3))) = true := by decide +kernel
  have r : (((List.range 256).map idleTile).all fun r => [(2, 2), (34, 2), (94, 34)].all fun f => zeroAt r f.1 f.2) = true := by
    decide +kernel
  have o : (((List.range 256).map idleTile).all fun r => (outSrcOf (slice r 28 6)).all fun c => decide (c ≤ 4) || c == 15) = true := by
    decide +kernel
  have z (ty size : Nat) (fs : List (Nat × Nat)) (ht : ty ∈ [4, 5, 6, 8]) : ((recsOf (sectionOf idleImage ty).1 size 0 (sectionOf idleImage ty).2).all
      fun r => fs.all fun f => zeroAt r f.1 f.2) = true := by
    rw [hs ty (by simp only [List.mem_cons, List.not_mem_nil, or_false] at ht ⊢; omega)]
    have : (sectionOf idleHead ty).2 = 0 := by
      simp only [List.mem_cons, List.not_mem_nil, or_false] at ht
      rcases ht with rfl | rfl | rfl | rfl <;> decide +kernel
    rw [this]; rfl
  have z4 := z 4 16 [(3, 1), (10, 6)] (by decide)
  have z5 := z 5 16 [(12, 4)] (by decide)
  have z6 := z 6 16 [(2, 2)] (by decide)
  have z8 := z 8 32 [(3, 1), (6, 2), (24, 8)] (by decide)
  simp only [List.all_cons, List.all_nil] at r z4 z5 z6 z8
  have q : ((reconvsOf (sectionOf idleHead 7).1 (sectionOf idleHead 7).2).all (fun r => zeroAt r.1 16 16) &&
    (blocksOf (sectionOf idleHead 2).1 (sectionOf idleHead 2).2).all (fun b => zeroAt b.1 4 28 && decide (1 ≤ b.2.length ∧ b.2.length ≤ 1024) &&
      b.2.all instrReserved)) = true := by decide +kernel
  simp only [Bool.and_eq_true] at h q
  simp only [check5, idle_tables, idle_byte (o := 0xD) (by decide), idle_zero (o := 0x14) (n := 12) (by decide),
    idle_zero (o := 0x60) (n := 32) (by decide), idle_zero (o := 0x180) (n := 124) (by decide), show List.range 3 = [0, 1, 2] from rfl,
    List.all_cons, List.all_nil, idle_zero (o := 0x82 + 16 * 0) (n := 2) (by decide), idle_zero (o := 0x82 + 16 * 1) (n := 2) (by decide),
    idle_zero (o := 0x82 + 16 * 2) (n := 2) (by decide), idle_zero (o := 0x80 + 16 * 3) (n := 16 * (16 - 3)) (by decide), h, idle_tiles,
    idle_recs, r, z4, z5, z6, z8, hs 2 (by decide), hs 7 (by decide), q, o]
  decide

theorem idle_layout : imgLayoutOk idleImage = true := by
  have hs := idle_sections
  have r (i : Nat) (r : Bytes) : refsOk idleImage i r = refsOk idleHead i r := by
    simp only [refsOk, hs 2 (by decide), hs 3 (by decide), hs 4 (by decide), hs 5 (by decide), hs 6 (by decide)]
  have q : ((((List.range 256).map idleTile).zipIdx.all fun x => refsOk idleHead x.2 x.1) &&
      decide (((blocksOf (sectionOf idleHead 2).1 (sectionOf idleHead 2).2).map fun b => 32 + 32 * b.2.length).sum ≤ (sectionOf idleHead 2).1.length) &&
      decide (((reconvsOf (sectionOf idleHead 7).1 (sectionOf idleHead 7).2).map fun x => 32 + 4 * (x.2.short.length + x.2.long.length)).sum ≤
        (sectionOf idleHead 7).1.length)) = true := by decide +kernel
  simpa only [imgLayoutOk, idle_tiles, idle_recs, hs 2 (by decide), hs 7 (by decide), r] using q

/-- The image is registered where its digest is accepted (notes/assumptions/8.md), and found again once registered; a context without an
allocation has no room for it. -/
theorem witness_harness_load (hx : ∀ b, sha3 b = 0) :
    let b := desc 0x20 [(1, 0), (1, 0), (26, 0), (4, 33600), (16, 0)]
    (∀ s ∈ [give (served []) b, give (harnessed (served [])) b, give live b], s.starts 0 (took b) loadFields) ∧ byteAt b 8 = 0 ∧
      zeroAt b 40 16 = true ∧ imageSource (give (served []) b) (took b) 2 idleImage = (stOk, idleImage, none, none) ∧
      imageStatus idleImage none = stOk ∧ harnessOf (give (served []) b) 3 (fld idleImage 0x20 16) = none ∧
      (harnessOf (give (harnessed (served [])) b) 3 (fld idleImage 0x20 16)).isSome = true ∧ mfresh (give (served []) b).harn 512 = some 0 ∧
      allocFits (give (served []) b) 3 2 (fld idleImage 8 4) 0 = true ∧ allocFits (give live b) 3 2 (fld idleImage 8 4) 0 = false := by
  have e8 : fld idleImage 8 4 = 33600 := by rw [idle_fld (by decide)]; decide +kernel
  have e20 : fld idleImage 0x20 16 = 9 := by rw [idle_fld (by decide)]; decide +kernel
  have e40 : fld idleImage 0x40 32 = 0 := by rw [idle_fld (by decide)]; decide +kernel
  have c2 : check2 idleImage = true := by simp [check2, e40, hx]
  refine ⟨fun s hs => ?_, by decide +kernel, by decide +kernel, ?_, ?_, by rw [e20]; decide +kernel, by rw [e20]; decide +kernel,
    by decide +kernel, by rw [e8]; decide +kernel, by rw [e8]; decide +kernel⟩
  · simp only [List.mem_cons, List.not_mem_nil, or_false] at hs
    rcases hs with rfl | rfl | rfl <;> exact starts_of (by decide +kernel)
  · have h0 : byteAt (took (desc 0x20 [(1, 0), (1, 0), (26, 0), (4, 33600), (16, 0)])).bytes 9 = 0 := by decide +kernel
    have h36 : fld (took (desc 0x20 [(1, 0), (1, 0), (26, 0), (4, 33600), (16, 0)])).bytes 36 4 = 33600 := by decide +kernel
    simp only [imageSource, h0, h36, if_pos, List.take_of_length_le (Nat.le_of_eq idleImage_length)]
  · simp [imageStatus, idle_check1, c2, idle_check3, idle_check4, idle_check5, idle_layout, idle_himg, idle_harness_ok]

/-! ### Requests, adapters, graphs, pre-emption, telemetry -/

/-- Group 1 of context 3, led by this module, with no request. -/
def group : Group :=
  { ctx := 3, num := 1, model := 0, kv := [], layout := 0, pools := [], chunkMax := 1024, lead := 0x1FFF, early := 0, hold := 16, base := 0,
    perToken := 0, decOv := 0, preOv := 0, bar := 0, reqs := [], stepNo := 0, gen := 0, chunk := 64, plan := none, run := none, startAt := 0,
    release := none, bare := none, perSum := 0, perCnt := 0, flights := [], movedAt := 0, freed := [], owed := false,
    pre := [] }

/-- A request of instance 0 in state `st`. -/
def request (st : ReqState) : Req :=
  { state := st, params := [], admitter := 0x1FFF, inst := 0, left := [], toks := [], share := 0, len := 0, pend := none, counts := [],
    maxNew := 1, kept := 0, ttftAt := none, tbtAt := none, tokened := false, admitAt := 0, openAt := 0, adapter := none, pages := [], drops := 0,
    status := 0, cancels := [], closer := none, lastIn := 0, lost := false, got := 0 }

/-- A module that serves `g` with instance `i`. -/
def serving (g : Group) (i : Inst) : State := { bound (served []) i with groups := [(groupKey 3 1, g)] }

/-- Request parameters: MAX_NEW 1, TOP_P and REP_PENALTY 1.0, a first-token target. -/
def params (ttft : Nat) : Bytes := cat [(20, 0), (4, ttft), (4, 0), (4, 1), (16, 0), (4, 0x3F800000), (4, 0x3F800000), (72, 0)]

def openDesc : Bytes := desc 0x30 [(1, 1), (23, 0), (4, 1)]

/-- A request of one token opens where overlays support its output (notes/assumptions/29.md); a context without an allocation is refused. -/
theorem witness_open (ho : ∀ m o k, outputSupported m o k = true) :
    (give (serving group inst) openDesc).starts 0 (took openDesc) openFields ∧
      mget (give (serving group inst) openDesc).groups (groupKey 3 (byteAt openDesc 8)) = some group ∧ group.lead = live.net.index ∧
      fld openDesc 32 4 = 1 ∧ openStatus (give (serving group inst) openDesc) group (took openDesc) (params 0) 1 = stOk ∧
      fld (params 0) 8 4 = 0 ∧ leadStatus (give (serving group inst) openDesc) group (params 0) 1 0 = stOk ∧
      (readPrompt (give (serving group inst) openDesc) 3 false 1 [0, 0, 0, 0]).1 = stOk ∧
      leadStatus { give (serving group inst) openDesc with ctxs := [] } group (params 0) 1 0 = eCapacity := by
  refine ⟨starts_of (by decide +kernel), by decide +kernel, rfl, by decide +kernel, ?_, by decide +kernel, by decide +kernel,
    by decide +kernel, by decide +kernel⟩
  have e0 : (promptInst (give (serving group inst) openDesc) group).bind (mget (give (serving group inst) openDesc).insts) = some inst := by
    decide +kernel
  have e1 : (!paramsOk (params 0) 1 || !outOk (give (serving group inst) openDesc) group (params 0) ||
      ((took openDesc).sealedFlag && byteAt (params 0) 0 != 0)) = false := by decide +kernel
  have e2 : ¬((fld (params 0) 8 4 ≠ 0 ∧ (namedVersion (give (serving group inst) openDesc) group.ctx (fld (params 0) 8 4)
      (fld (params 0) 12 4)).isNone) ∨ !setAllowed (((instImg (give (serving group inst) openDesc) inst).regions 0x0101).map (·.2))
        (fld (params 0) 16 2)) := by decide +kernel
  have e3 : ¬((shapeOf (instImg (give (serving group inst) openDesc) inst).plan).maxSeq < 1 ∨
      (shapeOf (instImg (give (serving group inst) openDesc) inst).plan).maxPages < pagesFor 1) := by decide +kernel
  simp only [Bool.or_eq_false_iff, Bool.not_eq_false'] at e1
  simp only [openStatus, e0, e1, ho, if_neg e2, if_neg e3]
  rfl

theorem witness_append :
    let b := desc 0x31 [(4, 65536), (4, 0), (8, 0), (4, 1), (4, 1)]
    let g : Group := { group with reqs := [(0, { request .held with len := 0 })] }
    let s := give (serving g inst) b
    s.starts 0 (took b) appendFields ∧ groupOfRid s 3 (fld b 8 4) = some (g, 0) ∧ g.lead = s.net.index ∧ g.req? 0 = some (request .held) ∧
      (took b).origin = none ∧ ((mget s.admits (admitKey 3 (g.rid 0))).bind (·.sealing)).isSome = (took b).sealedFlag ∧
      appendStatus s g (request .held) 1 1 = stOk ∧ appendStatus s g (request .decode) 1 1 ≠ stOk ∧ (readAppend none false 1 [0, 0, 0, 0]).1 = stOk :=
  ⟨starts_of (by decide +kernel), by decide +kernel⟩

theorem witness_cancel_close :
    (∀ x ∈ [(0x32, ReqState.ended, false), (0x32, .decode, true), (0x32, .decode, false), (0x33, .held, true), (0x33, .ended, false)],
      let b := desc x.1 [(4, 65536)]
      let g : Group := { group with reqs := [(0, request x.2.1)] }
      let s := give (serving g { inst with running := x.2.2 }) b
      (decide (mget s.taken 0 = some (took b)) && mayStart s 0 (took b) && coresRun s && decide (headStatus s (took b) ridFields = stOk) &&
        decide (groupOfRid s 3 (fld b 8 4) = some (g, 0)) && decide (g.req? 0 = some (request x.2.1)) &&
        (stepRuns (holdDesc s 0) (request x.2.1) == x.2.2)) = true) ∧
      (request .ended).live = false ∧ (request .decode).live = true ∧ groupOfRid live 3 65536 = none := by decide +kernel

theorem witness_slice_open : group.lead = 0x1FFF ∧ live.flt.sliceStopped = false := by decide

/-- An adapter image for a slice of two members, with no projection. -/
def adapterImage : Bytes :=
  cat [(4, 0x44415944), (2, 1), (1, 3), (1, 2), (2, 8), (2, 8), (4, 0), (4, 7), (4, 1), (4, 0), (4, 0), (16, 0), (32, 0), (44, 0), (4, 674321748),
       (8, 160), (8, 1), (8, 161), (8, 1), (2, 0)]

/-- An ADAPTER_LOAD of the image at the other member, accepted where its digest is (notes/assumptions/8.md), and refused. -/
theorem witness_adapter_load (hx : ∀ b, sha3 b = 0) :
    let b := desc 0x40 [(1, 1), (1, 2), (2, 0), (4, 9), (8, 0)]
    let s := give { inSlice (bound (served [(9, farHome)]) inst) with groups := [(groupKey 3 1, group)] } b
    s.starts 0 (took b) adLoadFields ∧ byteAt b 9 = 2 ∧ mhas s.groups (groupKey 3 (byteAt b 8)) = true ∧
      adImage s (took b) adapterImage = (stOk, adapterImage, s) ∧ adStatus s 3 adapterImage = stOk ∧ adStatus s 3 [] ≠ stOk ∧
      (adImage (give live b) (took b) []).1 ≠ stOk ∧ { took b with origin := some 1 }.origin = some 1 := by
  refine ⟨starts_of (by decide +kernel), by decide +kernel, by decide +kernel, rfl, ?_, by decide +kernel, by decide +kernel, rfl⟩
  have e1 : adHeadOk adapterImage = true := by decide +kernel
  have e2 : adDigestOk adapterImage = true := by
    have : fld adapterImage 0x30 32 = 0 := by decide +kernel
    simp [adDigestOk, this, hx]
  have e3 : (!adModelOk (give { inSlice (bound (served [(9, farHome)]) inst) with groups := [(groupKey 3 1, group)] }
        (desc 0x40 [(1, 1), (1, 2), (2, 0), (4, 9), (8, 0)])) 3 adapterImage ||
      !adNewer (give { inSlice (bound (served [(9, farHome)]) inst) with groups := [(groupKey 3 1, group)] }
        (desc 0x40 [(1, 1), (1, 2), (2, 0), (4, 9), (8, 0)])) adapterImage) = false := by decide +kernel
  simp only [Bool.or_eq_false_iff, Bool.not_eq_false'] at e3
  simp only [adStatus, e1, e2, e3]
  rfl

/-- A READY version of adapter 7 that this module owns. -/
def version (state refs : Nat) : AdVer :=
  { ctx := 3, id := 7, version := 1, owner := 0x1FFF, state := state, refs := refs, homes := [(0x1FFF, 9)], wait := [], desc := 0, failed := 0, head := [] }

theorem witness_adapter_retire :
    (∀ x ∈ [(0, 0), (1, 0), (1, 1)],
      let b := desc 0x41 [(4, 7), (4, 1)]
      let s := { give (serving group inst) b with adapters := [(0, version x.1 x.2)] }
      (decide (mget s.taken 0 = some (took b)) && mayStart s 0 (took b) && coresRun s && decide (headStatus s (took b) adRetireFields = stOk) &&
        decide (versionOf s 3 (fld b 8 4) (fld b 12 4) = some (0, version x.1 x.2))) = true) ∧ (version 1 0).owner = live.net.index := by
  decide +kernel

/-- A RUN_GRAPH of one operation of no problems. -/
theorem witness_run_graph :
    let b := desc 0x50 [(1, 0), (3, 0), (4, 9), (8, 0), (8, 5)]
    let s := give { serving group inst with mem := { (served [(9, home 2 0 4096)]).mem with t3 := [(0, 1)] } } b
    s.starts 0 (took b) graphFields ∧ mget s.insts (byteAt b 8) = some inst ∧ inst.stalled = false ∧ inst.unbind = none ∧
      tableStatus s 3 (handleAt b 12) 128 = stOk ∧ 128 * (instShape s inst).ops.length = 128 ∧
      graphStatus s 3 (instShape s inst) (tableBytes s (handleAt b 12) 128 [])
        (graphTables s (instShape s inst) (tableBytes s (handleAt b 12) 128 []) []) = stOk ∧
      graphStatus s 3 (instShape s inst) [] [] ≠ stOk :=
  ⟨starts_of (by decide +kernel), by decide +kernel⟩

/-- CTX_SAVE of context 3 into object 9. -/
def saveDesc : Bytes := desc 0x90 [(1, 0), (3, 0), (4, 9), (8, 0), (8, 5)]

theorem witness_save :
    (let s := give (served [(9, home 2 0 4096)]) saveDesc
     s.starts 0 (took saveDesc) saveFields ∧ dirGet s (handleAt saveDesc 12).1 = some (home 2 0 4096) ∧ ctxInsts s 3 = [] ∧
       moduleStatus s (home 2 0 4096).modIx = stOk) ∧
      (let s := give (bound (served [(9, home 2 0 4096)]) inst) saveDesc
       s.starts 0 (took saveDesc) saveFields ∧ ctxInsts s 3 = [(0, inst)] ∧ inst.unbind.isSome = false ∧ ∀ cc, 4096 < areaSize inst cc) := by
  refine ⟨⟨starts_of (by decide +kernel), by decide +kernel⟩, starts_of (by decide +kernel), by decide +kernel, rfl, fun cc => ?_⟩
  simp only [areaSize, inst]
  omega

theorem witness_save_events :
    let v : Save := { ctx := 3, obj := 9, off := 0, freeze := 5, unbind := false, frozen := false, writing := false, lost := false, poison := false,
                      msgs := [], base := [], cc := [] }
    let s := { give (served [(9, home 2 0 4096)]) saveDesc with saves := [(0, v)], time := { TimeBase.reset with tread := 5 } }
    mget s.saves 0 = some v ∧ v.freeze ≤ s.time.tread ∧ ((ctxInsts s 3).any fun i => i.2.sw.isSome) = false ∧
      (v.msgs.any fun m => mhas s.net.msgs m) = false ∧ dirGet s v.obj = some (home 2 0 4096) := by decide +kernel

theorem witness_restore :
    (∀ s ∈ [served [(9, home 2 0 4096)], inSlice (served [(9, farHome)])],
      let b := desc 0x91 [(4, 0), (4, 9), (8, 0), (16, 0)]
      (give s b).starts 0 (took b) restoreFields ∧ (dirGet (give s b) (handleAt b 12).1).any (fun e => e.ctx == 3 && !e.absent) = true) ∧
      (let r : Restore := { ctx := 3, insts := [0], resume := 5 }
       let s := { live with rests := [(0, r)], time := { TimeBase.reset with tread := 5 } }
       mget s.rests 0 = some r ∧ r.resume ≤ s.time.tread ∧ s.flt.sliceStopped = false ∧ s.net.closing = false) := by
  refine ⟨fun s hs => ?_, by decide +kernel⟩
  simp only [List.mem_cons, List.not_mem_nil, or_false] at hs
  rcases hs with rfl | rfl <;> exact ⟨starts_of (by decide +kernel), by decide +kernel⟩

theorem witness_telemetry :
    (let b := desc 0xA0 [(8, 0), (4, 64), (4, 1023), (8, 5)]
     (give live b).starts 0 (took b) [(8, 8), (16, 4), (20, 4), (24, 8)] ∧ fld b 20 4 < 2 ^ 10 ∧ 2 ^ 10 ≤ fld (desc 0xA0 [(8, 0), (4, 64), (4, 1024)]) 20 4) ∧
      (let b := desc 0xA0 [(8, 0), (4, 64), (4, 0), (8, 5)]
       let s := { give live b with snaps := [(0, 5)], time := { TimeBase.reset with ticks := 5 } }
       mget s.snaps 0 = some 5 ∧ 5 ≤ s.time.ticks ∧ coresRun s = true ∧ (snapBytes s 3 0).length = 64 ∧ fld b 16 4 = 64) :=
  ⟨⟨starts_of (by decide +kernel), by decide +kernel⟩, by decide +kernel⟩

/-! ### Sync objects -/

/-- A sync object of context 3 with virtual ID 5. -/
def object (kind value limit : Nat) : SyncObj :=
  { kind := kind, domain := 3, ctx := 3, vid := 5, users := [], decl := [], value := value, limit := limit, curGen := 0, baseGen := 0,
    finished := [], members := [], timed := false, riser := false, waves := 0, span := 0, lead := 0, period := 0, timeout := 0, skewLimit := 0,
    base := none, oldest := 0, gens := [], waiters := [], parent := none }

/-- `s` with physical object 7. -/
def withObj (s : State) (o : SyncObj) : State :=
  { s with objs := [(7, o)], ctxs := [(3, { ctx3 with vids := [(5, (7, s.net.index, o.kind))] })] }

/-- A SYNC_SET or SYNC_WAIT on object 5: operation, value. -/
def setDesc (op n : Nat) : Bytes := desc 0x60 [(2, 5), (1, op), (5, 0), (8, n)]
def waitDesc (op n limit : Nat) : Bytes := desc 0x61 [(2, 5), (1, op), (1, 0), (4, n), (4, limit)]

/-- A barrier that has released its first two generations and has one control-core member that has arrived twice. -/
def barrier : SyncObj :=
  { object 1 0 0 with oldest := 2, members := [{ kind := 4, id := 0, floor := false, modIx := 0, arrivals := 2 }] }

theorem witness_sync_set :
    (∀ x ∈ [(1, object 0 0 0, 2 ^ 32 - 1), (6, object 2 0 4, 2 ^ 32 - 1), (7, object 1 0 0, 2 ^ 64 - 1), (0, barrier, 0), (0, object 0 0 0, 0),
        (1, barrier, 0), (6, barrier, 0), (7, object 0 0 0, 0)],
      let b := setDesc x.1 x.2.2
      let s := give (withObj live x.2.1) b
      (decide (mget s.taken 0 = some (took b)) && mayStart s 0 (took b) && coresRun s && decide (headStatus s (took b) setFields = stOk) &&
        decide (vidOf s 3 (fld b 8 2) = some (7, s.net.index, x.2.1.kind)) && byteAt b 10 == x.1) = true) ∧
      memberLeast barrier 4 = some 0 ∧ 2 < barrier.oldest + 16 ∧ opFits 0 1 = true ∧ opFits 0 0 = false ∧ opFits 1 1 = false ∧
      opFits 6 1 = false ∧ opFits 7 0 = false := by decide +kernel

/-- The one member's third arrival releases the third generation, so nobody waits for it. -/
theorem witness_sync_set_arrive :
    let v := syncRun (fwBump (give (withObj live { barrier with oldest := 3, members := [{ kind := 4, id := 0, floor := false, modIx := 0, arrivals := 2 }] })
      (setDesc 0 0)) (kSync 0) 1) [.arrive 7 0 0]
    ((mget v.objs 7).any fun y => y.waiters.any fun w => w.who == .desc 0 && w.want == .gen 2) = false := by decide +kernel

theorem witness_sync_wait :
    (∀ x ∈ [(2, object 0 3 0, 3), (2, object 0 3 0, 4), (2, { object 1 0 0 with oldest := 2 }, 1), (2, { object 1 0 0 with oldest := 2 }, 2),
        (5, object 2 3 4, 3), (5, object 2 3 4, 4)],
      let b := waitDesc x.1 x.2.2 9
      let s := give (withObj live x.2.1) b
      (decide (mget s.taken 0 = some (took b)) && mayStart s 0 (took b) && coresRun s && decide (headStatus s (took b) waitFields = stOk) &&
        decide (vidOf s 3 (fld b 8 2) = some (7, s.net.index, x.2.1.kind)) && byteAt b 10 == x.1 && fld b 12 4 == x.2.2 && fld b 16 4 == 9) = true) ∧
      reached 3 3 = true ∧ reached 3 4 = false ∧ { object 1 0 0 with oldest := 2 }.released 1 = true ∧
      { object 1 0 0 with oldest := 2 }.released 2 = false ∧
      (let t := { took (waitDesc 2 4 9) with stage := .waiting }
       t.op = 0x61 ∧ fld t.bytes 16 4 ≠ 0 ∧ t.tread + fld t.bytes 16 4 ≤ { TimeBase.reset with tread := 9 }.tread) ∧
      { took (waitDesc 2 4 9) with stage := .satisfied 4 }.stage = .satisfied 4 := by decide +kernel

theorem witness_barriers :
    (let s := withObj live barrier
     mget s.objs 7 = some barrier ∧ coresRun s = true ∧ vidOf s 3 5 = some (7, s.net.index, barrier.kind)) ∧
      (let s := withObj live (object 3 0 8)
       vidOf s 3 5 = some (7, s.net.index, 3)) ∧
      { object 1 0 0 with timed := true, base := some 5 }.dueOf 0 = some (5, .timer) ∧
      { object 1 0 0 with members := [{ kind := 0, id := 0, floor := false, modIx := 0, arrivals := 0 }], timeout := 5,
                          gens := [(0, { BGen.fresh with opened := some 0 })] }.dueOf 0 = some (5, .timeout) ∧
      (object 1 0 0).dueOf 0 = some (0, .arrival) ∧ barrier.dueOf barrier.next = none ∧ (object 1 0 0).next < (object 1 0 0).oldest + 16 ∧
      forceAllowed live = false ∧ forceAllowed { live with fuses := { Fuses.reset with lc := .manufacture } } = true ∧
      barrier.released 2 = false ∧ (2 + 2 ^ 32 - barrier.oldest % 2 ^ 32) % 2 ^ 32 < 16 ∧ 16 ≤ (18 + 2 ^ 32 - barrier.oldest % 2 ^ 32) % 2 ^ 32 ∧
      barrier.released 18 = false := by decide +kernel

/-! ### Tiles -/

/-- An instruction word: opcode, then values by their lowest bit. -/
def word (op : Nat) (fields : List (Nat × Nat)) : InstrWord := BitVec.ofNat 256 (op + (fields.map fun f => f.2 * 2 ^ f.1).sum)

/-- Tile 0 of instance 0 with `w` at the program counter of lane `l`, the other lanes halted. -/
def tile (l : Nat) (w : InstrWord) : TileSt :=
  { TileSt.empty with
    core := { TileCore.empty with lanes := (List.range 5).map fun k => { LaneSt.idle with halted := k != l } }
    cfg := { TileCfg.empty with prog := [(0, w)] }, inst := some 0 }

def onTile (s : State) (x : TileSt) : State := { s with tiles := [(0, x)] }

/-- `State.evaluates` by evaluation. -/
theorem evaluates_of {s : State} {t l : Nat} {w : InstrWord}
    (h : (mhas s.tiles t && lanesRun s t && !(tileOf s t).frozen && !((tileOf s t).lane l).halted && !((tileOf s t).lane l).evaluated &&
      decide (mget (tileOf s t).cfg.prog ((tileOf s t).lane l).pc = some w)) = true) : s.evaluates t l w := by
  simpa [State.evaluates, and_assoc] using h

/-- The state from which the action of lane `l`'s instruction `w` starts, its T1 banks noted. -/
def firing (s : State) (t l : Nat) (w : InstrWord) : State :=
  let r := (progRead s t ((tileOf s t).lane l).pc).2
  useBanks r t (l + 1) (r.served t l w).2

/-- `State.evaluates` as a Bool. -/
def evals (s : State) (t l : Nat) (w : InstrWord) : Bool :=
  mhas s.tiles t && lanesRun s t && !(tileOf s t).frozen && !((tileOf s t).lane l).halted && !((tileOf s t).lane l).evaluated &&
    decide (mget (tileOf s t).cfg.prog ((tileOf s t).lane l).pc = some w)

/-- `State.fires` as a Bool. -/
def fireOk (s : State) (t l : Nat) (w : InstrWord) : Bool :=
  let r := progRead s t ((tileOf s t).lane l).pc
  evals s t l w && decide (r.1 = .val 0) && decide (laneCauses r.2 t l w = []) && decide (r.2.bankWaits t l w = [])

/-- `State.fires` by evaluation. -/
theorem fires_of {s : State} {t l : Nat} {w : InstrWord} (h : fireOk s t l w = true) : s.fires (firing s t l w) t l w := by
  simp only [fireOk, Bool.and_eq_true, decide_eq_true_eq] at h
  exact ⟨_, ⟨evaluates_of h.1.1.1, by rw [← h.1.1.2]⟩, h.1.2, h.2, rfl⟩

/-- Every lane instruction evaluates and finds nothing to wait for on such a tile. -/
theorem witness_lanes :
    (∀ x ∈ ([(.instrNop 0 .mx, 0, word 0 []), (.setlc 0 .vx, 1, word 1 [(96, 7)]), (.setf 0 .sx, 2, word 2 [(64, 31)]), (.clrf 0 .tx, 3, word 3 []),
        (.jump 0 .gx, 4, word 4 [(48, 0)]), (.halt 0 .mx, 0, word 5 []), (.send 0 .sx, 2, word 6 [(64, 4), (96, 9)]),
        (.send 0 .sx, 2, word 6 [(64, 20), (96, 0xEF)]), (.send 0 .sx, 2, word 6 [(64, 20), (96, 0xF0)]), (.eos 0 .sx, 2, word 7 [(64, 15)]),
        (.mxeOp 0, 0, word 0x10 [(76, 63)]), (.merge 0, 0, word 0x11 []), (.vop 0, 1, word 0x20 []), (.sop 0, 2, word 0x30 [(90, 0xFF)]),
        (.syncArrive 0, 2, word 8 [(64, 5)]), (.syncAdd 0, 2, word 8 [(64, 5), (80, 1)]), (.syncWait 0, 2, word 8 [(64, 5), (80, 2)]),
        (.take 0, 2, word 8 [(64, 5), (80, 3)]), (.complete 0, 2, word 8 [(64, 5), (80, 4)]), (.acquire 0, 2, word 8 [(64, 5), (80, 5)]),
        (.post 0, 2, word 8 [(64, 5), (80, 6)]), (.t2Read 0, 3, word 0x40 [(112, 1)]), (.t2Write 0, 3, word 0x41 [(112, 1)]),
        (.galGet 0, 4, word 0x50 [(64, 1), (96, 64)]), (.galPut 0, 4, word 0x51 [(64, 1), (96, 64)])] : List (Instr × Nat × InstrWord)),
      (laneOf x.1).any (fun r => r.1 == 0 && r.2.1 == x.2.1 && r.2.2 x.2.2) = true ∧
        fireOk (onTile live (tile x.2.1 x.2.2)) 0 x.2.1 x.2.2 = true) := by
  decide +kernel

/-- A SOP that takes from an empty queue waits for it (R117), one of the wrong row does nothing, one that reads T1 waits for a bank
that a higher requester has taken, and a poisoned program word is no instruction (R38, R208). -/
theorem witness_lanes_wait :
    (let w := word 0x30 [(74, 0), (82, 0x80), (90, 0xFF)]
     let s := onTile live (tile 2 w)
     evals s 0 2 w = true ∧ (progRead s 0 0).1 = .val 0 ∧ laneCauses (progRead s 0 0).2 0 2 w ≠ []) ∧
      (let w := word 0x40 [(112, 1)]
       let s := { onTile live (tile 3 w) with mem := { Memory.reset with rebuilds := [{ tier := .t2, page := pageOf 1 (t2Off 0 0 / 8), words := [1], scrub := false }] } }
       evals s 0 3 w = true ∧ 0x7 ∈ laneCauses (progRead s 0 0).2 0 3 w) ∧
      (let w := word 0x30 [(64, 0x20), (90, 0xFF)]
       let s := onTile live { tile 2 w with used := [(2, 0xFFFF)] }
       evals s 0 2 w = true ∧ (progRead s 0 0).1 = .val 0 ∧ laneCauses (progRead s 0 0).2 0 2 w = [] ∧ (progRead s 0 0).2.bankWaits 0 2 w ≠ []) ∧
      (progRead { onTile live (tile 2 (word 0 [])) with mem := { Memory.reset with sramPoison := [progKey 0 0] } } 0 0).1 = .trap ePoison ∧ ((laneOf (.jump 0 .sx)).any fun r => r.2.2 (word 0x30 [])) = false ∧
      mhas live.tiles 0 = false := by decide +kernel

/-- SEND puts its value at the tail of its output queue (Table 3-15). -/
theorem test_send :
    after (.send 0 .sx) (onTile live (tile 2 (word 6 [(64, 4), (96, 9)])))
      (fun t => decide (((tileOf t 0).core.queue 4).hw.map (·.val) = [9]) && ((tileOf t 0).lane 2).evaluated) = true := by decide +kernel

/-- A control token of 0xF0 and above is end-of-step and its kin: SEND traps on it (R87, R98). -/
theorem test_send_traps :
    after (.send 0 .sx) (onTile live (tile 2 (word 6 [(64, 20), (96, 0xF0)])))
      (fun t => ((tileOf t 0).core.queue 20).hw.isEmpty && ((tileOf t 0).lane 2).trapped) = true := by decide +kernel

theorem witness_control_frame : netOf (iw (word 6 [(64, 4), (96, 9)]) 68 64) ≠ 2 := by decide +kernel

/-- What an MXE_OP checks before it starts. -/
def mxeIns (w : InstrWord) : List (Where × Nat) :=
  mxeTiles w 0 (mxeK w) ++ (if iw w 102 101 = 2 then [(mxePart w, 24 * (blockIx (halfOf w)).length)] else []) ++
    (if iw w 104 103 = 1 ∧ iw w 109 109 = 1 then [(mxeBias w, 128)] else [])

theorem witness_mxe :
    (let w := word 0x10 [(76, 63)]
     let s := onTile live (tile 0 w)
     fireOk s 0 0 w = true ∧ (checkAll (firing s 0 0 w) 0 (mxeIns (mxeWord w))).1 = .val 0 ∧ opcodeOf w = 0x10 ∧ mxeK w = 64 ∧
       iw (mxeWord w) 102 101 ≠ 2 ∧ iw (mxeWord w) 104 103 = 0) ∧
      (let w := word 0x10 [(76, 63), (103, 1), (110, 1), (176, 0x1FFF)]
       let s := onTile live (tile 0 w)
       fireOk s 0 0 w = true ∧ (checkAll (firing s 0 0 w) 0 (mxeIns (mxeWord w))).1 = .val 0 ∧ iw (mxeWord w) 104 103 ≠ 0 ∧
         (mxeDest (mxeWord w)).1.pastT1 (mxeDest (mxeWord w)).2 = true) ∧
      (let w := word 0x10 [(72, 1), (76, 63), (128, 0x1FFF)]
       let s := onTile live (tile 0 w)
       fireOk s 0 0 w = true ∧ (checkAll (firing s 0 0 w) 0 (mxeIns (mxeWord w))).1 = .trap ePerm) ∧
      (let w := word 0x11 [(64, 1)]
       let s := onTile live (tile 0 w)
       fireOk s 0 0 w = true ∧ (checkAll (firing s 0 0 w) 0 [(mxePart w, 24 * (mergeIx w).length)]).1 = .val 0) := by
  decide +kernel

/-- A LOAD_PARTIAL of half a block from the vector registers stays with its half once the partials are read (R54); P_SRC of another operation
means nothing. -/
theorem test_half_kept :
    halfOf (setField (word 0x10 [(101, 2), (224, 1), (225, 1)]) 102 101 1) = some 1 ∧ halfOf (mxeWord (word 0x10 [(101, 1), (224, 1)])) = none := by
  decide +kernel

theorem witness_mxe_drained :
    (let d : OpSt := { word := word 0x10 [(76, 63)], done := 64, clk := 1 }
       let s := onTile live { tile 0 0 with core := { (tile 0 0).core with drain := some d } }
       unitRuns s 0 = true ∧ ((tileOf s 0).lane 0).op = none ∧ (tileOf s 0).core.drain.isSome = true) := by decide +kernel

theorem witness_merge_ends :
    (∀ w ∈ [(([] : List (Nat × Nat)), true), ([(64, 1)], false)],
        let o : OpSt := { word := word 0x11 w.1, done := 0, clk := 1 }
        let s := onTile live { tile 0 0 with core := { (tile 0 0).core with lanes := List.replicate 5 { LaneSt.idle with op := some o } } }
        unitRuns s 0 = true ∧ ((tileOf s 0).lane 0).op = some o ∧ opcodeOf o.word = 0x11 ∧
          ((tileOf (endDrain s 0) 0).core.bank (iw o.word 100 100)).fits o.word = w.2) := by decide +kernel

theorem witness_mxe_ends :
    (let o : OpSt := { word := word 0x10 [(101, 1)], done := 1, clk := 1 }
       let s := onTile live { tile 0 0 with core := { (tile 0 0).core with lanes := List.replicate 5 { LaneSt.idle with op := some o } } }
       unitRuns s 0 = true ∧ ((tileOf s 0).lane 0).op = some o ∧ opcodeOf o.word ≠ 0x11 ∧ iw o.word 102 101 ≠ 2 ∧
         (mxeRunOut (endDrain s 0) 0 { o with word := setField o.word 102 101 1 }).1 = .val 0) := by decide +kernel

theorem witness_t2_ends :
    (∀ f ∈ [0, 1],
        let o : OpSt := { word := word 0x40 [(112, 1), (133, f)], done := 0, clk := 1 }
        let s := onTile live { tile 3 0 with core := { (tile 3 0).core with lanes := List.replicate 5 { LaneSt.idle with op := some o } } }
        unitRuns s 0 = true ∧ ((tileOf s 0).lane 3).op = some o ∧ (t2Copy s 0 o.word o.moved (iw o.word 127 112)).1 = .val 0) ∧
      (let o : OpSt := { word := word 0x40 [(112, 1)], done := 0, clk := 1 }
       let s := { onTile live { tile 3 0 with core := { (tile 3 0).core with lanes := List.replicate 5 { LaneSt.idle with op := some o } } } with
         mem := { Memory.reset with poison2 := [t2Off 0 0 / 8] } }
       unitRuns s 0 = true ∧ ((tileOf s 0).lane 3).op = some o ∧ (t2Copy s 0 o.word o.moved (iw o.word 127 112)).1 = .trap ePoison) := by decide +kernel

theorem leBytes_size (n v : Nat) : (leBytes n v).length = n := by
  induction n generalizing v with
  | zero => rfl
  | succ n ih => simp [leBytes, ih]

/-- A drain writes as many bytes as its block has elements of its format. -/
theorem drainFinal_size (s : State) (t : Nat) (c : TileCore) (w : InstrWord) (b : Bank) :
    (drainFinal s t c w b).1.length = (blockIx (halfOf w)).length * ((outFmt (iw w 107 105)).width / 8) := by
  have h (n : Nat) (f : Nat → Nat × Nat) : ∀ (l : List Nat) (r : Bytes × Nat),
      (l.foldl (fun r i => (r.1 ++ leBytes n (f i).1, orFlags r.2 (f i).2)) r).1.length = r.1.length + l.length * n := by
    intro l
    induction l with
    | nil => simp
    | cons x l ih => intro r; rw [List.foldl_cons, ih]; simp [leBytes_size]; rw [Nat.add_mul]; omega
  simpa [drainFinal] using h _ _ (blockIx (halfOf w)) ([], 0)

/-- A drain to T1 fits or runs past its end, whatever the bank holds; a drain of wide partials to the vector registers fits. -/
theorem witness_mxe_drain (s : State) (c : TileCore) (b : Bank) :
    (let w := word 0x10 [(76, 63), (103, 1), (110, 1)]
     ∃ z, writeWhere s 0 (placeOf (iw w 110 110 == 0) (iw w 191 176)) (drainFinal s 0 c w b).1 = (.val 0, z)) ∧
      (let w := word 0x10 [(76, 63), (103, 1), (110, 1), (176, 0x1FFF)]
       ∃ z, writeWhere s 0 (placeOf (iw w 110 110 == 0) (iw w 191 176)) (drainFinal s 0 c w b).1 = (.trap ePerm, z)) ∧
      (let w := word 0x10 [(76, 63), (103, 2)]
       ∃ z, writeWhere s 0 (placeOf (iw w 110 110 == 0) (iw w 223 208)) (drainPartial w b) = (.val 0, z)) := by
  have p0 : placeOf (iw (word 0x10 [(76, 63), (103, 1), (110, 1)]) 110 110 == 0) (iw (word 0x10 [(76, 63), (103, 1), (110, 1)]) 191 176) = .t1 0 := by
    decide +kernel
  have p1 : placeOf (iw (word 0x10 [(76, 63), (103, 1), (110, 1), (176, 0x1FFF)]) 110 110 == 0)
      (iw (word 0x10 [(76, 63), (103, 1), (110, 1), (176, 0x1FFF)]) 191 176) = .t1 524224 := by decide +kernel
  have p2 : placeOf (iw (word 0x10 [(76, 63), (103, 2)]) 110 110 == 0) (iw (word 0x10 [(76, 63), (103, 2)]) 223 208) = .regs 0 := by decide +kernel
  have n0 : (blockIx (halfOf (word 0x10 [(76, 63), (103, 1), (110, 1)]))).length * ((outFmt (iw (word 0x10 [(76, 63), (103, 1), (110, 1)]) 107 105)).width / 8)
      = 4096 := by decide +kernel
  have n1 : (blockIx (halfOf (word 0x10 [(76, 63), (103, 1), (110, 1), (176, 0x1FFF)]))).length *
      ((outFmt (iw (word 0x10 [(76, 63), (103, 1), (110, 1), (176, 0x1FFF)]) 107 105)).width / 8) = 4096 := by decide +kernel
  refine ⟨?_, ?_, ?_⟩
  · exact ⟨_, by simp only [p0, writeWhere, writeT1]; rw [if_neg (by rw [drainFinal_size, n0]; decide)]⟩
  · exact ⟨s, by simp only [p1, writeWhere, writeT1]; rw [if_pos (by rw [drainFinal_size, n1]; decide)]⟩
  · exact ⟨_, by simp only [p2, writeWhere]; rfl⟩

theorem witness_vop_sop :
    (let w := word 0x20 [(72, 5), (76, 5), (112, 1), (144, 2)]
     let s := onTile live (tile 1 w)
     fireOk s 0 1 w = true ∧ (readRef s 0 (iw w 111 96) 0 0).1 = .val 0 ∧ (readRef s 0 (iw w 127 112) 0 0).1 = .val 0 ∧ (writeRef s 0 (iw w 159 144) 0 7).1 = .val 0) ∧
      (writeRef (onTile live (tile 1 0)) 0 (2 ^ 14 + 0x1FFF) 0 7).1 = .trap ePerm ∧
      (vopRun { fn := 0x29, fs := 8, fd := 1, iw := 0, a := 0, b := 0, c := 0 }).2.1.isSome = true ∧
      (let w := word 0x30 [(64, 0x20), (90, 0xFF)]
       let s := onTile live (tile 2 w)
       fireOk s 0 2 w = true ∧ (readT1 s 0 0 8).1 = .val 0 ∧ (readS s 0 (iw w 89 82)).1 = .val 0 ∧ (sopB s 0 w).1 = .val 0 ∧ (readT1 s 0 (2 ^ 19) 8).1 = .trap ePerm) := by decide +kernel

/-- VOP adds FP32 lanes: 1.0 + 1.0 = 2.0 in every lane (Table 3-17). -/
theorem test_vop_add :
    after (.vop 0) (onTile live { tile 1 (word 0x20 [(72, 10), (76, 10), (112, 1), (144, 2)]) with
        core := { (tile 1 0).core with v := [(0, 0x3F800000), (1, 0x3F800000)] } })
      (fun t => decide ((mgetD (tileOf t 0).core.v 2 0).toNat % 2 ^ 32 = 0x40000000)) = true := by decide +kernel

theorem witness_t2 :
    (∀ op ∈ [0x40, 0x41],
      let w := word op [(112, 1)]
      let s := onTile live (tile 3 w)
      let u := firing s 0 3 w
      let core := (tileOf u 0).core
      fireOk s 0 3 w = true ∧ t2At core w + 64 ≤ reserveOff ∧ (localAt core w).pastT1 64 = false ∧
        (checkWhere u 0 64 (if opcodeOf w = 0x40 then Where.t2 (t2At core w) else localAt core w)).1 = .val 0) ∧
      (let w := word 0x40 [(96, 2 ^ 14 + 0x1FFF), (112, 2)]
       let s := onTile live (tile 3 w)
       fireOk s 0 3 w = true ∧ (localAt (tileOf (firing s 0 3 w) 0).core w).pastT1 128 = true) ∧
      (let w := word 0x40 [(64, 0x1F000), (112, 1)]
       let s := onTile live (tile 3 w)
       fireOk s 0 3 w = true ∧ reserveOff < t2At (tileOf (firing s 0 3 w) 0).core w + 64) := by decide +kernel

theorem witness_sync_instructions :
    (∀ x ∈ [(0, { barrier with members := [{ kind := 0, id := 0, floor := false, modIx := 0, arrivals := 2 }] }), (1, object 0 0 0), (2, object 0 3 0),
        (3, object 3 0 8), (4, object 3 0 8), (5, object 2 3 4), (6, object 2 3 4)],
      let w := word 8 [(64, 5), (80, x.1)]
      let s := onTile (bound (withObj live x.2) working) (tile 2 w)
      (fireOk s 0 2 w && decide (instOfTile s 0 = some (0, working)) && decide (vidOf s 3 5 = some (7, s.net.index, x.2.kind)) &&
        opFits x.1 x.2.kind && decide ((syncHere s 0 w x.1 0 7).1 = .val 0)) = true) ∧
      (let w := word 8 [(64, 5)]
       (syncHere (onTile (bound (withObj live (object 1 0 0)) working) (tile 2 w)) 0 w 0 0 7).1 = .trap ePerm) ∧
      instOfTile (onTile live (tile 2 0)) 0 = none ∧ vidOf (withObj live barrier) 3 6 = none ∧ opFits 0 0 = false ∧
      nextItem (object 3 0 8) = some 0 ∧ tileWaits (withObj live (object 3 0 8)) 7 0 = false ∧
      vidOf { withObj (inSlice live) (object 0 0 0) with ctxs := [(3, { ctx3 with vids := [(5, (7, 1, 0))] })] } 3 5 = some (7, 1, 0) := by decide +kernel

/-! ### Transfers -/

/-- Stream 0 of row 0's west end, to tile 0, with 64-byte units. -/
def stream : Stream :=
  { rate := 0, tile := 0, inT2 := false, base := 0, slots := 2, unitBytes := 64, given := 0, landed := 0, taken := 1, early := [], source := 0, out := [], due := 0, ahead := false,
    feeds := none, exch := false }

/-- A fetch of one unit from object 9. -/
def fetch (kind : Nat) (dep : Option (Nat × Nat)) (issued : Bool) : Fetch :=
  { kind := kind, fence := false, dep := dep, asked := false, last := true, stream := 0, east := false, ctx := 3, obj := 9, offset := 0, epoch := 0,
    tile := 0, dstT2 := false, bufAddr := 0, length := 64, first := 0, issued := issued, landed := 0, done := false, reissued := false, far := none }

/-- Move engine 0 with that fetch. -/
def fetching (s : State) (f : Fetch) : State := { s with movers := [(0, [f])], streams := [(f.key, stream)] }

theorem witness_gallery :
    (let w := word 0x50 [(64, 1), (96, 64)]
     let s := onTile (bound live working) (tile 4 w)
     let x := withAddress (tileOf s 0).core w
     fireOk s 0 4 w = true ∧ iw w 65 64 ≠ 0 ∧ instOfTile s 0 = some (0, working) ∧ galLocalOk x 64 = true ∧
       inRegion s working (opAddress x) 64 = false ∧ inBound s working (opAddress x) 64 = none) ∧
      (let w := word 0x50 [(64, 1), (96, 64)]
       let s := { onTile (bound live working) { tile 4 w with core := { (tile 4 w).core with s := [(0, BitVec.ofNat 64 (0x1FFF * 2 ^ 51))] } } with clk := 0 }
       inRegion s working (opAddress (withAddress (tileOf s 0).core w)) 64 = true) ∧
      (let w := word 0x50 [(64, 1), (96, 64)]
       let i := { working with bound := [9] }
       let s := { onTile (bound (served [(9, home 2 0 4096)]) i) { tile 4 w with core := { (tile 4 w).core with s := [(0, BitVec.ofNat 64 (inT3 0))] } } with clk := 0 }
       inBound s i (opAddress (withAddress (tileOf s 0).core w)) 64 = some (9, home 2 0 4096) ∧ inRegion s i (opAddress (withAddress (tileOf s 0).core w)) 64 = false) ∧
      galLocalOk (word 0x50 [(64, 1), (79, 0x1FFF)]) 128 = false ∧ iw (word 0x51 []) 65 64 = 0 ∧
      (let x := { (tile 4 0).core with lanes := List.replicate 5 { LaneSt.idle with op := some { word := word 0x50 [(64, 1), (192, 0x1FFF * 2 ^ 51)], done := 0, clk := 1 } } }
       let s := onTile live { tile 4 0 with core := x }
       ((tileOf s 0).lane 4).op = some { word := word 0x50 [(64, 1), (192, 0x1FFF * 2 ^ 51)], done := 0, clk := 1 } ∧ unitRuns s 0 = true ∧
         gaModule (opAddress (word 0x50 [(64, 1), (192, 0x1FFF * 2 ^ 51)])) = s.net.index ∧ gaModule (opAddress (word 0x50 [(64, 1)])) ≠ s.net.index ∧
         (s.net.msgs.any fun m => m.2.ty == 2 && m.2.why == .tile 0) = false) := by decide +kernel

theorem witness_spill_watchdog :
    (let q : Queue := { Queue.empty with ringBase := 0, ringSize := 16, ringCnt := 1, owed := true }
     let s := onTile live { tile 0 0 with core := { (tile 0 0).core with queues := [(0, q)] } }
     let v := (tileOf s 0).core.queue 0
     unitRuns s 0 = true ∧ v.owed = true ∧ 0 < v.ringCnt ∧ (∀ r ∈ v.returns, r.2 ≠ returnClk) ∧ poisoned (demand s 0 0 (slotBytes 0) 1) 0 0 (slotBytes 0) = false) ∧
      (let s := onTile (bound live inst) { tile 0 0 with core := { (tile 0 0).core with wdog := 16 } }
       instOfTile s 0 = some (0, inst) ∧ inst.stalled = false ∧ (tileOf s 0).frozen = false ∧ inst.wdog ≤ (tileOf s 0).core.wdog ∧ arrayRuns s = true) := by
  decide +kernel

theorem witness_fetches :
    (∀ d ∈ [none, some (5, 3)], ∀ k ∈ [0, 2],
      let f := fetch k d false
      let s := fetching (withObj (served [(9, home 2 0 4096)]) (object 0 3 0)) f
      (engineQ s 0)[0]? = some f ∧ mget s.streams f.key = some stream ∧ (engineQ s 0).findIdx? (fun f => !f.issued && !f.done) = some 0 ∧
        roomFor stream f = true ∧ ((engineQ s 0).filter fun x => x.issued && !x.done).length < 64) ∧
      (let s := fetching (withObj (served [(9, home 2 0 4096)]) (object 0 3 0)) (fetch 0 none false)
       vidOf s 3 5 = some (7, s.net.index, 0) ∧ depReached s 7 3 = true) ∧
      (∀ e ∈ [0, 1], ∀ k ∈ [0, 2],
        let s := fetching (served [(9, { home 2 0 4096 with epoch := e })]) (fetch k none true)
        (engineQ s 0)[0]? = some (fetch k none true) ∧ dirGet s 9 = some { home 2 0 4096 with epoch := e } ∧ (home 2 0 4096).modIx = s.net.index) := by
  decide +kernel

/-- A unit that has landed is where its stream's slot is (R195): one byte of T3 arrives in T1. -/
theorem test_fetch_lands :
    after (.fetchUnitLanded 0 0) (fetching { served [(9, home 2 0 4096)] with mem := { (served [(9, home 2 0 4096)]).mem with t3 := [(5, 7)] } } (fetch 0 none true))
      (fun t => decide (readByte t.mem.t1 5 = 7) && decide ((engineQ t 0)[0]?.map (·.landed) = some 1 ∨ engineQ t 0 = [])) = true := by decide +kernel

/-! ### Stored data, repair, counters, resets -/

theorem witness_tier_writes : live.mem.wf = true ∧ ([1] : Bytes).length = 1 ∧ tierMem (storeTier live 2 5 [1]) 2 = [(5, 1)] := by decide +kernel

theorem witness_protection_frame :
    (∀ c ∈ [Instr.pageRebuild .t3 0, .pageRebuildDone .t2 0, .patrolScrubPage .t2 0, .ceBucketLeak .t3], after c live (fun _ => true) = true) := by
  decide +kernel

theorem witness_protection :
    (0 < tierExtent live 0 ∧ (2 ^ 30 / 8 - 1) * 8 < tierExtent live 0 ∧ (tierPoison live 1).contains 0 = false ∧
      (tierPoison { live with mem := { Memory.reset with poison1 := [3] } } 0).contains 3 = true) ∧
      (let s := { live with mem := { Memory.reset with rebuilds := [{ tier := .t2, page := 0, words := [1], scrub := false }] } }
       (s.mem.rebuilds.any fun r => r.tier == .t2 && r.page == pageOf 1 0) = true ∧
         s.mem.rebuilds.find? (fun r => r.tier == .t2 && r.page == 0) = some { tier := .t2, page := 0, words := [1], scrub := false }) ∧
      (let s := { live with time := { TimeBase.reset with loaded := true, tread := 256 * 4096 } }
       s.time.tread % 4096 = 0 ∧ flight s % leakOf s 1 = 0 ∧ flight s % leakOf s 2 = 0 ∧ leakedAt s 1 ≠ some (flight s) ∧
         leakedAt s 2 ≠ some (flight s)) := by decide +kernel

theorem witness_scrub :
    (∀ b ∈ [[], [(0, BadWord.single)], [(0, .multi)]],
      let s := { live with mem := { Memory.reset with bad2 := b } }
      let u := hwBump (scrubAdvance s 1 0) (kProt 19) 1
      scrubRuns s 1 = true ∧ 0 < scrubInterval s 1 ∧ (s.time.tread + 0 * scrubInterval s 1 - 0) % scrubInterval s 1 = 0 ∧
        (tierBad u 1).filter (fun e => pageOf 1 e.1 == scrubPage 1 0 (scrubNext s 1 0)) = b ∧
        (u.mem.rebuilds.any fun r => r.tier == .t2 && r.page == scrubPage 1 0 (scrubNext s 1 0)) = false) ∧
      scrubRuns live 2 = true ∧ 0 < scrubInterval live 2 := by decide +kernel

theorem witness_repairs :
    (let s := { live with mem := { Memory.reset with repBusy := true } }
     s.mem.repBusy = true ∧ s.mem.repCommit = false ∧ padSlice s = false ∧ s.fuses.repairUsed < 8) ∧
      repairResult (repairFields live 0) (repairTarget (repairFields live 0)) = 0 ∧
      repairResult (repairFields live 7) (repairTarget (repairFields live 7)) ≠ 0 ∧ State.reset.fuses.lc = .blank ∧
      { live with mem := { Memory.reset with soft := [{ kind := 0, unit := 0, address := 0 }] } }.mem.soft ≠ [] ∧
      8 ≤ { Fuses.reset with repairUsed := 8 }.repairUsed := by decide +kernel

theorem witness_architected_value :
    (let c : HwCtr := { count := 2 ^ 40 - 1, epoch := 255, half := true, wrapped := false, ext := 2 ^ 24 - 1, extEpoch := 255 }
     c.count < 2 ^ 40 ∧ c.epoch < 256 ∧ c.extEpoch < 256 ∧ c.ext < 2 ^ 24 ∧ c.half = true ∧ 2 ^ 40 ≤ c.count + 1 ∧ (c.service.count + [1, 2].sum) / 2 ^ 40 < 256) ∧
      { HwCtr.zero with wrapped := true }.wrapped = true := by decide +kernel

theorem witness_full_force_log (r : LogRec) :
    32768 ≤ { live with store := { Store.reset with forceLog := List.replicate 32768 r } }.store.forceLog.length :=
  Nat.le_of_eq (List.length_replicate ..).symm

theorem witness_revoke :
    grantForm (grant 2 3 0 0 0) = true ∧
      (let s := { live with qpOwner := [(0, 3)], qps := [(0, { QpSt.reset with en := true })] }
       ∃ k, (k, 3) ∈ s.qpOwner ∧ k / 64 = 0 ∧ (qpOf s 0 (k % 64)).en = true) ∧
      (let s := { live with qpOwner := [(0, 3), (1, 4)] }
       ∀ k, (k, 3) ∈ s.qpOwner → k / 64 = 0 → (qpOf s 0 (k % 64)).en = false) := by
  refine ⟨by decide +kernel, ⟨0, by decide, by decide, by decide⟩, fun k hk _ => ?_⟩
  simp only [List.mem_cons, Prod.mk.injEq, List.not_mem_nil, or_false] at hk
  rcases hk with ⟨rfl, -⟩ | ⟨-, h⟩
  · decide
  · exact absurd h (by decide)

theorem witness_resets : live.sup.booted = true ∧ (portOf live 0).present = true ∧ mget (withQp ring).qps 0 = some ring ∧ (1 : Port) ≠ 0 := by decide +kernel

/-! ### The serving loop -/

/-- A request that decodes: token 1 waits for its step. -/
def decoding : Req := { request .decode with params := params 0, toks := [1], len := 1, pend := some 1, kept := 1, got := 1 }

/-- A plan with no entry, ready to start. -/
def plan : Plan := { stepNo := 1, gen := 0, entries := [], msgs := [], reached := some 0 }

theorem witness_steps :
    (let b := { object 1 0 0 with members := [{ kind := 4, id := 0, floor := true, modIx := 0x1FFF, arrivals := 0 }] }
     let g := { group with bar := 7, plan := some plan }
     let s := { serving g inst with objs := [(7, b)] }
     mget s.objs g.bar = some b ∧ b.memberIx true = [0] ∧ g.run = none ∧ g.plan.any (·.reached.isSome) = true) ∧
      (let g := { group with plan := some plan, release := some 5, bar := 7 }
       let s := { serving g inst with time := { TimeBase.reset with tread := 5 } }
       (settleObj s g.bar (· == .arrival)).2 = [] ∧ mget (syncRun (settleObj s g.bar (· == .arrival)).1 []).groups (groupKey 3 1) = some g ∧
         g.release = some 5 ∧ g.run = none ∧ 5 ≤ s.time.tread ∧ s.ps.state = 0) ∧
      (let g := { group with run := some plan }
       let s := serving g { inst with running := true }
       coresRun s = true ∧ ((groupInsts s g).filter (·.2.running)).all (fun i => regionDrained s i.2) = true ∧
         ((groupInsts s g).filter (·.2.running)).all (fun i => regionDrained (onTile s (tile 2 0)) i.2) = false) ∧
      { TimeBase.reset with tread := 4096 }.tread % 4096 = 0 ∧ { TimeBase.reset with tread := 4032 + 16 * 4096 }.tread % 4096 = 4032 := by decide +kernel

theorem witness_roles :
    let i := { inst with overlay := 20 }
    let j := { inst with overlay := 21, first := 1 }
    let g := { group with preOv := 20, decOv := 21 }
    let s := { serving g i with insts := [(0, i), (1, j)], time := { TimeBase.reset with tread := 4032 + 16 * 4096 } }
    2 ≤ (groupInsts s g).length ∧ g.preOv ≠ 0 ∧ g.decOv ≠ 0 ∧ g.movedAt + g.hold ≤ flight s ∧ coresRun s = true ∧
      roleMove s g { tbtMiss := 0, settles := 0, chunked := 0 } = none ∧ roleMove s g { tbtMiss := 1, settles := 0, chunked := 0 } = some (0, 21) ∧
      (s.saves.any fun x => x.2.ctx == 3) = false := by decide +kernel

/-! ### Links -/

/-- Link 0 in state `st`, enabled. -/
def link (st : Nat) : LinkSt := { LinkSt.reset 0 with en := true, state := st }

/-- Member 0 of a slice of two whose link 0 is `l`. -/
def linked (l : LinkSt) : State := { inSlice live with net := { (inSlice live).net with links := [(0, l)] } }

/-- A hello under way. -/
def hello : Hello := { nonce := 0, ekSeed := 0, txNs := 0, rxNs := 0, peerA := none, shared := none, nonces := [], sentTread := 0 }

/-- A packet to member 0 from member 1. -/
def packet (ty : Nat) (target payload : Bytes) : Packet :=
  { ty := ty, first := true, last := true, ackv := false, detoured := false, ece := false, vck := 0, cls := 0, hops := 0, dst := 0, src := 1, ctx := 3,
    lsn := 0, ack := 0, msgId := 4, pkt := 0, crVc := 0, credits := 0, target := target, poison := [], payload := payload }

theorem witness_link_states :
    (linkOf (linked (link 1)) 0).state = 1 ∧ (linkOf live 0).en = false ∧ (link 3).isUp = true ∧ (link 0).isUp = false ∧
      ((link 1).mode ≤ 2 ∧ (link 1).degradeEn = true) ∧ 2 < { link 1 with mode := 3 }.mode ∧
      (let l := { link 3 with retry := [{ lsn := 0, pkt := packet 9 [] [], sends := 9 }] }
       (l.retry.head?.any fun f => decide (l.retryLimit + 1 ≤ f.sends)) = true) ∧
      (let l := { link 4 with downAt := 4 }
       l.state = 4 ∧ l.en = true ∧ l.downAt + 1 ≤ { TimeBase.reset with tread := 5 }.tread) ∧ live.flt.faulted = false ∧
      { Faults.reset with faulted := true }.faulted = true ∧
      (hello.sentTread + 1000 ≤ { TimeBase.reset with tread := 1000 }.tread ∧ { TimeBase.reset with tread := 999 }.tread < hello.sentTread + 1000) := by
  decide +kernel

/-- HELLO_A of member `ix`, with empty certificate chain. -/
def helloABytes (ix : Nat) : Bytes := cat [(1, 1), (1, 0), (2, 0), (2, ix)] ++ List.replicate 5026 0

/-- A slice of two members of one identity, which is what every hash answers below. -/
def twins : SliceRec := { pair with members := pair.members.map ({ · with identity := 0 }) }

/-- Member `ix` of that slice, its link 0 a hall link that waits for a hello. -/
def meeting (ix : Nat) (h : Hello) : State :=
  { live with net := { Net.reset with index := ix, record := some twins, links := [(0, { link 2 with role := 2, hello := some h })] } }

/-- A hello from an unknown member fails; one whose signature, chain and key are accepted (notes/assumptions/8.md) does not, from the higher and
from the lower member. -/
theorem witness_hello_a (hx : ∀ b, sha3 b = 0) (hv : ∀ p m x, dsaVerify p m x = true) (hc : ∀ b p, chainValid b p = true) :
    helloAForm (helloABytes 1) = true ∧ helloACause (meeting 0 hello) twins { link 2 with role := 2 } (helloABytes 5) ≠ 0 ∧
      helloACause (meeting 0 hello) twins { link 2 with role := 2 } (helloABytes 1) = 0 ∧ fld (helloABytes 1) 4 2 = 1 ∧
      helloACause (meeting 1 hello) twins { link 2 with role := 2 } (helloABytes 0) = 0 ∧ fld (helloABytes 0) 4 2 = 0 := by
  have f (n : Nat) (h : n < 2) : fld (helloABytes n) 4 2 = n ∧ digestAt (helloABytes n) 0x30 = 0 ∧ digestAt (helloABytes n) 0x50 = 0 := by
    have : n = 0 ∨ n = 1 := by omega
    rcases this with rfl | rfl <;> decide +kernel
  have f5 : fld (helloABytes 5) 4 2 = 5 := by decide +kernel
  refine ⟨by decide +kernel, ?_, ?_, (f 1 (by decide)).1, ?_, (f 0 (by decide)).1⟩
  · simp only [helloACause, hv, hc, f5]
    decide
  · simp only [helloACause, hv, hc, hx, (f 1 (by decide)).1, (f 1 (by decide)).2.1, (f 1 (by decide)).2.2]
    decide
  · simp only [helloACause, hv, hc, hx, (f 0 (by decide)).1, (f 0 (by decide)).2.1, (f 0 (by decide)).2.2]
    decide

/-- HELLO_B and HELLO_DELAY of the right form; what the signature, the ciphertext and the tag answer is open. -/
theorem witness_hello_b_delay (hk : ∀ k l b, kdf k l b = 0) (ho : ∀ d b, kemOpen d b = some 0) :
    (let p := cat [(1, 2), (7, 0), (64, 0)] ++ List.replicate (0x488 + 2420 - 72) 0
     let h := { hello with peerA := some (List.replicate 64 0) }
     mget (meeting 1 h).net.links 0 = some { link 2 with role := 2, hello := some h } ∧ (link 2).peerIndex < (meeting 1 h).net.index ∧
       p.length = 0x488 + 2420 ∧ byteAt p 0 = 2 ∧ zeroAt p 1 7 = true ∧
       slice p 8 64 = slice (List.replicate 64 (0 : Byte)) 0x10 32 ++ digestBytes h.nonce ∧ kemOpen h.ekSeed (slice p 0x48 1088) = some 0) ∧
      (let p := cat [(1, 3), (55, 0)]
       p.length = 0x38 ∧ byteAt p 0 = 3 ∧ zeroAt p 1 7 = true ∧ digestAt p 0x18 = kdf (kdf 0 "DYDL" []) "" (p.take 0x18) ∧
         { hello with shared := some 0 }.shared = some 0) := by
  refine ⟨⟨by decide +kernel, by decide +kernel, by decide +kernel, by decide +kernel, by decide +kernel, by decide +kernel, ho _ _⟩,
    by decide +kernel, by decide +kernel, by decide +kernel, ?_, rfl⟩
  rw [hk]
  decide +kernel

/-- A DONE frame for member 0, and the frame that carries it to link 0. -/
def doneBytes (lsn : Nat) : Bytes :=
  cat [(1, 9), (1, 3), (1, 0), (1, 0), (2, 0), (2, 1), (2, 3), (2, 0), (4, lsn), (4, 0), (4, 0), (1, 0), (1, 0), (2, 0), (4, 0)]

def frame (gt : Bytes) : Frame :=
  { fcsOk := true, dstMac := BitVec.ofNat 48 (linkMac (linked (link 3)) 0), etherType := 0x86DD, vlan := none, extHeader := false, udpPort := 0xD24D,
    checksumOk := true, icvOk := true, an := 0, ce := false, gt := gt }

theorem witness_frames :
    frameDrop (linked (link 3)) 0 (link 3) (frame (doneBytes 0)) = none ∧
      (parsePacket (frame (doneBytes 0)).gt).map (fun p => (p.ty, p.lsn)) = some (9, 0) ∧
      (parsePacket (frame (doneBytes 1)).gt).map (fun p => (p.ty, p.lsn)) = some (9, 1) ∧
      frameDrop (linked (link 3)) 0 (link 3) { frame (doneBytes 0) with fcsOk := false } = some 6 ∧ (link 3).rxLsn = 0 ∧ (link 3).nakSent = false ∧
      0 < { link 3 with unacked := 1 }.unacked ∧ { link 3 with role := 2, rate64 := 63 }.rate64 < 64 := by decide +kernel

/-- The frame is accepted, its LSN advances; a frame of the wrong LSN is answered once by a negative acknowledgement (R382). -/
theorem test_frame_accepted :
    after (.frameReceive 0 (frame (doneBytes 0))) (linked (link 3)) (fun t => decide ((linkOf t 0).rxLsn = 1 ∧ (linkOf t 0).unacked = 1)) = true := by
  decide +kernel

theorem test_frame_out_of_order :
    after (.frameReceive 0 (frame (doneBytes 1))) (linked (link 3)) (fun t => decide ((linkOf t 0).rxLsn = 0) && (linkOf t 0).nakSent) = true := by
  decide +kernel

theorem witness_ack_at_sixteen :
    let l := { link 3 with unacked := 15 }
    after (.frameReceive 0 (frame (doneBytes 0))) (linked l) (fun t => decide ((linkOf t 0).unacked = 0)) = true := by decide +kernel

/-- `s` as member 0 with a packet received from link 0. -/
def recv (s : State) (p : Packet) : State :=
  { inSlice s with net := { (inSlice s).net with rx := [(0, { link := 0, pkt := p })], links := [(0, link 3)] } }

/-- A message sent to member 1. -/
def msg (ty : Nat) (why : MsgWhy) : Msg := { dst := 1, ctx := 3, ty := ty, left := [0], sent := 0, why := why, target := [], body := List.replicate 16 0, bad := [] }

theorem witness_forward :
    (let p := { packet 9 [] [] with dst := 1 }
     let s := recv live p
     mget s.net.rx 0 = some { link := 0, pkt := p } ∧ p.dst ≠ s.net.index ∧ moduleStatus s 1 = stOk ∧ p.hops < 62 ∧
       (trySend s { p with hops := p.hops + 1 } (faceOf s 0)).isSome = true) ∧ 62 ≤ { packet 9 [] [] with hops := 62 }.hops ∧
      moduleStatus (recv live (packet 9 [] [])) 5 ≠ stOk ∧
      (let s := { live with net := { Net.reset with msgs := [(4, msg 1 .firmware)] }, time := { TimeBase.reset with tread := 4096 } }
       mget s.net.msgs 4 = some (msg 1 .firmware) ∧ (msg 1 .firmware).sent + 4096 ≤ s.time.tread) ∧
      { TimeBase.reset with tread := 4095 }.tread < (msg 1 .firmware).sent + 4096 := by decide +kernel

/-! ### Packets -/

/-- A target of object 9: offset, length, epoch. -/
def toObj (off len epoch : Nat) : Bytes := cat [(4, 9), (8, off), (4, len), (8, epoch), (8, 0)]

/-- Homes of object 9 at this member. -/
def ownHome (epoch : Nat) : DirEntry := { home 2 0 4096 with modIx := 0, epoch := epoch }

theorem witness_gt_write :
    (let s := recv (served [(9, ownHome 0)]) (packet 1 (toObj 4088 8 0) (List.replicate 8 1))
     homeVerdict (dropRx s 0) 3 9 4088 8 0 true = .serve (ownHome 0) ∧ homeVerdict s 3 9 4089 8 0 true = .refuse ePerm) ∧
      homeVerdict (recv (served [(9, ownHome 1)]) (packet 1 [] [])) 3 9 0 8 0 true = .redirect (ownHome 1) ∧
      (let s := recv { served [(9, ownHome 0)] with mem := { (served [(9, ownHome 0)]).mem with
          moving := [(9, { kind := 0, desc := 0, dest := ownHome 0, sent := false })] } } (packet 1 [] [])
       homeVerdict s 3 9 0 8 0 true = .wait ∧ homeVerdict s 3 9 0 8 0 false = .serve (ownHome 0)) ∧
      (handleAt (toObj 4088 8 0) 0) = (9, 4088) ∧ fld (toObj 4088 8 7) 16 8 = 7 ∧ { Pstate.reset with state := 2 }.state = 2 ∧
      (handleAt (cat [(4, 0), (28, 0)]) 0).1 = 0 := by decide +kernel

/-- A write lands in T3. -/
theorem test_gt_write :
    after (.gtWrite 0) (recv (served [(9, ownHome 0)]) (packet 1 (toObj 4088 8 0) (List.replicate 8 1)))
      (fun t => decide (readByte t.mem.t3 4095 = 1 ∧ readByte t.mem.t3 4087 = 0 ∧ t.net.rx = [])) = true := by decide +kernel

theorem witness_gt_data :
    (∀ w ∈ [MsgWhy.tile 0, .fetch 0 0, .cxl 0],
      let s := recv live (packet 3 (toObj 0 64 0) [1])
      let s := { s with net := { s.net with msgs := [(4, msg 2 w)] }, movers := [(0, [fetch 0 none true])], streams := [((fetch 0 none true).key, stream)] }
      mget s.net.msgs 4 = some (msg 2 w) ∧ (msg 2 w).dst = 1 ∧ 0 ∈ (msg 2 w).left ∧ (engineQ s 0)[0]? = some (fetch 0 none true) ∧
        mget s.streams (fetch 0 none true).key = some stream) ∧
      { packet 3 [] [1] with poison := [0] }.poison ≠ [] := by decide +kernel

/-- An exchange message of 8 bytes to tile 0's stream 0. -/
def exchange : Packet := packet 4 (cat [(2, 0), (1, 0), (1, 0), (4, 0), (4, 0), (4, 8), (16, 0)]) (List.replicate 8 0)

theorem witness_gt_stream :
    (let s := recv live exchange
     (wholeMsg s { link := 0, pkt := exchange }).isSome = true ∧ mget s.streams 0 = none ∧ staleExchange s 0 (List.replicate 8 0) = true) ∧
      (let s := recv { onTile (bound live inst) (tile 0 0) with streams := [(0, stream)] } exchange
       mget s.streams 0 = some stream ∧ stream.tile = 0 ∧ staleExchange s 0 (List.replicate 8 0) = false) := by
  constructor <;> simp only [wholeMsg, packetsOf] <;> decide +kernel

theorem witness_gt_sync :
    (∀ x ∈ [(0, barrier), (1, object 0 3 0), (2, object 0 3 0), (5, object 2 0 4)],
      let s := recv { live with objs := [(7, x.2)] } (packet 5 [] [])
      ((mget s.objs 7).any fun o => o.ctx != 3) = false) ∧
      ((mget { live with objs := [(7, barrier)] }.objs 7).any fun o => o.ctx != 4) = true ∧
      (let s := { live with objs := [(7, object 2 0 4)] }
       (syncOp s 7 5 1 (.remote 1 4) none true none).1 = .waits ∧ (syncOp s 7 0 1 (.remote 1 4) none true none).1 = .bad ∧
         (syncOp s 7 6 1 (.remote 1 4) none true none).1 = .done 1 0) ∧
      (syncOp { live with objs := [(7, object 0 3 0)] } 7 2 3 (.remote 1 4) none true none).1 = .done 3 0 := by decide +kernel

theorem witness_gt_answers :
    (let s := { live with syncOut := [(4, { dst := 1, who := .tile 0, gen := 0, reg := none })] }
     mget s.syncOut 4 = some { dst := 1, who := .tile 0, gen := 0, reg := none }) ∧
      (entryOf (cat [(4, 9), (2, 3), (2, 1), (8, 1), (2, 0x4001), (46, 0)])).map (fun x => (x.1, x.2.epoch, x.2.modIx)) = some (9, 1, 1) ∧
      entryOf (cat [(4, 9), (2, 3), (2, 0)]) = none ∧
      (let s := { recv (served []) (packet 10 [] []) with net := { (recv (served []) (packet 10 [] [])).net with msgs := [(4, msg 2 .firmware)] } }
       mget s.net.msgs 4 = some (msg 2 .firmware) ∧ (msg 2 .firmware).why = .firmware ∧ (msg 2 .firmware).ty = 2 ∧ dirGet s 9 = none) := by decide +kernel

/-! ### Control messages -/

/-- A control message from member 1. -/
def ctrl (b : Bytes) : Packet := packet 7 (cat [(12, 0), (4, b.length), (16, 0)]) b

/-- Each kind at its least length, its reserved bytes zero, received whole. -/
theorem witness_control :
    (∀ x ∈ [(1, 32, [(3, 1), (12, 4), (24, 8)]), (2, 112, [(1, 1)]), (3, 128, [(3, 5), (20, 44)]), (4, 40, [(3, 5)]), (5, 160, [(1, 3), (21, 11)]),
        (6, 32, [(2, 2), (24, 8)]), (7, 64, [(2, 2), (40, 24)]), (8, 32, [(2, 2), (28, 4)]), (9, 64, [(52, 12)]), (10, 24, [(4, 4)]),
        (11, 32, [(3, 1), (16, 16)])],
      let b := cat [(1, x.1), (x.2.1 - 1, 0)]
      (byteAt b 0 == x.1 && decide (x.2.1 ≤ b.length) && x.2.2.all fun r => zeroAt b r.1 r.2) = true) ∧
      (let b := cat [(1, 10), (23, 0)]
       let s := recv live (ctrl b)
       mget s.net.rx 0 = some { link := 0, pkt := ctrl b } ∧ (ctrl b).dst = s.net.index ∧ (ctrl b).ty = 7 ∧ s.ps.state ≠ 2 ∧
         s.tr.fwRunning = true ∧ coresRun s = true) ∧ zeroAt (cat [(1, 10), (3, 0), (1, 1)]) 4 4 = false := by decide +kernel

theorem witness_control_whole :
    let b := cat [(1, 10), (23, 0)]
    (wholeMsg (recv live (ctrl b)) { link := 0, pkt := ctrl b }).map (·.2) = some b := by
  simp only [wholeMsg, packetsOf]
  decide +kernel

theorem witness_control_kinds :
    (let s := { live with net := { Net.reset with peers := [(1, { seq := 5, links := [] })] } }
     mget s.net.peers 1 = some { seq := 5, links := [] }) ∧
      (let t : Taken := { took (desc 1 []) with stage := .sent 1 }
       let s := { live with taken := [(0, t)] }
       (s.taken.find? fun t => t.2.stage == .sent 1 && t.2.origin.isNone && t.2.port == 0 && t.2.qp == 0 && slice t.2.bytes 4 4 == [0, 0, 0, 0] && t.2.op == 1) =
         some (0, t)) ∧
      (let s := serving { group with lead := 0 } inst
       mget s.groups (groupKey 3 1) = some { group with lead := 0 } ∧ leadStatus s { group with lead := 0 } (params 0) 1 0 = stOk ∧
         leadStatus { s with ctxs := [] } { group with lead := 0 } (params 0) 1 0 ≠ stOk) ∧
      (let f : Fwd := { desc := 0, stage := .asked, group := 1, params := [], prompt := [], sealing := none }
       let s := { give live (desc 0x30 []) with fwds := [(0, f)] }
       mget s.fwds 0 = some f ∧ f.stage = .asked ∧ mget s.taken f.desc = some (took (desc 0x30 []))) ∧
      (let w := { bound live inst with net := { Net.reset with binds := [{ ctx := 3, group := 1, inst := 0, uid := 8, table := 0 }] } }
       mget w.insts 0 = some inst ∧ bindDiffers w 3 1 0 9 0 = true ∧ bindDiffers (bound live inst) 3 1 0 9 0 = false ∧ mget live.insts 0 = none) ∧
      (let s := { live with net := { Net.reset with stopTread := some 5, stopRx := some (2, 1, 0) }, time := { TimeBase.reset with tread := 5 } }
       s.net.stopTread = some 5 ∧ s.net.stopRx = some (2, 1, 0) ∧ 5 ≤ s.time.tread) ∧
      (let s := { live with adapters := [(0, version 1 1)] }
       (versionOf s 3 7 1).map (·.1) = some 0) := by decide +kernel

/-! ### Time, power, control, self-test -/

/-- A beacon's 16 bytes: tread, nanoseconds, flags. -/
def beaconBytes (tread ns flags : Nat) : Bytes := cat [(8, tread), (4, ns), (1, flags), (3, 0)]

/-- `live` with a time base. -/
def timed (t : TimeBase) : State := { live with time := t }

theorem witness_beacons :
    (let p := beaconBytes 8192 0 5
     p.length = 16 ∧ zeroAt p 13 3 = true ∧ byteAt p 12 ≤ 7 ∧ bit (byteAt p 12) 0 = true ∧ bit (byteAt p 12) 2 = true ∧ (linkOf (linked (link 3)) 0).state = 3) ∧
      TimeBase.reset.tread % 4096 = 0 ∧ TimeBase.reset.loaded = false ∧ TimeBase.reset.load = none ∧ TimeBase.reset.beaconFor = none := by decide +kernel

theorem witness_edges :
    (let t := { TimeBase.reset with pulseOk := true, loaded := true }
     t.pulseOk = true ∧ t.edgeSeen = false ∧ t.edgeEarly = false ∧ (-20 : Int) ≤ -20 ∧ (980 : Int) ≤ 980 ∧ { t with edgeSeen := true }.edgeSeen = true) ∧
      (let t := { TimeBase.reset with goodEdges := 16 }
       t.pulseOk = false ∧ t.holdover = false ∧ 16 ≤ t.goodEdges ∧ t.loaded = false) ∧
      TimeBase.reset.goodEdges < 16 ∧ { TimeBase.reset with everLocked := true }.everLocked = true ∧
      (let s := timed { TimeBase.reset with holdover := true, relock := some 20 }
       s.time.holdover = true ∧ aligned s = true) ∧
      (∃ w, { TimeBase.reset with load := some { flight := 3, treads := 17 } }.load = some w ∧ 16 < w.treads ∧ w.flight = 3) ∧
      { TimeBase.reset with beaconFor := some 3 }.beaconFor = some 3 ∧
      (let t := { TimeBase.reset with pulseTread := some 1, loaded := true, tread := 1 }
       t.pulseTread = some 1 ∧ 1 % 4096 ≠ 0 ∧ t.loaded = true) ∧ { TimeBase.reset with pulseTread := some 4096 }.pulseTread = some 4096 := by
  refine ⟨by decide +kernel, by decide +kernel, by decide +kernel, by decide +kernel, by decide +kernel, ⟨_, rfl, by decide, rfl⟩, by decide +kernel,
    by decide +kernel, by decide +kernel⟩

theorem witness_flight_check :
    (∀ d ∈ [(999 : Int), -999, 1000, -1000],
      let s := { linked (link 3) with time := { TimeBase.reset with loaded := true, beacons := [(0, { offset := d, pulseOk := true, holdover := false, loaded := true })] } }
      s.time.loaded = true ∧ s.time.tread % 4096 = 0 ∧ s.time.holdover = false ∧ offsetsOf s (·.pulseOk) = [d]) ∧
      (∀ d : Int, median [d] = d) ∧ offsetsOf live (·.pulseOk) = [] ∧
      (let s := { live with life := { Life.reset with cur := { LifeRec.zero with firstOnUtcS := 1 } } }
       s.fuses.lc ≠ .scrapped ∧ s.life.cur.firstOnUtcS ≠ 0) := by
  refine ⟨by decide +kernel, fun d => ?_, by decide +kernel, by decide +kernel⟩
  simp [median, List.mergeSort_singleton]

/-- `live` with a power state. -/
def powered (p : Power) : State := { live with pw := p }

theorem witness_power_points :
    (let s := powered { Power.reset with overrun := true }
     s.pw.overrun = true ∧ s.pw.holdEnd ≤ s.time.ticks) ∧ TimeBase.reset.ticks < { Power.reset with holdEnd := 1 }.holdEnd ∧
      (let s := powered { Power.reset with capDeadlines := [0], capW := 899 }
       0 ∈ s.pw.capDeadlines ∧ 0 ≤ s.time.ticks ∧ s.pw.capW < ratedW (pointInForce s) ∧ s.pw.failsafe = false) ∧
      ratedW (pointInForce live) ≤ Power.reset.capW ∧
      (let s := powered { Power.reset with pending := [{ member := 0, subject := 0, op := 3, cause := 0, seq := 1, adopt := 0 }] }
       (s.pw.pending.filter fun f => decide (f.adopt ≤ s.time.ticks)) ≠ []) ∧ live.pw.pending = [] ∧
      (let s := live
       s.pw.supplyMv < voltMv s 15) ∧ voltMv live 15 ≤ { Power.reset with supplyMv := 860 }.supplyMv ∧
      (let s := powered { Power.reset with rampTo := some 860 }
       s.pw.rampTo = some 860 ∧ voltMv s s.pw.now ≤ 700 ∧ min 860 s.pw.supplyMv ≤ 700 ∧ 700 ≤ max 860 s.pw.supplyMv) := by decide +kernel

theorem witness_average :
    newelRuns live = true ∧ min (windowFlights live) live.pw.flightEnergy.length = 0 ∧
      (let s := powered { Power.reset with flightEnergy := [0], energyUj := 2400 * 4096 + 1 }
       min (windowFlights s) s.pw.flightEnergy.length ≠ 0 ∧ s.pw.pwrLimit * (1 * 4096) < s.pw.energyUj - s.pw.flightEnergy.getD 0 0) ∧
      (let s := powered { Power.reset with flightEnergy := [0], energyUj := 0, avgOp := 3 }
       s.pw.avgOp < (((ownCauses s s.pw.failsafe).filter fun c => c.2 != 3).map (·.1)).foldl min 15 ∧ (0 : Nat) * 100 < s.pw.pwrLimit * (1 * 4096) * 97) ∧
      (0 : Nat) + 16 ≤ 16 * 4096 / 4096 ∧
      (let s := powered { Power.reset with flightEnergy := [0], energyUj := 2400 * 4096 }
       s.pw.energyUj ≤ s.pw.pwrLimit * (1 * 4096) ∧ s.pw.pwrLimit * (1 * 4096) * 97 ≤ s.pw.energyUj * 100) := by decide +kernel

theorem witness_ramp :
    { Power.reset with rampEn := false }.rampEn = false ∧ rampStopped live = false ∧ live.pw.rampEn = true ∧
      (let p : Int := 1000 * 0
       p ≤ min (max p (live.pw.envelope - live.pw.rampDown)) (live.pw.envelope + live.pw.rampUp)) ∧
      (let p : Int := 1000 * 2
       min (max p (live.pw.envelope - live.pw.rampDown)) (live.pw.envelope + live.pw.rampUp) < p) := by decide +kernel

theorem witness_pull :
    let r (n : Nat) : RelRec := { tread := 0, context := 3, vid := 5, gen := n, late := [0], skew := 9, maxLate := 0, flags := 1, slowest := 0 }
    let b := { object 1 0 0 with members := [{ kind := 2, id := 0, floor := false, modIx := 1, arrivals := 0 }] }
    let s := { linked (link 3) with objs := [(7, b)], relRecs := [r 0] }
    mget s.objs 7 = some b ∧ pullMember s b = some 0 ∧ b.members[0]?.map (·.modIx) = some 1 ∧ b.kind = 1 ∧ b.domain = 3 ∧ newelRuns s = true ∧
      s.pw.lastLower = none ∧ 0 < slicePoint s ∧ s.net.record ≠ none := by decide +kernel

theorem witness_thermal :
    ((95 : Int) ≤ 95 ∨ (90 : Int) ≤ 0) ∧ live.pw.warnOn = false ∧ live.pw.restartHold = false ∧
      (let s := { powered { Power.reset with warnOn := true, warnOp := 14 } with time := { TimeBase.reset with ticks := 16 * 4096 } }
       (s.pw.warnOp ≠ 15 ∨ s.pw.warnOn = true) ∧ s.pw.warnFlights + 16 ≤ s.time.ticks / 4096) ∧ 0 / 4096 < live.pw.warnFlights + 16 ∧
      ((105 : Int) ≤ 105 ∨ (100 : Int) ≤ 0) ∧ live.pw.tripOn = false ∧ live.sup.pwrgood = true ∧ { Power.reset with tripOn := true }.tripOn = true ∧
      live.pw.brake = false ∧ { Power.reset with brake := true }.brake = true ∧ live.pw.coolantStop = false ∧
      { Power.reset with coolantStop := true }.coolantStop = true ∧ live.time.loaded = false := by decide +kernel

theorem witness_power_states :
    (let s := { live with ps := { Pstate.reset with idle := 64 } }
     s.ps.autoA1 = true ∧ s.ps.state = 0 ∧ s.ps.idleTreads ≤ s.ps.idle) ∧ { Pstate.reset with state := 1 }.state = 1 ∧
      (let u := { live with ps := { Pstate.reset with target := 2 } }
       quiet u = true ∧ u.ps.state ≠ 2 ∧ (logReset { commitLife (settleRebuilds u) true with ps := { Pstate.reset with state := 2 } } 0x12 0xFF 0).i3c.remove = false) ∧
      quiet (give live (desc 1 [])) = false ∧
      (let u := { live with i3c := { I3c.reset with remove := true }, ps := { Pstate.reset with target := 2 } }
       (logReset { commitLife (settleRebuilds u) true with ps := { Pstate.reset with state := 2 } } 0x12 0xFF 0).i3c.remove = true) ∧
      (∃ t, { live with flt := { Faults.reset with restarted := some 0 } }.flt.restarted = some t ∧ (0 : Nat) ≤ t + 4096) ∧
      { Faults.reset with restarting := true }.restarting = true ∧ live.tr.fwRunning = true ∧ live.flt.faulted = false := by
  refine ⟨by decide +kernel, by decide +kernel, by decide +kernel, by decide +kernel, by decide +kernel, ⟨0, rfl, by decide⟩, by decide +kernel,
    by decide +kernel, by decide +kernel⟩

theorem witness_i3c :
    (bit (fld (leBytes 1 4) 0 1) 2 = true ∧ bit (fld (leBytes 1 3) 0 1) 2 = false) ∧ i3cWritable 5 ≠ some ([1] : Bytes).length ∧ (6 : Nat) ≤ 6 ∧
      live.i3c.dynAddr = none ∧ { Supply.reset with pwrgood := false }.pwrgood = false := by decide +kernel

theorem witness_registers :
    live.sup.booted = true ∧ (portOf live 0).present = true ∧ live.fuses.lc ≠ .scrapped ∧ 0x50020 / 8 * 8 = 0x50020 ∧ 0x50024 / 8 * 8 = 0x50020 ∧
      0x4000 / 8 * 8 ≠ 0x50020 ∧ (1 : Port) ≠ 0 ∧ 0x4000 + 0x1000 * (1 : Port).val ≤ 0x5000 ∧
      (let s := { live with hwc := [(5, { HwCtr.zero with half := true })] }
       mget s.hwc 5 = some { HwCtr.zero with half := true }) ∧ HwCtr.zero.half = false ∧
      { LifeRec.zero with powerOnS := 3600 }.powerOnS / 3600 ≠ Store.reset.life.powerOnS / 3600 ∧ live.dbg.qdEn = false ∧ live.dbg.qdAddr % 4096 = 0 ∧
      { Debug.reset with qdAddr := 64 }.qdAddr % 4096 ≠ 0 ∧
      (let s := { live with dbg := { Debug.reset with qdEn := true, qdPeriod := 1 } }
       s.dbg.qdEn = true ∧ s.clk = 0 ∧ s.time.tread % s.dbg.qdPeriod = 0 ∧ s.dbg.qdLast ≠ some s.time.ticks) ∧
      { Debug.reset with qdLast := some 0 }.qdLast = some TimeBase.reset.ticks := by decide +kernel

/-- A doorbell's count and a setting of zero keep the registers' rules (R226): 0 leaves the bucket size. -/
theorem test_ce_setting :
    after (.ceSettingWrite 0x30018 0x00200000) live (fun t => decide (t.mem.t2Size = 0x10 ∧ t.mem.t3Size = 0x20)) = true := by decide +kernel

theorem witness_self_test :
    (let s := { live with st := { SelfTest.reset with slotValid := true, slot := 1 }, time := { TimeBase.reset with loaded := true, tread := 1024 + 256 } }
     sliceDue s = true ∧ s.st.running = false ∧ sliceDeferred s = false) ∧ sliceDue live = false ∧
      sliceDeferred { live with pw := { Power.reset with brake := true } } = true ∧ { SelfTest.reset with running := true, nextSlice := 203 }.running = true ∧
      SelfTest.reset.ctlBusy = false ∧ { SelfTest.reset with ctlBusy := true }.ctlQueued = false ∧ allQpsOff live = true ∧
      allQpsOff (withQp { ring with en := true }) = false ∧ (1 : Nat) ≠ SelfTest.reset.period := by decide +kernel

theorem witness_scan :
    live.dbg.scanBusy = false ∧ { Debug.reset with scanBusy := true }.scanBusy = true ∧ scanResult live 0 = 1 ∧
      scanResult { live with tr := { Trust.reset with fwRunning := true, debugUnlocked := true } } 0 = 0 := by decide +kernel

theorem witness_doorbell_writes :
    live.sup.booted = true ∧ (portOf live 0).present = true ∧ live.fuses.lc ≠ .scrapped ∧ 0x3F000 % 4096 = 0 ∧ 0x3F004 % 4096 = 4 ∧
      0x3F008 % 4096 = 8 ∧ 12 % 4096 = 12 ∧ 0xFF010 % 4096 ≠ 0 ∧ 0xFF010 % 4096 ≠ 4 ∧ 0xFF010 % 4096 ≠ 8 ∧ 0xFF010 % 4096 ≠ 12 := by decide +kernel

/-- A module in slot 1 at the tread at which its slice of flight 0 starts. -/
def inSlot : State :=
  { live with st := { SelfTest.reset with slotValid := true, slot := 1 }, time := { TimeBase.reset with loaded := true, tread := 1024 + 256 } }

theorem witness_self_test_slices :
    inSlot.sup.pwrgood = true ∧ inSlot.fuses.lc = .deployed ∧ inSlot.st.period < 65536 ∧ live.st.slotValid = false ∧ inSlot.st.slotValid = true ∧
      inSlot.st.slot < 4 ∧ inSlot.time.loaded = true ∧ inSlot.tr.fwRunning = true ∧ 0 < inSlot.st.period ∧ inSlot.st.running = false ∧
      0 % inSlot.st.period = 0 ∧ inSlot.time.tread = 0 * 4096 + 1024 * inSlot.st.slot + 256 ∧
      { inSlot with time := { inSlot.time with tread := 255 } }.time.tread % 4096 ≠ 1024 * inSlot.st.slot + 256 ∧
      inSlot.ps.state ≠ 2 ∧ inSlot.pw.coolantStop = false ∧ inSlot.pw.brake = false ∧ inSlot.pw.tripOn = false ∧ inSlot.pw.failsafe = false ∧
      inSlot.st.en = true ∧ { inSlot with pw := { Power.reset with failsafe := true } }.pw.failsafe = true := by decide +kernel

theorem witness_register_reads :
    (2 % 4 ≠ 0) ∧ (0x80000 % 8 = 0 ∧ 0x80000 ≤ 0x80000) ∧ ((1 : Port) ≠ 0 ∧ 0x4000 + 0x1000 * (1 : Port).val ≤ 0x5FF8 ∧ 0x5FF8 < 0x5000 + 0x1000 * (1 : Port).val) ∧
      ((1 : Port) ≠ 0 ∧ 0x60000 ≤ 0x60000) ∧ { live with fuses := { Fuses.reset with lc := .scrapped } }.fuses.lc = .scrapped ∧
      live.sup.pwrgood = true ∧ { live with sup := { Supply.reset with pwrgood := false } }.sup.pwrgood = false ∧
      (∀ k ∈ [0, 1, 5], { live with i3c := { I3c.reset with index := k } }.i3c.index = k) := by decide +kernel

/-- Table 18-3: DEV_ID through port 1, its upper half, and an unaligned read (R557, R558). -/
theorem test_reads_dev_id :
    readBar0 live 1 0 4 = some 0x00010D24 ∧ readBar0 live 0 4 4 = some 1 ∧ readBar0 live 0 4 8 = none ∧ readBar0 live 0 0 2 = none := by decide +kernel

theorem witness_ranges_and_locks :
    live.sup.booted = true ∧ (portOf live 0).present = true ∧ live.fuses.lc ≠ .scrapped ∧ (qpOf live 0 63).en = false ∧
      (qpOf (withQp { ring with en := true }) 0 0).en = true ∧ (portOf live 0).eqEn = false ∧
      (portOf { live with ports := [(0, { PortSt.reset with present := true, eqEn := true })] } 0).eqEn = true ∧
      (portOf { live with ports := [(0, { PortSt.reset with present := true, eqEn := true })] } 0).present = true := by decide +kernel

/-- Table 18-13: a LOG2 of 3 or of 17 is out of range and leaves the field; 16 is taken. -/
theorem test_ring_size_range :
    after (.registerWrite 0 0 0x4418 8 3) (withQp ring) (fun t => (qpOf t 0 0).cqLog2 == 4) = true ∧
      after (.registerWrite 0 0 0x4418 8 17) (withQp ring) (fun t => (qpOf t 0 0).cqLog2 == 4) = true ∧
      after (.registerWrite 0 0 0x4418 8 16) (withQp ring) (fun t => (qpOf t 0 0).cqLog2 == 16) = true := by decide +kernel

/-- Table 11-6: SET_BASE is an operation of control cores; a tile's SYNC with it traps. -/
theorem witness_sync_of_cores :
    (let w := word 8 [(64, 5), (80, 7)]
     let s := onTile live (tile 2 w)
     s.fires (firing s 0 2 w) 0 2 w) ∧
      opcodeOf (word 8 [(64, 5), (80, 7)]) = 8 ∧ 7 ≤ iw (word 8 [(64, 5), (80, 7)]) 83 80 := by
  exact ⟨fires_of (by decide +kernel), by decide +kernel⟩

theorem witness_plant_untouched : after (.nop 0) (give live (desc 1 [])) (fun t => t.taken.isEmpty) = true := by decide +kernel

/-! ### Further states and operands that meet hypotheses -/

theorem witness_slice_record_times :
    (let s := { live with fuses := Fuses.reset, time := { TimeBase.reset with loaded := true } }
     sliceRecordOk s oneMember = true ∧ s.time.loaded = true) ∧ live.time.loaded = false ∧
      (live.qpOwner.any fun o => o.2 == 3 && o.1 / 64 == 0 && (qpOf live 0 (o.1 % 64)).en) = false := by decide +kernel

/-- Accesses behind a write that waits for Back-Invalidate, and none. -/
theorem witness_windows_behind :
    (let s := { windowed [(0, window)] (home 1 0 4096) with waits := [(0, .biWrite 0 0 0 [1])] }
     behind s 0 (windowGa s 0 0 0) 64 false = true ∧ behind s 0 (windowGa s 0 0 0) 64 true = true ∧ s.net.msgs = []) ∧
      (let s := windowed [(0, window)] (home 1 0 4096)
       behind s 0 (windowGa s 0 0 0) 64 false = false ∧ behind s 0 (windowGa s 0 0 0) 64 true = false) := by decide +kernel

theorem witness_window_answer :
    verdict { windowed [(0, window)] (home 1 0 4096) with waits := [(0, .biWrite 0 0 0 [1])] } 0 0 0 1 true = .serve 9 (home 1 0 4096) := rfl

/-- A forwarded import whose data is on its way, and descriptors that wait for none. -/
theorem witness_staging :
    (let g : Staging := { desc := 0, data := [], size := 8, got := 0, bad := [], status := 0, result := 0 }
     let b := moveDesc 1 (inT3 4096) 4096
     let s := { give (served []) b with mem := { (served []).mem with staging := [(2 ^ 31, g)] } }
     stagingOf s 0 = some (2 ^ 31, g) ∧ g.got < g.size ∧ createStatus s 3 (moveReq b) = stOk) ∧ stagingOf (give (served []) (moveDesc 1 0 0)) 0 = none := by
  decide +kernel

/-- Images from partner memory are read without a demand on a home. -/
theorem witness_image_demand :
    (let b := desc 0x20 [(1, 0), (1, 0), (26, 0), (4, 33600), (16, 0)]
     ∀ s, demandImage s (took b) = s) ∧
      (let b := desc 0x21 [(1, 0), (1, 0), (26, 0), (4, 128)]
       ∀ s, demandImage s (took b) = s) ∧
      (let s := harnessed (served [])
       demandBound s 3 (himgOf plainImage) (rolesOf (padTo 128 [])) = s) ∧ demandTargets admitting (took admitDesc) = admitting := by
  refine ⟨fun s => ?_, fun s => ?_, by decide +kernel, by decide +kernel⟩ <;>
    · have h1 : byteAt (took (desc 0x20 [(1, 0), (1, 0), (26, 0), (4, 33600), (16, 0)])).bytes 9 = 0 := by decide +kernel
      have h2 : byteAt (took (desc 0x21 [(1, 0), (1, 0), (26, 0), (4, 128)])).bytes 9 = 0 := by decide +kernel
      simp [demandImage, h1, h2]

theorem witness_switch_ends :
    (∀ r ∈ [true, false],
      let i := { inst with running := r, sw := some (switching .draining 0 0) }
      stepDone (bound live i) i = true ∧ i.unbind = none ∧ (mget (endInst (bound live i) 0 i).insts 0).isSome = true) ∧
      (let i := { working with work := { passes := 1, micro := [] }, sw := some (switching .draining 0 4) }
       stepDone (bound live i) i = false) := by decide +kernel

theorem witness_save_frees :
    (let v : Save := { ctx := 3, obj := 9, off := 0, freeze := 5, unbind := false, frozen := false, writing := false, lost := false, poison := false,
                       msgs := [], base := [], cc := [] }
     let s := { give (served [(9, home 2 0 4096)]) saveDesc with saves := [(0, v)], time := { TimeBase.reset with tread := 5 } }
     let u := { give (bound (served [(9, home 2 0 4096)]) inst) saveDesc with saves := [(0, v)], time := { TimeBase.reset with tread := 5 } }
     copying s 3 = false ∧ inFlight s 3 = false ∧ copying u 3 = false ∧
       ((dirGet s 9).any fun e => decide (e.size < v.off + saveSize v (ctxInsts s 3))) = false ∧
       ((dirGet u 9).any fun e => decide (e.size < v.off + saveSize v (ctxInsts u 3))) = true) := by decide +kernel

theorem witness_writes_outstanding :
    (let s := { live with waits := [(0, .biWrite 0 0 0 [1])] }
     partnerWrites s 0 = true ∧ partnerWrites s 1 = false) ∧ ownWrites live = false ∧
      ownWrites { live with net := { Net.reset with msgs := [(4, msg 1 .firmware)] } } = true := by decide +kernel

/-- A lane-4 operation `w` under way on tile 0. -/
def moving (s : State) (w : InstrWord) : State :=
  onTile s { tile 4 0 with core := { (tile 4 0).core with lanes := List.replicate 5 { LaneSt.idle with op := some { word := w, done := 0, clk := 1 } } } }

/-- GAL_GET and GAL_PUT between T1 and T3 offset `a` of this module. -/
def galWord (op a : Nat) : InstrWord := word op [(64, 1), (96, 64), (192, inT3 a)]

/-- Move engine 0 with those fetches, in order. -/
def engine (s : State) (fs : List Fetch) : State := { s with movers := [(0, fs)], streams := [((fetch 0 none true).key, stream)] }

theorem witness_gallery_ends :
    (let s := moving live (word 0x50 [])
     iw (word 0x50 []) 65 64 = 0 ∧ ((tileOf s 0).lane 4).op.isSome = true) ∧
      (let s := moving (served [(9, home 2 0 4096)]) (galWord 0x50 0)
       gaModule (opAddress (galWord 0x50 0)) = s.net.index ∧ galHeld s (galWord 0x50 0) = false ∧ putRange s (galWord 0x50 0) = none) ∧
      (let s := moving (served [(9, home 2 0 4096)]) (galWord 0x51 0)
       galHeld s (galWord 0x51 0) = false ∧ putRange s (galWord 0x51 0) = some (9, home 2 0 4096, 0) ∧ writeHeld s 9 (home 2 0 4096) 0 64 = false) ∧
      (let s := { moving (served [(9, home 2 0 4096)]) (galWord 0x50 0) with mem := { (served [(9, home 2 0 4096)]).mem with
          rebuilds := [{ tier := .t3, page := pageOf 2 0, words := [0], scrub := false }] } }
       galHeld s (galWord 0x50 0) = true) ∧
      (let s := windowed [(0, { window with cache := true, target := inT3 0 })] (home 2 0 4096)
       writeHeld s 9 (home 2 0 4096) 0 64 = true) ∧
      (let s := { moving live (word 0x50 [(64, 1), (96, 64)]) with mem := { Memory.reset with poison1 := [0] } }
       poisoned s 0 (galLocal 0 (word 0x50 [(64, 1), (96, 64)])).2 64 = true ∧ (galLocal 0 (word 0x50 [(64, 1), (96, 64)])).1 = 0) := by
  decide +kernel

/-- A PUT to an object at the other member, its source sound and poisoned. -/
theorem witness_gallery_remote :
    ∀ p ∈ [([] : List Nat), [0]],
      let w := word 0x51 [(64, 1), (96, 64)]
      let i := { working with bound := [9] }
      let e := { farHome with tier := 2 }
      let s := inSlice (bound (served [(9, e)]) i)
      let s := { onTile s { tile 4 w with core := { (tile 4 w).core with s := [(0, BitVec.ofNat 64 (2 ^ 51 + 2 * 2 ^ 48))] } } with mem := { s.mem with poison1 := p } }
      let r := firing s 0 4 w
      let x := withAddress (tileOf r 0).core w
      fireOk s 0 4 w = true ∧ instOfTile r 0 = some (0, i) ∧ galLocalOk x 64 = true ∧ inRegion r i (opAddress x) 64 = false ∧
        inBound r i (opAddress x) 64 = some (9, e) ∧ e.modIx ≠ r.net.index ∧ galLocal 0 x = (0, 0) ∧
        poisoned (demand (countTier r 0 0 64 false) 0 0 64 1) 0 0 64 = !p.isEmpty := by decide +kernel

theorem witness_spill_banks :
    (let q : Queue := { Queue.empty with ringBase := 0, ringSize := 16, ringCnt := 1, owed := true }
     let s := onTile live { tile 0 0 with core := { (tile 0 0).core with queues := [(0, q)] } }
     (takenBanks s 0 4 ||| (tileOf s 0).usedBy 4) &&& slotBanks q 0 q.ringHead = 0) ∧ netOf 0 ≠ 1 ∧ netOf 8 = 1 ∧
      poisoned { live with mem := { Memory.reset with poison1 := [0] } } 0 (t1Off 0 0) (slotBytes 0) = true := by decide +kernel

theorem witness_fetch_cases :
    live.ps.state ≠ 2 ∧ live.pw.coolantStop = false ∧
      (let f := { fetch 0 none true with far := some 1 }
       let s := { engine live [f] with net := { Net.reset with msgs := [(4, msg 2 (.fetch 0 0))] } }
       f.far.isSome = true ∧ fetchOut s 0 0 = true ∧ fetchOut (engine live [f]) 0 0 = false) ∧
      accessStatus live 3 9 0 64 ≠ stOk ∧ accessStatus (served [(9, home 2 0 4096)]) 3 9 0 64 = stOk ∧
      (fetch 0 none true).epoch < { home 2 0 4096 with epoch := 1 }.epoch ∧
      fetchBehind (engine live [fetch 2 none true, fetch 0 none true]) 0 1 (fetch 0 none true) 0 64 = true ∧
      fetchBehind (engine live [fetch 0 none true, fetch 0 none true]) 0 1 (fetch 0 none true) 0 64 = false ∧
      (let s := { served [] with mem := { (served []).mem with moving := [(9, { kind := 0, desc := 0, dest := home 2 0 4096, sent := false })] } }
       moveHolds s 9 true = true ∧ moveHolds s 9 false = false) ∧
      moveHolds { served [] with mem := { (served []).mem with moving := [(9, { kind := 4, desc := 0, dest := home 2 0 4096, sent := false })] } } 9 false = true ∧
      (let s := { served [] with mem := { (served []).mem with rebuilds := [{ tier := .t3, page := pageOf 2 0, words := [0], scrub := false }] } }
       objMustWait s (home 2 0 4096) 0 64 = true) ∧ objMustWait (served []) (home 2 0 4096) 0 64 = false ∧ stream.out = [] ∧
      { stream with out := [[1]] }.out ≠ [] ∧ writeHeld (windowed [(0, { window with cache := true })] (home 1 0 4096)) 9 (home 1 0 4096) 0 64 = true ∧
      writeHeld live 9 (home 1 0 4096) 0 64 = false := by decide +kernel

theorem witness_scrub_skew :
    (let s := { live with mem := { Memory.reset with skew2 := [scrubPage 1 0 (scrubNext live 1 0)] } }
     let u := hwBump (scrubAdvance s 1 0) (kProt 19) 1
     (skewed u 1).contains (scrubPage 1 0 (scrubNext s 1 0)) = true ∧ (mkeys (checkBad u 1) fun j _ => j / 2 == scrubPage 1 0 (scrubNext s 1 0)) = [] ∧
       (u.mem.rebuilds.any fun r => r.tier == .t2 && r.page == scrubPage 1 0 (scrubNext s 1 0)) = false) ∧
      (let s := { live with mem := { Memory.reset with rebuilds := [{ tier := .t2, page := scrubPage 1 0 (scrubNext live 1 0), words := [0], scrub := false }] } }
       (s.mem.rebuilds.any fun r => r.tier == .t2 && r.page == scrubPage 1 0 (scrubNext s 1 0)) = true) := by decide +kernel

theorem witness_repair_refused :
    live.mem.repBusy = false ∧ { live with fuses := { Fuses.reset with lc := .scrapped } }.fuses.lc = .scrapped ∧
      (let s := { live with mem := { Memory.reset with repBusy := true, repCommit := true } }
       s.mem.repBusy = true ∧ s.mem.repCommit = true ∧ s.fuses.repairUsed < 8) := by decide +kernel

/-- What STEP_PLAN plans: requests that reach a limit end first, then each instance plans its part. -/
def planAll (s : State) (g : Group) : List PEntry :=
  let s' := (endLong s g).1
  let g := (endLong s g).2
  let c := withTokenRoom s' g (candidates s' g)
  ((groupInsts s' g).foldl (fun (x : State × Group × List PEntry) i =>
    let y := planInst x.1 x.2.1 c.2 i.1 i.2
    (y.1, y.2.1, x.2.2 ++ y.2.2.1)) (c.1, g, [])).2.2

theorem witness_plan_empty : planAll (serving group inst) group = [] ∧ (serving group inst).flt.sliceStopped = false := by decide +kernel

/-- The group with that request, whose context is still short of the plan's limit. -/
def short : Group := { group with reqs := [(0, { decoding with len := 0, pages := [{ frame := 0, inT3 := false, dest := none, prov := true }] })] }

theorem witness_plan_entries : (planAll (serving short inst) short).length = 1 := by
  simp only [planAll, planInst, short]
  decide +kernel

/-- A plan entry of instance `ix`. -/
def entry (ix : Nat) : PEntry := { inst := ix, req := 0, chunk := false, nodes := [], first := 0, len := 1, pages := [], toks := [1], ends := false, set := 0 }

/-- A released step that starts, and one whose only instance is stalled and which is deferred; a step that has drained, and one that still
has a pass to run. -/
theorem witness_step_start :
    (∀ st ∈ [true, false],
      let g := { group with plan := some { plan with entries := [entry 0] }, release := some 5, bar := 7 }
      let s := { serving g { inst with stalled := st } with time := { TimeBase.reset with tread := 5 } }
      s.flt.sliceStopped = false ∧ coresRun s = true ∧ (settleObj s g.bar (· == .arrival)).2 = [] ∧
        (let u := syncRun (settleObj s g.bar (· == .arrival)).1 []
         mget u.groups (groupKey 3 1) = some g ∧ g.run = none ∧ 5 ≤ u.time.tread ∧ ((groupInsts u g).any fun i => i.2.running) = false ∧
           (([entry 0].any fun e => (mget u.insts e.inst).any Inst.serves) = !st))) ∧
      (∀ n ∈ [0, 1],
        let g := { group with run := some plan }
        let s := serving g { working with work := { passes := n, micro := [] } }
        mget s.groups (groupKey 3 1) = some g ∧ g.run = some plan ∧
          (((groupInsts s g).filter (·.2.running)).all fun i => i.2.work.passes == 0 && i.2.work.micro.isEmpty && regionDrained s i.2) =
            decide (n = 0)) ∧
      (let o : SyncObj := { object 1 0 0 with members := [{ kind := 4, id := 0, floor := true, modIx := 0x1FFF, arrivals := 0 }] }
       (o.memberIx true = [0] ∧ o.members[0]?.map (·.arrivals) = some 0 ∧ 0 ≤ o.oldest)) := by decide +kernel

theorem witness_gt_homes :
    (let g : Staging := { desc := 0, data := [], size := 8, got := 0, bad := [], status := 0, result := 0 }
     let s := recv { live with mem := { Memory.reset with staging := [(9, g)] } } (packet 1 (toObj 0 8 0) (List.replicate 8 1))
     mget s.mem.staging 9 = some g) ∧ mget live.mem.staging 9 = none ∧
      (let s := recv { served [(9, ownHome 0)] with hdm := [(0, { window with cache := true, target := 2 * 2 ^ 48 })] } (packet 1 (toObj 0 8 0) [])
       homeVerdict s 3 9 0 8 0 true = .serve (ownHome 0) ∧ writeHeld s 9 (ownHome 0) 0 8 = true) ∧
      writeHeld (recv (served [(9, ownHome 0)]) (packet 1 [] [])) 9 (ownHome 0) 0 8 = false ∧
      homeVerdict (recv (served [(9, ownHome 0)]) (packet 2 [] [])) 3 9 0 8 0 false = .serve (ownHome 0) ∧
      homeVerdict (recv (served []) (packet 2 [] [])) 3 9 0 8 0 false = .refuse ePerm ∧
      homeVerdict (recv (served [(9, ownHome 1)]) (packet 2 [] [])) 3 9 0 8 0 false = .redirect (ownHome 1) ∧
      (let s := recv { served [(9, ownHome 0)] with mem := { (served [(9, ownHome 0)]).mem with
          moving := [(9, { kind := 4, desc := 0, dest := ownHome 0, sent := false })] } } (packet 2 [] [])
       homeVerdict s 3 9 0 8 0 false = .wait) := by decide +kernel

theorem witness_gt_data_ends :
    (let o : OpSt := { word := word 0x50 [(64, 1), (96, 64)], done := 0, clk := 1 }
     let s := onTile live { tile 4 0 with core := { (tile 4 0).core with lanes := List.replicate 5 { LaneSt.idle with op := some o } } }
     ((tileOf s 0).lane 4).op = some o) ∧ (packet 3 [] [1]).poison = [] ∧
      (let g : Staging := { desc := 0, data := [], size := 8, got := 0, bad := [], status := 0, result := 0 }
       let s := { give live (moveDesc 2 0 4096) with mem := { Memory.reset with partner := [(0, (5, g))] } }
       mget s.taken 0 = some (took (moveDesc 2 0 4096)) ∧ mhas s.mem.partner 0 = true ∧ (msg 2 (.desc 0)).why = .desc 0) := by decide +kernel

/-- A harness of one tile whose T1 holds the router of layer 0. -/
def routeImage : Bytes :=
  cat [(4, 0x4E485944), (2, 1), (2, 0x200), (4, 768), (1, 0), (1, 0), (2, 16), (1, 1), (1, 0x10), (2, 3), (12, 0), (16, 9), (16, 0), (64, 0),
       (2, 1), (2, 0), (4, 512), (4, 128), (4, 1), (2, 5), (2, 0), (4, 640), (4, 16), (4, 1), (2, 6), (2, 0), (4, 704), (4, 48), (4, 1), (208, 0), (128, 0),
       (72, 0), (4, 0xFFFFFFFF), (6, 0), (2, 1), (8, 0), (2, 1), (34, 0),
       (2, 0), (2, 0x0101), (4, 0), (4, 64), (52, 0), (2, 0), (2, 0), (4, 0), (4, 32), (4, 16), (2, 0), (2, 1), (2, 0), (2, 1), (24, 0), (16, 0)]

/-- Instance 0 of that harness in a step with no entry. -/
def routed : State :=
  { serving { group with run := some plan } inst with harn := [(0, { ctx := 3, uid := 9, image := routeImage, pkg := none })] }

/-- An exchange message of kind `kind` for layer 0 with a digest; the digest of no entry is 0. -/
def exchangeBytes (kind digest : Nat) : Bytes := cat [(1, kind), (1, 0), (2, 0), (2, 0), (1, 0), (1, 0), (4, digest), (20, 0)]

theorem witness_exchange :
    (let s := onTile routed (tile 0 0)
     (∀ k ∈ [0, 1, 2], staleExchange s 0 (exchangeBytes k 0) = false) ∧ staleExchange s 0 (cat [(4, 0), (2, 1), (26, 0)]) = true ∧
       instOfTile s 0 = some (0, inst) ∧ (stepRoute s 0 inst 0).isSome = true ∧ routeAgrees s 0 inst (exchangeBytes 1 0) = true ∧
       routeAgrees s 0 inst (exchangeBytes 1 1) = false) ∧
      byteAt (exchangeBytes 3 0) 0 = 3 ∧ { stream with tile := 1 }.tile ≠ 0 := by decide +kernel

/-- A directory entry as its message carries it: T2 of module `m`. -/
def dirBytes (flags epoch m : Nat) : Bytes :=
  cat [(4, 9), (2, 3), (2, 1 + flags), (8, epoch), (2, 0x4000 + m), (2, 0), (4, 4096), (8, 4096), (8, 0), (2, 1), (2, 0), (4, 0), (8, 0)]

theorem witness_gt_dir :
    (let s := recv (served [(9, farHome)]) (packet 8 [] (dirBytes 2 1 0))
     (entryOf (dirBytes 2 1 0)).any (fun x => x.1 == 9 && x.2.modIx == 0 && x.2.moving && decide (offerStatus s 9 x.2 = stOk)) = true ∧
       dirGet s 9 = some farHome ∧ farHome.modIx ≠ s.net.index) ∧
      (let s := { recv (served [(9, farHome)]) (packet 8 [] []) with ctxs := [] }
       (entryOf (dirBytes 2 1 0)).any (fun x => decide (offerStatus s 9 x.2 ≠ stOk)) = true) ∧
      (entryOf (dirBytes 0 1 1)).map (fun x => (x.1, x.2.moving, x.2.epoch, x.2.modIx)) = some (9, false, 1, 1) ∧
      (entryOf (dirBytes 0 0 0)).map (fun x => (x.2.moving, x.2.epoch, x.2.modIx)) = some (false, 0, 0) ∧
      (ownHome 0).epoch = 0 ∧ (ownHome 0).modIx = 0 ∧ (0 : Nat) < (ownHome 1).epoch ∧ dirGet (recv (served []) (packet 8 [] [])) 9 = none ∧
      entryOf (cat [(4, 9), (2, 3), (2, 0), (8, 1), (48, 0)]) = none ∧ (ownHome 0).epoch ≤ fld (cat [(4, 9), (4, 0), (8, 1)]) 8 8 ∧
      fld (cat [(4, 9), (4, 0), (8, 1)]) 8 8 < (ownHome 2).epoch := by decide +kernel

theorem witness_gt_redirect :
    (∀ d ∈ [([] : AMap DirEntry), [(9, ownHome 0)], [(9, ownHome 2)]],
      let s := recv (served d) (packet 10 [] (cat [(4, 4), (4, 0)] ++ dirBytes 0 1 1))
      let s := { s with net := { s.net with msgs := [(4, msg 2 (.cxl 0))] } }
      let w := hwBump (dropRx s 0) (kMem 179) 1
      mget w.net.msgs 4 = some (msg 2 (.cxl 0)) ∧ (∀ a ∈ [0, 1], ∀ b ∈ [0, 1], (msg 2 (.cxl 0)).why ≠ .fetch a b) ∧
        (dirGet w 9).all (fun c => decide (c.epoch < 1)) = decide (d ≠ [(9, ownHome 2)])) := by decide +kernel

/-- The home of a forwarded EXPORT has its bytes, and one whose descriptor is not an EXPORT. -/
theorem witness_desc_done :
    (let g : Staging := { desc := 0, data := [], size := 8, got := 0, bad := [], status := 0, result := 0 }
     let s := { give (served [(9, farHome)]) (moveDesc 2 0 4096) with mem := { (served [(9, farHome)]).mem with partner := [(0, (5, g))] } }
     (exportRead s 0 1 stOk 0 0).isSome = true ∧ (exportRead s 0 1 ePerm 0 0).isNone = true) ∧
      partnerPart (took (moveDesc 1 0 4096)) = some (4096, true) ∧ partnerPart (took (desc 1 [])) = none := by decide +kernel

theorem witness_cap_deadline :
    (let s := powered { Power.reset with capDeadlines := [0], capW := 899 }
     let u := { s with pw := { s.pw with capDeadlines := s.pw.capDeadlines.filter fun t => !decide (t ≤ s.time.ticks) } }
     s.pw.capW < ratedW (pointDue u) ∧ s.pw.failsafe = false) ∧
      (let s := powered { Power.reset with capDeadlines := [0], capW := 4000 }
       let u := { s with pw := { s.pw with capDeadlines := s.pw.capDeadlines.filter fun t => !decide (t ≤ s.time.ticks) } }
       ratedW (pointDue u) ≤ s.pw.capW) := by decide +kernel

end Sys2Proof.Tests
end

section
/-!
PROOFS. Doorbells (13 R418, R430, R432, R438) and the REVOKE action of a context grant (13 R421).
-/
namespace Sys2Proof.Machine

/-! ### Ring and port updates of a command that fuses nothing -/

@[simp] theorem unfused_setQp (s : State) (p q : Nat) (v : QpSt) : unfused s (setQp s p q v) = setQp s p q v := rfl

@[simp] theorem unfused_setPort (s : State) (p : Nat) (v : PortSt) : unfused s (setPort s p v) = setPort s p v := rfl

@[simp] theorem unfused_dbErr (s : State) (p : Nat) : unfused s (dbErr s p) = dbErr s p := rfl

/-! ### What each doorbell does (R430) -/

theorem doorbellOk_iff {s : State} {p page size value log2 : Nat} :
    doorbellOk s p page size value log2 = true ↔ size = 4 ∧ page < 64 ∧ (qpOf s p page).en = true ∧ value < 2 ^ log2 := by
  simp [doorbellOk, and_assoc]

/-- A doorbell write of other than 4 bytes, to a page without a queue pair or to a disabled queue pair, whatever the ring. -/
theorem not_doorbellOk_of_page {s : State} {p page size : Nat} (h : size ≠ 4 ∨ 64 ≤ page ∨ (qpOf s p page).en = false)
    (value log2 : Nat) : ¬ doorbellOk s p page size value log2 = true := by
  rw [doorbellOk_iff]
  rintro ⟨hsize, hpage, hen, -⟩
  rcases h with h | h | h
  · exact h hsize
  · omega
  · simp [h] at hen

/-- A value of slots or more, whatever the page. -/
theorem not_doorbellOk_of_slots {value log2 : Nat} (h : 2 ^ log2 ≤ value) (s : State) (p page size : Nat) :
    ¬ doorbellOk s p page size value log2 = true := by
  rw [doorbellOk_iff]
  rintro ⟨-, -, -, hvalue⟩
  exact absurd h (Nat.not_le.mpr hvalue)

theorem exec_doorbellSqTail (s : State) (p : Port) (page : Fin 256) (size value : Nat) :
    exec (.doorbellSqTail p page size value) s = .next
      (if doorbellOk s p page size value (qpOf s p page).sqLog2 then setQp s p page { qpOf s p page with sqTail := value }
       else dbErr s p) := by
  change Host.Outcome.next (unfused s (ite _ _ _)) = _
  rw [apply_ite (unfused s), unfused_setQp, unfused_dbErr]

theorem exec_doorbellCqHead (s : State) (p : Port) (page : Fin 256) (size value : Nat) :
    exec (.doorbellCqHead p page size value) s = .next
      (if doorbellOk s p page size value (qpOf s p page).cqLog2 then
        setQp s p page { qpOf s p page with
          cqHead := value, cqUnsig := min (qpOf s p page).cqUnsig (ringUsed (qpOf s p page).cqLog2 value (qpOf s p page).cqTail) }
       else dbErr s p) := by
  change Host.Outcome.next (unfused s (ite _ _ _)) = _
  rw [apply_ite (unfused s), unfused_setQp, unfused_dbErr]

theorem exec_doorbellTqHead (s : State) (p : Port) (page : Fin 256) (size value : Nat) :
    exec (.doorbellTqHead p page size value) s = .next
      (if doorbellOk s p page size value (qpOf s p page).tqLog2 then
        unfused s (drainHeld (setQp s p page { qpOf s p page with
          tqHead := value, tqUnsig := min (qpOf s p page).tqUnsig (ringUsed (qpOf s p page).tqLog2 value (qpOf s p page).tqTail) })
          p page (qpOf s p page).held.length)
       else dbErr s p) := by
  change Host.Outcome.next (unfused s (ite _ _ _)) = _
  rw [apply_ite (unfused s), unfused_dbErr]

theorem exec_doorbellEqHead (s : State) (p : Port) (page : Fin 256) (size value : Nat) :
    exec (.doorbellEqHead p page size value) s = .next
      (if size = 4 ∧ page.val = 0 ∧ (portOf s p).eqEn = true ∧ value < 2 ^ (portOf s p).eqLog2 then
        setPort s p { portOf s p with eqHead := value }
       else dbErr s p) := by
  change Host.Outcome.next (unfused s (ite _ _ _)) = _
  rw [apply_ite (unfused s), unfused_setPort, unfused_dbErr]

/-! ### Register writes of BAR2 (R430, R568) -/

/-- What a register write commands of a meaning that fuses nothing is that meaning. -/
theorem next_unfused_landed {s t : State} {r : Host.Outcome State Fault Refusal} (h : r = .next (unfused s t)) :
    .next (unfused s (landed s r)) = r := by
  subst h
  rfl

section Bar2

variable {s : State} {p : Port} (hacts : hostWrites s p = true) (off size : Nat) (w : W64)
include hacts

theorem exec_registerWrite_bar2 :
    exec (.registerWrite p 2 off size w) s = .next (unfused s (writeBar2 s p off size w.toNat)) := by
  change Host.Outcome.next (queued s _) = _
  rw [if_neg (by simp [hacts]), if_neg (by decide), if_pos rfl]
  rfl

theorem exec_registerWrite_sqTail (h : off % 4096 = 0) : exec (.registerWrite p 2 off size w) s =
    exec (.doorbellSqTail p (Fin.ofNat 256 (off / 4096)) size w.toNat) s := by
  rw [exec_registerWrite_bar2 hacts, writeBar2, if_pos h]
  exact next_unfused_landed rfl

theorem exec_registerWrite_cqHead (h : off % 4096 = 4) : exec (.registerWrite p 2 off size w) s =
    exec (.doorbellCqHead p (Fin.ofNat 256 (off / 4096)) size w.toNat) s := by
  rw [exec_registerWrite_bar2 hacts, writeBar2, if_neg (by omega), if_pos h]
  exact next_unfused_landed rfl

theorem exec_registerWrite_tqHead (h : off % 4096 = 8) : exec (.registerWrite p 2 off size w) s =
    exec (.doorbellTqHead p (Fin.ofNat 256 (off / 4096)) size w.toNat) s := by
  rw [exec_registerWrite_bar2 hacts, writeBar2, if_neg (by omega), if_neg (by omega), if_pos h]
  exact next_unfused_landed rfl

theorem exec_registerWrite_eqHead (h : off % 4096 = 12) : exec (.registerWrite p 2 off size w) s =
    exec (.doorbellEqHead p (Fin.ofNat 256 (off / 4096)) size w.toNat) s := by
  rw [exec_registerWrite_bar2 hacts, writeBar2, if_neg (by omega), if_neg (by omega), if_neg (by omega), if_pos h]
  exact next_unfused_landed rfl

theorem exec_registerWrite_noDoorbell (h0 : off % 4096 ≠ 0) (h4 : off % 4096 ≠ 4) (h8 : off % 4096 ≠ 8) (h12 : off % 4096 ≠ 12) :
    exec (.registerWrite p 2 off size w) s = .next (dbErr s p) := by
  rw [exec_registerWrite_bar2 hacts, writeBar2, if_neg h0, if_neg h4, if_neg h8, if_neg h12, unfused_dbErr]

end Bar2

/-- Settles O14: each doorbell by its own equation, and a write of BAR2 by the offset in its page. -/
theorem doorbells : Obligations.doorbells := by
  intro s p page size value v po counted
  have hcounted : dbErr s p = counted := rfl
  refine ⟨fun hsize hpage hen => ⟨fun hv => ?sq, fun hv => ?cq, fun hv => ?tq⟩, fun hsize hpage hen hv => ?eq, fun h => ?page,
    fun h => ?sqSlots, fun h => ?cqSlots, fun h => ?tqSlots, fun h => ?eqIgnored, fun off w hbooted hport hlc => ?bar2, fun _ => rfl⟩
  case sq => rw [exec_doorbellSqTail, if_pos (doorbellOk_iff.mpr ⟨hsize, hpage, hen, hv⟩)]
  case cq => rw [exec_doorbellCqHead, if_pos (doorbellOk_iff.mpr ⟨hsize, hpage, hen, hv⟩)]
  case tq => rw [exec_doorbellTqHead, if_pos (doorbellOk_iff.mpr ⟨hsize, hpage, hen, hv⟩)]
  case eq => rw [exec_doorbellEqHead, if_pos ⟨hsize, hpage, hen, hv⟩]
  case page =>
    have hno := not_doorbellOk_of_page h value
    exact ⟨by rw [exec_doorbellSqTail, if_neg (hno _), hcounted], by rw [exec_doorbellCqHead, if_neg (hno _), hcounted],
      by rw [exec_doorbellTqHead, if_neg (hno _), hcounted]⟩
  case sqSlots => rw [exec_doorbellSqTail, if_neg (not_doorbellOk_of_slots h _ _ _ _), hcounted]
  case cqSlots => rw [exec_doorbellCqHead, if_neg (not_doorbellOk_of_slots h _ _ _ _), hcounted]
  case tqSlots => rw [exec_doorbellTqHead, if_neg (not_doorbellOk_of_slots h _ _ _ _), hcounted]
  case eqIgnored =>
    have hno : ¬ (size = 4 ∧ page.val = 0 ∧ po.eqEn = true ∧ value < 2 ^ po.eqLog2) := by
      rintro ⟨hsize, hpage, hen, hv⟩
      rcases h with h | h | h | h
      · exact h hsize
      · exact h hpage
      · simp [h] at hen
      · omega
    rw [exec_doorbellEqHead, if_neg hno, hcounted]
  case bar2 =>
    have hacts : hostWrites s p = true := by
      simp only [hostWrites, Bool.and_eq_true, bne_iff_ne]
      exact ⟨⟨hbooted, hport⟩, hlc⟩
    exact ⟨exec_registerWrite_sqTail hacts off size w, exec_registerWrite_cqHead hacts off size w,
      exec_registerWrite_tqHead hacts off size w, exec_registerWrite_eqHead hacts off size w,
      exec_registerWrite_noDoorbell hacts off size w⟩

/-! ### REVOKE (R421) -/

/-- A command of the mailbox runs once firmware does, in any life-cycle state but SCRAPPED (R595). -/
theorem withMailbox_of_running {s : State} (hlc : s.fuses.lc ≠ .scrapped) (hbooted : s.sup.booted = true)
    (hfw : s.tr.fwRunning = true) (cmd len : Nat) (act : State → State) :
    withMailbox s cmd len act = act { s with mb.cmd := cmd, mb.len := len } := by
  simp [withMailbox, hlc, hbooted, hfw]

theorem mem_mkeep {V : Type} {m : AMap V} {f : Nat → V → Bool} {k : Nat} {v : V} : (k, v) ∈ mkeep m f ↔ (k, v) ∈ m ∧ f k v = true :=
  List.mem_filter

theorem revokeOn_qpOwner (s : State) (c p : Nat) :
    (revokeOn s c p).qpOwner = mkeep s.qpOwner fun k v => !(v == c && k / 64 == p) := rfl

theorem revokeOn_winOwn (s : State) (c p : Nat) :
    (revokeOn s c p).winOwn = mkeep s.winOwn fun k v => !(v == c && k / 16 == p) := rfl

theorem mem_revokeOn_qpOwner {s : State} {c p k x : Nat} :
    (k, x) ∈ (revokeOn s c p).qpOwner ↔ (k, x) ∈ s.qpOwner ∧ (x ≠ c ∨ k / 64 ≠ p) := by
  rw [revokeOn_qpOwner, mem_mkeep]
  simp

theorem mem_revokeOn_winOwn {s : State} {c p k x : Nat} :
    (k, x) ∈ (revokeOn s c p).winOwn ↔ (k, x) ∈ s.winOwn ∧ (x ≠ c ∨ k / 16 ≠ p) := by
  rw [revokeOn_winOwn, mem_mkeep]
  simp

@[simp] theorem revokeOn_mem (s : State) (c p : Nat) : (revokeOn s c p).mem = s.mem := rfl
@[simp] theorem revokeOn_groups (s : State) (c p : Nat) : (revokeOn s c p).groups = s.groups := rfl
@[simp] theorem revokeOn_admits (s : State) (c p : Nat) : (revokeOn s c p).admits = s.admits := rfl

/-- True where a queue pair of context `c` on port `p` is enabled. -/
def holdsEnabledQp (s : State) (c p : Nat) : Bool :=
  s.qpOwner.any fun o => o.2 == c && o.1 / 64 == p && (qpOf s p (o.1 % 64)).en

theorem holdsEnabledQp_iff {s : State} {c p : Nat} :
    holdsEnabledQp s c p = true ↔ ∃ k, (k, c) ∈ s.qpOwner ∧ k / 64 = p ∧ (qpOf s p (k % 64)).en = true := by
  simp [holdsEnabledQp, and_assoc]

/-- A well-formed REVOKE that the mailbox accepts. -/
theorem exec_contextRevoke {s : State} {b : Bytes} (hlc : s.fuses.lc ≠ .scrapped) (hbooted : s.sup.booted = true)
    (hfw : s.tr.fwRunning = true) (hact : byteAt b 3 = 2) (hform : grantForm b = true) :
    exec (.contextRevoke b) s = .next (unfused s
      (if holdsEnabledQp s (fld b 0 2) (byteAt b 2) then mbReply { s with mb.cmd := 3, mb.len := b.length } eBusy 0
       else mbReply (revokeOn { s with mb.cmd := 3, mb.len := b.length } (fld b 0 2) (byteAt b 2)) stOk 0)) := by
  change Host.Outcome.next (unfused s (ite _ _ _)) = _
  rw [if_neg (by simp [hact, hform]), withMailbox_of_running hlc hbooted hfw]
  rfl

/-- Settles O43: a REVOKE ends in E_BUSY or in `revokeOn`, which keeps the queue pairs and windows that are not the context's
on the port. -/
theorem revoke : Obligations.revoke := by
  intro s b hlc hbooted hfw hact hform c p
  rw [exec_contextRevoke hlc hbooted hfw hact hform]
  refine ⟨fun hon => ?_, fun hoff => ⟨_, rfl, ?_⟩⟩
  · rw [if_pos (holdsEnabledQp_iff.mpr hon)]
    rfl
  · have hidle : ¬ holdsEnabledQp s c p = true := fun h => by
      obtain ⟨k, hk, hport, hen⟩ := holdsEnabledQp_iff.mp h
      simp [hoff k hk hport] at hen
    rw [if_neg hidle]
    simp only [unfused_qpOwner, mbReply_qpOwner, unfused_winOwn, mbReply_winOwn, mem_revokeOn_qpOwner, mem_revokeOn_winOwn]
    refine ⟨rfl, fun k h => ?_, fun k h => ?_, fun k x h => and_iff_left h, fun k x h => and_iff_left h, rfl, rfl, rfl⟩
    · exact h.2.resolve_left (fun hne => hne rfl)
    · exact h.2.resolve_left (fun hne => hne rfl)

end Sys2Proof.Machine
end

section
/-!
PROOFS. SVN_COMMIT (14 R455, R456).
-/
namespace Sys2Proof.Machine

/-! ### The checks of SVN_COMMIT, in the order of R456 -/

section SvnStatus

variable {s : State}

theorem svnStatus_of_notNext (harg : s.mb.arg ≠ s.fuses.svnUsed + 1) : svnStatus s = ePerm :=
  if_pos harg

variable (harg : s.mb.arg = s.fuses.svnUsed + 1)
include harg

theorem svnStatus_of_usedUp (hused : 63 ≤ s.fuses.svnUsed) : svnStatus s = eCapacity := by
  rw [svnStatus, if_neg (not_not_intro harg), if_pos hused]

theorem svnStatus_of_aboveFirmware (hleft : s.fuses.svnUsed < 63) (hfw : s.tr.fwSvn < s.mb.arg) : svnStatus s = ePerm := by
  rw [svnStatus, if_neg (not_not_intro harg), if_neg hleft.not_ge, if_pos hfw]

theorem svnStatus_of_accepted (hleft : s.fuses.svnUsed < 63) (hfw : s.mb.arg ≤ s.tr.fwSvn) : svnStatus s = stOk := by
  rw [svnStatus, if_neg (not_not_intro harg), if_neg hleft.not_ge, if_neg hfw.not_gt]

end SvnStatus

/-! ### What SVN_COMMIT does once firmware runs (R456, R595) -/

/-- The state with the used count `n` of security version increments fused and logged, and EV_LIFE_LIMIT raised where the
count asks for it (R455). -/
def fuseSvn (s : State) (n : Nat) : State :=
  countLimit (fuseLog { s with fuses.svnUsed := n } 3 n (sha3 (digestBytes s.tr.measurement))) 2 n 63

@[simp] theorem fuseSvn_svnUsed (s : State) (n : Nat) : (fuseSvn s n).fuses.svnUsed = n :=
  congrArg Fuses.svnUsed (fuses_countLimit _ _ _ _)

section Running

variable {s : State} (hlc : s.fuses.lc ≠ .scrapped) (hbooted : s.sup.booted = true) (hrun : s.tr.fwRunning = true)
include hlc hbooted hrun

/-- The checks read nothing that the write of GO changes, so they are those of the state before it. -/
theorem exec_svnCommit : exec .svnCommit s = .next (queued s
    (if svnStatus s ≠ stOk then mbReply { s with mb.cmd := 0x11 } (svnStatus s) 0
     else mbReply (fuseSvn { s with mb.cmd := 0x11 } (s.fuses.svnUsed + 1)) stOk 0)) := by
  change Host.Outcome.next (queued s _) = _
  rw [withMailbox_of_running hlc hbooted hrun]
  rfl

theorem exec_svnCommit_refused {st : Nat} (hst : svnStatus s = st) (hrefused : st ≠ stOk) :
    exec .svnCommit s = .next { s with mb.cmd := 0x11, mb.status := st, mb.result := 0 } := by
  subst hst
  rw [exec_svnCommit hlc hbooted hrun, if_pos hrefused]
  rfl

theorem exec_svnCommit_accepted (hst : svnStatus s = stOk) : exec .svnCommit s =
    .next (queued s (mbReply (fuseSvn { s with mb.cmd := 0x11 } (s.fuses.svnUsed + 1)) stOk 0)) := by
  rw [exec_svnCommit hlc hbooted hrun, if_neg (not_not_intro hst)]

end Running

theorem ePerm_ne_stOk : ePerm ≠ stOk := by decide

theorem eCapacity_ne_stOk : eCapacity ≠ stOk := by decide

/-- Settles O41: a STATUS per check of R456; a refusal replies and no more, and an accepted command fuses `svnUsed + 1`. -/
theorem svnCommit : Obligations.svn_commit := by
  intro s hlc hbooted hrun refused
  refine ⟨fun harg => ?notNext, fun harg hused => ?usedUp, fun harg hleft hfw => ?aboveFirmware, fun harg hleft hfw => ?accepted⟩
  case notNext => exact exec_svnCommit_refused hlc hbooted hrun (svnStatus_of_notNext harg) ePerm_ne_stOk
  case usedUp => exact exec_svnCommit_refused hlc hbooted hrun (svnStatus_of_usedUp harg hused) eCapacity_ne_stOk
  case aboveFirmware =>
    exact exec_svnCommit_refused hlc hbooted hrun (svnStatus_of_aboveFirmware harg hleft hfw) ePerm_ne_stOk
  case accepted =>
    refine ⟨_, exec_svnCommit_accepted hlc hbooted hrun (svnStatus_of_accepted harg hleft hfw), ?_, rfl⟩
    rw [queued_fuses, mbReply_fuses, fuseSvn_svnUsed]

end Sys2Proof.Machine
end

section
/-!
PROOFS. Hardware-extended counters: the architected value and its service (16 R501, R502).
-/
namespace Sys2Proof.Machine

theorem value_eq_shift_or (c : HwCtr) (hcount : c.count < 2 ^ 40) :
    c.value = (((c.ext + (c.epoch + 256 - c.extEpoch) % 256) <<< 40) ||| c.count) % 2 ^ 64 := by
  rw [← Nat.shiftLeft_add_eq_or_of_lt hcount, Nat.shiftLeft_eq]
  exact arith1 _ _ hcount

theorem value_lt {c : HwCtr} (hcount : c.count < 2 ^ 40) : c.value < 2 ^ 64 := by
  rw [value_eq_shift_or c hcount]
  exact Nat.mod_lt _ (by decide)

/-- A service moves the wraps since the last one from the epoch into EXT, so the value does not show it. -/
@[simp] theorem service_value (c : HwCtr) : c.service.value = c.value := by
  simp only [HwCtr.value, HwCtr.service]
  omega

/-- Since a service EXT_EPOCH is the EPOCH from which counting went on, so the wraps come back as long as they are fewer than 256. -/
theorem foldl_add_service_value {c : HwCtr} (hcount : c.count < 2 ^ 40) (hepoch : c.epoch < 256) {ns : List Nat}
    (hwraps : (c.count + ns.sum) / 2 ^ 40 < 256) : (ns.foldl HwCtr.add c.service).value = (c.value + ns.sum) % 2 ^ 64 := by
  by_cases hns : ns = []
  · subst hns
    rw [List.foldl_nil, service_value, List.sum_nil, Nat.add_zero, Nat.mod_eq_of_lt (value_lt hcount)]
  · obtain ⟨half, wrapped, hfold⟩ := foldl_add ns c.service
    rw [hfold, if_neg hns, if_neg hns]
    exact arith3 _ c.epoch c.count ns.sum hcount hepoch trivial hwraps

theorem add_wrapped_of_half {c : HwCtr} {n : Nat} (hhalf : c.half = true) (hwrap : 2 ^ 40 ≤ c.count + n) :
    (c.add n).wrapped = true := by
  have hwraps : 1 ≤ (c.count + n) / 2 ^ 40 := (Nat.one_le_div_iff (by decide)).mpr hwrap
  simp only [HwCtr.add, hhalf, decide_eq_true hwraps, Bool.true_or, Bool.and_self, Bool.or_true]

theorem add_wrapped_of_wrapped {c : HwCtr} (n : Nat) (hwrapped : c.wrapped = true) : (c.add n).wrapped = true := by
  simp [HwCtr.add, hwrapped]

/-- Settles O40: what was counted since a service is the sum of its portions, whose wraps EPOCH - EXT_EPOCH counts modulo 256. -/
theorem architectedValue : Obligations.architected_value := by
  intro c hcount hepoch _ _
  refine ⟨value_eq_shift_or c hcount, fun ns hwraps => ?_, fun n => add_wrapped_of_half, add_wrapped_of_wrapped, service_value c⟩
  have hvalue := foldl_add_service_value hcount hepoch hwraps
  exact ⟨hvalue, (service_value _).trans hvalue⟩

end Sys2Proof.Machine
end

section
/-!
PROOFS. The slot report and the start of a self-test slice (16 R518, R519, Table 16-12).
-/
namespace Sys2Proof.Machine

/-! ### SLOT (R518) -/

theorem exists_sendIbi_eq (s : State) (code : Nat) : ∃ i, sendIbi s code = { s with i3c := i } := by
  unfold sendIbi
  split
  · exact ⟨_, rfl⟩
  · exact ⟨s.i3c, rfl⟩

theorem exists_notify_eq (s : State) (code : Nat) : ∃ i, notify s code = { s with i3c := i } := by
  unfold notify
  split
  · exact exists_sendIbi_eq s code
  · exact exists_sendIbi_eq { s with i3c.notes := s.i3c.notes ++ [code] } code

theorem exists_answerRemove_eq (s : State) : ∃ i, answerRemove s = { s with i3c := i } := by
  unfold answerRemove
  split
  · exact exists_notify_eq { s with i3c.removeOk := true, i3c.removeNot := false } 1
  · exact exists_notify_eq { s with i3c.removeOk := false, i3c.removeNot := true } 2

/-- A SLOT message writes the slot; the rest of its effect is in the I3C registers. -/
theorem exec_slot {s : State} {b : Bytes} (hpwr : s.sup.pwrgood = true) (hlen : b.length = 1) :
    ∃ i, exec (.slot b) s = .next { s with st.slot := fld b 0 1 % 4, st.slotValid := true, i3c := i } := by
  change ∃ i, Host.Outcome.next (unfused s (ite _ _ _)) = _
  rw [if_pos hpwr, if_pos hlen]
  dsimp only
  split
  · obtain ⟨i, hi⟩ := exists_answerRemove_eq { s with
      i3c.index := 4, st.slot := fld b 0 1 % 4, st.slotValid := true, i3c.remove := bit (fld b 0 1) 2 }
    exact ⟨i, by rw [hi]; rfl⟩
  · exact ⟨_, rfl⟩

/-- SELFTEST_CFG as port 0 reads it (Table 16-12). -/
theorem readBar0_selftestCfg {s : State} (hlc : s.fuses.lc ≠ .scrapped) : readBar0 s 0 0x60088 8 = some (BitVec.ofNat 64
    ((b2n s.st.en + s.st.period * 2 ^ 16 + s.st.slot * 2 ^ 32 + b2n s.st.slotValid * 2 ^ 34) % 2 ^ 64)) := by
  have hword : readWord s 0 0x60088 =
      b2n s.st.en + s.st.period * 2 ^ 16 + s.st.slot * 2 ^ 32 + b2n s.st.slotValid * 2 ^ 34 := if_neg hlc
  rw [← hword]
  rfl

theorem b2n_le_one (b : Bool) : b2n b ≤ 1 := by
  cases b <;> decide

/-- EN and PERIOD fill the low half of SELFTEST_CFG; SLOT and its valid bit are in the upper half. -/
theorem selftestCfg_upper {en period slot : Nat} (hen : en ≤ 1) (hperiod : period < 65536) (hslot : slot < 4) :
    (BitVec.ofNat 64 ((en + period * 2 ^ 16 + slot * 2 ^ 32 + b2n true * 2 ^ 34) % 2 ^ 64)).toNat / 2 ^ 32 = slot + 4 := by
  rw [BitVec.toNat_ofNat, b2n, if_pos rfl]
  omega

/-! ### SELFTEST_SLICE_START (R518, R519) -/

/-- The start treads of R518, told by the flight and the place in it. -/
theorem startTread_iff {tread period slot : Nat} (hslot : slot < 4) :
    tread / 4096 % period = 0 ∧ tread % 4096 = 1024 * slot + 256 ↔
      ∃ f, f % period = 0 ∧ tread = f * 4096 + 1024 * slot + 256 := by
  constructor
  · rintro ⟨hflight, hplace⟩
    exact ⟨tread / 4096, hflight, by omega⟩
  · rintro ⟨f, hf, rfl⟩
    have hflight : (f * 4096 + 1024 * slot + 256) / 4096 = f := by omega
    exact ⟨hflight.symm ▸ hf, by omega⟩

theorem sliceDue_iff {s : State} (hvalid : s.st.slotValid = true) (hslot : s.st.slot < 4) (hloaded : s.time.loaded = true)
    (hrun : s.tr.fwRunning = true) (hlc : s.fuses.lc = .provisioned ∨ s.fuses.lc = .deployed) (hperiod : 0 < s.st.period) :
    sliceDue s = true ↔ ∃ f, f % s.st.period = 0 ∧ s.time.tread = f * 4096 + 1024 * s.st.slot + 256 := by
  rw [← startTread_iff hslot]
  simp [sliceDue, flight, hvalid, hloaded, hrun, hlc, hperiod]

theorem sliceDue_of_noSlot {s : State} (hvalid : s.st.slotValid = false) : sliceDue s = false := by
  simp [sliceDue, hvalid]

theorem sliceDeferred_iff {s : State} : sliceDeferred s = true ↔ s.ps.state = 2 ∨ s.pw.coolantStop = true ∨ s.pw.brake = true ∨
    s.pw.tripOn = true ∨ s.pw.failsafe = true ∨ s.st.en = false := by
  simp [sliceDeferred, or_assoc]

theorem exec_selftestSliceStart_notDue {s : State} (hdue : sliceDue s = false) : exec .selftestSliceStart s = .next s := by
  change Host.Outcome.next (unfused s (ite _ _ _)) = _
  rw [if_pos (Or.inl (by simp [hdue]))]
  rfl

section Due

variable {s : State} (hdue : sliceDue s = true) (hidle : s.st.running = false)
include hdue hidle

theorem exec_selftestSliceStart_due : exec .selftestSliceStart s = .next (unfused s
    (if sliceDeferred s then fwBump s (kLife 3) 1
     else fwBump { s with st.running := true, st.sliceTread := s.time.tread } (kLife 2) 1)) := by
  change Host.Outcome.next (unfused s (ite _ _ _)) = _
  rw [if_neg (by simp [hdue, hidle])]

theorem exec_selftestSliceStart_deferred (hdef : sliceDeferred s = true) :
    exec .selftestSliceStart s = .next (unfused s (fwBump s (kLife 3) 1)) := by
  rw [exec_selftestSliceStart_due hdue hidle, if_pos hdef]

theorem exec_selftestSliceStart_starts (hdef : ¬ sliceDeferred s = true) : exec .selftestSliceStart s =
    .next (unfused s (fwBump { s with st.running := true, st.sliceTread := s.time.tread } (kLife 2) 1)) := by
  rw [exec_selftestSliceStart_due hdue hidle, if_neg hdef]

end Due

/-- Settles O58: the SLOT message and the register that shows it, then SELFTEST_SLICE_START by whether a slice is due and deferred. -/
theorem selfTestSlices : Obligations.self_test_slices := by
  intro s
  refine ⟨fun b hpwr hlen hlc hperiod => ?slot, fun hvalid => ?noSlot, fun hvalid hslot hloaded hrun hlc hperiod hidle => ?start⟩
  case slot =>
    obtain ⟨i, hexec⟩ := exec_slot hpwr hlen
    exact ⟨_, _, hexec, rfl, rfl, readBar0_selftestCfg hlc,
      selftestCfg_upper (b2n_le_one s.st.en) hperiod (Nat.mod_lt _ (by decide))⟩
  case noSlot => exact exec_selftestSliceStart_notDue (sliceDue_of_noSlot hvalid)
  case start =>
    intro due deferred
    have hdue : sliceDue s = true ↔ due := sliceDue_iff hvalid hslot hloaded hrun hlc hperiod
    have hdef : sliceDeferred s = true ↔ deferred := sliceDeferred_iff
    rw [← hdue, ← hdef]
    refine ⟨fun hno => ?notDue, fun hyes hwaits => ?deferred, fun hyes hgoes => ?starts⟩
    case notDue => exact exec_selftestSliceStart_notDue (Bool.eq_false_of_not_eq_true hno)
    case deferred =>
      refine ⟨_, exec_selftestSliceStart_deferred hyes hidle hwaits, ?_⟩
      rw [unfused_st, fwBump_st]
    case starts =>
      refine ⟨_, exec_selftestSliceStart_starts hyes hidle hgoes, ?_⟩
      rw [unfused_st, fwBump_st]

end Sys2Proof.Machine
end

section
/-!
PROOFS. SYNC_FORCE with a full force log (11 R365, 16 R509).
-/
namespace Sys2Proof.Machine

theorem forceFull_iff {s : State} : forceFull s = true ↔ 32768 ≤ s.store.forceLog.length :=
  decide_eq_true_iff

theorem forceAllowed_of_full {s : State} (hfull : forceFull s = true) : forceAllowed s = false := by
  simp [forceAllowed, hfull]

/-- With a full force log the record goes to the event log with FORCE_FULL set; besides it only SYNC_FORCED moves. -/
theorem forceRecord_of_full {s : State} (hfull : forceFull s = true) (ob act res old new : Nat) : ∃ f r,
    forceRecord s ob act res old new = { s with fwc := f, evPend := s.evPend ++ [r] } ∧ r.kind = 2 ∧ r.flags = 1 := by
  unfold forceRecord
  refine ⟨_, _, if_pos hfull, rfl, ?_⟩
  rw [hfull]
  rfl

section Refused

variable {s : State} (hlc : s.fuses.lc ≠ .scrapped) (hno : forceAllowed s = false) (k : SyncIx) (v : W32)
include hlc hno

/-- Where SYNC_FORCE does not act, GO leaves its fields, RESULT 2 and a record, of either action and whatever the object is. -/
theorem exec_syncForceSetValue_refused : exec (.syncForceSetValue k v) s = .next (unfused s (forceRecord
    { s with sf := { object := k, action := 0, result := 2, value := v.toNat } } k 0 2 ((mget s.objs k).elim 0 (·.value)) v.toNat)) := by
  change Host.Outcome.next (unfused s (ite _ _ _)) = _
  rw [if_neg hlc]
  cases mget s.objs k <;> simp [hno]

theorem exec_syncForceRelease_refused : exec (.syncForceRelease k v) s = .next (unfused s (forceRecord
    { s with sf := { object := k, action := 1, result := 2, value := v.toNat } } k 1 2 0 v.toNat)) := by
  change Host.Outcome.next (unfused s (ite _ _ _)) = _
  rw [if_neg hlc]
  cases mget s.objs k <;> simp [hno]

theorem exec_syncForce_refused {c : Instr} (hc : c = .syncForceSetValue k v ∨ c = .syncForceRelease k v) :
    ∃ act old, exec c s = .next (unfused s (forceRecord
      { s with sf := { object := k, action := act, result := 2, value := v.toNat } } k act 2 old v.toNat)) := by
  rcases hc with rfl | rfl
  · exact ⟨0, _, exec_syncForceSetValue_refused hlc hno k v⟩
  · exact ⟨1, 0, exec_syncForceRelease_refused hlc hno k v⟩

end Refused

/-- Settles O42: a full force log refuses either action, and the record of a refusal is then one of the event log. -/
theorem fullForceLog : Obligations.full_force_log := by
  intro s k v c hc hlc hlog
  have hfull : forceFull s = true := forceFull_iff.mpr hlog
  obtain ⟨act, old, hexec⟩ := exec_syncForce_refused hlc (forceAllowed_of_full hfull) k v hc
  obtain ⟨f, r, hrec, hkind, hflags⟩ := forceRecord_of_full
    (s := { s with sf := { object := k, action := act, result := 2, value := v.toNat } }) hfull k act 2 old v.toNat
  exact ⟨_, r, by rw [hexec, hrec], rfl, rfl, hkind, by rw [hflags]⟩

end Sys2Proof.Machine
end

section
/-!
PROOFS. What a step does with the queue of commands, and which commands write fuses (06 R232, 14 R451, R455, R457).
-/
namespace Sys2Proof.Machine

/-- The commands that may write fuses (R232, R451, R455): every other one answers `unfused`. -/
def mayFuse : Instr → Bool
  | .toManufacture _ | .toProvisioned _ | .ownerClaim _ | .ownerTransfer _ | .debugUnlock _ | .toReturn _ | .toScrapped _
  | .svnCommit | .repairDone | .registerWrite .. => true
  | _ => false

/-- Every command answers a next state with the queue as it was, and with the fuses as they were unless it may fuse. -/
theorem exec_answers (c : Instr) (s : State) :
    ∃ t, exec c s = .next t ∧ t.pending = s.pending ∧ (mayFuse c = false → t.fuses = s.fuses) := by
  cases c
  case toManufacture | toProvisioned | ownerClaim | ownerTransfer | debugUnlock | toReturn | toScrapped | svnCommit | repairDone
    | registerWrite => exact ⟨_, rfl, rfl, fun h => nomatch h⟩
  all_goals exact ⟨_, rfl, rfl, fun _ => rfl⟩

theorem exec_pending {c : Instr} {s t : State} (h : exec c s = .next t) : t.pending = s.pending := by
  obtain ⟨u, hu, hpending, -⟩ := exec_answers c s
  cases h.symm.trans hu
  exact hpending

theorem exec_fuses {c : Instr} {s t : State} (h : exec c s = .next t) (hc : mayFuse c = false) : t.fuses = s.fuses := by
  obtain ⟨u, hu, -, hfuses⟩ := exec_answers c s
  cases h.symm.trans hu
  exact hfuses hc

/-- A command that may fuse only moves the fuses forward, one lemma of the trust laws for each kind of such a command. -/
theorem fine_exec {c : Instr} {s t : State} (h : exec c s = .next t) : fine s.fuses t.fuses := by
  by_cases hc : mayFuse c = true
  · cases c
    case toManufacture b | toProvisioned b | ownerClaim b | ownerTransfer b | debugUnlock b | toReturn b | toScrapped b =>
      exact fine_tokens s b _ t h (by simp)
    case svnCommit => exact fine_svn s t h
    case repairDone => exact fine_repair s t h
    case registerWrite p bar off size v => exact fine_reg s p bar off size v t h
    all_goals exact nomatch hc
  · exact fine_of_eq (exec_fuses h (Bool.eq_false_of_not_eq_true hc))

theorem fine_step {s t : State} (h : step s = .next t) : fine s.fuses t.fuses := by
  unfold step at h
  split at h
  · cases h
    exact fine_rfl s.fuses
  · have hfine := fine_exec h
    exact hfine

/-- Settles O1: the definition of a step at a queue that is not empty. -/
theorem stepRunsFront : Obligations.step_runs_front :=
  fun _ _ _ => rfl

/-- Settles O11: no count is used at reset and the fused log is empty. -/
theorem resetFusesWf : Obligations.reset_fuses_wf := by
  unfold Obligations.reset_fuses_wf Fuses.wf
  decide

/-- Settles O12: one clk fuses nothing, and a command moves the fuses forward. -/
theorem fusesOnlyForward : Obligations.fuses_only_forward :=
  fun _ _ hwf hstep => fine_step hstep hwf

/-- Settles O13: the commands that the statement names are those that may fuse. -/
theorem onlyTokensAndCountsFuse : Obligations.only_tokens_and_counts_fuse := by
  intro c s t h
  refine ⟨exec_pending h, fun hc => exec_fuses h ?_⟩
  cases c
  case toManufacture | toProvisioned | ownerClaim | ownerTransfer | debugUnlock | toReturn | toScrapped | svnCommit | repairDone
    | registerWrite => exact hc.elim
  all_goals rfl

end Sys2Proof.Machine
end

section
/-!
PROOFS. Supply, boot and resets (13 R417, 17 R526 to R533, 19 R572, R573, R587), and what registers hold at reset.
-/
namespace Sys2Proof.Machine

/-- A meaning that fuses nothing, told by what its body comes to. -/
theorem answers {r : Host.Outcome State Fault Refusal} {s t u : State} (hr : r = .next (unfused s u)) (h : u = t) :
    r = .next (unfused s t) := h ▸ hr

/-- The same where the state it comes to has the fuses and the queue of the state before. -/
theorem answers_plain {r : Host.Outcome State Fault Refusal} {s t u : State} (hr : r = .next (unfused s u)) (h : u = t)
    (ht : unfused s t = t) : r = .next t := ht ▸ answers hr h

/-! ### The converter (R573, R587) -/

/-- Settles O2: each of the three rows is `poweredOff` on a module that is on. -/
theorem converterGoesOff : Obligations.converter_goes_off := by
  intro s dieC hbmC hon off
  have hoff (u : State) (cause : OffCause) (fell : Bool) : ite (s.sup.on = true) (poweredOff s cause fell) u = poweredOff s cause fell :=
    if_pos hon
  exact ⟨answers rfl (hoff _ _ _), answers rfl (hoff _ _ _), fun hhot => answers rfl (if_pos ⟨hon, hhot⟩)⟩

theorem bootLife_eq (s : State) : bootLife s = { s.store.life with
    coldBoots := s.store.life.coldBoots + 1,
    uncleanOffs := if s.store.life.cleanOff = false ∧ 0 < s.store.lifeWrites then s.store.life.uncleanOffs + 1
      else s.store.life.uncleanOffs } := by
  unfold bootLife b2n
  split <;> simp_all

/-- The state in which a module comes on with the lifetime record `r` (R512, R572). -/
def comesOn (s : State) (r : LifeRec) : State :=
  standingCauses (logEvent { poweredOff s .none false with sup.on := true, sup.pwrgood := true, life.cur := r } 7 0xFFFF [])

theorem powerOn_eq (s : State) : powerOn s = comesOn s (bootLife s) := rfl

/-- Settles O3: both rows are `powerOn`, whose lifetime record is `bootLife`. -/
theorem coldPowerOnResult : Obligations.cold_power_on_result := by
  intro s hoff r up
  have hup : powerOn s = up := (powerOn_eq s).trans (congrArg (comesOn s) (bootLife_eq s))
  have hon : ¬ s.sup.on = true := by simp [hoff]
  refine ⟨fun hcause => answers rfl (((if_neg hon).trans (if_neg ?_)).trans hup), fun hcause => answers rfl ((if_pos ?_).trans hup)⟩
  · rintro ⟨hwas, hstill⟩
    rcases hcause with ⟨hover, hthermal⟩ | hfell
    · exact hwas.elim hover hthermal
    · simp [hfell] at hstill
  · exact ⟨by simp [hoff], hcause⟩

/-! ### Boot (R417, R449) -/

theorem portLanes_ne_zero (s : State) (p : Port) : (portLanes s p != 0) =
    decide ((s.splitOn = 0 ∧ p.val = 0) ∨ (s.splitOn = 1 ∧ p.val < 2) ∨ s.splitOn = 2) := by
  have hp := p.isLt
  unfold portLanes
  repeat' split
  all_goals simp_all

/-- The ports after the deassertion of PERST_N: each is present where the split gives it lanes (R417). -/
def bootPorts (s : State) : AMap PortSt :=
  [0, 1, 2, 3].foldl (fun m p => mset m p { mgetD m p .reset with present := portLanes { s with splitOn := s.split } p != 0 }) s.ports

theorem mgetD_bootPorts (s : State) (p : Port) : mgetD (bootPorts s) p .reset =
    { portOf s p with present := portLanes { s with splitOn := s.split } p != 0 } := by
  fin_cases p <;> simp [bootPorts, mgetD_mset, portOf]

theorem exec_perstDeassertBoot {s : State} (hpwr : s.sup.pwrgood = true) (hperst : s.sup.perst = true) (hlc : s.fuses.lc ≠ .scrapped) :
    let u := { s with sup.perst := false, sup.coldBoot := false, sup.booted := true, splitOn := s.split, ports := bootPorts s }
    exec .perstDeassertBoot s = .next (unfused s (
      if s.sup.coldBoot = true then { u with tr.t3Key := some (BitVec.ofNat 256 (freeValue s.fv)), fv := s.fv + 1 }
      else standingCauses { u with pw.brake := false, pw.tripOn := false, pw.coolantStop := false, pw.thermal := false })) :=
  answers rfl ((if_neg (by simp [hpwr, hperst])).trans (if_neg hlc))

theorem isEmpty_eraseDups (l : List (Fin 24)) : l.eraseDups.isEmpty = l.isEmpty := by
  cases l <;> simp [List.eraseDups_cons]

/-- No word is poisoned where no stack failed. -/
theorem poison_failed (s : State) (bad : List (Fin 24)) :
    (if bad.isEmpty = true then s else { s with mem.poison3 := (failedWords s bad).foldl addWord s.mem.poison3 }) =
      { s with mem.poison3 := (failedWords s bad).foldl addWord s.mem.poison3 } := by
  cases bad with
  | nil =>
    have hnone : failedWords s [] = [] := by simp [failedWords]
    rw [hnone]
    rfl
  | cons k ks => rfl

/-- Settles O4: the fold over the ports is `bootPorts`, and the words of the stacks that failed are poisoned. -/
theorem bootSamplesSplit : Obligations.boot_samples_split := by
  intro s
  refine ⟨fun hpwr hperst => ⟨fun hlc => ?scrapped, fun hlc => ⟨bootPorts s, fun p => ?ports, exec_perstDeassertBoot hpwr hperst hlc⟩⟩,
    fun hfw hready => ?t2, fun hfw ht2 ht3 hgib failed => ?t3⟩
  case scrapped => exact answers_plain rfl ((if_neg (by simp [hpwr, hperst])).trans (if_pos hlc)) rfl
  case ports => rw [mgetD_bootPorts, portLanes_ne_zero]
  case t2 => exact answers_plain rfl (if_pos ⟨hfw, by simp [hready]⟩) rfl
  case t3 =>
    refine answers_plain rfl ((if_pos ⟨hfw, ht2, by simp [ht3], hgib⟩).trans ?_) rfl
    refine (poison_failed _ _).trans ?_
    rw [← isEmpty_eraseDups failed]
    rfl

/-! ### Registers at reset (18 R561) -/

theorem readTier_reset (tier a : Nat) : readTier .reset tier a 1 = [0] := by
  have hempty : tierMem .reset tier = [] := by
    unfold tierMem
    repeat' split
    all_goals rfl
  rw [readTier, hempty]
  rfl

/-- Settles O6: the reset state is a closed term, and its memories hold no cell. -/
theorem resetValues : Obligations.reset_values := by
  unfold Obligations.reset_values
  refine ⟨by decide, fun p => ⟨rfl, rfl, rfl, rfl⟩, fun k => rfl, by decide, by decide, rfl, rfl, rfl, rfl, rfl, rfl, rfl, rfl,
    reset_memory_wf.1, reset_memory_wf.2, readTier_reset, rfl⟩

/-- Settles O57: each register's word of the reset state is a closed term. -/
theorem registersReadAtReset : Obligations.registers_read_at_reset := by
  unfold Obligations.registers_read_at_reset
  decide

/-! ### Warm reset (R531, R533, Tables 17-2, 17-3, 17-6) -/

/-- The state that a warm reset acts on: what is under way has settled, sealed contexts and the array are cleared. -/
def warmSettled (s : State) : State := clearArray (endContexts (clearSealed (settleMoves (settleRebuilds s))))

theorem butH_warmSettled (s : State) : butH (warmSettled s) = butH s := butH_X s

theorem exec_warmReset {s : State} (hpwr : s.sup.pwrgood = true) :
    exec .warmReset s = .next (unfused s (logReset (warmState (warmSettled s)) 1 0xFF 1)) :=
  answers rfl (if_pos hpwr)

theorem mem_mmap {V : Type} {m : AMap V} {f : Nat → V → V} {e : Nat × V} (h : e ∈ mmap m f) : ∃ v, (e.1, v) ∈ m ∧ e.2 = f e.1 v := by
  obtain ⟨⟨k, v⟩, hmem, rfl⟩ := List.mem_map.mp h
  exact ⟨v, hmem, rfl⟩

theorem clearSealed_ctxs (s : State) :
    (clearSealed s).ctxs = mkeep s.ctxs fun c _ => !((s.ctxs.filter (·.2.isSealed)).map (·.1)).contains c := by
  change mkeep (sealedFold s).ctxs (fun c _ => !((s.ctxs.filter (·.2.isSealed)).map (·.1)).contains c) = _
  rw [sealedFold_ctxs]

theorem not_isSealed_of_mem_clearSealed {s : State} {c : Nat × Ctx} (hc : c ∈ (clearSealed s).ctxs) : c.2.isSealed = false := by
  rw [clearSealed_ctxs] at hc
  obtain ⟨hmem, hkeep⟩ := List.mem_filter.mp hc
  by_contra hsealed
  have hlisted : c.1 ∈ (s.ctxs.filter (·.2.isSealed)).map (·.1) :=
    List.mem_map_of_mem (List.mem_filter.mpr ⟨hmem, Bool.eq_true_of_not_eq_false hsealed⟩)
  simp only [List.contains_iff_mem.mpr hlisted, Bool.not_true, Bool.false_eq_true] at hkeep

theorem warmState_ctxs (s : State) :
    (warmState s).ctxs = mmap s.ctxs fun _ c => { c with t2Alloc := 0, t3Alloc := 0, vids := [] } := rfl

/-- Settles O5: `butH_warmSettled` gives what is kept, `warmState` what is cleared. -/
theorem warmResetKeepsAndClears : Obligations.warm_reset_keeps_and_clears := by
  intro s hpwr
  have hkept : butH (warmSettled s) = butH s := butH_warmSettled s
  refine ⟨_, exec_warmReset hpwr, ?kept, ?sup, ?cleared, ?empty, ?sealed, rfl, ?logged⟩
  case kept =>
    refine ⟨rfl, (congrArg State.store hkept :), (congrArg State.time hkept :), (congrArg State.life hkept :), (congrArg State.split hkept :),
      (congrArg (fun u : State => u.tr.t3Key) hkept :), (congrArg (fun u : State => u.pw.capW) hkept :), (congrArg (fun u : State => u.pw.capSeq) hkept :), (congrArg (fun u : State => u.pw.now) hkept :),
      (congrArg (fun u : State => capRequests u.net.index u.pw.floors) hkept :), (congrArg (fun u : State => u.st.en) hkept :), (congrArg (fun u : State => u.st.period) hkept :), rfl⟩
  case sup => exact (congrArg (fun u : State => { u.sup with perst := true, coldBoot := false, booted := false }) hkept :)
  case cleared =>
    refine ⟨rfl, rfl, rfl, rfl, fun a ha b hb => ?_⟩
    have hout := (List.mem_filter.mp hb).2
    simp at hout
    omega
  case empty =>
    exact ⟨rfl, rfl, rfl, rfl, rfl, rfl, rfl, rfl, rfl, rfl, rfl, rfl, rfl, rfl, rfl, rfl, rfl, rfl, (congrArg forcedCount hkept :)⟩
  case sealed =>
    intro c hc
    obtain ⟨v, hv, hcv⟩ := mem_mmap (warmState_ctxs _ ▸ hc)
    rw [hcv]
    exact not_isSealed_of_mem_clearSealed (List.mem_filter.mp hv).1
  case logged =>
    have htread : nowTread (warmState (warmSettled s)) = nowTread s := (congrArg nowTread hkept :)
    refine ⟨(warmSettled s).evPend, ?_⟩
    rw [← htread]
    rfl

/-! ### Resets of a port and of the array (R526 to R528) -/

theorem resetPort_qpOwner (s : State) (p : Nat) (po : PortSt) : ∃ m : AMap Nat,
    (resetPort s p po).qpOwner = mkeep m fun k _ => k / 64 != p := ⟨_, rfl⟩

theorem resetPort_qps (s : State) (p : Nat) (po : PortSt) : ∃ m : AMap QpSt,
    (resetPort s p po).qps = mmap m fun k q => if k / 64 = p then { QpSt.reset with enable := q.enable + 1 } else q := ⟨_, rfl⟩

theorem mget_resetPort_qpOwner (s : State) {p k : Nat} (po : PortSt) (hk : k / 64 = p) : mget (resetPort s p po).qpOwner k = none := by
  obtain ⟨m, hm⟩ := resetPort_qpOwner s p po
  rw [hm]
  exact mget_mkeep_none _ _ _ fun _ => by simp [hk]

theorem qps_resetPort {s : State} {p k : Nat} {po : PortSt} {q : QpSt} (hk : k / 64 = p)
    (hq : mget (resetPort s p po).qps k = some q) : ∃ n, q = { QpSt.reset with enable := n } := by
  obtain ⟨m, hm⟩ := resetPort_qps s p po
  rw [hm, mget_mmap] at hq
  obtain ⟨v, -, rfl⟩ := Option.map_eq_some_iff.mp hq
  exact ⟨v.enable + 1, if_pos hk⟩

/-- Settles O44: a reset of a port acts where the port is present, one of the array through port 0. -/
theorem resets : Obligations.resets := by
  intro s p
  refine ⟨fun hbooted hpresent => ⟨fun cause => ?port, ?flr⟩, fun po k hk => ⟨mget_resetPort_qpOwner s po hk, fun q hq => ?qps⟩,
    fun hbooted hlc => ?array, fun q hq => ?notPort0, fun hoff hover => ?recovery⟩
  case port =>
    have hacts : ¬ ((!s.sup.booted) = true ∨ (!(portOf s p).present) = true) := by simp [hbooted, hpresent]
    cases cause <;> exact answers rfl (if_neg hacts)
  case flr => exact answers rfl (if_neg (by simp [hbooted, hpresent]))
  case qps =>
    obtain ⟨n, rfl⟩ := qps_resetPort hk hq
    exact ⟨rfl, rfl, rfl, rfl⟩
  case array => exact answers rfl (if_neg (by simp [hbooted, hlc]))
  case notPort0 => exact answers rfl (if_pos (Or.inl (Fin.val_ne_of_ne hq)))
  case recovery => exact answers rfl (if_pos ⟨by simp [hoff], hover⟩)

end Sys2Proof.Machine
end

section
/-!
PROOFS. What the serving work leaves untouched, and what protection leaves alone (06 R208 to R229, chapters 14 to 17 and 19).
-/
namespace Sys2Proof.Machine

/-- Settles O60: each row outside the plant's own has its law in Laws/Rows. -/
theorem plantUntouched : Obligations.plant_untouched := by
  intro c s t h hc
  cases c with
  | arrayReset port => exact arrayReset_plant port h
  | t3InitComplete failed => exact t3InitComplete_plant failed h
  | doorbellSqTail port page size value => exact doorbellSqTail_plant port page size value h
  | doorbellCqHead port page size value => exact doorbellCqHead_plant port page size value h
  | doorbellTqHead port page size value => exact doorbellTqHead_plant port page size value h
  | doorbellEqHead port page size value => exact doorbellEqHead_plant port page size value h
  | descriptorTake port qp slot => exact descriptorTake_plant port qp slot h
  | qpEnable port qp => exact qpEnable_plant port qp h
  | qpDisable port qp => exact qpDisable_plant port qp h
  | ringInterruptDelay port qp token => exact ringInterruptDelay_plant port qp token h
  | cxlMemRead port n offset len => exact cxlMemRead_plant port n offset len h
  | cxlMemWrite port n offset data => exact cxlMemWrite_plant port n offset data h
  | nop d => exact nop_plant d h
  | fence d => exact fence_plant d h
  | pkgStage d data => exact pkgStage_plant d data h
  | pkgAdmit d pkg table => exact pkgAdmit_plant d pkg table h
  | pkgEvict d => exact pkgEvict_plant d h
  | harnessLoad d image => exact harnessLoad_plant d image h
  | harnessRelease d => exact harnessRelease_plant d h
  | overlayRegister d image => exact overlayRegister_plant d image h
  | overlaySwitch d => exact overlaySwitch_plant d h
  | overlayStagingDone inst => exact overlayStagingDone_plant inst h
  | overlayCommitTread inst => exact overlayCommitTread_plant inst h
  | regionDrained inst => exact regionDrained_plant inst h
  | drainLimitExpiry inst => exact drainLimitExpiry_plant inst h
  | switchFreezeDone inst => exact switchFreezeDone_plant inst h
  | switchParkDone inst => exact switchParkDone_plant inst h
  | bayApplyDone inst => exact bayApplyDone_plant inst h
  | harnessBind d table => exact harnessBind_plant d table h
  | harnessUnbind d => exact harnessUnbind_plant d h
  | reqOpen d params prompt => exact reqOpen_plant d params prompt h
  | reqAppend d prompt => exact reqAppend_plant d prompt h
  | reqCancel d => exact reqCancel_plant d h
  | reqClose d => exact reqClose_plant d h
  | adapterLoad d image => exact adapterLoad_plant d image h
  | adapterRetire d => exact adapterRetire_plant d h
  | runGraph d far => exact runGraph_plant d far h
  | syncSetArrive d => exact syncSetArrive_plant d h
  | syncSetAdd d => exact syncSetAdd_plant d h
  | syncSetPost d => exact syncSetPost_plant d h
  | syncSetBase d => exact syncSetBase_plant d h
  | syncWaitWait d => exact syncWaitWait_plant d h
  | syncWaitAcquire d => exact syncWaitAcquire_plant d h
  | syncWaitTimeout d => exact syncWaitTimeout_plant d h
  | syncWaitSatisfied d => exact syncWaitSatisfied_plant d h
  | moveRelocate d => exact moveRelocate_plant d h
  | moveImport d data => exact moveImport_plant d data h
  | moveExport d => exact moveExport_plant d h
  | moveAlloc d => exact moveAlloc_plant d h
  | moveFree d => exact moveFree_plant d h
  | attest d => exact attest_plant d h
  | keyImport d blob => exact keyImport_plant d blob h
  | keyClear d => exact keyClear_plant d h
  | ctxSave d => exact ctxSave_plant d h
  | ctxSaveFreeze d => exact ctxSaveFreeze_plant d h
  | sendFenceSatisfied d => exact sendFenceSatisfied_plant d h
  | ctxRestore d area => exact ctxRestore_plant d area h
  | resumeTreadRelease d => exact resumeTreadRelease_plant d h
  | telemetrySnap d => exact telemetrySnap_plant d h
  | telemetryLatch d => exact telemetryLatch_plant d h
  | instrNop t l => exact instrNop_plant t l h
  | setlc t l => exact setlc_plant t l h
  | setf t l => exact setf_plant t l h
  | clrf t l => exact clrf_plant t l h
  | jump t l => exact jump_plant t l h
  | halt t l => exact halt_plant t l h
  | send t l => exact send_plant t l h
  | eos t l => exact eos_plant t l h
  | syncArrive t => exact syncArrive_plant t h
  | syncAdd t => exact syncAdd_plant t h
  | syncWait t => exact syncWait_plant t h
  | take t => exact take_plant t h
  | complete t => exact complete_plant t h
  | acquire t => exact acquire_plant t h
  | post t => exact post_plant t h
  | setBase ctx vid base => exact setBase_plant ctx vid base h
  | newStep ctx vid n => exact newStep_plant ctx vid n h
  | restart ctx vid n => exact restart_plant ctx vid n h
  | barrierTimedRelease o => exact barrierTimedRelease_plant o h
  | barrierTimeout o => exact barrierTimeout_plant o h
  | barrierFloorRelease o => exact barrierFloorRelease_plant o h
  | generationRetire o => exact generationRetire_plant o h
  | riserWaveStart o wave => exact riserWaveStart_plant o wave h
  | mxeOp t => exact mxeOp_plant t h
  | merge t => exact merge_plant t h
  | mxeOpComplete t => exact mxeOpComplete_plant t h
  | vop t => exact vop_plant t h
  | sop t => exact sop_plant t h
  | t2Read t => exact t2Read_plant t h
  | t2Write t => exact t2Write_plant t h
  | t2MoveComplete t => exact t2MoveComplete_plant t h
  | galGet t => exact galGet_plant t h
  | galPut t => exact galPut_plant t h
  | galleryTransferDone t => exact galleryTransferDone_plant t h
  | spillReturn t q => exact spillReturn_plant t q h
  | fabricWatchdogExpiry t => exact fabricWatchdogExpiry_plant t h
  | fetchIssue engine => exact fetchIssue_plant engine h
  | fetchUnitLanded engine index => exact fetchUnitLanded_plant engine index h
  | pageRebuild tier word => exact pageRebuild_plant tier word h
  | pageRebuildDone tier page => exact pageRebuildDone_plant tier page h
  | ceBucketLeak tier => exact ceBucketLeak_plant tier h
  | patrolScrubPage tier unit => exact patrolScrubPage_plant tier unit h
  | repairGo value => exact repairGo_plant value h
  | repairCommit value => exact repairCommit_plant value h
  | stepPlan group => exact stepPlan_plant group h
  | stepStart group => exact stepStart_plant group h
  | groupFirstStep group => exact groupFirstStep_plant group h
  | stepSettle group outs routing => exact stepSettle_plant group outs routing h
  | periodEstimateUpdate group => exact periodEstimateUpdate_plant group h
  | roleEvaluation group => exact roleEvaluation_plant group h
  | linkEnable k en => exact linkEnable_plant k en h
  | linkTrained k lanes => exact linkTrained_plant k lanes h
  | linkDown k cause => exact linkDown_plant k cause h
  | linkRetrain k => exact linkRetrain_plant k h
  | helloA k payload rxNs => exact helloA_plant k payload rxNs h
  | helloB k payload => exact helloB_plant k payload h
  | helloDelay k payload => exact helloDelay_plant k payload h
  | helloRetry k => exact helloRetry_plant k h
  | frameReceive k f => exact frameReceive_plant k f h
  | gtAck k ack negative => exact gtAck_plant k ack negative h
  | ackTimer k => exact ackTimer_plant k h
  | retryTimeout k => exact retryTimeout_plant k h
  | gtWrite p => exact gtWrite_plant p h
  | gtRead p => exact gtRead_plant p h
  | gtData p => exact gtData_plant p h
  | gtStream p => exact gtStream_plant p h
  | gtSync p => exact gtSync_plant p h
  | gtSyncRsp p => exact gtSyncRsp_plant p h
  | gtDir p => exact gtDir_plant p h
  | gtDone p => exact gtDone_plant p h
  | gtRedirect p => exact gtRedirect_plant p h
  | gtForward p => exact gtForward_plant p h
  | packetTimeout msg => exact packetTimeout_plant msg h
  | ecnRateRaise k => exact ecnRateRaise_plant k h
  | linkState p => exact linkState_plant p h
  | descFwd p => exact descFwd_plant p h
  | descDone p => exact descDone_plant p h
  | reqFwd p => exact reqFwd_plant p h
  | reqAck p => exact reqAck_plant p h
  | stepPlanReceive p => exact stepPlanReceive_plant p h
  | settle p => exact settle_plant p h
  | bind p => exact bind_plant p h
  | sliceStop p => exact sliceStop_plant p h
  | sliceStopTread => exact sliceStopTread_plant h
  | adapterCtrl p => exact adapterCtrl_plant p h
  | beaconSend => exact beaconSend_plant h
  | i3cStatusRead => exact i3cStatusRead_plant h
  | i3cNotifyRepeat => exact i3cNotifyRepeat_plant h
  | i3cWriteRefused index data => exact i3cWriteRefused_plant index data h
  | heartbeatMissed core => exact heartbeatMissed_plant core h
  | firmwarePoison => exact firmwarePoison_plant h
  | counterHalfWrapService counter => exact counterHalfWrapService_plant counter h
  | counterSweep => exact counterSweep_plant h
  | scanFreeze => exact scanFreeze_plant h
  | scanOut => exact scanOut_plant h
  | scanIn => exact scanIn_plant h
  | scanRelease => exact scanRelease_plant h
  | scanCommandDone => exact scanCommandDone_plant h
  | qdepthSampleEnable => exact qdepthSampleEnable_plant h
  | qdepthSample => exact qdepthSample_plant h
  | ceSettingWrite offset value => exact ceSettingWrite_plant offset value h
  | portLinkTrained port width speed => exact portLinkTrained_plant port width speed h
  | backInvalidateResponse w => exact backInvalidateResponse_plant w h
  | doneRecordHoldExpiry k => exact doneRecordHoldExpiry_plant k h
  | t2InitComplete => exact t2InitComplete_plant h
  | i3cCommand c => exact i3cCommand_plant c h
  | _ => exact hc.elim

/-! ### Writes into a tier (R208, R212, R216, R217) -/

/-- Settles O36: a requester's write is a plain write after protection has read back what it covers in part. -/
theorem tierWrites : Obligations.tier_writes := by
  intro s t o bs ht u
  obtain ⟨v, hv, hbytes⟩ : ∃ v, u = writeTier v t o bs ∧ v.bytes = s.bytes := storeTier_eq s t o bs
  have hbefore (j : Nat) : tierMem v j = tierMem s j := tierMem_bytes hbytes j
  have hwritten : tierMem u t = writeBytes (tierMem s t) o bs := by rw [hv, tierMem_writeTier v t o bs ht, hbefore]
  refine ⟨storeTier_wf t o bs, fun i hi => ?inside, fun x hx => ?outside, fun j hj hne => ?other, butMemory_storeTier s t o bs,
    fun n c => ⟨bytes_demand s t o n c, butMemory_demand s t o n c⟩⟩
  case inside => rw [hwritten, readByte_writeBytes_inside _ _ _ _ hi]
  case outside => rw [hwritten, readByte_writeBytes_outside _ _ _ _ hx]
  case other => rw [hv, tierMem_writeTier_other v t o j bs ht hj hne, hbefore]

/-! ### What protection leaves alone (R211 to R229) -/

theorem core3_unfused {s t : State} (h : core3 t = core3 s) : core3 (unfused s t) = core3 s := by
  simp only [core3, Prod.mk.injEq] at h ⊢
  obtain ⟨hbytes, hrest, hbut⟩ := h
  exact ⟨hbytes, hrest, (congrArg (fun u : State => { u with fuses := s.fuses, pending := s.pending }) hbut :)⟩

theorem core3_poisonRecord (s : State) (t w c n : Nat) : core3 (poisonRecord s t w c n) = core3 s := by
  simp only [core3, bytes_poisonRecord, dir_poisonRecord, butMemory_poisonRecord]

theorem core3_poisonWords (s : State) (t : Nat) (ws : List Nat) : core3 (poisonWords s t ws) = core3 s := by
  simp only [core3, bytes_poisonWords, dir_poisonWords, butMemory_poisonWords]

theorem core3_pageRebuild {s u : State} {tier : Tier} {w : Nat} (h : exec (.pageRebuild tier w) s = .next u) : core3 u = core3 s := by
  change Host.Outcome.next (unfused s (ite _ _ _)) = _ at h
  cases h
  refine core3_unfused (core3_ite rfl (core3_ite ?_ (core3_ite rfl rfl)))
  rw [core3_poisonRecord, core3_poisonWords]

theorem core3_pageRebuildDone {s u : State} {tier : Tier} {page : Nat} (h : exec (.pageRebuildDone tier page) s = .next u) :
    core3 u = core3 s := by
  change execPageRebuildDone tier page s = _ at h
  cases h
  refine core3_unfused ?_
  split
  · rfl
  · exact core3_endRebuild s _

theorem core3_ceBucketLeak {s u : State} {tier : Tier} (h : exec (.ceBucketLeak tier) s = .next u) : core3 u = core3 s := by
  change execCeBucketLeak tier s = _ at h
  cases h
  refine core3_unfused (core3_ite ?_ rfl)
  cases tier <;> rfl

theorem core3_patrolScrubPage {s u : State} {tier : Tier} {unit : Nat} (h : exec (.patrolScrubPage tier unit) s = .next u) :
    core3 u = core3 s := by
  change execPatrolScrubPage tier unit s = _ at h
  cases h
  have hread : core3 (hwBump (scrubAdvance s (tierCode tier) unit) (kProt (18 + tierCode tier)) 1) = core3 s := by
    rw [core3_hwBump, core3_scrubAdvance]
  exact core3_unfused (core3_ite (core3_ite hread ((core3_scrubOne _ _ _).trans hread)) rfl)

/-- Settles O37: each of the four rows keeps `core3`. -/
theorem protectionFrame : Obligations.protection_frame := by
  intro s u c hc h
  have hcore : core3 u = core3 s := by
    obtain ⟨t, w, rfl | rfl | rfl | rfl⟩ := hc
    · exact core3_pageRebuild h
    · exact core3_pageRebuildDone h
    · exact core3_patrolScrubPage h
    · exact core3_ceBucketLeak h
  simp only [core3, rest, Prod.mk.injEq] at hcore
  obtain ⟨hbytes, ⟨hdir, -⟩, hbut⟩ := hcore
  exact ⟨hbytes, hdir, hbut⟩

/-! ### Rebuilds, leaks and patrol scrub (R214, R218, R224, R227, R228) -/

theorem tierCode_ne_zero {t : Tier} (ht : t ≠ .t1) : tierCode t = 1 ∨ tierCode t = 2 := by
  cases t
  · exact absurd rfl ht
  · exact .inl rfl
  · exact .inr rfl

theorem exec_pageRebuild {s : State} {t : Tier} {w : Nat} (hin : w * 8 < tierExtent s (tierCode t))
    (hgood : (tierPoison s (tierCode t)).contains w = false) : exec (.pageRebuild t w) s = .next (unfused s (
      if tierCode t = 0 then poisonRecord (poisonWords s 0 [w]) 0 w 1 1
      else if (s.mem.rebuilds.any fun r => r.tier == t && r.page == pageOf (tierCode t) w) = true then
        { s with mem.rebuilds := s.mem.rebuilds.map fun r =>
            if r.tier = t ∧ r.page = pageOf (tierCode t) w then { r with words := addWord r.words w } else r }
      else { s with mem.rebuilds := s.mem.rebuilds ++ [{ tier := t, page := pageOf (tierCode t) w, words := [w], scrub := false }] })) :=
  answers rfl (if_neg (by rw [hgood]; simp [hin]))

section Scrub

variable {k : Nat} (hk : k = 1 ∨ k = 2) {u : State} {page : Nat}

theorem checkPage_of_not_skewed (h : (skewed u k).contains page = false) : checkPage u k page = u :=
  if_neg (by simp only [h, Bool.false_eq_true, not_false_eq_true])

theorem mkeys_wrong {m : AMap BadWord} {bad : AMap BadWord} (hbad : (m.filter fun e => pageOf k e.1 == page) = bad) (x : BadWord) :
    (mkeys m fun w b => b == x && pageOf k w == page) = (bad.filter fun e => e.2 == x).map (·.1) := by
  rw [mkeys_page, hbad]

theorem checkPage_of_shrinks {v : State} (hv : Shrinks k u v) (h : (skewed u k).contains page = false) : checkPage v k page = v := by
  refine checkPage_of_not_skewed (Bool.eq_false_of_not_eq_true fun hc => ?_)
  rw [List.contains_iff_mem.mpr (hv.2.2 (List.contains_iff_mem.mp hc))] at h
  exact Bool.noConfusion h

include hk

/-- The words of a page that a scrub rebuilds and corrects leave no more wrong than there was. -/
theorem shrinks_scrubWords (ms ws : List Nat) :
    Shrinks k u (ws.foldl (fun s w => correctWord s k w) (rebuildPage u k ms 2)) :=
  shrinks_trans (shrinks_rebuildPage hk u ms 2) (shrinks_foldl _ (fun s w => shrinks_correctWord hk s w) ws _)

/-- A scrub of a page whose check area is right: the words with many wrong bits are rebuilt, those with one are corrected, and
the symbols are checked. -/
theorem scrubOne_eq (hcheck : (mkeys (checkBad u k) fun j _ => j / 2 == page) = []) {ms ws : List Nat}
    (hms : (mkeys (tierBad u k) fun w b => b == .multi && pageOf k w == page) = ms)
    (hws : (mkeys (tierBad (rebuildPage u k ms 2) k) fun w b => b == .single && pageOf k w == page) = ws) :
    scrubOne u k page = checkPage (ws.foldl (fun s w => correctWord s k w) (rebuildPage u k ms 2)) k page := by
  unfold scrubOne
  dsimp only
  rw [hms, hws]
  exact scrub_end hk (mkeys_nil (shrinks_scrubWords hk ms ws).2.1 hcheck)

variable (hcheck : (mkeys (checkBad u k) fun j _ => j / 2 == page) = [])
include hcheck

theorem scrubOne_of_right (hbad : ((tierBad u k).filter fun e => pageOf k e.1 == page) = []) : scrubOne u k page = checkPage u k page :=
  scrubOne_eq hk hcheck (mkeys_wrong hbad .multi) (mkeys_wrong hbad .single)

theorem scrubOne_of_single {w : Nat} (hbad : ((tierBad u k).filter fun e => pageOf k e.1 == page) = [(w, .single)])
    (hskew : (skewed u k).contains page = false) : scrubOne u k page = correctWord u k w :=
  (scrubOne_eq hk hcheck (mkeys_wrong hbad .multi) (mkeys_wrong hbad .single)).trans
    (checkPage_of_shrinks (shrinks_correctWord hk u w) hskew)

theorem scrubOne_of_multi {w : Nat} (hbad : ((tierBad u k).filter fun e => pageOf k e.1 == page) = [(w, .multi)])
    (hskew : (skewed u k).contains page = false) : scrubOne u k page = rebuildPage u k [w] 2 :=
  (scrubOne_eq hk hcheck (mkeys_wrong hbad .multi)
    (mkeys_nil (shrinks_rebuildPage hk u [w] 2).1 (mkeys_wrong hbad .single))).trans
    (checkPage_of_shrinks (shrinks_rebuildPage hk u [w] 2) hskew)

end Scrub

theorem exec_patrolScrubPage {s : State} {t : Tier} {unit : Nat} (ht : t ≠ .t1)
    (hunit : unit < if tierCode t = 1 then 2048 else 1536) (hruns : scrubRuns s (tierCode t) = true)
    (hinterval : 0 < scrubInterval s (tierCode t))
    (hdue : (s.time.tread + unit * scrubInterval s (tierCode t) - unit) % scrubInterval s (tierCode t) = 0) :
    let page := scrubPage (tierCode t) unit (scrubNext s (tierCode t) unit)
    let u := hwBump (scrubAdvance s (tierCode t) unit) (kProt (18 + tierCode t)) 1
    exec (.patrolScrubPage t unit) s = .next (unfused s (
      if (u.mem.rebuilds.any fun r => r.tier == t && r.page == page) = true then u else scrubOne u (tierCode t) page)) :=
  answers rfl (if_pos ⟨by rcases tierCode_ne_zero ht with h | h <;> omega, hunit, hruns, hinterval, hdue⟩)

/-- Settles O38: the rows of protection, the patrol scrub by what is wrong on its page. -/
theorem protection : Obligations.protection := by
  intro s t k
  refine ⟨fun w hin hgood => ⟨fun ht => ?t1, fun ht hnew => ?starts, fun ht hold => ?joins⟩, fun w hbad => ?poisoned,
    fun page r hr => ?done, fun hloaded hflight hleak hlast => ?leak, fun unit ht hunit hruns hinterval hdue => ?scrub⟩
  case t1 =>
    subst ht
    exact exec_pageRebuild hin hgood
  case starts =>
    rw [exec_pageRebuild hin hgood, if_neg (by rcases tierCode_ne_zero ht with h | h <;> omega), if_neg (ne_true_of_eq_false hnew)]
    rfl
  case joins =>
    rw [exec_pageRebuild hin hgood, if_neg (by rcases tierCode_ne_zero ht with h | h <;> omega), if_pos hold]
    rfl
  case poisoned => exact answers rfl (if_pos (Or.inl hbad))
  case done =>
    have hrow : r.tier = t ∧ r.page = page := by simpa using List.find?_some hr
    obtain ⟨rfl, rfl⟩ := hrow
    refine answers rfl ?_
    rw [hr]
    rfl
  case leak =>
    have hexec := answers (r := exec (.ceBucketLeak t) s) rfl (if_pos ⟨hloaded, hflight, hleak, hlast⟩)
    exact ⟨fun ht => by subst ht; exact hexec, fun ht => by subst ht; exact hexec⟩
  case scrub =>
    have hk := tierCode_ne_zero ht
    have hexec := exec_patrolScrubPage ht hunit hruns hinterval hdue
    refine ⟨fun hheld => ?held, fun hfree hcheck => ⟨fun hnone hskew => ?misfit, fun hskew => ⟨fun hnone => ?right, fun w hw => ?single, fun w hw => ?multi⟩⟩⟩
    case held => rw [hexec, if_pos hheld]
    all_goals rw [hexec, if_neg (by rw [hfree]; exact Bool.false_ne_true)]
    case misfit => rw [scrubOne_of_right hk hcheck hnone, checkPage, if_pos hskew]
    case right => rw [scrubOne_of_right hk hcheck hnone, checkPage_of_not_skewed hskew]
    case single => rw [scrubOne_of_single hk hcheck hw hskew]
    case multi => rw [scrubOne_of_multi hk hcheck hw hskew]

end Sys2Proof.Machine
end

section
/-!
PROOFS. The security mailbox: firmware, slice record, certificates, context grants and tokens (13 R419 to R422, 14 R448 to R459,
R471, R595).
-/
namespace Sys2Proof.Machine

/-! ### When the mailbox serves (R595) -/

theorem withMailbox_scrapped {s : State} (hlc : s.fuses.lc = .scrapped) (cmd len : Nat) (act : State → State) :
    withMailbox s cmd len act = s := if_pos hlc

theorem withMailbox_notBooted {s : State} (hlc : s.fuses.lc ≠ .scrapped) (hbooted : s.sup.booted = false) (cmd len : Nat)
    (act : State → State) : withMailbox s cmd len act = { s with mb.cmd := cmd, mb.len := len, mb.status := eBusy } :=
  (if_neg hlc).trans (if_pos (by simp [hbooted]))

theorem withMailbox_noFirmware {s : State} (hlc : s.fuses.lc ≠ .scrapped) (hbooted : s.sup.booted = true)
    (hfw : s.tr.fwRunning = false) {cmd : Nat} (hcmd : cmd ≠ 1) (len : Nat) (act : State → State) :
    withMailbox s cmd len act = { s with mb.cmd := cmd, mb.len := len, mb.status := eBusy, mb.result := 0 } :=
  (if_neg hlc).trans ((if_neg (by simp [hbooted])).trans (if_pos (by simp [hfw, hcmd])))

theorem withMailbox_fwLoad {s : State} (hlc : s.fuses.lc ≠ .scrapped) (hbooted : s.sup.booted = true) (len : Nat) (act : State → State) :
    withMailbox s 1 len act = act { s with mb.cmd := 1, mb.len := len } :=
  (if_neg hlc).trans ((if_neg (by simp [hbooted])).trans (if_neg (by simp)))

theorem withToken_of_action {s : State} {a : Nat} {b : Bytes} (ha : byteAt b 6 = a) (act : State → State) :
    withToken s a b act = withMailbox s 0x10 b.length fun u =>
      let v := { u with tr.challenge := none }
      if tokenStatus u b ≠ stOk then mbReply v (tokenStatus u b) 0 else mbReply (act v) stOk 0 :=
  if_neg fun h => h.1 ha

/-- The outcome `r` of a command that goes through the mailbox as `cmd` with `len` bytes, and whose end leaves a state that
differs from `s` in the mailbox alone as it is. -/
def ThroughMailbox (s : State) (cmd len : Nat) (r : Host.Outcome State Fault Refusal) : Prop :=
  ∃ (act ends : State → State), r = .next (ends (withMailbox s cmd len act)) ∧ ∀ m : Mailbox, ends { s with mb := m } = { s with mb := m }

theorem throughMailbox_unfused {s : State} {cmd len : Nat} {act : State → State} {r : Host.Outcome State Fault Refusal} {u : State}
    (hr : r = .next (unfused s u)) (hu : u = withMailbox s cmd len act) : ThroughMailbox s cmd len r :=
  ⟨act, unfused s, hu ▸ hr, fun _ => rfl⟩

theorem throughMailbox_queued {s : State} {cmd len : Nat} {act : State → State} {r : Host.Outcome State Fault Refusal} {u : State}
    (hr : r = .next (queued s u)) (hu : u = withMailbox s cmd len act) : ThroughMailbox s cmd len r :=
  ⟨act, queued s, hu ▸ hr, fun _ => rfl⟩

section NotServed

variable {s : State} {cmd len : Nat} {r : Host.Outcome State Fault Refusal} (h : ThroughMailbox s cmd len r)
include h

theorem ThroughMailbox.scrapped (hlc : s.fuses.lc = .scrapped) : r = .next s := by
  obtain ⟨act, ends, hr, hends⟩ := h
  rw [hr, withMailbox_scrapped hlc]
  exact congrArg _ (hends s.mb)

theorem ThroughMailbox.notBooted (hlc : s.fuses.lc ≠ .scrapped) (hbooted : s.sup.booted = false) :
    r = .next { s with mb.cmd := cmd, mb.len := len, mb.status := eBusy } := by
  obtain ⟨act, ends, hr, hends⟩ := h
  rw [hr, withMailbox_notBooted hlc hbooted]
  exact congrArg _ (hends _)

theorem ThroughMailbox.noFirmware (hlc : s.fuses.lc ≠ .scrapped) (hbooted : s.sup.booted = true) (hfw : s.tr.fwRunning = false)
    (hcmd : cmd ≠ 1) : r = .next { s with mb.cmd := cmd, mb.len := len, mb.status := eBusy, mb.result := 0 } := by
  obtain ⟨act, ends, hr, hends⟩ := h
  rw [hr, withMailbox_noFirmware hlc hbooted hfw hcmd]
  exact congrArg _ (hends _)

end NotServed

/-- Settles O8: each of the rows goes through the mailbox, a token and a grant where its ACTION is the row's. -/
theorem mailboxNotServed : Obligations.mailbox_not_served := by
  intro s c cmd len hrow
  have h : ThroughMailbox s cmd len (exec c s) := by
    cases c with
    | fwLoad b => obtain ⟨rfl, rfl⟩ := hrow; exact throughMailbox_unfused rfl rfl
    | sliceRecord b => obtain ⟨rfl, rfl⟩ := hrow; exact throughMailbox_unfused rfl rfl
    | contextGrant b =>
      obtain ⟨rfl, rfl, hgrant⟩ := hrow
      exact throughMailbox_unfused rfl (if_neg fun h => hgrant h.1)
    | contextRevoke b =>
      obtain ⟨rfl, rfl, hrevoke, hform⟩ := hrow
      exact throughMailbox_unfused rfl (if_neg (by simp [hrevoke, hform]))
    | certRead => obtain ⟨rfl, rfl⟩ := hrow; exact throughMailbox_unfused rfl rfl
    | logRead => obtain ⟨rfl, rfl⟩ := hrow; exact throughMailbox_unfused rfl rfl
    | challenge => obtain ⟨rfl, rfl⟩ := hrow; exact throughMailbox_unfused rfl rfl
    | certInstall b => obtain ⟨rfl, rfl⟩ := hrow; exact throughMailbox_unfused rfl rfl
    | toManufacture b | toProvisioned b | ownerClaim b | ownerTransfer b | debugUnlock b | toReturn b | toScrapped b =>
      obtain ⟨rfl, rfl, haction⟩ := hrow
      exact throughMailbox_queued rfl (withToken_of_action haction _)
    | svnCommit => obtain ⟨rfl, rfl⟩ := hrow; exact throughMailbox_queued rfl rfl
    | debugLock => obtain ⟨rfl, rfl⟩ := hrow; exact throughMailbox_unfused rfl rfl
    | _ => exact hrow.elim
  exact ⟨h.scrapped, h.notBooted, h.noFirmware⟩

/-! ### What the commands do (R449, R450, R458) -/

theorem length_leBytes (n v : Nat) : (leBytes n v).length = n := by
  induction n generalizing v with
  | zero => rfl
  | succ n ih => exact congrArg (· + 1) (ih _)

theorem mbOutput_fits {s : State} {out : Bytes} (h : out.length ≤ s.mb.len) :
    mbOutput s out = mbReply (pmWrite s 0 s.mb.addr out) stOk out.length := if_neg h.not_gt

/-- Settles O7: past the mailbox's own checks each command's body takes its last branch. -/
theorem mailboxCommandsComplete : Obligations.mailbox_commands_complete := by
  intro s hlc hbooted done wrote
  refine ⟨fun b hidle hst => ?fwLoad, fun hfw => ⟨fun b hno => ?noTread, fun b hloaded hok => ?record, fun hroom => ?cert,
    fun hroom => ?log, fun hroom => ?challenge, fun b hstate hchain => ?install, ?lock⟩⟩
  case fwLoad =>
    refine answers rfl ((withMailbox_fwLoad hlc hbooted _ _).trans ((if_neg ?_).trans (if_neg ?_)))
    · simp [hidle]
    · exact not_not_intro hst
  case noTread =>
    exact answers_plain rfl ((withMailbox_of_running hlc hbooted hfw _ _ _).trans (if_pos (by simp [hno]))) rfl
  case record =>
    exact ⟨_, answers rfl ((withMailbox_of_running hlc hbooted hfw _ _ _).trans
      ((if_neg (by simp [hloaded])).trans (if_pos hok))), rfl⟩
  case cert => exact answers_plain rfl ((withMailbox_of_running hlc hbooted hfw _ _ _).trans (mbOutput_fits hroom)) rfl
  case log => exact answers_plain rfl ((withMailbox_of_running hlc hbooted hfw _ _ _).trans (mbOutput_fits hroom)) rfl
  case challenge =>
    refine ⟨BitVec.ofNat 256 (freeValue s.fv), answers_plain rfl ((withMailbox_of_running hlc hbooted hfw _ _ _).trans
      ((if_neg hroom.not_gt).trans (mbOutput_fits ?_))) rfl⟩
    exact (length_leBytes _ _).trans_le hroom
  case install =>
    exact answers_plain rfl ((withMailbox_of_running hlc hbooted hfw _ _ _).trans
      ((if_neg (not_not_intro hstate)).trans (if_neg (ne_true_of_eq_false (congrArg not hchain))))) rfl
  case lock => exact answers_plain rfl (withMailbox_of_running hlc hbooted hfw _ _ _) rfl

/-! ### Grants (R419 to R422) -/

theorem exec_contextGrant {s : State} {b : Bytes} (hlc : s.fuses.lc ≠ .scrapped) (hbooted : s.sup.booted = true)
    (hfw : s.tr.fwRunning = true) (hact : byteAt b 3 = 1) :
    let u := { s with mb.cmd := 3, mb.len := b.length }
    exec (.contextGrant b) s = .next (unfused s (
      if (!grantForm b || grantTaken s (fld b 0 2) (byteAt b 2) b) = true then mbReply u ePerm 0
      else if (!grantRoom s (fld b 0 2) b) = true then mbReply u eCapacity 0
      else mbReply (giveGrant u (fld b 0 2) (byteAt b 2) b) stOk 0)) :=
  answers rfl ((if_neg (by simp [hact])).trans (withMailbox_of_running hlc hbooted hfw _ _ _))

/-- A grant gives the context an EK where it has none yet, a free value (R459). -/
theorem giveGrant_eq (s : State) (c p : Nat) (b : Bytes) : ∃ (e : Digest) (fv : Nat),
    ((ctxOf s c).ek = some e ∧ fv = s.fv ∨ (ctxOf s c).ek = none ∧ fv = s.fv + 1) ∧
    giveGrant s c p b = { s with
      fv := fv,
      ctxs := mset s.ctxs c { ctxOf s c with t2Alloc := fld b 16 8, t3Alloc := fld b 24 8, ek := some e },
      qpOwner := (grantQps b).foldl (fun m q => mset m (qpKey p q) c) s.qpOwner,
      winOwn := (grantWins b).foldl (fun m n => mset m (p * 16 + n) c) s.winOwn } := by
  unfold giveGrant
  cases hek : (ctxOf s c).ek with
  | some e => exact ⟨e, s.fv, .inl ⟨rfl, rfl⟩, by simp only [hek]⟩
  | none => exact ⟨_, s.fv + 1, .inr ⟨rfl, rfl⟩, by simp only [hek]; rfl⟩

/-- Settles O9: a grant is refused by its form, by what it takes and by what it needs, in this order. -/
theorem grantsAndRevokes : Obligations.grants_and_revokes := by
  intro s b hlc hbooted hfw c p done
  have haccepted (hform : grantForm b = true) (htaken : grantTaken s c p b = false) : ¬ (!grantForm b || grantTaken s c p b) = true := by
    simp [hform, htaken]
  refine ⟨fun hact => ⟨fun hbad => ?perm, fun hform htaken => ⟨fun hroom => ?capacity, fun hroom => ?grants⟩⟩, fun hact hform => ?revoke⟩
  case perm =>
    have hrefused : (!grantForm b || grantTaken s c p b) = true := by rcases hbad with h | h <;> simp [h]
    rw [exec_contextGrant hlc hbooted hfw hact, if_pos hrefused]
    rfl
  case capacity =>
    rw [exec_contextGrant hlc hbooted hfw hact, if_neg (haccepted hform htaken), if_pos (show (!grantRoom s c b) = true from congrArg not hroom)]
    rfl
  case grants =>
    obtain ⟨e, fv, hek, hgive⟩ := giveGrant_eq { s with mb.cmd := 3, mb.len := b.length } c p b
    refine ⟨e, fv, hek, ?_⟩
    rw [exec_contextGrant hlc hbooted hfw hact, if_neg (haccepted hform htaken), if_neg (show ¬ (!grantRoom s c b) = true by simp [hroom]), hgive]
    rfl
  case revoke =>
    have hexec := exec_contextRevoke hlc hbooted hfw hact hform
    exact ⟨fun hon => hexec.trans (by rw [holdsEnabledQp, if_pos hon]; rfl),
      fun hoff => hexec.trans (by rw [holdsEnabledQp, if_neg (ne_true_of_eq_false hoff)]; rfl)⟩

/-! ### Tokens (R451 to R454, R471) -/

/-- The state on which a token's effect acts: its challenge is consumed (R453). -/
def tokenTaken (s : State) (b : Bytes) : State := { s with tr.challenge := none, mb.cmd := 0x10, mb.len := b.length }

section Tokens

variable {s : State} {b : Bytes} (hlc : s.fuses.lc ≠ .scrapped) (hbooted : s.sup.booted = true) (hfw : s.tr.fwRunning = true)
include hlc hbooted hfw

theorem withToken_accepted {a : Nat} (ha : byteAt b 6 = a) (hst : tokenStatus s b = stOk) (act : State → State) :
    withToken s a b act = mbReply (act (tokenTaken s b)) stOk 0 :=
  (withToken_of_action ha act).trans ((withMailbox_of_running hlc hbooted hfw _ _ _).trans (if_neg (not_not_intro hst)))

theorem withToken_refused {a : Nat} (ha : byteAt b 6 = a) (hst : tokenStatus s b ≠ stOk) (act : State → State) :
    withToken s a b act = mbReply (tokenTaken s b) (tokenStatus s b) 0 :=
  (withToken_of_action ha act).trans ((withMailbox_of_running hlc hbooted hfw _ _ _).trans (if_pos hst))

theorem token_answers {a : Nat} {act : State → State} {r : Host.Outcome State Fault Refusal}
    (hr : r = .next (queued s (withToken s a b act))) (ha : byteAt b 6 = a) (hst : tokenStatus s b = stOk) :
    r = .next (queued s (mbReply (act (tokenTaken s b)) stOk 0)) := by
  rw [hr, withToken_accepted hlc hbooted hfw ha hst]

theorem token_refused {a : Nat} {act : State → State} {r : Host.Outcome State Fault Refusal}
    (hr : r = .next (queued s (withToken s a b act))) (ha : byteAt b 6 = a) (hst : tokenStatus s b ≠ stOk) :
    r = .next (queued s (mbReply (tokenTaken s b) (tokenStatus s b) 0)) := by
  rw [hr, withToken_refused hlc hbooted hfw ha hst]

end Tokens

/-- What an accepted token leaves: the fuses `f`, no challenge, and the reply of the mailbox. -/
def TokenEnds (b : Bytes) (t : State) (f : Fuses) : Prop :=
  t.fuses = f ∧ t.tr.challenge = none ∧ t.mb.status = stOk ∧ t.mb.result = 0 ∧ t.mb.cmd = 0x10 ∧ t.mb.len = b.length

theorem tokenEnds_of_seen {s u v : State} {b : Bytes} {f : Fuses} (hfuses : v.fuses = f) (hseen : seen v = seen u)
    (hchallenge : u.tr.challenge = none) (hcmd : u.mb.cmd = 0x10) (hlen : u.mb.len = b.length) :
    TokenEnds b (queued s (mbReply v stOk 0)) f :=
  ⟨hfuses, (congrArg (fun x : Trust × Mailbox => x.1.challenge) hseen :).trans hchallenge, rfl, rfl,
    (congrArg (fun x : Trust × Mailbox => x.2.cmd) hseen :).trans hcmd, (congrArg (fun x : Trust × Mailbox => x.2.len) hseen :).trans hlen⟩

/-- What RETURNED and SCRAPPED leave of contexts, objects and memories (R452). -/
def Wiped (t : State) : Prop :=
  t.ctxs = [] ∧ t.mem.dir = [] ∧ t.mem.t1 = [] ∧ t.mem.t2 = [] ∧ t.mem.t3 = [] ∧ t.insts = [] ∧ t.groups = [] ∧
    t.qpOwner = [] ∧ t.winOwn = [] ∧ t.taken = [] ∧ t.tr.t3Key.isSome = true ∧ t.tr.debugUnlocked = false

theorem wiped_wipe {s : State} (hdebug : s.tr.debugUnlocked = false) : Wiped (wipe s) :=
  ⟨rfl, rfl, rfl, rfl, rfl, rfl, rfl, rfl, rfl, rfl, rfl, (seen_wipe s).2.1.trans hdebug⟩

theorem fuses_enterLc_wipe (s : State) (lc : LcState) (b : Bytes) : (enterLc (wipe s) lc b).fuses = { s.fuses with
    lc := lc, log := s.fuses.log ++ [{ kind := 1, value := lc.code, tread := nowTread s % 2 ^ 48, subject := head8 (sha3 b) }] } := by
  rw [← nowTread_wipe s]
  rfl

/-- The end of a token that enters `lc` after a wipe leading to `w`, which wrote neither the mailbox nor what became of the
challenge. -/
theorem tokenEnds_enterLc {s u w : State} {lc : LcState} {b : Bytes} {f : Fuses} (hfuses : (enterLc w lc b).fuses = f)
    (hkept : w.mb = u.mb ∧ w.tr.debugUnlocked = u.tr.debugUnlocked ∧ w.tr.challenge = u.tr.challenge) (hnone : u.tr.challenge = none)
    (hcmd : u.mb.cmd = 0x10) (hlen : u.mb.len = b.length) : TokenEnds b (queued s (mbReply (enterLc w lc b) stOk 0)) f := by
  obtain ⟨hmb, -, hchallenge⟩ := hkept
  exact ⟨hfuses, hchallenge.trans hnone, rfl, rfl, (congrArg Mailbox.cmd hmb).trans hcmd, (congrArg Mailbox.len hmb).trans hlen⟩

theorem wiped_enterLc {s w : State} (h : Wiped w) (lc : LcState) (b : Bytes) :
    Wiped (queued s (mbReply (enterLc w lc b) stOk 0)) := h

/-- SCRAPPED besides sets the UDS to all ones and stops firmware (R452). -/
def scrap (u : State) : State := { u with fuses.uds := BitVec.allOnes 256, tr.fwRunning := false }

theorem tokenEnds_scrap {s w : State} {b : Bytes} {f : Fuses} (h : TokenEnds b (queued s (mbReply w stOk 0)) f) :
    TokenEnds b (queued s (mbReply (scrap w) stOk 0)) { f with uds := BitVec.allOnes 256 } := by
  obtain ⟨hfuses, hrest⟩ := h
  exact ⟨(congrArg (fun f : Fuses => { f with uds := BitVec.allOnes 256 }) hfuses :), hrest⟩

theorem wiped_scrap {s w : State} (h : Wiped (queued s (mbReply w stOk 0))) : Wiped (queued s (mbReply (scrap w) stOk 0)) := h

theorem fuses_claim (s : State) (b : Bytes) : (useOwner (enterLc (tokenTaken s b) .deployed b) (digestAt b 0x48)).fuses = { s.fuses with
    lc := .deployed, ownerUsed := s.fuses.ownerUsed + 1,
    log := s.fuses.log ++ [{ kind := 1, value := LcState.deployed.code, tread := nowTread s % 2 ^ 48, subject := head8 (sha3 b) }] ++
      [{ kind := 2, value := s.fuses.ownerUsed + 1, tread := nowTread s % 2 ^ 48, subject := head8 (digestAt b 0x48) }] } := by
  have htread : nowTread (enterLc (tokenTaken s b) .deployed b) = nowTread s := rfl
  rw [useOwner_fuses, htread]
  rfl

/-- Settles O10: an accepted token's effect acts on `tokenTaken`; counts leave what the reply shows as it is. -/
theorem tokensAndSvn : Obligations.tokens_and_svn := by
  intro s b hlc hbooted hfw entry moved after
  let u := tokenTaken s b
  let locked : State := { u with tr.debugUnlocked := false }
  refine ⟨fun hst => ⟨fun ha => ?manufacture, fun ha => ?provisioned, fun ha => ?claim, fun ha => ?transfer, fun ha => ?debug,
      fun ha => ?returned, fun ha => ?scrap⟩, fun hst => ?refused, fun harg hleft hsvn => ?svn⟩
  case manufacture =>
    exact ⟨_, BitVec.ofNat 256 (freeValue s.fv), token_answers hlc hbooted hfw rfl ha hst, rfl, rfl, rfl, rfl, rfl, rfl⟩
  case provisioned => exact ⟨_, token_answers hlc hbooted hfw rfl ha hst, rfl, rfl, rfl, rfl, rfl, rfl⟩
  case claim =>
    have hseen := seen_useOwner (enterLc u .deployed b) (digestAt b 0x48)
    exact ⟨_, token_answers hlc hbooted hfw rfl ha hst,
      useOwner_owner (enterLc u .deployed b) (digestAt b 0x48), tokenEnds_of_seen (fuses_claim s b) hseen rfl rfl rfl⟩
  case transfer =>
    have hseen := seen_useOwner locked (digestAt b 0x48)
    exact ⟨_, token_answers hlc hbooted hfw rfl ha hst, useOwner_owner locked (digestAt b 0x48),
      (congrArg (fun x : Trust × Mailbox => x.1.debugUnlocked) hseen :),
      tokenEnds_of_seen (useOwner_fuses locked _) hseen rfl rfl rfl⟩
  case debug =>
    have hseen := seen_countLimit { fuseLog { u with fuses.debugUsed := s.fuses.debugUsed + 1 } 5
      (s.fuses.debugUsed + 1) (sha3 b) with tr.debugUnlocked := true } 4 (s.fuses.debugUsed + 1) 4
    exact ⟨_, token_answers hlc hbooted hfw rfl ha hst, (congrArg (fun x : Trust × Mailbox => x.1.debugUnlocked) hseen :),
      tokenEnds_of_seen (fuses_countLimit _ _ _ _) hseen rfl rfl rfl⟩
  case returned =>
    exact ⟨_, token_answers hlc hbooted hfw rfl ha hst, wiped_enterLc (wiped_wipe (s := locked) rfl) _ _,
      tokenEnds_enterLc (fuses_enterLc_wipe locked _ _) (seen_wipe locked) rfl rfl rfl⟩
  case scrap =>
    exact ⟨_, token_answers hlc hbooted hfw rfl ha hst, wiped_scrap (wiped_enterLc (wiped_wipe (s := locked) rfl) _ _), rfl,
      tokenEnds_scrap (tokenEnds_enterLc (fuses_enterLc_wipe locked _ _) (seen_wipe locked) rfl rfl rfl)⟩
  case refused =>
    have hrefused {r : Host.Outcome State Fault Refusal} {a : Nat} {act : State → State} (hr : r = .next (queued s (withToken s a b act)))
        (ha : byteAt b 6 = a) := token_refused hlc hbooted hfw hr ha hst
    exact ⟨hrefused rfl, hrefused rfl, hrefused rfl, hrefused rfl, hrefused rfl, hrefused rfl, hrefused rfl⟩
  case svn => exact ⟨_, exec_svnCommit_accepted hlc hbooted hfw (svnStatus_of_accepted harg hleft hsvn), rfl, rfl, rfl⟩

end Sys2Proof.Machine
end

section
/-!
PROOFS. Queue pairs, port links and memory windows (13 R416, R423 to R432, 05 R202), and what every descriptor meets first (R433 to
R437).
-/
namespace Sys2Proof.Machine

/-! ### Queue pairs and ports -/

theorem canTake_of_full {s : State} {p q : Nat} (hfull : 2 ^ (qpOf s p q).cqLog2 ≤
    ringUsed (qpOf s p q).cqLog2 (qpOf s p q).cqHead (qpOf s p q).cqTail + outstanding s p q + 1) : canTake s p q = false := by
  have hspare : ¬ ringUsed (qpOf s p q).cqLog2 (qpOf s p q).cqHead (qpOf s p q).cqTail + outstanding s p q + 1 ≤
      2 ^ (qpOf s p q).cqLog2 - 1 := by
    have hpos := Nat.two_pow_pos (qpOf s p q).cqLog2
    omega
  simp [canTake, hspare]

/-- Settles O15: each row's guard is the statement's. -/
theorem queuePairsAndPorts : Obligations.queue_pairs_and_ports := by
  intro s p q v
  refine ⟨fun hoff hmay => ?enable, fun hmay => ?mayNot, answers_plain rfl rfl rfl, fun slot => ⟨fun htake => ?take, fun hfull => ?full⟩,
    fun hdelay => ⟨fun hirq hsome => ?cq, fun hirq hsome => ?tq⟩, fun width speed hbooted hwidth hlanes hspeed => ?trained⟩
  case enable => exact answers rfl (if_pos (by rw [show (qpOf s p q).en = false from hoff, hmay]; rfl))
  case mayNot => exact answers_plain rfl (if_neg (by simp [hmay])) rfl
  case take => exact answers rfl (if_pos htake)
  case full => exact answers_plain rfl (if_neg (ne_true_of_eq_false (canTake_of_full hfull))) rfl
  case cq =>
    exact answers_plain rfl ((if_neg (Nat.ne_of_gt hdelay)).trans ((if_neg Bool.false_ne_true).trans
      (if_pos (by rw [show (qpOf s p q).cqIrq = true from hirq]; exact decide_eq_true hsome)))) rfl
  case tq =>
    exact answers_plain rfl ((if_neg (Nat.ne_of_gt hdelay)).trans ((if_pos rfl).trans
      (if_pos (by rw [show (qpOf s p q).tqIrq = true from hirq]; exact decide_eq_true hsome)))) rfl
  case trained => exact answers_plain rfl (if_pos ⟨hbooted, hwidth, hlanes, hspeed⟩) rfl

/-! ### Memory windows -/

theorem verdict_clearResp (s : State) (p n off len : Nat) (write : Bool) :
    verdict { s with cxlResp := [] } p n off len write = verdict s p n off len write := rfl

theorem behind_clearResp (s : State) (p g len : Nat) (write : Bool) :
    behind { s with cxlResp := [] } p g len write = behind s p g len write := rfl

theorem cxlReadNow_of_verdict {s : State} {p n off len : Nat} {r : Verdict} (h : verdict s p n off len false = r) :
    (∀ obj e, r = .serve obj e → cxlReadNow s p n off len = serveRead s e (windowByte s p n off e) len) ∧
    (r = .refused → cxlReadNow s p n off len = answer (hwBump s (kPort p 5) 1) .poison) ∧
    (r = .sealedHome → cxlReadNow s p n off len = answer (hwBump s (kPort p 6) 1) .poison) := by
  refine ⟨fun obj e hr => ?_, fun hr => ?_, fun hr => ?_⟩ <;> (subst hr; rw [cxlReadNow, h])

theorem cxlRead_of_behind {s : State} {p n off len : Nat} (h : behind s p (windowGa s p n off) len false = true) :
    cxlRead s p n off len = answer (addWait s (.cxlRead p n off len)).2 (.waiting (addWait s (.cxlRead p n off len)).1) := if_pos h

theorem cxlRead_of_free {s : State} {p n off len : Nat} (h : behind s p (windowGa s p n off) len false = false) :
    cxlRead s p n off len = cxlReadNow s p n off len := if_neg (ne_true_of_eq_false h)

theorem cxlWriteNow_of_serve {s : State} {p n off obj : Nat} {data : Bytes} {e : DirEntry}
    (h : verdict s p n off data.length true = .serve obj e) :
    cxlWriteNow s p n off data = serveWrite s e (windowByte s p n off e) data := by rw [cxlWriteNow, h]

theorem cxlWriteNow_of_refused {s : State} {p n off : Nat} {data : Bytes}
    (h : verdict s p n off data.length true = .refused) :
    cxlWriteNow s p n off data = answer (hwBump s (kPort p 5) 1) .dropped := by rw [cxlWriteNow, h]

/-- A write that a partner's lines hold back waits for the back-invalidate response. -/
theorem cxlWrite_of_cached {s : State} {p n off obj : Nat} {data : Bytes} {e : DirEntry}
    (h : verdict s p n off data.length true = .serve obj e)
    (hlines : cachedLines s p (windowGa s p n off) data.length ≠ []) :
    let x := addWait (snoop s (cachedLines s p (windowGa s p n off) data.length)) (.biWrite p n off data)
    cxlWrite s p n off data = answer x.2 (.waiting x.1) := by
  simp [cxlWrite, h, hlines]

theorem cxlWrite_of_behind {s : State} {p n off obj : Nat} {data : Bytes} {e : DirEntry}
    (h : verdict s p n off data.length true = .serve obj e)
    (hlines : cachedLines s p (windowGa s p n off) data.length = [])
    (hbehind : behind s p (windowGa s p n off) data.length true = true) :
    let x := addWait s (.cxlWrite p n off data)
    cxlWrite s p n off data = answer x.2 (.waiting x.1) := by
  simp [cxlWrite, h, hlines, hbehind]

theorem cxlWrite_of_free {s : State} {p n off obj : Nat} {data : Bytes} {e : DirEntry}
    (h : verdict s p n off data.length true = .serve obj e)
    (hlines : cachedLines s p (windowGa s p n off) data.length = [])
    (hbehind : behind s p (windowGa s p n off) data.length true = false) :
    cxlWrite s p n off data = serveWrite s e (windowByte s p n off e) data := by
  rw [← cxlWriteNow_of_serve h]
  simp [cxlWrite, h, hlines, hbehind]

theorem cxlWrite_of_refused {s : State} {p n off : Nat} {data : Bytes} (h : verdict s p n off data.length true = .refused)
    (hbehind : behind s p (windowGa s p n off) data.length true = false) :
    cxlWrite s p n off data = answer (hwBump s (kPort p 5) 1) .dropped := by
  rw [← cxlWriteNow_of_refused h]
  simp [cxlWrite, h, hbehind]

/-- A write that is the only access waiting, and that no message carries, is served when its turn is looked for. -/
theorem releaseWaits_single_write {s : State} {w p n off obj : Nat} {data : Bytes} {e : DirEntry}
    (hwaits : s.waits = [(w, .cxlWrite p n off data)]) (hmsgs : s.net.msgs = [])
    (h : verdict s p n off data.length true = .serve obj e) :
    releaseWaits s = serveWrite { s with waits := [] } e (windowByte s p n off e) data := by
  have herase : merase s.waits w = [] := by simp [hwaits, merase]
  have hearlier : mkeep s.waits (fun k _ => decide (k < w)) = [] := by simp [hwaits, mkeep]
  have hover : waitOver s w p n off data.length true = true := by
    simp [waitOver, hmsgs, h, hearlier, behind]
  refine (congrArg (List.foldl _ s) hwaits).trans ((if_pos hover).trans ?_)
  change cxlWriteNow { s with waits := merase s.waits w } p n off data = _
  rw [herase]
  exact cxlWriteNow_of_serve (s := { s with waits := [] }) h

/-- Settles O16: the verdict of an access does not look at the answers of the accesses before it. -/
theorem memoryWindows : Obligations.memory_windows := by
  intro s p n v a put waits
  refine ⟨fun hc => ?commit, fun hc => ?locked, answers_plain rfl rfl rfl, fun off len hc hlen => ⟨fun hb => ?readWaits, fun hb => ?read⟩,
    fun off data hc hdata => ⟨fun obj e hv => ⟨fun hl => ?cached, fun hl => ⟨fun hb => ?write, fun hb => ?writeWaits⟩⟩,
      fun hv hb => ?refused⟩, fun w off data hw => ?response, fun w off data obj e hwaits hmsgs hv => ?inTurn⟩
  case commit => exact answers_plain rfl (if_neg (ne_true_of_eq_false hc)) rfl
  case locked => exact answers_plain rfl (if_pos hc) rfl
  case readWaits => exact answers rfl ((if_pos ⟨hc, hlen⟩).trans (cxlRead_of_behind (s := { s with cxlResp := [] }) hb))
  case read =>
    have hnow : (if (hdmOf s p n).committed = true ∧ 0 < len then cxlRead { s with cxlResp := [] } p n off len else s) =
        cxlReadNow { s with cxlResp := [] } p n off len :=
      (if_pos ⟨hc, hlen⟩).trans (cxlRead_of_free (s := { s with cxlResp := [] }) hb)
    obtain ⟨hserve, href, hsealed⟩ := cxlReadNow_of_verdict (verdict_clearResp s p n off len false)
    exact ⟨fun obj e hv => answers rfl (hnow.trans (hserve obj e hv)), fun hv => answers rfl (hnow.trans (href hv)),
      fun hv => answers rfl (hnow.trans (hsealed hv))⟩
  case cached => exact answers rfl ((if_pos ⟨hc, hdata⟩).trans (cxlWrite_of_cached (s := { s with cxlResp := [] }) hv hl))
  case write => exact answers rfl ((if_pos ⟨hc, hdata⟩).trans (cxlWrite_of_free (s := { s with cxlResp := [] }) hv hl hb))
  case writeWaits => exact answers rfl ((if_pos ⟨hc, hdata⟩).trans (cxlWrite_of_behind (s := { s with cxlResp := [] }) hv hl hb))
  case refused => exact answers rfl ((if_pos ⟨hc, hdata⟩).trans (cxlWrite_of_refused (s := { s with cxlResp := [] }) hv hb))
  case response =>
    have hrow : execBackInvalidateResponse w s = .next (unfused s (biWriteEnd s w p n off data)) := by
      simp [execBackInvalidateResponse, hw]
    exact answers hrow rfl
  case inTurn =>
    have hw : mget s.waits w = some (.biWrite p n off data) := by simp [hwaits, mget]
    have hrow : execBackInvalidateResponse w s = .next (unfused s (biWriteEnd s w p n off data)) := by
      simp [execBackInvalidateResponse, hw]
    have hset : mset s.waits w (.cxlWrite p n off data) = [(w, .cxlWrite p n off data)] := by simp [hwaits, mset]
    refine answers hrow ?_
    exact releaseWaits_single_write (s := { s with waits := mset s.waits w (.cxlWrite p n off data) }) hset hmsgs hv

/-! ### Descriptors -/

/-- Each descriptor row is `withDesc` on the row's descriptors and fields. -/
theorem exec_descriptor {c : Instr} {d : Nat} {row : Taken → Bool} {named : List (Nat × Nat)}
    (hc : descriptorOf c = some (d, row, named)) (s : State) :
    ∃ act, exec c s = .next (unfused s (withDesc s d row named act)) := by
  unfold descriptorOf at hc
  split at hc <;> cases hc <;> exact ⟨_, rfl⟩

/-- The opcode and action of a row are not reserved. -/
theorem knownOp_of_row {c : Instr} {d : Nat} {row : Taken → Bool} {named : List (Nat × Nat)} {t : Taken}
    (hc : descriptorOf c = some (d, row, named)) (hrow : row t = true) : knownOp t = true := by
  unfold descriptorOf at hc
  split at hc <;> cases hc <;> simp_all [knownOp, isSync, isMove, Nat.le_of_lt_succ]

/-- The only descriptor of an empty set of taken ones waits for none. -/
theorem rejectReserved_single {s : State} {d : Nat} {t : Taken} (htaken : s.taken = [(d, t)]) (hstage : t.stage = .taken)
    (hop : knownOp t = false) : rejectReserved s = finish s d ePerm := by
  have hstart : mayStart s d t = true := by simp [mayStart, htaken, hstage]
  refine (congrArg (List.foldl _ s) htaken).trans (if_pos ?_)
  simp [hop, hstart]

/-- Settles O17: every descriptor row runs through `withDesc`, whose first checks are the statement's. -/
theorem descriptorHeads : Obligations.descriptor_heads := by
  refine ⟨fun c d row named s t hc ht => ?rows, fun s p q slot htake htaken => ?reserved⟩
  case rows =>
    obtain ⟨act, hexec⟩ := exec_descriptor hc s
    refine ⟨fun hwait => answers hexec (withDesc_waits ht hwait),
      fun hrow hstart hrun => ⟨fun hlc => ?lifecycle, fun hlc hres => ?field⟩⟩
    case lifecycle =>
      have hhead : headStatus s t named = eLifecycle := by simp [headStatus, knownOp_of_row hc hrow, hlc]
      refine answers hexec ((withDesc_fails ht hstart hrun ?_ hrow).trans (by rw [hhead]))
      rw [hhead]; decide
    case field =>
      have hhead : headStatus s t named = ePerm := by simp [headStatus, knownOp_of_row hc hrow, hlc, hres]
      refine answers hexec ((withDesc_fails ht hstart hrun ?_ hrow).trans (by rw [hhead]))
      rw [hhead]; decide
  case reserved =>
    intro v t hop
    refine answers rfl ((if_pos htake).trans ?_)
    change rejectReserved (hwBump { setQp s p q { v with sqHead := (v.sqHead + 1) % 2 ^ v.sqLog2 } with
      taken := mset s.taken s.takes t, takes := s.takes + 1 } (kPort p 0) 1) = _
    rw [htaken]
    exact rejectReserved_single rfl rfl hop

/-! ### NOP, FENCE, ATTEST and keys -/

/-- Settles O18: each row's guard is the statement's. -/
theorem plainAndKeyDescriptors : Obligations.plain_and_key_descriptors := by
  intro s d t
  refine ⟨fun hs hop => ?nop, fun hs hop => ?fence, fun hs hop => ⟨fun hheld => ?busy, fun hheld hlen => ?report⟩,
    fun blob hs hop hlen hkey => ?keyImport, fun hs hop hlen hkey => ?keyClear⟩
  case nop => exact answers rfl (withDesc_starts hs (beq_iff_eq.2 hop))
  case fence => exact answers rfl (withDesc_starts hs (beq_iff_eq.2 hop))
  case busy => exact answers rfl ((withDesc_starts hs (by simp [hop])).trans (if_pos hheld))
  case report =>
    exact answers rfl ((withDesc_starts hs (by simp [hop])).trans
      ((if_neg (Nat.not_le.2 hheld)).trans (if_neg (Nat.not_lt.2 hlen))))
  case keyImport =>
    intro lines u key
    have hrow : (t.op == 0x81 && fld t.bytes 16 4 != 0) = true := by simp [hop, hlen]
    have himport : importKey s d t (blob.take 1200) = finish
        { u with ctxs := mset u.ctxs t.ctx { ctxOf u t.ctx with slots := mset (ctxOf u t.ctx).slots (fld t.bytes 20 4) key } } d stOk :=
      if_neg (not_not.2 hkey)
    refine ⟨fun hfree => answers rfl ((withDesc_starts hs hrow).trans ((if_neg ?_).trans himport)), fun hplain hlines =>
      answers rfl ((withDesc_starts hs hrow).trans (if_pos ⟨hkey, by simp [hplain], congrArg not (List.isEmpty_eq_false_iff.2 hlines)⟩))⟩
    rintro ⟨-, hplain, hlines⟩
    rcases hfree with hsealed | hnone
    · simp [hsealed] at hplain
    · exact absurd hlines (ne_true_of_eq_false (congrArg (!List.isEmpty ·) hnone))
  case keyClear =>
    exact answers rfl ((withDesc_starts hs (by simp [hop, hlen])).trans (if_neg (not_not.2 hkey)))

end Sys2Proof.Machine
end

section
/-!
PROOFS. Lanes: what keeps one from firing, its tally at the end of a clk, and the control opcodes (3 R90 to R120, 6 R214).
-/
namespace Sys2Proof.Machine

/-! ### What keeps a lane from firing -/

/-- Each lane's row is `laneRow` on the row's instructions. -/
theorem exec_lane {c : Instr} {t l : Nat} {row : InstrWord → Bool} (hc : laneOf c = some (t, l, row)) (s : State) :
    ∃ act, exec c s = .next (unfused s (laneRow s t l row act)) := by
  unfold laneOf at hc
  split at hc <;> cases hc <;> exact ⟨_, rfl⟩

/-- Settles O29: every lane's row runs through `laneRow`, whose checks are the statement's. -/
theorem lanesWait : Obligations.lanes_wait := by
  intro c t l row s hc
  obtain ⟨act, hexec⟩ := exec_lane hc s
  exact ⟨fun w heval hrow => answers hexec (laneRow_other heval hrow), fun hidle => answers hexec (laneRow_idle hidle),
    fun w r e heval hrow hread => ⟨answers hexec (laneRow_trap heval hrow hread), progRead_trap hread⟩,
    fun w r hread hrow => ⟨fun hcauses => answers hexec (laneRow_blocked hread hrow hcauses),
      fun hcauses hbanks => answers hexec (laneRow_banks hread hrow hcauses hbanks)⟩⟩

/-! ### The tally of a clk -/

theorem firstCause_lt {cs : List Nat} {k : Nat} (h : firstCause cs = some k) : k < 15 := by
  have hmem : k ∈ causeOrder := List.mem_of_find?_eq_some h
  have hall : ∀ c ∈ causeOrder, c < 15 := by decide
  exact hall k hmem

theorem laneTally_lt (x : TileSt) (l : Nat) : laneTally x l < 17 := by
  unfold laneTally
  dsimp only
  split
  · split
    next c h => have := firstCause_lt h; omega
    next => omega
  · split
    · split <;> omega
    · omega

theorem map_waitCause (x : TileSt) (n : Nat) {cs : List Nat} (h : ∀ c ∈ cs, c < 0x10) : cs.map (waitCause x (n + 1)) = cs :=
  (List.map_congr_left fun c hc => if_pos (h c hc)).trans (List.map_id cs)

theorem laneTally_evaluated {x : TileSt} {l : Nat} (heval : (x.lane l).evaluated = true) (htrap : (x.lane l).trapped = false)
    (hwaits : ∀ c ∈ (x.lane l).waits, c < 0x10) :
    laneTally x l = (firstCause (x.lane l).waits).elim 0 (2 + ·) := by
  simp only [laneTally, heval, htrap, map_waitCause x 4 hwaits]
  cases firstCause (x.lane l).waits <;> rfl

theorem counter_hwBump (s : State) (k j : Nat) :
    mgetD (hwBump s k 1).hwc j .zero = if j = k then (mgetD s.hwc j .zero).add 1 else mgetD s.hwc j .zero := by
  have hbump : (hwBump s k 1).hwc = mupd s.hwc k .zero (·.add 1) := congrArg State.hwc (if_neg Nat.one_ne_zero)
  rw [hbump, mgetD, mget_mupd]
  by_cases hj : j = k
  · subst hj; simp
  · simp [hj, Ne.symm hj, mgetD]

/-- Counters counted once each: every one of them rises by one, the others stay. -/
theorem counter_foldl_hwBump {g : Nat → Nat} (ls : List Nat) (hg : (ls.map g).Nodup) (s : State) (j : Nat) :
    mgetD (ls.foldl (fun s l => hwBump s (g l) 1) s).hwc j .zero =
      if j ∈ ls.map g then (mgetD s.hwc j .zero).add 1 else mgetD s.hwc j .zero := by
  induction ls generalizing s with
  | nil => simp
  | cons l ls ih =>
    obtain ⟨hnot, hnodup⟩ := List.nodup_cons.1 hg
    rw [List.foldl_cons, ih hnodup, counter_hwBump]
    by_cases hj : j = g l
    · subst hj; simp [hnot]
    · simp [hj]

theorem kTile_lane_inj {t l l' k k' : Nat} (hk : k < 17) (hk' : k' < 17) (h : kTile t (17 * l + k) = kTile t (17 * l' + k')) :
    l = l' ∧ k = k' := by
  unfold kTile at h
  omega

theorem hwc_setTile {s : State} {t : Nat} {x : TileSt} (h : mhas s.tiles t = true) : (setTile s t x).hwc = s.hwc := by
  unfold setTile
  rw [if_pos h]

theorem countLanes_counter {s : State} {t l k : Nat} (htile : mhas s.tiles t = true) (hl : l < 5) (hk : k < 17) :
    mgetD (countLanes s t).hwc (kTile t (17 * l + k)) .zero =
      if k = laneTally (tileOf s t) l then (mgetD s.hwc (kTile t (17 * l + k)) .zero).add 1
      else mgetD s.hwc (kTile t (17 * l + k)) .zero := by
  let g : Nat → Nat := fun l => kTile t (17 * l + laneTally (tileOf s t) l)
  have hnodup : ((List.range 5).map g).Nodup :=
    List.nodup_range.map fun a b h => (kTile_lane_inj (laneTally_lt _ _) (laneTally_lt _ _) h).1
  have hlisted : mhas ((List.range 5).foldl (fun s l => hwBump s (g l) 1) s).tiles t = true := by
    rw [foldl_keeps State.tiles _ fun s l => tiles_hwBump s _ _]; exact htile
  have hcount : (countLanes s t).hwc = ((List.range 5).foldl (fun s l => hwBump s (g l) 1) s).hwc :=
    hwc_setTile hlisted
  have hmem : kTile t (17 * l + k) ∈ (List.range 5).map g ↔ k = laneTally (tileOf s t) l := by
    rw [List.mem_map]
    constructor
    · rintro ⟨l', -, hkey⟩
      obtain ⟨rfl, rfl⟩ := kTile_lane_inj (laneTally_lt _ _) hk hkey
      rfl
    · rintro rfl
      exact ⟨l, List.mem_range.2 hl, rfl⟩
  rw [hcount, counter_foldl_hwBump _ hnodup]
  simp only [hmem]

/-- Settles O30: the five lanes' counters of a clk are different ones, and a wait below 0x10 is its own cause. -/
theorem lanesCountOnce : Obligations.lanes_count_once := by
  intro s t l htile hl x lane
  refine ⟨laneTally_lt x l, fun k hk => countLanes_counter htile hl hk, fun heval htrap hwaits => ?fires,
    fun heval htrap hwaits k hk => ?waits, fun heval hfrozen => ?idle, fun heval hfrozen => ?frozen⟩
  case fires =>
    have hempty : (x.lane l).waits = [] := hwaits
    rw [laneTally_evaluated heval htrap (by simp [hempty]), hempty]
    rfl
  case waits =>
    rw [laneTally_evaluated heval htrap hwaits, show firstCause (x.lane l).waits = some k from hk]
    rfl
  case idle => simp [laneTally, show (x.lane l).evaluated = false from heval, hfrozen]
  case frozen => simp [laneTally, show (x.lane l).evaluated = false from heval, hfrozen]

/-! ### Control opcodes -/

/-- Settles O31: a lane that nothing holds back does its row's action. -/
theorem controlOpcodes : Obligations.control_opcodes := by
  intro s u t l w hf
  have fires {op : Nat} {act : State → InstrWord → Got × State} (hop : opcodeOf w = op) := laneRow_fires (row := (opcodeOf · == op)) (act := act)
    hf (beq_iff_eq.2 hop)
  refine ⟨fun c hc => ?plain, fun hop => answers rfl (fires hop), fun hop => answers rfl (fires hop), fun hop => answers rfl (fires hop),
    fun hop => ?send, fun hop => answers rfl (fires hop)⟩
  case plain =>
    simp only [List.mem_cons, Prod.mk.injEq, List.not_mem_nil, or_false] at hc
    rcases hc with ⟨rfl, hop⟩ | ⟨rfl, hop⟩ | ⟨rfl, hop⟩ <;> exact answers rfl (fires hop)
  case send =>
    intro q v
    have hsend := fires (act := sendAct t) hop
    refine ⟨fun hnet => answers rfl (hsend.trans ?_), fun hnet hv => answers rfl (hsend.trans ?_),
      fun hnet hv => answers rfl (hsend.trans ?_)⟩
    · rw [show sendAct t u w = (.val 0, putEntry u t q v) from if_neg hnet]
    · rw [show sendAct t u w = (.val 0, putEntry u t q (v % 256)) from (if_pos hnet).trans (if_neg (Nat.not_le.2 hv))]
    · rw [show sendAct t u w = (.trap ePerm, u) from (if_pos hnet).trans (if_pos hv)]

/-! ### What a control opcode leaves alone -/

/-- The causes of a control opcode are those of its conditions, its queues and a wait in force: none is a page of T2. -/
theorem inCause_ne (x : TileSt) (q n : Nat) : 0x7 ∉ inCause x q n := by
  unfold inCause
  dsimp only
  split_ifs <;> simp

theorem outCause_ne (s : State) (t q : Nat) : outCause s t q ≠ 0x7 := by
  unfold outCause
  split_ifs <;> decide

theorem ownerWait_ne (x : TileSt) (f : InstrWord → List Nat) (i : Nat) : ownerWait x f i ≠ 0x7 := by
  unfold ownerWait
  split <;> omega

theorem condCauses_ne (s : State) (t c : Nat) : 0x7 ∉ condCauses s t c := by
  have hout := (outCause_ne s t (bits c 12 8)).symm
  have howner := fun f i => (ownerWait_ne (tileOf s t) f i).symm
  unfold condCauses
  dsimp only
  split
  case h_1 => exact inCause_ne _ _ _
  case h_2 => split_ifs <;> simp [hout]
  case h_3 =>
    split
    · exact inCause_ne _ _ _
    · split_ifs <;> simp
  case h_4 => split_ifs <;> simp [howner]
  case h_5 => split_ifs <;> simp [howner]
  case h_6 => exact List.not_mem_nil

theorem unitCauses_ne (s : State) (t l : Nat) {w : InstrWord} (hop : opcodeOf w ≤ 7) : 0x7 ∉ unitCauses s t l w := by
  have hsync : 0x7 ∉ if ((tileOf s t).core.lanes.getD l .idle).syncing then [0xA] else [] := by split_ifs <;> simp
  have hins : 0x7 ∉ (operandTakes w).flatMap fun q => inCause (tileOf s t) q.1 q.2 := by simp [inCause_ne]
  have houts : 0x7 ∉ (operandPuts w).flatMap fun q =>
      if ((tileOf s t).condQueue q.1).hw.length + q.2 ≤ qDepth q.1 then [] else [outCause s t q.1] := by
    simp only [List.mem_flatMap, not_exists, not_and]
    intro q _
    split_ifs <;> simp [(outCause_ne s t q.1).symm]
  unfold unitCauses
  dsimp only
  simp only [List.mem_append, not_or]
  refine ⟨⟨⟨hsync, hins⟩, houts⟩, ?_⟩
  interval_cases opcodeOf w <;> exact List.not_mem_nil

theorem laneCauses_ne (s : State) (t l : Nat) {w : InstrWord} (hop : opcodeOf w ≤ 7) : 0x7 ∉ laneCauses s t l w := by
  simp [laneCauses, condCauses_ne, unitCauses_ne s t l hop]

theorem Own.lane {t l : Nat} {a b : State} (h : Own t a b) (f : LaneSt → LaneSt) : Own t a (setLane b t l f) :=
  h.tile rfl rfl rfl rfl rfl rfl

theorem Own.unfused {t : Nat} {a b : State} (h : Own t a b) : Own t a (Machine.unfused a b) := by
  obtain ⟨hbut, hrest⟩ := h
  exact ⟨congrArg (Machine.unfused a) hbut, hrest⟩

/-- A lane whose opcode is a control one and whose action works on its own tile leaves the rest alone. -/
theorem own_laneRow {s : State} {t l : Nat} {row : InstrWord → Bool} {act : State → InstrWord → Got × State}
    (hread : (progRead s t ((tileOf s t).lane l).pc).1 = .val 0)
    (hact : ∀ w, mget (tileOf s t).cfg.prog ((tileOf s t).lane l).pc = some w → row w = true →
      opcodeOf w ≤ 7 ∧ ∀ u, ∃ v, act u w = (.val 0, v) ∧ Own t u v) : Own t s (laneRow s t l row act) := by
  cases hw : mget (tileOf s t).cfg.prog ((tileOf s t).lane l).pc with
  | none => rw [laneRow_idle (by simp [hw])]; exact Own.refl t s
  | some w =>
    by_cases hruns : (laneReady s t l && row w) = true
    · obtain ⟨hready, hrow⟩ := Bool.and_eq_true_iff.1 hruns
      obtain ⟨hop, hdoes⟩ := hact w hw hrow
      have heval : s.evaluates t l w := by
        simp only [laneReady, Bool.and_eq_true, Bool.not_eq_true'] at hready
        obtain ⟨⟨⟨⟨h1, h2⟩, h3⟩, h4⟩, h5⟩ := hready
        exact ⟨h1, h2, h3, h4, h5, hw⟩
      obtain ⟨g, r, hpair⟩ : ∃ g r, progRead s t ((tileOf s t).lane l).pc = (g, r) := ⟨_, _, rfl⟩
      obtain rfl : g = .val 0 := by rw [hpair] at hread; exact hread
      have hreads : s.reads r t l w := ⟨heval, hpair⟩
      have hown : Own t s r := (Own.refl t s).read hpair
      by_cases hcauses : laneCauses r t l w = []
      · by_cases hbanks : r.bankWaits t l w = []
        · obtain ⟨v, hv, hfrom⟩ := hdoes (useBanks r t (l + 1) (r.served t l w).2)
          rw [laneRow_fires ⟨r, hreads, hcauses, hbanks, rfl⟩ hrow, hv]
          exact (hown.banks _ _ |>.trans hfrom).fires w
        · rw [laneRow_banks hreads hrow hcauses hbanks]
          exact (hown.banks _ _).lane _
      · rw [laneRow_blocked hreads hrow hcauses, if_neg fun h => laneCauses_ne r t l hop h.1]
        exact hown.lane _
    · have hstays : laneRow s t l row act = s := by simp only [laneRow, hw]; exact if_neg hruns
      rw [hstays]
      exact Own.refl t s

theorem own_setFlag (u : State) (t f : Nat) (on : Bool) : Own t u (setFlag u t f on) :=
  (Own.refl t u).tile rfl rfl rfl rfl rfl rfl

theorem own_setlcAct (u : State) (t : Nat) (w : InstrWord) : Own t u (setlcAct t u w) :=
  (Own.refl t u).tile rfl rfl rfl rfl rfl rfl

theorem own_eosAct (u : State) (t : Nat) (w : InstrWord) : Own t u (eosAct t u w) :=
  Own.fold (fun _ _ h => h.put _ _) _ (Own.refl t u)

theorem sendAct_outside {u : State} {t : Nat} {w : InstrWord} (h : netOf (iw w 68 64) ≠ 2) :
    ∃ v, sendAct t u w = (.val 0, v) ∧ Own t u v :=
  ⟨_, if_neg h, (Own.refl t u).put _ _⟩

/-- Settles O32: each control opcode's action works on the lane's own tile. -/
theorem controlFrame : Obligations.control_frame := by
  intro s u t l c hc hread hexec
  have done {act : State → InstrWord → Got × State} {op : Nat} (hrow : exec c s = .next (unfused s (opRow s t (laneIx l) op act)))
      (hact : ∀ w, mget (tileOf s t).cfg.prog ((tileOf s t).lane (laneIx l)).pc = some w → opcodeOf w = op →
        opcodeOf w ≤ 7 ∧ ∀ u, ∃ v, act u w = (.val 0, v) ∧ Own t u v) : Own t s u := by
    obtain rfl : unfused s (opRow s t (laneIx l) op act) = u := Host.Outcome.next.inj (hrow.symm.trans hexec)
    exact (own_laneRow hread fun w hw hop => hact w hw (beq_iff_eq.1 hop)).unfused
  rcases hc with rfl | rfl | rfl | rfl | rfl | rfl | rfl | ⟨rfl, hnet⟩
  · exact done rfl fun w _ hop => ⟨by omega, fun u => ⟨_, rfl, Own.refl t u⟩⟩
  · exact done rfl fun w _ hop => ⟨by omega, fun u => ⟨_, rfl, own_setlcAct u t w⟩⟩
  · exact done rfl fun w _ hop => ⟨by omega, fun u => ⟨_, rfl, own_setFlag u t _ _⟩⟩
  · exact done rfl fun w _ hop => ⟨by omega, fun u => ⟨_, rfl, own_setFlag u t _ _⟩⟩
  · exact done rfl fun w _ hop => ⟨by omega, fun u => ⟨_, rfl, Own.refl t u⟩⟩
  · exact done rfl fun w _ hop => ⟨by omega, fun u => ⟨_, rfl, Own.refl t u⟩⟩
  · exact done rfl fun w _ hop => ⟨by omega, fun u => ⟨_, rfl, own_eosAct u t w⟩⟩
  · exact done rfl fun w hw hop => ⟨by omega, fun u => sendAct_outside (hnet w hw)⟩

end Sys2Proof.Machine
end

section
/-!
PROOFS. The engines of a tile: the matrix, vector and scalar units and the T2 path (2, 3 R95 to R116, 5 R162).
-/
namespace Sys2Proof.Machine

/-! ### A row's action on a lane that nothing holds back -/

theorem opRow_traps {s u x : State} {t l op e : Nat} {w : InstrWord} {act : State → InstrWord → Got × State} (hf : s.fires u t l w)
    (hop : opcodeOf w = op) (hact : act u w = (.trap e, x)) : opRow s t l op act = trapLane x t l e :=
  (laneRow_fires (row := (opcodeOf · == op)) hf (beq_iff_eq.2 hop)).trans (by rw [hact])

theorem opRow_does {s u x : State} {t l op n : Nat} {w : InstrWord} {act : State → InstrWord → Got × State} (hf : s.fires u t l w)
    (hop : opcodeOf w = op) (hact : act u w = (.val n, x)) : opRow s t l op act = x.fired t l w :=
  (laneRow_fires (row := (opcodeOf · == op)) hf (beq_iff_eq.2 hop)).trans (by rw [hact])

/-! ### The matrix engine -/

/-- What an operation of the matrix engine reads of T1 and T2. -/
def mxeReads (v : InstrWord) : List (Where × Nat) :=
  mxeTiles v 0 (mxeK v) ++ (if iw v 102 101 = 2 then [(mxePart v, 24 * (blockIx (halfOf v)).length)] else []) ++
    (if iw v 104 103 = 1 ∧ iw v 109 109 = 1 then [(mxeBias v, 128)] else [])

/-- The operation that an instruction of the matrix engine starts. -/
def mxeBegun (v : InstrWord) : OpSt :=
  { word := if iw v 102 101 == 2 then v else setField v 102 101 1, done := 0, clk := if iw v 102 101 == 2 then loadClk v else 1 }

theorem mxeAct_traps {s x : State} {t e : Nat} {w : InstrWord} (h : checkAll s t (mxeReads (mxeWord w)) = (.trap e, x)) :
    mxeAct t s w = (.trap e, x) := by
  unfold mxeReads at h
  simp only [mxeAct, h]

theorem mxeAct_checked {s x : State} {t g : Nat} {w : InstrWord} (h : checkAll s t (mxeReads (mxeWord w)) = (.val g, x)) :
    mxeAct t s w = if iw (mxeWord w) 104 103 ≠ 0 ∧ (mxeDest (mxeWord w)).1.pastT1 (mxeDest (mxeWord w)).2 = true then (.trap ePerm, x)
      else (.val 0, setOp (mxeStart x t (mxeWord w)) t 0 (some (mxeBegun (mxeWord w)))) := by
  unfold mxeReads at h
  simp only [mxeAct, h] <;> rfl

theorem mergeAct_traps {s x : State} {t e : Nat} {w : InstrWord}
    (h : checkAll s t [(mxePart w, 24 * (mergeIx w).length)] = (.trap e, x)) : mergeAct t s w = (.trap e, x) := by
  simp only [mergeAct, h]

theorem mergeAct_starts {s x : State} {t v : Nat} {w : InstrWord}
    (h : checkAll s t [(mxePart w, 24 * (mergeIx w).length)] = (.val v, x)) :
    mergeAct t s w = (.val 0, setOp x t 0 (some { word := w, done := 0, clk := loadClk w })) := by
  simp only [mergeAct, h]

theorem settleGot_trap {t l e : Nat} {r : Got × State} {y : State} (h : r = (.trap e, y)) : settleGot t l r = trapLane y t l e := by
  rw [h]; rfl

theorem settleGot_val {t l v : Nat} {r : Got × State} {y : State} (h : r = (.val v, y)) : settleGot t l r = y := by
  rw [h]; rfl

/-- What ends when the engine's operation `o` does. -/
def mxeEnds (s : State) (t : Nat) : Option OpSt → State
  | none => if (tileOf s t).core.drain.isSome then endDrain s t else s
  | some o =>
    if opcodeOf o.word = 0x11 then mergeEnd (endDrain s t) t o.word
    else endDrain (settleGot t 0 (mxeRunOut (if iw o.word 102 101 = 2 then mxeLoad (endDrain s t) t o.word else endDrain s t) t
      { o with word := setField o.word 102 101 1 })) t

/-- MXE_OP_COMPLETE while the array runs. -/
theorem exec_mxeOpComplete {s : State} {t : TileIx} (hruns : unitRuns s t = true) :
    exec (.mxeOpComplete t) s = .next (unfused s (mxeEnds s t ((tileOf s t).lane 0).op)) := by
  refine answers rfl ((if_neg (ne_true_of_eq_false (congrArg not hruns))).trans ?_)
  cases ((tileOf s t).lane 0).op <;> rfl

theorem exec_mxeOpComplete_of {s : State} {t : TileIx} (hruns : unitRuns s t = true) {o : Option OpSt}
    (ho : ((tileOf s t).lane 0).op = o) : exec (.mxeOpComplete t) s = .next (unfused s (mxeEnds s t o)) :=
  ho ▸ exec_mxeOpComplete hruns

/-! ### The T2 path -/

theorem t2MoveComplete_runs {s : State} {t : TileIx} (hruns : unitRuns s t = true) {o : OpSt} (ho : ((tileOf s t).lane 3).op = some o) :
    exec (.t2MoveComplete t) s = .next (unfused s (t2Rest s t o)) := by
  have hrow : execT2MoveComplete t s = .next (unfused s (if unitRuns s t then t2Rest s t o else s)) := by
    simp only [execT2MoveComplete, ho]
  exact answers hrow (if_pos hruns)

theorem t2Rest_ends {s y : State} {t v : Nat} {o : OpSt} (h : t2Copy s t o.word o.moved (iw o.word 127 112) = (.val v, y)) :
    t2Rest s t o = t2End y t o.word := by simp only [t2Rest, h]

theorem t2Rest_traps {s y : State} {t e : Nat} {o : OpSt} (h : t2Copy s t o.word o.moved (iw o.word 127 112) = (.trap e, y)) :
    t2Rest s t o = trapLane y t 3 e := by simp only [t2Rest, h]

/-- The end of the move that is read: T2 for a read, else the local one. -/
def t2Source (s : State) (t : Nat) (w : InstrWord) : Where :=
  if opcodeOf w = 0x40 then .t2 (t2At (tileOf s t).core w) else localAt (tileOf s t).core w

theorem t2Act_past {s : State} {t : Nat} {w : InstrWord} (h : reserveOff < t2At (tileOf s t).core w + 64 * iw w 127 112 ∨
    (localAt (tileOf s t).core w).pastT1 (64 * iw w 127 112) = true) : t2Act t s w = (.trap ePerm, s) := if_pos h

theorem t2Act_inside {s x : State} {t : Nat} {g : Got} {w : InstrWord} (hend : t2At (tileOf s t).core w + 64 * iw w 127 112 ≤ reserveOff)
    (hloc : (localAt (tileOf s t).core w).pastT1 (64 * iw w 127 112) = false)
    (hsrc : checkWhere s t (64 * iw w 127 112) (t2Source s t w) = (g, x)) :
    t2Act t s w = match g with
      | .trap e => (.trap e, x)
      | .val _ => (.val 0, setOp x t 3 (some { word := t2Resolve (tileOf s t).core w, done := 0, clk := 1 })) := by
  have hin : ¬ (reserveOff < t2At (tileOf s t).core w + 64 * iw w 127 112 ∨
      (localAt (tileOf s t).core w).pastT1 (64 * iw w 127 112) = true) := by
    rintro (hpast | hpast)
    · exact absurd hpast (Nat.not_lt.2 hend)
    · exact absurd hpast (ne_true_of_eq_false hloc)
  have hread : (if opcodeOf w = 0x40 then checkWhere s t (64 * iw w 127 112) (.t2 (t2At (tileOf s t).core w))
      else checkWhere s t (64 * iw w 127 112) (localAt (tileOf s t).core w)) = (g, x) := by
    rw [← hsrc, t2Source]; split_ifs <;> rfl
  refine (if_neg hin).trans ?_
  rw [hread]
  cases g <;> rfl

/-! ### The vector unit -/

section Vop
variable {s u1 u2 u3 : State} {t a b c : Nat} {w : InstrWord}

/-- The B operand that an immediate gives, and its flags. -/
def vopImm (w : InstrWord) : Nat × Nat := broadcastImm (iw w 71 64) (iw w 75 72) (iw w 86 85) (iw w 223 192)

/-- What a vector operation computes from its operands. -/
def vopResult (w : InstrWord) (a b c : Nat) : Nat × Option Nat × Nat :=
  vopRun { fn := iw w 71 64, fs := iw w 75 72, fd := iw w 79 76, iw := iw w 86 85, a := a, b := b,
           c := if iw w 71 64 = 0x41 then iw w 223 192 else c }

/-- The flags of a vector operation, those of an immediate operand that it reads among them. -/
def vopFlags (w : InstrWord) (a b c : Nat) : Nat :=
  if (vReads (iw w 71 64)).2.1 ∧ iw w 127 126 = 3 then orFlags (vopResult w a b c).2.2 (vopImm w).2 else (vopResult w a b c).2.2

/-- The vector unit is busy for the clks of the operation. -/
def vopBusy (t : Nat) (w : InstrWord) (y : State) : State :=
  setLane y t 1 fun l => { l with busy := vClk (iw w 71 64) (iw w 75 72) (iw w 79 76) }

theorem vopAct_trapA {e : Nat} {x : State} (h : readRef s t (iw w 111 96) (iw w 84 80) 0 = (.trap e, x)) :
    vopAct t s w = (.trap e, x) := by simp only [vopAct, h]

variable (ha : readRef s t (iw w 111 96) (iw w 84 80) 0 = (.val a, u1))
include ha

theorem vopAct_trapB {e : Nat} {x : State} (h : readRef u1 t (iw w 127 112) (iw w 84 80) (vopImm w).1 = (.trap e, x)) :
    vopAct t s w = (.trap e, x) := by
  unfold vopImm at h
  simp only [vopAct, ha, h]

variable (hb : readRef u1 t (iw w 127 112) (iw w 84 80) (vopImm w).1 = (.val b, u2))
include hb

theorem vopAct_trapC {e : Nat} {x : State}
    (h : (if iw w 71 64 = 0x29 then (Got.val 0, u2) else readRef u2 t (iw w 143 128) (iw w 84 80) 0) = (.trap e, x)) :
    vopAct t s w = (.trap e, x) := by
  unfold vopImm at hb
  simp only [vopAct, ha, hb, h]

variable (hc : (if iw w 71 64 = 0x29 then (Got.val 0, u2) else readRef u2 t (iw w 143 128) (iw w 84 80) 0) = (.val c, u3))
include hc

/-- A vector operation that has read its operands writes its result, then the scales that some operations give. -/
theorem vopAct_reads : vopAct t s w =
    match writeRef (orStep u3 t (vopFlags w a b c)) t (iw w 159 144) (iw w 84 80) (vopResult w a b c).1 with
    | (.trap e, y) => (.trap e, y)
    | (.val _, y) =>
      match (vopResult w a b c).2.1 with
      | some scales => writeRef (vopBusy t w y) t (iw w 143 128) (iw w 84 80) scales
      | none => (.val 0, vopBusy t w y) := by
  unfold vopImm at hb
  simp only [vopAct, ha, hb, hc] <;> rfl

theorem vopAct_trapD {e : Nat} {y : State}
    (h : writeRef (orStep u3 t (vopFlags w a b c)) t (iw w 159 144) (iw w 84 80) (vopResult w a b c).1 = (.trap e, y)) :
    vopAct t s w = (.trap e, y) := by
  rw [vopAct_reads ha hb hc, h]

theorem vopAct_single {n : Nat} {y : State}
    (h : writeRef (orStep u3 t (vopFlags w a b c)) t (iw w 159 144) (iw w 84 80) (vopResult w a b c).1 = (.val n, y))
    (hr : (vopResult w a b c).2.1 = none) : vopAct t s w = (.val 0, vopBusy t w y) := by
  rw [vopAct_reads ha hb hc, h, hr]

theorem vopAct_scaled {n sc : Nat} {y : State}
    (h : writeRef (orStep u3 t (vopFlags w a b c)) t (iw w 159 144) (iw w 84 80) (vopResult w a b c).1 = (.val n, y))
    (hr : (vopResult w a b c).2.1 = some sc) :
    vopAct t s w = writeRef (vopBusy t w y) t (iw w 143 128) (iw w 84 80) sc := by
  rw [vopAct_reads ha hb hc, h, hr]

end Vop

/-! ### The scalar unit -/

section Sop
variable {s u1 u2 : State} {t a b : Nat} {w : InstrWord}

theorem sopAct_trapA {e : Nat} {x : State} (h : readS s t (iw w 89 82) = (.trap e, x)) : sopAct t s w = (.trap e, x) := by
  simp only [sopAct, h]

variable (ha : readS s t (iw w 89 82) = (.val a, u1))
include ha

theorem sopAct_trapB {e : Nat} {x : State} (h : sopB u1 t w = (.trap e, x)) : sopAct t s w = (.trap e, x) := by
  simp only [sopAct, ha, h]

variable (hb : sopB u1 t w = (.val b, u2))
include hb

theorem sopAct_computes (hload : iw w 71 64 ≠ 0x20) (hstore : iw w 71 64 ≠ 0x21) :
    sopAct t s w = (.val 0, writeS (orStep u2 t (sopRun (iw w 71 64) (iw w 73 72) a b).2) t (iw w 81 74)
      (sopRun (iw w 71 64) (iw w 73 72) a b).1) := by
  simp only [sopAct, ha, hb, hload, hstore, if_false]

theorem sopAct_unaligned (hfn : iw w 71 64 = 0x20 ∨ iw w 71 64 = 0x21) (hal : a % 8 ≠ 0) : sopAct t s w = (.trap ePerm, u2) := by
  rcases hfn with hfn | hfn <;> simp [sopAct, ha, hb, hfn, hal]

theorem sopAct_load (hfn : iw w 71 64 = 0x20) (hal : a % 8 = 0) :
    sopAct t s w = match readT1 u2 t a 8 with
      | (.trap e, y) => (.trap e, y)
      | (.val v, y) => (.val 0, writeS y t (iw w 81 74) v) := by
  simp only [sopAct, ha, hb, hfn, hal, if_true, ne_eq, not_true_eq_false, if_false] <;> rfl

theorem sopAct_store (hfn : iw w 71 64 = 0x21) (hal : a % 8 = 0) : sopAct t s w = writeT1 u2 t a (leBytes 8 b) := by
  simp [sopAct, ha, hb, hfn, hal]

end Sop

theorem sreg_writeS {s : State} {t o v : Nat} (h : bit o 7 = false) : (tileOf (writeS s t o v) t).core.sreg (o % 32) = v % 2 ^ 64 := by
  rw [writeS, if_neg (ne_true_of_eq_false h), setCore, tileOf_setTile]
  exact sreg_setS _ _ _

/-- A lane that moves on keeps its tile's scalar registers. -/
theorem sreg_fired (s : State) (t l : Nat) (w : InstrWord) (i : Nat) :
    (tileOf (s.fired t l w) t).core.sreg i = (tileOf s t).core.sreg i := by
  obtain ⟨-, -, hs, -⟩ := (Own.refl t s).fires (l := l) w
  rw [TileCore.sreg, TileCore.sreg, hs]

/-- Settles O33: the action of each engine's row goes through the statement's cases. -/
theorem engines : Obligations.engines := by
  intro s u t w
  refine ⟨fun hf hop => ?mxe, fun hf hop => ⟨fun e x h => ?mergeTrap, fun v x h => ?merge⟩,
    fun hruns => ⟨fun hnone hdrain => ?drained, fun o ho hmerge => ?merged, fun o ho hmxe => ?run, fun o ho => ?moved⟩,
    fun hf hop => ?vop, fun hf hop => ?sop, fun c hc hf => ?t2⟩
  case mxe =>
    intro v ins past load o
    refine ⟨fun e x h => answers rfl (opRow_traps hf hop (mxeAct_traps h)), fun g x h => ⟨fun hpast => ?_, fun hin => ?_⟩⟩
    · exact answers rfl (opRow_traps hf hop ((mxeAct_checked h).trans (if_pos hpast)))
    · exact answers rfl (opRow_does hf hop ((mxeAct_checked h).trans (if_neg hin)))
  case mergeTrap => exact answers rfl (opRow_traps hf hop (mergeAct_traps h))
  case merge => exact answers rfl (opRow_does hf hop (mergeAct_starts h))
  case drained => exact answers (exec_mxeOpComplete_of hruns hnone) (if_pos hdrain)
  case merged => exact answers (exec_mxeOpComplete_of hruns ho) (if_pos hmerge)
  case run =>
    intro x o'
    exact ⟨fun v y h => answers (exec_mxeOpComplete_of hruns ho) ((if_neg hmxe).trans (congrArg (endDrain · _) (settleGot_val h))),
      fun e y h => answers (exec_mxeOpComplete_of hruns ho) ((if_neg hmxe).trans (congrArg (endDrain · _) (settleGot_trap h)))⟩
  case moved =>
    exact ⟨fun v y h => answers (t2MoveComplete_runs hruns ho) (t2Rest_ends h),
      fun e y h => answers (t2MoveComplete_runs hruns ho) (t2Rest_traps h)⟩
  case vop =>
    intro fn ix bc
    refine ⟨fun e x h => answers rfl (opRow_traps hf hop (vopAct_trapA h)), fun a u1 ha =>
      ⟨fun e x h => answers rfl (opRow_traps hf hop (vopAct_trapB ha h)), fun b u2 hb =>
      ⟨fun e x h => answers rfl (opRow_traps hf hop (vopAct_trapC ha hb h)), fun c u3 hc => ?_⟩⟩⟩
    intro r fl busy
    refine ⟨fun n y h => ⟨fun hr => ?_, fun sc hr => ⟨fun m z hz => ?_, fun e z hz => ?_⟩⟩, fun e y h => ?_⟩
    · exact answers rfl (opRow_does hf hop (vopAct_single ha hb hc h hr))
    · exact answers rfl (opRow_does hf hop ((vopAct_scaled ha hb hc h hr).trans hz))
    · exact answers rfl (opRow_traps hf hop ((vopAct_scaled ha hb hc h hr).trans hz))
    · exact answers rfl (opRow_traps hf hop (vopAct_trapD ha hb hc h))
  case sop =>
    intro fn
    refine ⟨fun e x h => answers rfl (opRow_traps hf hop (sopAct_trapA h)), fun a u1 ha =>
      ⟨fun e x h => answers rfl (opRow_traps hf hop (sopAct_trapB ha h)), fun b u2 hb =>
      ⟨fun hload hstore => ?computes, fun hfn hal => ?unaligned, fun hfn hal => ⟨fun v y h => ?load, fun e y h => ?loadTrap⟩,
        fun hfn hal => ⟨fun hin => ?store, fun hpast => ?storePast⟩⟩⟩⟩
    case computes =>
      intro r
      have hexec : exec (.sop t) s = _ := answers rfl (opRow_does hf hop (sopAct_computes ha hb hload hstore))
      exact ⟨hexec, fun hreg => ⟨_, hexec, (sreg_fired _ _ _ _ _).trans (sreg_writeS hreg)⟩⟩
    case unaligned => exact answers rfl (opRow_traps hf hop (sopAct_unaligned ha hb hfn hal))
    case load => exact answers rfl (opRow_does hf hop ((sopAct_load ha hb hfn hal).trans (by rw [h])))
    case loadTrap => exact answers rfl (opRow_traps hf hop ((sopAct_load ha hb hfn hal).trans (by rw [h])))
    case store =>
      exact answers rfl (opRow_does hf hop ((sopAct_store ha hb hfn hal).trans (if_neg (by rw [length_leBytes]; omega))))
    case storePast =>
      exact answers rfl (opRow_traps hf hop ((sopAct_store ha hb hfn hal).trans (if_pos (by rw [length_leBytes]; omega))))
  case t2 =>
    intro core n a src
    have hrow : ∃ op, opcodeOf w = op ∧ exec c s = .next (unfused s (opRow s t 3 op (t2Act t))) := by
      simp only [List.mem_cons, Prod.mk.injEq, List.not_mem_nil, or_false] at hc
      rcases hc with ⟨rfl, hop⟩ | ⟨rfl, hop⟩ <;> exact ⟨_, hop, rfl⟩
    obtain ⟨op, hop, hexec⟩ := hrow
    refine ⟨fun hpast => answers hexec (opRow_traps hf hop (t2Act_past hpast)), fun hend hloc =>
      ⟨fun e x h => answers hexec (opRow_traps hf hop (t2Act_inside hend hloc h)),
        fun v x h => answers hexec (opRow_does hf hop (t2Act_inside hend hloc h))⟩⟩

end Sys2Proof.Machine
end

section
/-!
PROOFS. SYNC instructions, gallery transfers, spill returns, the fabric watchdog and the move engines (11, 12, 3 R103 to R110, 5 R191 to
R203).
-/
namespace Sys2Proof.Machine

/-! ### SYNC instructions -/

theorem laneRow_traps {s u x : State} {t l e : Nat} {w : InstrWord} {row : InstrWord → Bool} {act : State → InstrWord → Got × State}
    (hf : s.fires u t l w) (hrow : row w = true) (hact : act u w = (.trap e, x)) : laneRow s t l row act = trapLane x t l e :=
  (laneRow_fires hf hrow).trans (by rw [hact])

theorem laneRow_does {s u x : State} {t l n : Nat} {w : InstrWord} {row : InstrWord → Bool} {act : State → InstrWord → Got × State}
    (hf : s.fires u t l w) (hrow : row w = true) (hact : act u w = (.val n, x)) : laneRow s t l row act = x.fired t l w :=
  (laneRow_fires hf hrow).trans (by rw [hact])

theorem anySync_of_le {s : State} {t op : Nat} {w : InstrWord} (hop : iw w 83 80 = op) (hle : op ≤ 6) : anySync t s w = syncAct t op s w := by
  subst hop
  exact if_pos hle

/-- Each SYNC row evaluates its lane with the operation's action. -/
theorem exec_sync {s : State} {t : TileIx} {w : InstrWord} {c : Instr} {op : Nat}
    (hc : (c, op) ∈ [(.syncArrive t, 0), (.syncAdd t, 1), (.syncWait t, 2), (.take t, 3), (.complete t, 4), (.acquire t, 5), (.post t, 6)])
    (hcode : opcodeOf w = 8) (hop : iw w 83 80 = op) :
    ∃ row act, exec c s = .next (unfused s (laneRow s t 2 row act)) ∧ row w = true ∧ ∀ r, act r w = syncAct t op r w := by
  simp only [List.mem_cons, Prod.mk.injEq, List.not_mem_nil, or_false] at hc
  rcases hc with ⟨rfl, rfl⟩ | ⟨rfl, rfl⟩ | ⟨rfl, rfl⟩ | ⟨rfl, rfl⟩ | ⟨rfl, rfl⟩ | ⟨rfl, rfl⟩ | ⟨rfl, rfl⟩
  · exact ⟨_, _, rfl, by simp [hcode, hop], fun r => anySync_of_le hop (Nat.zero_le _)⟩
  all_goals exact ⟨_, _, rfl, by simp [hcode, hop], fun r => rfl⟩

section SyncAct
variable {s : State} {t op k : Nat} {w : InstrWord} {i : Inst}

theorem syncAct_no_instance (h : instOfTile s t = none) : syncAct t op s w = (.trap ePerm, s) := by simp only [syncAct, h]

variable (hi : instOfTile s t = some (k, i))
include hi

theorem syncAct_invalid (h : vidOf s i.ctx (iw w 79 64) = none) : syncAct t op s w = (.trap ePerm, s) := by simp only [syncAct, hi, h]

variable {phys home kind : Nat} (hv : vidOf s i.ctx (iw w 79 64) = some (phys, home, kind))
include hv

theorem syncAct_unfit (h : opFits op kind = false) : syncAct t op s w = (.trap ePerm, s) := by
  simp only [syncAct, hi, hv]
  exact if_pos (congrArg not h)

variable (hfit : opFits op kind = true)
include hfit

theorem syncAct_here (h : home = s.net.index) : syncAct t op s w = syncHere s t w op (syncN (tileOf s t).core w op) phys := by
  simp only [syncAct, hi, hv]
  exact (if_neg (ne_true_of_eq_false (congrArg not hfit))).trans (if_pos h)

theorem syncAct_there (h : home ≠ s.net.index) :
    syncAct t op s w = syncThere s t w i.ctx op (syncN (tileOf s t).core w op) home phys := by
  simp only [syncAct, hi, hv]
  exact (if_neg (ne_true_of_eq_false (congrArg not hfit))).trans (if_neg h)

end SyncAct

/-- TAKE of a work counter with an item left gives the lowest one. -/
theorem syncOp_take {s : State} {k n item : Nat} {who : Who} {m : Option Nat} {hold : Bool} {x : Option Nat} {o : SyncObj}
    (ho : mget s.objs k = some o) (hkind : o.kind = 3) (hitem : nextItem o = some item) :
    syncOp s k 3 n who m hold x = (.done item o.curGen, setObj (fwBump s (kSync 0) 1) k { o with value := item + 1 }) := by
  have hfit : opFits 3 o.kind = true := by rw [hkind]; rfl
  simp only [syncOp, ho, hfit, hitem, Bool.not_true, Bool.false_eq_true, if_false]

theorem syncHere_take {s : State} {t n phys item : Nat} {w : InstrWord} {o : SyncObj} (ho : mget s.objs phys = some o) (hkind : o.kind = 3)
    (hitem : nextItem o = some item)
    (hfree : tileWaits (takeResult (setObj (fwBump s (kSync 0) 1) phys { o with value := item + 1 }) t (iw w 95 91) item o.curGen) phys t =
      false) :
    syncHere s t w 3 n phys =
      (.val 0, takeResult (setObj (fwBump s (kSync 0) 1) phys { o with value := item + 1 }) t (iw w 95 91) item o.curGen) := by
  simp only [syncHere, syncOp_take ho hkind hitem, if_true, hfree, Bool.false_eq_true, if_false]

/-- Settles O34: a SYNC row's action goes through the statement's cases. -/
theorem syncInstructions : Obligations.sync_instructions := by
  refine ⟨fun s r t w hf hcode hop => ?reserved, fun s r t w c op hc hf hcode hop => ?ops⟩
  case reserved =>
    have hrow : (opcodeOf w == 8 && (iw w 83 80 == 0 || decide (7 ≤ iw w 83 80))) = true := by simp [hcode, hop]
    exact answers rfl (laneRow_traps (row := fun w => opcodeOf w == 8 && (iw w 83 80 == 0 || decide (7 ≤ iw w 83 80))) hf hrow
      (if_neg (Nat.not_le.2 hop)))
  case ops =>
    obtain ⟨row, act, hexec, hrow, hact⟩ := exec_sync (s := s) hc hcode hop
    have traps {e : Nat} {x : State} (h : syncAct t op r w = (.trap e, x)) : exec c s = .next (unfused s (trapLane x t 2 e)) :=
      answers hexec (laneRow_traps hf hrow ((hact r).trans h))
    have does {n : Nat} {x : State} (h : syncAct t op r w = (.val n, x)) : exec c s = .next (unfused s (x.fired t 2 w)) :=
      answers hexec (laneRow_does hf hrow ((hact r).trans h))
    refine ⟨fun hnone => traps (syncAct_no_instance hnone), fun k i hi => ⟨fun hvid => traps (syncAct_invalid hi hvid),
      fun phys home kind hv => ?_⟩⟩
    intro n
    refine ⟨fun hfit => traps (syncAct_unfit hi hv hfit), fun hfit hthere => does (syncAct_there hi hv hfit hthere),
      fun hfit hhere => ⟨fun v u h => does ((syncAct_here hi hv hfit hhere).trans h),
        fun e u h => traps ((syncAct_here hi hv hfit hhere).trans h)⟩, fun o item htake hfit hhere ho hkind hitem => ?_⟩
    intro u hfree
    subst htake
    exact does ((syncAct_here hi hv hfit hhere).trans (syncHere_take ho hkind hitem hfree))

/-! ### The gallery port -/

/-- The transfer of a gallery instruction that has started. -/
def galStart (t : Nat) (s : State) (w : InstrWord) : State := setOp s t 4 (some { word := w, done := 0, clk := 1 })

theorem galAct_stream {s : State} {t : Nat} {w : InstrWord} (h : iw w 65 64 = 0) : galAct t s w = (.val 0, galStart t s w) := if_pos h

theorem galAct_no_instance {s : State} {t : Nat} {w : InstrWord} (h : iw w 65 64 ≠ 0) (hnone : instOfTile s t = none) :
    galAct t s w = (.trap ePerm, s) := by
  simp only [galAct, if_neg h, hnone]

section GalAddress
variable {s : State} {t k : Nat} {w : InstrWord} {i : Inst} (h : iw w 65 64 ≠ 0) (hi : instOfTile s t = some (k, i))
include h hi

theorem galAct_local (hbad : galLocalOk (withAddress (tileOf s t).core w) (iw w 127 96) = false) : galAct t s w = (.trap ePerm, s) := by
  simp only [galAct, if_neg h, hi]
  exact if_pos (congrArg not hbad)

variable (hok : galLocalOk (withAddress (tileOf s t).core w) (iw w 127 96) = true)
include hok

theorem galAct_region (hin : inRegion s i (opAddress (withAddress (tileOf s t).core w)) (iw w 127 96) = true) :
    galAct t s w = (.val 0, galStart t s (withAddress (tileOf s t).core w)) := by
  simp only [galAct, if_neg h, hi]
  exact (if_neg (ne_true_of_eq_false (congrArg not hok))).trans (if_pos hin)

variable (hout : inRegion s i (opAddress (withAddress (tileOf s t).core w)) (iw w 127 96) = false)
include hout

theorem galAct_unbound (hnone : inBound s i (opAddress (withAddress (tileOf s t).core w)) (iw w 127 96) = none) :
    galAct t s w = (.trap ePerm, s) := by
  simp only [galAct, if_neg h, hi, hok, hout, hnone, Bool.not_true, Bool.false_eq_true, if_false]

variable {obj : Nat} {e : DirEntry} (hb : inBound s i (opAddress (withAddress (tileOf s t).core w)) (iw w 127 96) = some (obj, e))
include hb

theorem galAct_home (hhome : e.modIx = s.net.index) : galAct t s w = (.val 0, galStart t s (withAddress (tileOf s t).core w)) := by
  simp only [galAct, if_neg h, hi, hok, hout, hb, Bool.not_true, Bool.false_eq_true, if_false]
  exact if_pos hhome

variable (hfar : e.modIx ≠ s.net.index)
include hfar

theorem galAct_get (hop : opcodeOf (withAddress (tileOf s t).core w) = 0x50) :
    galAct t s w = (.val 0, galStart t (galRemote s t i.ctx (withAddress (tileOf s t).core w) obj e) (withAddress (tileOf s t).core w)) := by
  have hput : opcodeOf (withAddress (tileOf s t).core w) ≠ 0x51 := by omega
  simp only [galAct, if_neg h, hi, hok, hout, hb, hfar, hput, Bool.not_true, Bool.false_eq_true, false_and, if_false]
  rfl

theorem galAct_put {u : State} (hop : opcodeOf (withAddress (tileOf s t).core w) = 0x51)
    (hu : u = demand (countTier s (galLocal t (withAddress (tileOf s t).core w)).1 (galLocal t (withAddress (tileOf s t).core w)).2
        (iw w 127 96) false)
      (galLocal t (withAddress (tileOf s t).core w)).1 (galLocal t (withAddress (tileOf s t).core w)).2 (iw w 127 96) 1) :
    galAct t s w =
      if poisoned u (galLocal t (withAddress (tileOf s t).core w)).1 (galLocal t (withAddress (tileOf s t).core w)).2 (iw w 127 96) = true then
        (.trap ePoison, u)
      else (.val 0, galStart t (galRemote u t i.ctx (withAddress (tileOf s t).core w) obj e) (withAddress (tileOf s t).core w)) := by
  subst hu
  simp only [galAct, if_neg h, hi, hok, hout, hb, hfar, hop, Bool.not_true, Bool.false_eq_true, true_and, if_false, if_true]
  rfl

end GalAddress

/-- What GALLERY_TRANSFER_DONE does with an operation whose unit runs. -/
def galEnds (s : State) (t : Nat) (w : InstrWord) : State :=
  if iw w 65 64 = 0 then galStreamDone s t w
  else if gaModule (opAddress w) = s.net.index then
    if galHeld s w then startRebuilds s (gaTier (opAddress w)) (gaOff (opAddress w)) (iw w 127 96) else galAddressGo s t w
  else if opcodeOf w = 0x50 && s.net.msgs.any fun m => m.2.ty == 2 && m.2.why == .tile t then s
  else if opcodeOf w = 0x50 ∧ poisoned s (galLocal t w).1 (galLocal t w).2 (iw w 127 96) = true then trapLane s t 4 ePoison
  else galEnd s t w (iw w 127 96)

theorem exec_galleryTransferDone {s : State} {t : TileIx} {o : OpSt} (ho : ((tileOf s t).lane 4).op = some o) (hruns : unitRuns s t = true) :
    exec (.galleryTransferDone t) s = .next (unfused s (galEnds s t o.word)) := by
  have hexec : exec (.galleryTransferDone t) s = .next (unfused s (if !unitRuns s t then s else galEnds s t o.word)) := by
    change execGalleryTransferDone t s = _
    simp only [execGalleryTransferDone, ho]
    rfl
  exact answers hexec (if_neg (ne_true_of_eq_false (congrArg not hruns)))

theorem galAddressGo_plain {s : State} {t : Nat} {w : InstrWord} (h : putRange s w = none) : galAddressGo s t w = galAddressDone s t w := by
  simp only [galAddressGo, h]

theorem galAddressGo_put {s : State} {t obj b : Nat} {e : DirEntry} {w : InstrWord} (h : putRange s w = some (obj, e, b)) :
    galAddressGo s t w = if writeHeld s obj e b (iw w 127 96) then askLines s obj e b (iw w 127 96)
      else galAddressDone (usedLines s obj b (iw w 127 96)) t w := by
  simp only [galAddressGo, h]

/-! ### Spill returns -/

/-- A return that may start of queue `q` of tile `t`: what T1 gives, and the queue after it. -/
theorem startReturn_starts {s : State} {t q : Nat} (hruns : unitRuns s t = true) (howed : ((tileOf s t).core.queue q).owed = true)
    (hcnt : 0 < ((tileOf s t).core.queue q).ringCnt) (hone : ∀ r ∈ ((tileOf s t).core.queue q).returns, r.2 ≠ returnClk)
    (hbanks : (takenBanks s t 4 ||| (tileOf s t).usedBy 4) &&&
      slotBanks ((tileOf s t).core.queue q) q ((tileOf s t).core.queue q).ringHead = 0) :
    let v := (tileOf s t).core.queue q
    let a := t1Off t (v.ringBase + slotBytes q * v.ringHead)
    let u := demand (useBanks s t 4 (slotBanks v q v.ringHead)) 0 a (slotBytes q) 1
    let e := readSlot u t q v v.ringHead
    let y := { v with ringHead := (v.ringHead + 1) % v.ringSize, ringCnt := v.ringCnt - 1,
                      returns := v.returns ++ [(e, returnClk)], owed := false }
    let z := setTile u t { (tileOf u t).touch with core := (tileOf u t).touch.core.setQueue q y }
    startReturn s t q =
      if netOf q != 1 && poisoned u 0 a (slotBytes q) then trapLane z t (takerOf (tileOf u t).touch q) ePoison else z := by
  intro v a u e y z
  refine if_pos ?_
  have hall : ((tileOf s t).core.queue q).returns.all (fun r => r.2 != returnClk) = true := by simpa using hone
  simp only [hruns, howed, hcnt, hall, hbanks, decide_true, Bool.and_self, beq_self_eq_true]

/-! ### Move engines -/

/-- FETCH_ISSUE on the first descriptor that is neither issued nor done. -/
theorem exec_fetchIssue {s : State} {e : Fin 16} {i : Nat} {f : Fetch} {st : Stream}
    (hfirst : (engineQ s e).findIdx? (fun f => !f.issued && !f.done) = some i) (hf : (engineQ s e)[i]? = some f)
    (hst : mget s.streams f.key = some st) (hps : s.ps.state ≠ 2) (hcool : s.pw.coolantStop = false)
    (hfence : f.fence = true → ((engineQ s e).take i).any (fun x => !x.done) = false) (hroom : roomFor st f = true)
    (hfew : ((engineQ s e).filter fun x => x.issued && !x.done).length < 64) :
    exec (.fetchIssue e) s = .next (unfused s (match f.dep with
      | none => issueFetch s e i f st
      | some (vid, n) =>
        match vidOf s f.ctx vid with
        | none => s
        | some (phys, home, _) =>
          if home ≠ s.net.index then askDep s e i f home phys n
          else if depReached s phys n then issueFetch s e i f st
          else s)) := by
  change execFetchIssue e s = _
  have hfree : ¬ (s.ps.state = 2 ∨ s.pw.coolantStop = true ∨
      (f.fence = true ∧ ((engineQ s e).take i).any (fun x => !x.done) = true) ∨ (!roomFor st f) = true ∨
      64 ≤ ((engineQ s e).filter fun x => x.issued && !x.done).length) := by
    rintro (h | h | ⟨hf, h⟩ | h | h)
    · exact hps h
    · exact absurd h (ne_true_of_eq_false hcool)
    · exact absurd h (ne_true_of_eq_false (hfence hf))
    · exact absurd h (ne_true_of_eq_false (congrArg not hroom))
    · exact absurd h (Nat.not_le.2 hfew)
  simp only [execFetchIssue, hfirst, hf, hst, if_neg hfree] <;> rfl

section Landed
variable {s : State} {e : Fin 16} {i : Nat} {f : Fetch} {st : Stream} (hf : (engineQ s e)[i]? = some f) (hst : mget s.streams f.key = some st)
  (hissued : f.issued = true) (hdone : f.done = false) (hcool : s.pw.coolantStop = false)
include hf hst hissued hdone hcool

/-- A unit that another module sends lands once its packets are in. -/
theorem exec_fetchUnitLanded_far (hkind : f.kind ≠ 2) (hfar : f.far.isSome = true) :
    exec (.fetchUnitLanded e i) s = .next (unfused s (if fetchOut s e i then s else unitLanded s e i f st)) := by
  change execFetchUnitLanded e i s = _
  simp only [execFetchUnitLanded, hf, hst, hissued, hdone, hcool, Bool.not_true, Bool.or_self, Bool.false_eq_true, if_false]
  exact congrArg (fun x => Host.Outcome.next (unfused s x)) (if_pos ⟨hkind, hfar⟩)

/-- A unit of this module is looked up at its turn. -/
theorem exec_fetchUnitLanded_near (hfar : f.far = none) :
    exec (.fetchUnitLanded e i) s = .next (unfused s (
      if accessStatus s f.ctx f.obj f.offset f.length ≠ stOk then fetchLost s e i (accessStatus s f.ctx f.obj f.offset f.length)
      else match dirGet s f.obj with
        | none => s
        | some d => if f.epoch < d.epoch then fetchRedirect s e i f st d else fetchHere s e i f st d)) := by
  change execFetchUnitLanded e i s = _
  simp only [execFetchUnitLanded, hf, hst, hissued, hdone, hcool, hfar, Bool.not_true, Bool.or_self, Bool.false_eq_true, if_false,
    Option.isSome_none, and_false, Option.isNone_none, Bool.true_or, and_true] <;> rfl

variable (hfar : f.far = none) (hok : accessStatus s f.ctx f.obj f.offset f.length = stOk) {d : DirEntry} (hd : dirGet s f.obj = some d)
include hfar hok hd

theorem exec_fetchUnitLanded_redirected (hold : f.epoch < d.epoch) :
    exec (.fetchUnitLanded e i) s = .next (unfused s (fetchRedirect s e i f st d)) := by
  refine answers (exec_fetchUnitLanded_near hf hst hissued hdone hcool hfar) ((if_neg (not_not.2 hok)).trans ?_)
  rw [hd]
  exact if_pos hold

theorem exec_fetchUnitLanded_current (hnow : d.epoch ≤ f.epoch) :
    exec (.fetchUnitLanded e i) s = .next (unfused s (fetchHere s e i f st d)) := by
  refine answers (exec_fetchUnitLanded_near hf hst hissued hdone hcool hfar) ((if_neg (not_not.2 hok)).trans ?_)
  rw [hd]
  exact if_neg (Nat.not_lt.2 hnow)

end Landed

section FetchHere
variable {s : State} {e i : Nat} {f : Fetch} {st : Stream} {d : DirEntry}

theorem fetchHere_behind (h : fetchBehind s e i f (f.offset + f.landed * st.unitBytes) st.unitBytes = true) : fetchHere s e i f st d = s :=
  if_pos h

variable (hfree : fetchBehind s e i f (f.offset + f.landed * st.unitBytes) st.unitBytes = false) (hhome : d.modIx = s.net.index)
include hfree hhome

theorem fetchHere_moving (h : moveHolds s f.obj (f.kind == 2) = true) : fetchHere s e i f st d = s :=
  (if_neg (ne_true_of_eq_false hfree)).trans ((if_neg (not_not.2 hhome)).trans (if_pos h))

variable (hstill : moveHolds s f.obj (f.kind == 2) = false)
include hstill

theorem fetchHere_rebuilds (h : objMustWait s d (f.offset + f.landed * st.unitBytes) st.unitBytes = true) :
    fetchHere s e i f st d = objRebuilds s d (f.offset + f.landed * st.unitBytes) st.unitBytes :=
  (if_neg (ne_true_of_eq_false hfree)).trans ((if_neg (not_not.2 hhome)).trans
    ((if_neg (ne_true_of_eq_false hstill)).trans (if_pos h)))

variable (hsound : objMustWait s d (f.offset + f.landed * st.unitBytes) st.unitBytes = false)
include hsound

/-- A unit that nothing holds back lands: a fetched one is written, a stored one goes to the object once no partner holds its lines. -/
theorem fetchHere_lands : fetchHere s e i f st d =
    if f.kind ≠ 2 then landFetch s e i f st d
    else if !st.out.isEmpty && writeHeld s f.obj d (f.offset + f.landed * st.unitBytes) st.unitBytes then
      askLines s f.obj d (f.offset + f.landed * st.unitBytes) st.unitBytes
    else landStore (usedLines s f.obj (f.offset + f.landed * st.unitBytes) st.unitBytes) e i f st d :=
  (if_neg (ne_true_of_eq_false hfree)).trans ((if_neg (not_not.2 hhome)).trans
    ((if_neg (ne_true_of_eq_false hstill)).trans (if_neg (ne_true_of_eq_false hsound))))

end FetchHere

/-- Settles O35: each row goes through the statement's cases. -/
theorem transfers : Obligations.transfers := by
  intro s t
  refine ⟨fun r w c hc hf => ?starts, fun o ho hruns => ?ends, fun q => ?spill, fun k i hi hstalled hfrozen hwdog harray => ?watchdog,
    fun e i f st hq hst => ⟨fun hfirst hps hcool hfence hroom hfew => ?issue, fun hissued hdone hcool =>
      ⟨fun hkind hfar => ?far, fun hfar => ⟨fun hbad => ?lost, fun d hok hd => ?landed⟩⟩⟩⟩
  case starts =>
    obtain ⟨op, hop, hexec⟩ : ∃ op, opcodeOf w = op ∧ exec c s = .next (unfused s (opRow s t 4 op (galAct t))) := by
      rcases hc with ⟨rfl, hop⟩ | ⟨rfl, hop⟩ <;> exact ⟨_, hop, rfl⟩
    have traps {e : Nat} {x : State} (h : galAct t r w = (.trap e, x)) := answers hexec (opRow_traps hf hop h)
    have does {x : State} (h : galAct t r w = (.val 0, x)) := answers hexec (opRow_does hf hop h)
    intro start
    refine ⟨fun h => does (galAct_stream h), fun h hnone => traps (galAct_no_instance h hnone), fun h k i hi => ?_⟩
    intro n x g
    refine ⟨fun hbad => traps (galAct_local h hi hbad), fun hok hout hnone => traps (galAct_unbound h hi hok hout hnone),
      fun hok hin => does (galAct_region h hi hok hin), fun obj e hok hout hb => ⟨fun hhome => does (galAct_home h hi hok hout hb hhome),
        fun hfar hget => does (galAct_get h hi hok hout hb hfar hget), fun hfar hput tier off hsrc => ?_⟩⟩
    intro u
    obtain ⟨rfl, rfl⟩ : (galLocal t x).1 = tier ∧ (galLocal t x).2 = off := by rw [hsrc]; exact ⟨rfl, rfl⟩
    have hact := galAct_put h hi hok hout hb hfar hput (u := u) rfl
    exact ⟨fun hbad => traps (hact.trans (if_pos hbad)), fun hgood => does (hact.trans (if_neg (ne_true_of_eq_false hgood)))⟩
  case ends =>
    have hexec := exec_galleryTransferDone ho hruns
    intro w g
    refine ⟨fun h => answers hexec (if_pos h), fun h hhere => ⟨fun hheld => ?_, fun hfree hplain => ?_, fun obj e b hfree hput => ?_⟩,
      fun h hfar hin => ?_⟩
    · exact answers hexec ((if_neg h).trans ((if_pos hhere).trans (if_pos hheld)))
    · exact answers hexec ((if_neg h).trans ((if_pos hhere).trans ((if_neg (ne_true_of_eq_false hfree)).trans (galAddressGo_plain hplain))))
    · have hgo : galEnds s t w = _ := (if_neg h).trans ((if_pos hhere).trans ((if_neg (ne_true_of_eq_false hfree)).trans (galAddressGo_put (t := t) hput)))
      exact ⟨fun hheld => answers hexec (hgo.trans (if_pos hheld)), fun hfree => answers hexec (hgo.trans (if_neg (ne_true_of_eq_false hfree)))⟩
    · intro src bad
      have hcome : ¬ (opcodeOf w = 0x50 && s.net.msgs.any fun m => m.2.ty == 2 && m.2.why == .tile t) = true := by
        by_cases hget : opcodeOf w = 0x50
        · rw [hin hget, Bool.and_false]; exact Bool.false_ne_true
        · simp [hget]
      have hgo : galEnds s t w = _ := (if_neg h).trans ((if_neg hfar).trans (if_neg hcome))
      exact ⟨fun hbad => answers hexec (hgo.trans (if_pos hbad)), fun hgood => answers hexec (hgo.trans (if_neg hgood))⟩
  case spill =>
    intro v m a u hruns howed hcnt hone hbanks
    intro e y z
    have hstart := startReturn_starts hruns howed hcnt hone hbanks
    refine ⟨fun hgood => answers rfl (hstart.trans (if_neg ?_)), fun hnet hbad => answers rfl (hstart.trans (if_pos ?_))⟩
    · rcases hgood with hnet | hgood
      · simp [hnet]
      · exact ne_true_of_eq_false ((congrArg (_ && ·) hgood).trans (Bool.and_false _))
    · exact (congrArg (_ && ·) hbad).trans ((Bool.and_true _).trans (bne_iff_ne.2 hnet))
  case watchdog =>
    have hrun : ¬ (i.stalled = true ∨ (tileOf s t).frozen = true ∨ (tileOf s t).core.wdog < i.wdog ∨ (!arrayRuns s) = true) := by
      simp [hstalled, hfrozen, hwdog, harray]
    change execFabricWatchdogExpiry t s = _
    simp only [execFabricWatchdogExpiry, hi, if_neg hrun]
  case issue =>
    have hexec := exec_fetchIssue hfirst hq hst hps hcool hfence hroom hfew
    refine ⟨fun hdep => answers hexec (by rw [hdep]), fun vid n phys kind hdep hvid hreached => answers hexec ?_⟩
    simp only [hdep, hvid, hreached, ne_eq, not_true_eq_false, if_false, if_true]
  case far =>
    have hexec := exec_fetchUnitLanded_far hq hst hissued hdone hcool hkind hfar
    exact ⟨fun hout => answers hexec (if_pos hout), fun hin => answers hexec (if_neg (ne_true_of_eq_false hin))⟩
  case lost => exact answers (exec_fetchUnitLanded_near hq hst hissued hdone hcool hfar) (if_pos hbad)
  case landed =>
    intro b
    have hexec (hnow : d.epoch ≤ f.epoch) := exec_fetchUnitLanded_current hq hst hissued hdone hcool hfar hok hd hnow
    refine ⟨fun hold => exec_fetchUnitLanded_redirected hq hst hissued hdone hcool hfar hok hd hold,
      fun hnow hbehind => answers (hexec hnow) (fetchHere_behind hbehind), fun hnow hfree hhome =>
        ⟨fun hmoves => answers (hexec hnow) (fetchHere_moving hfree hhome hmoves),
          fun hstill hwait => answers (hexec hnow) (fetchHere_rebuilds hfree hhome hstill hwait),
          fun hstill hsound hkind => answers (hexec hnow) ((fetchHere_lands hfree hhome hstill hsound).trans (if_pos hkind)),
          fun hstill hsound hkind => ?_⟩⟩
    have hlands : fetchHere s e i f st d = _ := (fetchHere_lands hfree hhome hstill hsound).trans (if_neg (not_not.2 hkind))
    refine ⟨fun hout hheld => answers (hexec hnow) (hlands.trans (if_pos ?_)), fun hfree => answers (hexec hnow) (hlands.trans (if_neg ?_))⟩
    · rw [show writeHeld s f.obj d (f.offset + f.landed * st.unitBytes) st.unitBytes = true from hheld]
      simpa using hout
    · rcases hfree with hnone | hheld
      · simp [hnone]
      · rw [show writeHeld s f.obj d (f.offset + f.landed * st.unitBytes) st.unitBytes = false from hheld]
        simp

end Sys2Proof.Machine
end

section
/-!
PROOFS. MOVE (5 R178 to R182, 13 R425, Table 5-5).
-/
namespace Sys2Proof.Machine

section MoveNew
variable {s : State} {d : Nat} {t : Taken} {data : Bytes} (hown : gaModule (moveReq t.bytes).dst = s.net.index)
  (hok : createStatus s t.ctx (moveReq t.bytes) = stOk)
include hown hok

/-- A MOVE that creates an object in this module, whose checks pass, looks only at the bytes it has. -/
theorem moveNew_here : moveNew s d t data =
    if (moveReq t.bytes).kind = 1 ∧ data.length < (moveReq t.bytes).size then finish s d ePoison
    else moveCreate s d t (moveReq t.bytes) data :=
  (if_neg fun h => h.1 hown).trans ((if_pos hown).trans (if_neg (not_not.2 hok)))

theorem moveNew_creates (h : (moveReq t.bytes).kind = 1 → (moveReq t.bytes).size ≤ data.length) :
    moveNew s d t data = moveCreate s d t (moveReq t.bytes) data :=
  (moveNew_here hown hok).trans (if_neg fun hshort => absurd hshort.2 (Nat.not_lt.2 (h hshort.1)))

theorem moveNew_short (hkind : (moveReq t.bytes).kind = 1) (h : data.length < (moveReq t.bytes).size) :
    moveNew s d t data = finish s d ePoison :=
  (moveNew_here hown hok).trans (if_pos ⟨hkind, h⟩)

end MoveNew

section MoveExisting
variable {s : State} {d : Nat} {t : Taken} {e : DirEntry} (hd : dirGet s (moveReq t.bytes).obj = some e) (hctx : e.ctx = t.ctx)
include hd hctx

/-- A MOVE of an object whose home this module holds: its checks, then what its kind does. -/
theorem moveExisting_here (hown : e.modIx = s.net.index) : moveExisting s d t =
    if homeStatus s (moveReq t.bytes) e ≠ stOk then finish s d (homeStatus s (moveReq t.bytes) e)
    else if (moveReq t.bytes).kind = 0 ∧ sameHome (moveDest s e.ctx (moveReq t.bytes) e.size 0) e then complete s d stOk e.epoch 0
    else if (moveReq t.bytes).kind = 2 then moveExport s d t (moveReq t.bytes) e
    else moveHome s d (moveReq t.bytes) e := by
  have hmod : ∀ x, atModule s d e.modIx t [] x = x := fun x => if_pos hown
  simp only [moveExisting, hd, hmod, ite_self]
  exact if_neg (not_not.2 hctx)

theorem moveExisting_forwards (hthere : e.modIx ≠ s.net.index) (habsent : e.absent = false) (hok : moduleStatus s e.modIx = stOk) :
    moveExisting s d t = forwardDesc s d e.modIx t [] := by
  simp only [moveExisting, hd, habsent]
  exact (if_neg (not_not.2 hctx)).trans ((if_neg Bool.false_ne_true).trans ((if_neg hthere).trans (if_pos hok)))

end MoveExisting

theorem moveHome_free {s : State} {d : Nat} {r : MoveReq} {e : DirEntry} (h : homeLines s e = []) : moveHome s d r e = moveAct s d r.obj r e :=
  if_pos (by rw [h]; rfl)

theorem moveHome_snoops {s : State} {d : Nat} {r : MoveReq} {e : DirEntry} (h : homeLines s e ≠ []) (habsent : e.absent = false)
    (hkind : r.kind ≠ 0) : moveHome s d r e =
      (let u := dirSet s r.obj { e with moving := true }
       let m : Moving := { kind := r.kind, desc := d, dest := e, sent := false }
       (addWait (snoop (holdDesc { u with mem.moving := mset u.mem.moving r.obj m } d) (homeLines s e)) (.biMove d)).2) := by
  have hwait : ¬ ((homeLines s e).isEmpty || e.absent) = true := by simp [h, habsent]
  refine (if_neg hwait).trans ?_
  rw [if_neg hkind]

theorem moveAct_frees {s : State} {d obj : Nat} {r : MoveReq} {e : DirEntry} (h : r.kind = 4) : moveAct s d obj r e = moveFreeEnd s d obj e :=
  if_pos h

theorem moveAct_relocates {s : State} {d obj : Nat} {r : MoveReq} {e : DirEntry} (h : r.kind ≠ 4) (hown : gaModule r.dst = s.net.index) :
    moveAct s d obj r e = relocateHere s d obj e { moveDest s e.ctx r e.size (e.epoch + 1) with bound := e.bound } :=
  (if_neg h).trans (if_pos hown)

/-- Settles O19: each kind goes through its checks in the statement's order. -/
theorem moveDescriptors : Obligations.moves := by
  intro s d t hs hop r own
  have hkind {k : Nat} (h : byteAt t.bytes 8 = k) : isMove k t = true := by simp [isMove, hop, h]
  refine ⟨fun hown hok => ⟨fun hk hnone data => ⟨fun hlen => ?imported, fun hshort => ?short⟩, fun hk j g hg hgot data => ?waits, fun hk => ?alloc⟩,
    fun e hd hctx hown => ⟨fun hok => ⟨fun hk => ?exported, fun hlines => ⟨fun hk => ?free, fun hk hdst hsame => ?relocate⟩,
      fun hlines habsent hk => ?snoops⟩, fun hbad hk => ?refused⟩, fun e hd hctx habsent hthere hok hk => ?sentOn⟩
  case imported =>
    refine answers rfl ((withDesc_starts hs (hkind hk)).trans ?_)
    simp only [partnerData, hnone]
    exact moveNew_creates hown hok fun _ => hlen
  case short =>
    refine answers rfl ((withDesc_starts hs (hkind hk)).trans ?_)
    simp only [partnerData, hnone]
    exact moveNew_short hown hok hk hshort
  case waits =>
    refine answers rfl ((withDesc_starts hs (hkind hk)).trans ?_)
    simp only [partnerData, hg, hgot, if_true]
  case alloc =>
    exact answers rfl ((withDesc_starts hs (hkind hk)).trans
      (moveNew_creates hown hok fun h => absurd (hk.symm.trans h) (by decide)))
  case exported =>
    refine answers rfl ((withDesc_starts hs (hkind hk)).trans ((moveExisting_here hd hctx hown).trans
      ((if_neg (not_not.2 hok)).trans ((if_neg fun h => ?_).trans (if_pos hk)))))
    exact absurd (hk.symm.trans h.1) (by decide)
  case free =>
    refine answers rfl ((withDesc_starts hs (hkind hk)).trans ((moveExisting_here hd hctx hown).trans
      ((if_neg (not_not.2 hok)).trans ((if_neg fun h => ?_).trans ((if_neg fun h => ?_).trans
        ((moveHome_free hlines).trans (moveAct_frees hk)))))))
    · exact absurd (hk.symm.trans h.1) (by decide)
    · exact absurd (hk.symm.trans h) (by decide)
  case relocate =>
    refine answers rfl ((withDesc_starts hs (hkind hk)).trans ((moveExisting_here hd hctx hown).trans
      ((if_neg (not_not.2 hok)).trans ((if_neg fun h => ?_).trans ((if_neg fun h => ?_).trans
        ((moveHome_free hlines).trans (moveAct_relocates (fun h => ?_) hdst)))))))
    · exact absurd h.2 (ne_true_of_eq_false hsame)
    · exact absurd (hk.symm.trans h) (by decide)
    · exact absurd (hk.symm.trans h) (by decide)
  case snoops =>
    refine answers rfl ((withDesc_starts hs (hkind hk)).trans ((moveExisting_here hd hctx hown).trans
      ((if_neg (not_not.2 hok)).trans ((if_neg fun h => ?_).trans ((if_neg fun h => ?_).trans
        (moveHome_snoops hlines habsent fun h => ?_))))))
    · exact absurd (hk.symm.trans h.1) (by decide)
    · exact absurd (hk.symm.trans h) (by decide)
    · exact absurd (hk.symm.trans h) (by decide)
  case refused =>
    exact answers rfl ((withDesc_starts hs (hkind hk)).trans ((moveExisting_here hd hctx hown).trans (if_pos hbad)))
  case sentOn => exact answers rfl ((withDesc_starts hs (hkind hk)).trans (moveExisting_forwards hd hctx hthere habsent hok))

end Sys2Proof.Machine
end

section
/-!
PROOFS. Harnesses and overlays registered, bound and unbound, and the states of an overlay switch (4 R134 to R157, Table 4-11).
-/
namespace Sys2Proof.Machine

/-! ### Harnesses and overlays -/

section LoadHarness
variable {s : State} {d : Nat} {t : Taken} {image : Bytes} (h8 : byteAt t.bytes 8 = 0) (hzero : zeroAt t.bytes 40 16 = true)
  (hsrc : (imageSource (demandImage s t) t 2 image).1 = stOk)
  (himg : imageStatus (imageSource (demandImage s t) t 2 image).2.1 (imageSource (demandImage s t) t 2 image).2.2.2 = stOk)
include h8 hzero hsrc himg

theorem loadHarness_known {k : Nat} {h : Harness}
    (hk : harnessOf (demandImage s t) t.ctx (fld (imageSource (demandImage s t) t 2 image).2.1 0x20 16) = some (k, h)) :
    loadHarness s d t image = finish (demandImage s t) d
      (if fld h.image 0x40 32 = fld (imageSource (demandImage s t) t 2 image).2.1 0x40 32 then stOk else ePerm) := by
  simp [loadHarness, h8, hzero, hsrc, himg, hk]

theorem loadHarness_new {k : Nat}
    (hnone : harnessOf (demandImage s t) t.ctx (fld (imageSource (demandImage s t) t 2 image).2.1 0x20 16) = none)
    (hk : mfresh (demandImage s t).harn 512 = some k) :
    let r := demandImage s t
    let src := imageSource r t 2 image
    let h : Harness :=
      { ctx := t.ctx, uid := fld src.2.1 0x20 16, image := src.2.1.take (fld src.2.1 8 4), pkg := src.2.2.1 }
    loadHarness s d t image =
      if !allocFits r t.ctx 2 (fld src.2.1 8 4) 0 then finish r d eCapacity
      else finish { r with harn := mset r.harn k h } d stOk := by
  simp only [loadHarness, h8, hzero, hsrc, himg, hnone, hk, Bool.not_true, Bool.false_eq_true, ne_eq, not_true_eq_false, or_self, if_false]

end LoadHarness

/-- OVERLAY_LOAD whose checks pass registers an overlay that its context does not have yet. -/
theorem registerOverlay_new {s : State} {d : Nat} {t : Taken} {image : Bytes} {kh ko : Nat} {hb : Harness}
    (hs : s.starts d t registerFields) (hop : t.op = 0x21) (h8 : byteAt t.bytes 8 = 0)
    (hbase : harnessOf (demandImage s t) t.ctx (fld (imageSource (demandImage s t) t 3 image).2.1 0x10 16) = some (kh, hb))
    (hsrc : (imageSource (demandImage s t) t 3 image).1 = stOk)
    (hover : overlayStatus (imageSource (demandImage s t) t 3 image).2.1 (some (himgOf hb.image))
      (imageSource (demandImage s t) t 3 image).2.2.2 = stOk)
    (hregions : overlayRegionsOk (himgOf hb.image) (patched (himgOf hb.image) (imageSource (demandImage s t) t 3 image).2.1) = true)
    (hnew : overlayOf (demandImage s t) t.ctx (fld (imageSource (demandImage s t) t 3 image).2.1 0x20 16) = none)
    (hk : mfresh (demandImage s t).overs 4096 = some ko) :
    let r := demandImage s t
    let src := imageSource r t 3 image
    let o : Overlay := { ctx := t.ctx, base := fld src.2.1 0x10 16, uid := fld src.2.1 0x20 16,
                         image := src.2.1.take (fld src.2.1 8 4), pkg := src.2.2.1 }
    exec (.overlayRegister d image) s = .next (unfused s (finish { r with overs := mset r.overs ko o } d stOk)) := by
  refine answers rfl ((withDesc_starts hs (by simp [hop, h8])).trans ?_)
  simp only [hbase, hsrc, hover, hregions, hnew, hk, Option.map_some, Option.any_some, Bool.not_true, Bool.false_eq_true, ne_eq,
    not_true_eq_false, if_false]

/-- HARNESS_BIND whose checks pass places the harness, enters it in its group and tells the other members. -/
theorem bindHarness_places {s : State} {d : Nat} {t : Taken} {table tab : Bytes} {kh k : Nat} {h : Harness} (h8 : byteAt t.bytes 8 = 0)
    (h10 : byteAt t.bytes 10 = 0) (htab : tab = padTo (fld t.bytes 36 4) (table.take (fld t.bytes 36 4))) (hlen : 128 ≤ fld t.bytes 36 4)
    (hroles : fld t.bytes 36 4 = 128 + 16 * fld tab 0 4) (hloaded : s.time.loaded = true)
    (hh : harnessOf s t.ctx (fld t.bytes 12 16) = some (kh, h)) (hk : mfresh s.insts 8 = some k) {c : Nat × Nat × Resolve}
    (hc : c = bindCheck s t.ctx (byteAt t.bytes 9) (himgOf h.image) (rolesOf tab) (table.drop (fld t.bytes 36 4))) (hok : c.1 = stOk)
    (hgroup : groupStatus s t.ctx (byteAt t.bytes 11) h (slice tab 0 128) c.2.2 = stOk)
    (hsame : bindDiffers s t.ctx (byteAt t.bytes 11) k (fld t.bytes 12 16) (sha3 tab) = false) :
    let r := demandBound s t.ctx (himgOf h.image) (rolesOf tab)
    let x := (bindCheck r t.ctx c.2.1 (himgOf h.image) (rolesOf tab) (table.drop (fld t.bytes 36 4))).2.2
    let u := placeInst r k t.ctx (fld t.bytes 12 16) (byteAt t.bytes 11) c.2.1 (himgOf h.image) (rolesOf tab) x
    let u := enterGroup { u with insts := madj u.insts k ({ · with table := sha3 tab }) } t.ctx (byteAt t.bytes 11) h (slice tab 0 128) x
    bindHarness s d t table =
      complete (broadcast u (bindBody false k (byteAt t.bytes 11) (fld t.bytes 12 16) tab)) d stOk (bindResult0 k c.2.1) 0 := by
  have hform : ¬ (byteAt t.bytes 8 ≠ 0 ∨ byteAt t.bytes 10 ≠ 0 ∨ fld t.bytes 36 4 < 128 ∨ fld t.bytes 36 4 ≠ 128 + 16 * fld tab 0 4) := by
    omega
  subst htab hc
  simp only [bindHarness, if_neg hform, hloaded, hh, hok, hgroup, hk, hsame, Bool.not_true, Bool.false_eq_true, ne_eq, not_true_eq_false,
    if_false]

/-- Settles O20: each row's checks are the statement's hypotheses. -/
theorem harnessDescriptors : Obligations.harness_descriptors := by
  intro s d t
  refine ⟨fun image hs hop h8 hzero => ?load, fun k h hs hop h8 hzero hk => ?release, fun image hs hop h8 => ?register,
    fun table hs hop h8 h10 => ?bind, fun i hs hop h8 hi hctx hsw hunbind hsaves => ?unbind⟩
  case load =>
    intro r src img hsrc himg
    have hrow : (t.op == 0x20 && byteAt t.bytes 8 % 2 == 0) = true := by simp [hop, h8]
    refine ⟨fun k h hk => answers rfl ((withDesc_starts hs hrow).trans (loadHarness_known h8 hzero hsrc himg hk)), fun hnone k hk =>
      ⟨fun hfits => answers rfl ((withDesc_starts hs hrow).trans ((loadHarness_new h8 hzero hsrc himg hnone hk).trans (if_neg ?_))),
        fun hfull => answers rfl ((withDesc_starts hs hrow).trans ((loadHarness_new h8 hzero hsrc himg hnone hk).trans (if_pos ?_)))⟩⟩
    · exact ne_true_of_eq_false (congrArg not hfits)
    · exact congrArg not hfull
  case release =>
    refine answers rfl ((withDesc_starts hs (by simp [hop, h8])).trans ?_)
    simp only [h8, hzero, hk, ne_eq, not_true_eq_false, Bool.not_true, Bool.false_eq_true, or_self, if_false]
  case register =>
    intro r src img kh hb ko hbase hsrc hover hregions hnew hk
    exact registerOverlay_new hs hop h8 hbase hsrc hover hregions hnew hk
  case bind =>
    intro num uid len tab hlen hroles hloaded kh h k hh hi c hk hok hgroup hsame
    exact answers rfl ((withDesc_starts hs (by simp [hop, h8])).trans
      (bindHarness_places h8 h10 rfl hlen hroles hloaded hh hk rfl hok hgroup hsame))
  case unbind =>
    intro k b u
    refine answers rfl ((withDesc_starts hs (by simp [hop, h8])).trans ?_)
    have hfree : ¬ (i.sw.isSome = true ∨ i.unbind.isSome = true ∨ (s.saves.any fun x => x.2.ctx == i.ctx) = true) := by
      simp only [hsw, hunbind, hsaves, Option.isSome_none, Bool.false_eq_true, or_self, not_false_eq_true]
    have hform : ¬ (byteAt t.bytes 8 ≠ 1 ∨ i.ctx ≠ t.ctx) := by simp [h8, hctx]
    simp only [hi]
    exact (if_neg hform).trans (if_neg hfree)

/-! ### Overlay switches -/

/-- The checks of a switch on one of the instances of the context, in order. -/
theorem exec_overlaySwitch {s : State} {d : Nat} {t : Taken} {i : Inst} (hs : s.starts d t switchFields) (hop : t.op = 0x21)
    (h8 : byteAt t.bytes 8 = 1) (hi : mget s.insts (byteAt t.bytes 9) = some i) (hctx : i.ctx = t.ctx) (hmode : byteAt t.bytes 10 ≤ 3)
    (hfb : byteAt t.bytes 11 ≤ 2) (hover : ∃ ko o, overlayOf s t.ctx (fld t.bytes 16 16) = some (ko, o) ∧ o.base = i.uid) :
    exec (.overlaySwitch d) s = .next (unfused s (
      if i.sw.isSome ∨ i.unbind.isSome ∨ (s.saves.any fun x => x.2.ctx == i.ctx) = true then finish s d eBusy
      else if byteAt t.bytes 10 = 3 ∧ i.parked ≠ some (fld t.bytes 16 16) then finish s d ePerm
      else if (byteAt t.bytes 10 = 2 ∨ (byteAt t.bytes 10 = 0 ∧ byteAt t.bytes 11 = 2)) ∧ i.parked.isSome then finish s d eBusy
      else startSwitch (holdDesc s d) (byteAt t.bytes 9) i (fld t.bytes 16 16) (byteAt t.bytes 10) (byteAt t.bytes 11)
        (fld t.bytes 12 2) (fld t.bytes 32 8) d)) := by
  obtain ⟨ko, o, ho, hbase⟩ := hover
  have hform : ¬ (i.ctx ≠ t.ctx ∨ 3 < byteAt t.bytes 10 ∨ 2 < byteAt t.bytes 11 ∨
      (!((overlayOf s t.ctx (fld t.bytes 16 16)).any fun o => o.2.base == i.uid)) = true) := by
    rintro (h | h | h | h)
    · exact h hctx
    · exact absurd h (Nat.not_lt.2 hmode)
    · exact absurd h (Nat.not_lt.2 hfb)
    · simp [ho, hbase] at h
  refine answers rfl ((withDesc_starts hs (by simp [hop, h8])).trans ?_)
  simp only [hi]
  exact if_neg hform

section Steps
variable {s : State} {k : InstIx} {i : Inst} {w : Switch} (hi : mget s.insts k.val = some i)
include hi

theorem switchOf_of (hw : i.sw = some w) : switchOf s k = some (i, w) := by simp only [switchOf, hi, hw, Option.bind_some, Option.map_some]

theorem regionDrained_unbinds (hu : i.unbind.isSome = true) (hready : unbindReady s i = true) :
    exec (.regionDrained k) s = .next (unfused s (finishUnbind s k)) := by
  change execRegionDrained k s = _
  simp only [execRegionDrained, hi, hu, hready, if_true]

/-- A drained region ends the step there, and the switch goes on from the state that is left. -/
theorem regionDrained_applies (hw : i.sw = some w) (hu : i.unbind = none) (hstate : w.state = .draining) (hdone : stepDone s i = true)
    {j : Inst} (hj : mget (if i.running then endInst s k i else s).insts k.val = some j) :
    exec (.regionDrained k) s = .next (unfused s (applyNext (if i.running then endInst s k i else s) k j w)) := by
  change execRegionDrained k s = _
  simp only [execRegionDrained, hi, hw, hu, hstate, hdone, hj, Option.isSome_none, Bool.false_eq_true, and_self, if_true, if_false]

theorem drainLimit_passed (hw : i.sw = some w) (hstate : w.state = .draining) (hlimit : w.limit ≠ 0) (hpast : w.commit + w.limit ≤ s.time.tread)
    (hwork : stepDone s i = false) :
    exec (.drainLimitExpiry k) s = .next (unfused s (if w.fallback = 0 then abandonSwitch s k eBusy
      else setSwitch s k (some { w with state := .freezing, mode := w.fallback }))) := by
  change execDrainLimitExpiry k s = _
  have hguard : w.state = .draining ∧ w.limit ≠ 0 ∧ w.commit + w.limit ≤ s.time.tread ∧ (!stepDone s i) = true :=
    ⟨hstate, hlimit, hpast, congrArg not hwork⟩
  simp only [execDrainLimitExpiry, switchOf_of hi hw, if_pos hguard]

theorem switchParkDone_applies (hw : i.sw = some w) (hstate : w.state = .parking) {u : State}
    (hu : u = parkStep (onTiles s (instTiles i) parkTile) k i) {j : Inst}
    (hj : mget (madj u.insts k.val ({ · with parked := some i.overlay })) k.val = some j) :
    exec (.switchParkDone k) s =
      .next (unfused s (applyNext { u with insts := madj u.insts k.val ({ · with parked := some i.overlay }) } k j w)) := by
  change execSwitchParkDone k s = _
  subst hu
  simp only [execSwitchParkDone, switchOf_of hi hw, hstate, if_true, hj]

end Steps

/-- Settles O21: each row finds the switch in the state that it takes on. -/
theorem overlaySwitches : Obligations.overlay_switches := by
  intro s
  refine ⟨fun d t i hs hop h8 => ?begins, fun k i w hi hw => ?steps, fun k i hi hu hready => regionDrained_unbinds hi hu hready⟩
  case begins =>
    intro k mode fb uid hi hctx hmode hfb hover
    have hexec := exec_overlaySwitch hs hop h8 hi hctx hmode hfb hover
    refine ⟨fun hbusy => answers hexec (if_pos hbusy), fun hsw hunbind hsaves => ?_⟩
    have hfree : ¬ (i.sw.isSome = true ∨ i.unbind.isSome = true ∨ (s.saves.any fun x => x.2.ctx == i.ctx) = true) := by
      simp only [hsw, hunbind, hsaves, Option.isSome_none, Bool.false_eq_true, or_self, not_false_eq_true]
    refine ⟨fun hresume hparked => answers hexec ((if_neg hfree).trans (if_pos ⟨hresume, hparked⟩)), fun hpark hsome => ?_,
      fun hresume hpark => ?_⟩
    · refine answers hexec ((if_neg hfree).trans ((if_neg fun h => ?_).trans (if_pos ⟨hpark, hsome⟩)))
      have hmode3 : byteAt t.bytes 10 = 3 := h.1
      have hmode2 : byteAt t.bytes 10 = 2 ∨ byteAt t.bytes 10 = 0 ∧ byteAt t.bytes 11 = 2 := hpark
      omega
    · refine answers hexec ((if_neg hfree).trans ((if_neg fun h => h.2 (hresume h.1)).trans (if_neg fun h => ?_)))
      exact absurd h.2 (ne_true_of_eq_false (by rw [hpark h.1]; rfl))
  case steps =>
    have hof := switchOf_of hi hw
    intro put
    refine ⟨fun hstate => ?staging, fun hstate hcommit => ⟨fun hmode => ?freezes, fun hmode => ?drains⟩,
      fun hstate hunbind hdone => ⟨fun hidle => ?drained, fun hruns j hj => ?ended⟩,
      fun hstate hlimit hpast hwork => ⟨fun hfb => ?fallback, fun hfb => ?abandoned⟩, fun hstate => ?freezing, fun hstate => ?parking,
      fun hstate => ?applying⟩
    case staging =>
      change execOverlayStagingDone k s = _
      simp only [execOverlayStagingDone, hof, if_pos hstate]
      rfl
    case freezes =>
      change execOverlayCommitTread k s = _
      simp only [execOverlayCommitTread, hof, if_pos (And.intro hstate hcommit), if_neg hmode]
      rfl
    case drains =>
      change execOverlayCommitTread k s = _
      simp only [execOverlayCommitTread, hof, if_pos (And.intro hstate hcommit), if_pos hmode]
      rfl
    case drained =>
      have hstays : (if i.running = true then endInst s k i else s) = s := if_neg (ne_true_of_eq_false hidle)
      have h := regionDrained_applies hi hw hunbind hstate hdone (j := i) (by rw [hstays]; exact hi)
      rwa [hstays] at h
    case ended =>
      have hends : (if i.running = true then endInst s k i else s) = endInst s k i := if_pos hruns
      have h := regionDrained_applies hi hw hunbind hstate hdone (j := j) (by rw [hends]; exact hj)
      rwa [hends] at h
    case fallback => exact answers_plain (drainLimit_passed hi hw hstate hlimit hpast hwork) (if_neg hfb) rfl
    case abandoned =>
      refine answers (drainLimit_passed hi hw hstate hlimit hpast hwork) ((if_pos hfb).trans ?_)
      simp only [abandonSwitch, hof]
      rfl
    case freezing =>
      change execSwitchFreezeDone k s = _
      simp only [execSwitchFreezeDone, hof, if_pos hstate]
    case parking => exact fun j hj => switchParkDone_applies hi hw hstate rfl hj
    case applying =>
      change execBayApplyDone k s = _
      simp only [execBayApplyDone, hof, if_pos hstate]

end Sys2Proof.Machine
end

section
/-!
PROOFS. Packages, requests, adapters and graphs (14 R464 to R470, 10 R316 to R343, 9 R308 to R312, 13 R434).
-/
namespace Sys2Proof.Machine

/-! ### Packages -/

/-- PKG_ADMIT of an object that the context holds, the targets' table read: its checks decide. -/
theorem exec_pkgAdmit {s : State} {d : Nat} {t : Taken} {pkg table : Bytes} {e : DirEntry} (hs : s.starts d t [(8, 20)]) (hop : t.op = 0x11)
    (hplain : plainHeld s = false) (hd : dirGet s (fld t.bytes 8 4) = some e) (hctx : e.ctx = t.ctx) (habsent : e.absent = false)
    (hmod : moduleStatus s e.modIx = stOk) (htable : (targetTable (demandTargets s t) t table).1 = stOk) :
    let r := demandTargets s t
    let tab := (targetTable r t table).2
    let u := if e.modIx = r.net.index then demandHome r e else r
    let b := stagedBytes u e pkg
    exec (.pkgAdmit d pkg table) s = .next (unfused s (
      if admitStatus u t e b tab pkg ≠ stOk then finish u d (admitStatus u t e b tab pkg) else admitPackage u d t e b tab)) := by
  have hhere : ¬ (e.absent = true ∨ moduleStatus s e.modIx ≠ stOk) := by simp [habsent, hmod]
  refine answers rfl ((withDesc_starts hs (by simp [hop])).trans ?_)
  simp only [hplain, hd, Bool.false_eq_true, if_false, if_neg (not_not.2 hctx), if_neg hhere, if_neg (not_not.2 htable)]

/-- PKG_EVICT of a package snoops the lines that partners may hold of its objects. -/
theorem exec_pkgEvict {s : State} {d : Nat} {t : Taken} {p : Pkg} (hs : s.starts d t [(8, 4)]) (hop : t.op = 0x12)
    (hp : mget s.pkgs (fld t.bytes 8 4) = some p) :
    let id := fld t.bytes 8 4
    let lines := (pkgLive s p).flatMap fun o => homeLines s o.2
    exec (.pkgEvict d) s = .next (unfused s (
      if evictStatus s t.ctx id ≠ stOk then finish s d (evictStatus s t.ctx id)
      else if lines.isEmpty then evictPackage s d id else (addWait (snoop (holdDesc s d) lines) (.biEvict d)).2)) := by
  refine answers rfl ((withDesc_starts hs (by simp [hop])).trans ?_)
  simp only [hp, Option.elim_some]

/-- Settles O22: each row's checks are the statement's. -/
theorem packages : Obligations.packages := by
  intro s d t
  refine ⟨fun data hs hop hdst hnone => ?stage, fun pkg table e hs hop hplain hd hctx habsent hmod => ?admission, fun p hs hop hp => ?evict⟩
  case stage =>
    have hrow : exec (.pkgStage d data) s = .next (unfused s
        (if stageStatus s t data ≠ stOk then finish s d (stageStatus s t data) else stagePackage s d t data)) := by
      refine answers rfl ((withDesc_starts hs (by simp [hop])).trans ?_)
      simp only [partnerData, hnone]
      exact if_pos hdst
    exact ⟨fun hok => answers hrow (if_neg (not_not.2 hok)), fun hbad => answers hrow (if_pos hbad)⟩
  case admission =>
    intro r htable tab u b
    have hexec := exec_pkgAdmit (pkg := pkg) hs hop hplain hd hctx habsent hmod htable
    exact ⟨fun hok => answers hexec (if_neg (not_not.2 hok)), fun hbad => answers hexec (if_pos hbad)⟩
  case evict =>
    intro id lines
    have hexec := exec_pkgEvict hs hop hp
    refine ⟨fun hbad => answers hexec (if_pos hbad), fun hok => ⟨fun hnone => ?_, fun hsome => ?_⟩⟩
    · exact answers hexec ((if_neg (not_not.2 hok)).trans (if_pos (List.isEmpty_iff.2 hnone)))
    · exact answers hexec ((if_neg (not_not.2 hok)).trans (if_neg fun h => hsome (List.isEmpty_iff.1 h)))

/-! ### Requests -/

section Open
variable {s : State} {d : Nat} {t : Taken} {params prompt : Bytes} {g : Group} (hrun : s.flt.sliceStopped = false)
  (hg : mget s.groups (groupKey t.ctx (byteAt t.bytes 8)) = some g) (hlead : g.lead = s.net.index)
  (hopen : openStatus s g t (padTo 128 (params.take 128)) (fld t.bytes 32 4) = stOk)
include hrun hg hlead hopen

theorem reqOpen_full (hfull : leadStatus s g (padTo 128 (params.take 128)) (fld t.bytes 32 4) t.tread = eCapacity) :
    reqOpen s d t params prompt = finish s d eCapacity := by
  simp only [reqOpen, hrun, hg, hopen, Bool.false_eq_true, ne_eq, not_true_eq_false, if_false]
  exact if_pos ⟨hlead, hfull⟩

/-- A request without an adapter whose checks pass at its lead opens there. -/
theorem reqOpen_opens (hplain : fld (padTo 128 (params.take 128)) 8 4 = 0)
    (hroom : leadStatus s g (padTo 128 (params.take 128)) (fld t.bytes 32 4) t.tread = stOk)
    (hread : (readPrompt s t.ctx t.sealedFlag (fld t.bytes 32 4) prompt).1 = stOk) :
    let n := fld t.bytes 32 4
    let r := readPrompt s t.ctx t.sealedFlag n prompt
    let x := openAt s g (padTo 128 (params.take 128)) n t.tread s.net.index (some (tokensOf r.2.1 n)) none
    reqOpen s d t params prompt = complete (admitReq x.2 g.ctx x.1 t r.2.2) d stOk x.1 0 := by
  have hfits : ¬ (g.lead = s.net.index ∧ stOk = eCapacity) := fun h => absurd h.2 (by decide)
  simp only [reqOpen, openBound, hrun, hg, hopen, hread, hplain, if_pos hlead, hroom, Bool.false_eq_true, ne_eq,
    not_true_eq_false, if_false, if_true]
  exact if_neg hfits

end Open

/-- REQ_APPEND to a request of this lead that came through a port here: its checks decide. -/
theorem reqAppend_here {s : State} {d : Nat} {t : Taken} {prompt : Bytes} {g : Group} {k : Nat} {q : Req} (hrun : s.flt.sliceStopped = false)
    (hgroup : groupOfRid s t.ctx (fld t.bytes 8 4) = some (g, k)) (hlead : g.lead = s.net.index) (hq : g.req? k = some q)
    (horigin : t.origin = none) (hsealed : ((mget s.admits (admitKey g.ctx (g.rid k))).bind (·.sealing)).isSome = t.sealedFlag) :
    let a := admitKey g.ctx (g.rid k)
    let x := readAppend ((mget s.admits a).bind (·.sealing)) t.sealedFlag (fld t.bytes 24 4) prompt
    let st := appendStatus s g q (fld t.bytes 24 4) (fld t.bytes 28 4)
    let u := { s with admits := madj s.admits a ({ · with sealing := x.2.2 }) }
    reqAppend s d t prompt =
      if st ≠ stOk then finish s d st
      else if x.1 ≠ stOk then finish s d x.1
      else finish (setGroup u (g.setReq k (appended u g q (tokensOf x.2.1 (fld t.bytes 24 4)) (fld t.bytes 28 4) t.tread))) d stOk := by
  have hmatch : ¬ ((!false) = true ∧ ((mget s.admits (admitKey g.ctx (g.rid k))).bind (·.sealing)).isSome ≠ t.sealedFlag) :=
    fun h => h.2 hsealed
  simp only [reqAppend, hrun, hgroup, if_pos hlead, appendAtLead, hq, horigin, Option.isSome_none, Bool.false_and, if_neg hmatch,
    Bool.false_eq_true, if_false]

section AtLead
variable {s : State} {d : Nat} {t : Taken} {act : Group → Nat → State}

theorem atLead_unknown (h : groupOfRid s t.ctx (fld t.bytes 8 4) = none) : atLead s d t act = finish s d ePerm := by simp only [atLead, h]

theorem atLead_here {g : Group} {k : Nat} (h : groupOfRid s t.ctx (fld t.bytes 8 4) = some (g, k)) (hlead : g.lead = s.net.index) :
    atLead s d t act = act g k := by
  simp only [atLead, h]
  exact if_pos hlead

end AtLead

theorem cancelAtLead_ended {s : State} {d k : Nat} {g : Group} {q : Req} (hq : g.req? k = some q) (hlive : q.live = false) :
    cancelAtLead s d g k = finish s d stOk := by simp [cancelAtLead, hq, hlive]

theorem cancelAtLead_live {s : State} {d k : Nat} {g : Group} {q : Req} (hq : g.req? k = some q) (hlive : q.live = true) (hfirst : q.cancels = [])
    (hopen : q.closer = none) : cancelAtLead s d g k =
      if stepRuns (holdDesc s d) q then setGroup (holdDesc s d) (g.setReq k { q with cancels := [d] })
      else endNow (holdDesc s d) (g.setReq k { q with cancels := [d] }) [k] := by
  simp only [cancelAtLead, hq, hlive, hfirst, hopen, List.isEmpty_nil, Option.isSome_none, Bool.not_true, Bool.or_self, Bool.false_eq_true,
    if_false]

theorem closeAtLead_open {s : State} {d k : Nat} {g : Group} {q : Req} (hq : g.req? k = some q) (hopen : q.closer = none) :
    closeAtLead s d g k =
      if q.state ≠ .ended ∧ stepRuns (holdDesc s d) q = true then setGroup (holdDesc s d) (g.setReq k { q with closer := some d })
      else endNow (holdDesc s d) (g.setReq k { q with closer := some d }) [k] := by
  simp only [closeAtLead, hq, hopen, Option.isSome_none, Bool.false_eq_true, if_false]

/-- Settles O23: each row's checks at the lead are the statement's. -/
theorem requests : Obligations.requests := by
  intro s d t
  refine ⟨fun params prompt g hs hop hrun hg hlead => ?opens, fun prompt g k q hs hop hrun hgroup hlead hq horigin => ?append,
    fun hs hop => ⟨fun hnone => ?noCancel, fun g k q hgroup hlead hq => ?cancel⟩,
    fun hs hop => ⟨fun hnone => ?noClose, fun g k q hgroup hlead hq hopen => ?close⟩⟩
  case opens =>
    intro n p r hopen hplain
    refine ⟨fun hfull => answers rfl ((withDesc_starts hs (by simp [hop])).trans (reqOpen_full hrun hg hlead hopen hfull)),
      fun hroom hread => ?_⟩
    exact answers rfl ((withDesc_starts hs (by simp [hop])).trans (reqOpen_opens hrun hg hlead hopen hplain hroom hread))
  case append =>
    intro n m a sl x hsealed
    have hhere := (withDesc_starts (act := fun t => reqAppend s d t prompt) hs (isRow := (·.op == 0x31)) (by simp [hop])).trans
      (reqAppend_here (d := d) (prompt := prompt) hrun hgroup hlead hq horigin hsealed)
    exact ⟨fun hbad => answers rfl (hhere.trans (if_pos hbad)),
      fun hok hread => answers rfl (hhere.trans ((if_neg (not_not.2 hok)).trans (if_neg (not_not.2 hread))))⟩
  case noCancel => exact answers rfl ((withDesc_starts hs (by simp [hop])).trans (atLead_unknown hnone))
  case cancel =>
    have hhere := (withDesc_starts (act := fun t => atLead s d t (cancelAtLead s d)) hs (isRow := (·.op == 0x32)) (by simp [hop])).trans
      (atLead_here hgroup hlead)
    intro h
    refine ⟨fun hlive => answers rfl (hhere.trans (cancelAtLead_ended hq hlive)), fun hlive hfirst hopen => ⟨fun hruns => ?_, fun hrests => ?_⟩⟩
    · exact answers rfl (hhere.trans ((cancelAtLead_live hq hlive hfirst hopen).trans (if_pos hruns)))
    · exact answers rfl (hhere.trans ((cancelAtLead_live hq hlive hfirst hopen).trans (if_neg (ne_true_of_eq_false hrests))))
  case noClose => exact answers rfl ((withDesc_starts hs (by simp [hop])).trans (atLead_unknown hnone))
  case close =>
    have hhere := (withDesc_starts (act := fun t => atLead s d t (closeAtLead s d)) hs (isRow := (·.op == 0x33)) (by simp [hop])).trans
      ((atLead_here hgroup hlead).trans (closeAtLead_open hq hopen))
    intro h
    refine ⟨fun hlive hruns => answers rfl (hhere.trans (if_pos ⟨hlive, hruns⟩)), fun hrests => answers rfl (hhere.trans (if_neg ?_))⟩
    rintro ⟨hlive, hruns⟩
    exact hrests.elim hlive fun h => absurd hruns (ne_true_of_eq_false h)

/-! ### Adapters and graphs -/

theorem exec_adapterLoad_owner {s : State} {d : Nat} {t : Taken} {image : Bytes} (hs : s.starts d t adLoadFields) (hop : t.op = 0x40)
    (horigin : t.origin = none) (hsrc : byteAt t.bytes 9 = 1 ∨ byteAt t.bytes 9 = 2)
    (hgroup : mhas s.groups (groupKey t.ctx (byteAt t.bytes 8)) = true) :
    let x := adImage s t image
    exec (.adapterLoad d image) s = .next (unfused s (
      if x.1 ≠ stOk then finish x.2.2 d x.1
      else if adStatus x.2.2 t.ctx x.2.1 ≠ stOk then finish x.2.2 d (adStatus x.2.2 t.ctx x.2.1)
      else loadVersion (holdDesc x.2.2 d) d t x.2.1)) := by
  have hform : ¬ (!(byteAt t.bytes 9 == 1 || byteAt t.bytes 9 == 2) || !mhas s.groups (groupKey t.ctx (byteAt t.bytes 8))) = true := by
    rcases hsrc with h | h <;> simp [h, hgroup]
  refine answers rfl ((withDesc_starts hs (by simp [hop])).trans ?_)
  simp only [horigin]
  exact if_neg hform

theorem exec_adapterRetire_owner {s : State} {d k : Nat} {t : Taken} {v : AdVer} (hs : s.starts d t adRetireFields) (hop : t.op = 0x41)
    (hv : versionOf s t.ctx (fld t.bytes 8 4) (fld t.bytes 12 4) = some (k, v)) (howner : v.owner = s.net.index) :
    let x := retireVersion s t.ctx (fld t.bytes 8 4) (fld t.bytes 12 4)
    exec (.adapterRetire d) s = .next (unfused s (finish x.2 d x.1)) := by
  refine answers rfl ((withDesc_starts hs (by simp [hop])).trans ?_)
  simp only [hv, Option.map_some]
  exact if_pos howner

theorem retireVersion_of {s : State} {ctx id ver k : Nat} {v : AdVer} (hv : versionOf s ctx id ver = some (k, v)) :
    retireVersion s ctx id ver =
      if v.state = 0 then (eBusy, s)
      else if v.state = 2 then (stDeferred, fwBump s (kExp 10) 1)
      else if v.refs = 0 then (stOk, dropVersion s k)
      else (stDeferred, fwBump { s with adapters := mset s.adapters k { v with state := 2 } } (kExp 10) 1) := by
  simp only [retireVersion, hv]

/-- RUN_GRAPH on one of the serving instances of the context: its tables are read and checked, then it waits for its tread. -/
theorem exec_runGraph {s : State} {d : Nat} {t : Taken} {far : List Bytes} {i : Inst} (hs : s.starts d t graphFields) (hop : t.op = 0x50)
    (hi : mget s.insts (byteAt t.bytes 8) = some i) (hctx : i.ctx = t.ctx) (hstalled : i.stalled = false) (hunbind : i.unbind = none)
    (hrun : s.flt.sliceStopped = false) :
    let p := instShape s i
    let h := handleAt t.bytes 12
    let n := 128 * p.ops.length
    let r := readTables s t.ctx p h (far.getD 0 [])
    let recs := tableBytes r h n (far.getD 0 [])
    let tabs := graphTables r p recs far
    let g : Graph := { inst := byteAt t.bytes 8, start := max (fld t.bytes 24 8) (r.time.tread + 1), records := recs,
                       tables := tabs, running := false, parked := false }
    exec (.runGraph d far) s = .next (unfused s (
      if tableStatus r t.ctx h n ≠ stOk then finish r d (tableStatus r t.ctx h n)
      else if graphStatus r t.ctx p recs tabs ≠ stOk then finish r d (graphStatus r t.ctx p recs tabs)
      else { holdDesc r d with graphs := mset r.graphs d g })) := by
  have hserves : ¬ (i.stalled = true ∨ i.unbind.isSome = true ∨ s.flt.sliceStopped = true) := by simp [hstalled, hunbind, hrun]
  refine answers rfl ((withDesc_starts hs (by simp [hop])).trans ?_)
  simp only [hi]
  exact (if_neg (not_not.2 hctx)).trans (if_neg hserves)

/-- Settles O24: each row's checks are the statement's. -/
theorem adaptersAndGraphs : Obligations.adapters_and_graphs := by
  intro s d t
  refine ⟨fun image hs hop => ⟨fun m hm => ?share, fun horigin hsrc hgroup => ?load⟩, fun k v hs hop hv howner => ?retire,
    fun far i hs hop hi hctx hstalled hunbind hrun => ?graph⟩
  case share =>
    refine answers rfl ((withDesc_starts hs (by simp [hop])).trans ?_)
    simp only [hm]
  case load =>
    intro x
    have hexec := exec_adapterLoad_owner (image := image) hs hop horigin hsrc hgroup
    exact ⟨fun hbad => answers hexec (if_pos hbad),
      fun hok hbad => answers hexec ((if_neg (not_not.2 hok)).trans (if_pos hbad)),
      fun hok hfine => answers hexec ((if_neg (not_not.2 hok)).trans (if_neg (not_not.2 hfine)))⟩
  case retire =>
    have hexec := exec_adapterRetire_owner hs hop hv howner
    rw [retireVersion_of hv] at hexec
    refine ⟨fun hloading => ?_, fun hready hfree => ?_, fun hready hused => ?_⟩
    · rwa [if_pos hloading] at hexec
    · rwa [if_neg (by omega), if_neg (by omega), if_pos hfree] at hexec
    · rwa [if_neg (by omega), if_neg (by omega), if_neg hused] at hexec
  case graph =>
    intro p h n r recs tabs htable
    have hexec := exec_runGraph (far := far) hs hop hi hctx hstalled hunbind hrun
    exact ⟨fun hbad => answers hexec ((if_neg (not_not.2 htable)).trans (if_pos hbad)),
      fun hok => answers hexec ((if_neg (not_not.2 htable)).trans (if_neg (not_not.2 hok)))⟩

end Sys2Proof.Machine
end

section
/-!
PROOFS. Pre-emption (4 R158 to R160, 12 R389, Table 4-14), telemetry snapshots and the event log (13, 16 R478).
-/
namespace Sys2Proof.Machine

/-! ### Freezing and thawing change tiles alone -/

theorem butTiles_onTiles (s : State) (ts : List Nat) (f : TileSt → TileSt) : (onTiles s ts f).butTiles = s.butTiles :=
  foldl_keeps State.butTiles _ (fun s _ => butTiles_setTile s _ _) ts s

theorem butTiles_freezeTiles (s : State) (ts : List Nat) : (freezeTiles s ts).butTiles = s.butTiles := butTiles_onTiles s ts _

theorem butTiles_thawTiles (s : State) (ts : List Nat) : (thawTiles s ts).butTiles = s.butTiles := butTiles_onTiles s ts _

/-- The state but for tiles, saves, groups and counters: what the freeze of a save leaves. -/
def State.butSaves (s : State) : State := { s with saves := [], fwc := [], groups := [] }.butTiles

theorem butSaves_of_butTiles {s u : State} (h : u.butTiles = s.butTiles) : u.butSaves = s.butSaves :=
  congrArg (fun x : State => { x with saves := [], fwc := [], groups := [] }) h

theorem butSaves_fwBump (s : State) (k n : Nat) : (fwBump s k n).butSaves = s.butSaves := by
  unfold fwBump
  split <;> rfl

theorem butSaves_countFrames (s : State) (k : Nat) (ps : List KvPage) : (countFrames s k ps).butSaves = s.butSaves :=
  (butSaves_fwBump _ _ _).trans (butSaves_fwBump _ _ _)

theorem butSaves_groups (s : State) (m : AMap Group) : State.butSaves { s with groups := m } = s.butSaves := rfl

theorem butSaves_dropCopies (s : State) (ctx : Nat) : (dropCopies s ctx).butSaves = s.butSaves :=
  foldl_keeps State.butSaves _ (fun s _ => (butSaves_groups _ _).trans (butSaves_countFrames s 2 _)) _ s

theorem butSaves_freezeAll (is : List (Nat × Inst)) (s : State) :
    (is.foldl (fun s i => if i.2.stalled then s else freezeTiles s (instTiles i.2)) s).butSaves = s.butSaves := by
  refine foldl_keeps State.butSaves _ (fun s i => ?_) is s
  split
  · rfl
  · exact butSaves_of_butTiles (butTiles_freezeTiles s _)

theorem butTiles_thawAll (ks : List Nat) (s : State) :
    (ks.foldl (fun s k => (mget s.insts k).elim s fun i => if i.stalled then s else thawTiles s (instTiles i)) s).butTiles = s.butTiles := by
  refine foldl_keeps State.butTiles _ (fun s k => ?_) ks s
  cases mget s.insts k with
  | none => rfl
  | some i =>
    simp only [Option.elim_some]
    split
    · rfl
    · exact butTiles_thawTiles s _

/-! ### Pre-emption -/

section Save
variable {s : State} {d : Nat} {t : Taken} {e : DirEntry} (hs : s.starts d t saveFields) (hop : t.op = 0x90)
  (hd : dirGet s (handleAt t.bytes 12).1 = some e) (h8 : byteAt t.bytes 8 ≤ 1) (hctx : e.ctx = t.ctx) (hoff : (handleAt t.bytes 12).2 ≤ e.size)
  (habsent : e.absent = false) (hmod : moduleStatus s e.modIx = stOk) (hrun : s.flt.sliceStopped = false)
  (hsaves : (s.saves.any fun x => x.2.ctx == t.ctx) = false) (hunbind : ((ctxInsts s t.ctx).any fun i => i.2.unbind.isSome) = false)
include hs hop hd h8 hctx hoff habsent hmod hrun hsaves hunbind

/-- A CTX_SAVE whose checks pass looks at the size of its area. -/
theorem exec_ctxSave :
    let h := handleAt t.bytes 12
    let is := ctxInsts s t.ctx
    let cc := ccSizes s is
    let size := (is.map fun i => areaSize i.2 (mgetD cc i.1 0)).sum
    let sv : Save := { ctx := t.ctx, obj := h.1, off := h.2, freeze := fld t.bytes 24 8, unbind := byteAt t.bytes 8 == 1,
                       frozen := false, writing := false, lost := false, poison := false, msgs := [],
                       base := is.map fun i => (i.1, baySum s i.2 0, baySum s i.2 1), cc := cc }
    let u := holdDesc { s with fv := s.fv + is.length } d
    exec (.ctxSave d) s = .next (unfused s (if e.size < h.2 + size then finish s d eCapacity
      else is.foldl (fun s i => abandonEarly s i.1 i.2) { u with saves := mset u.saves d sv })) := by
  have hform : ¬ (1 < byteAt t.bytes 8 ∨ e.ctx ≠ t.ctx ∨ e.size < (handleAt t.bytes 12).2) := by
    rintro (h | h | h)
    · omega
    · exact h hctx
    · omega
  have hidle : ¬ (s.flt.sliceStopped = true ∨ (s.saves.any fun x => x.2.ctx == t.ctx) = true ∨
      ((ctxInsts s t.ctx).any fun i => i.2.unbind.isSome) = true) := by simp only [hrun, hsaves, hunbind]; decide
  have hthere : ¬ (e.absent = true ∨ moduleStatus s e.modIx ≠ stOk) := by simp [habsent, hmod]
  refine answers rfl ((withDesc_starts hs (by simp [hop])).trans ?_)
  simp only [hd]
  exact (if_neg hform).trans ((if_neg hidle).trans (if_neg hthere))

end Save

/-- The context's instances frozen, and its copies of pages dropped. -/
def frozenFor (s : State) (ctx : Nat) : State :=
  (ctxInsts s ctx).foldl (fun s i => if i.2.stalled then s else freezeTiles s (instTiles i.2)) (dropCopies s ctx)

theorem butSaves_frozenFor (s : State) (ctx : Nat) : (frozenFor s ctx).butSaves = s.butSaves :=
  (butSaves_freezeAll _ _).trans (butSaves_dropCopies s ctx)

/-- The save once frozen in state `s`: its tread, and the messages of its context that the send fence waits for. -/
def savedAt (sv : Save) (s : State) : Save :=
  { sv with frozen := true, freeze := s.time.tread, msgs := mkeys s.net.msgs fun _ m => m.ctx == sv.ctx }

section Freeze
variable {s : State} {d : Nat} {sv : Save} (hsv : mget s.saves d = some sv)
include hsv

/-- CTX_SAVE_FREEZE at its tread, with no switch and no copy under way, looks at the size of the area once more. -/
theorem exec_ctxSaveFreeze (hfrozen : sv.frozen = false) (htread : sv.freeze ≤ s.time.tread)
    (hsw : ((ctxInsts s sv.ctx).any fun i => i.2.sw.isSome) = false) (hcopy : copying s sv.ctx = false) :
    exec (.ctxSaveFreeze d) s = .next (unfused s (
      if (dirGet s sv.obj).any fun e => decide (e.size < sv.off + saveSize sv (ctxInsts s sv.ctx)) then
        finish { s with saves := merase s.saves d } d eCapacity
      else { frozenFor s sv.ctx with saves := mset (frozenFor s sv.ctx).saves d (savedAt sv s) })) := by
  have htime : (frozenFor s sv.ctx).time = s.time := (congrArg State.time (butSaves_frozenFor s sv.ctx) :)
  have hnet : (frozenFor s sv.ctx).net = s.net := (congrArg State.net (butSaves_frozenFor s sv.ctx) :)
  have hsave : savedAt sv (frozenFor s sv.ctx) = savedAt sv s := by rw [savedAt, savedAt, htime, hnet]
  have hdue : ¬ (sv.frozen = true ∨ s.time.tread < sv.freeze ∨ ((ctxInsts s sv.ctx).any fun i => i.2.sw.isSome) = true ∨
      copying s sv.ctx = true) := by
    simp only [hfrozen, hsw, hcopy, Bool.false_eq_true, false_or, or_false]
    exact Nat.not_lt.2 htread
  change execCtxSaveFreeze d s = _
  simp only [execCtxSaveFreeze, hsv]
  rw [if_neg hdue]
  change Host.Outcome.next (unfused s (if _ then _ else
    { frozenFor s sv.ctx with saves := mset (frozenFor s sv.ctx).saves d (savedAt sv (frozenFor s sv.ctx)) })) = _
  rw [hsave]

theorem exec_sendFenceSatisfied (hfrozen : sv.frozen = true) (hwriting : sv.writing = false) (hflight : inFlight s sv.ctx = false)
    (hmsgs : (sv.msgs.any fun m => mhas s.net.msgs m) = false) {e : DirEntry} (hd : dirGet s sv.obj = some e) :
    exec (.sendFenceSatisfied d) s = .next (unfused s (writeSave s d sv e)) := by
  change execSendFenceSatisfied d s = _
  simp only [execSendFenceSatisfied, hsv, hfrozen, hwriting, hflight, hmsgs, hd, Bool.not_true, Bool.or_self, Bool.false_eq_true, if_false]

end Freeze

/-- CTX_RESTORE of an area that the context may read: from this module, or from the bytes that came from another. -/
theorem exec_ctxRestore {s : State} {d : Nat} {t : Taken} {e : DirEntry} {area : Bytes} (hs : s.starts d t restoreFields) (hop : t.op = 0x91)
    (hd : dirGet s (handleAt t.bytes 12).1 = some e) (hctx : e.ctx = t.ctx) (hoff : (handleAt t.bytes 12).2 ≤ e.size)
    (hsaves : (s.saves.any fun x => x.2.ctx == t.ctx) = false) (hrests : (s.rests.any fun x => x.2.ctx == t.ctx) = false)
    (habsent : e.absent = false) (hmod : moduleStatus s e.modIx = stOk) :
    let h := handleAt t.bytes 12
    let n := areasLen (objRead s e h.2 (e.size - h.2))
    let u := objDemand s e h.2 n
    exec (.ctxRestore d area) s = .next (unfused s (
      if e.modIx ≠ s.net.index then
        if area.length < 4096 then finish s d ePoison
        else restoreCtx s d t (area.take (e.size - h.2)) (area.drop (e.size - h.2)) (decide (area.length < e.size - h.2))
      else restoreCtx u d t (objRead u e h.2 n) area (!(objPoisonAt u e h.2 n).isEmpty))) := by
  have hform : ¬ (e.ctx ≠ t.ctx ∨ e.size < (handleAt t.bytes 12).2) := by
    rintro (h | h)
    · exact h hctx
    · omega
  have hidle : ¬ ((s.saves.any fun x => x.2.ctx == t.ctx) = true ∨ (s.rests.any fun x => x.2.ctx == t.ctx) = true) := by
    simp only [hsaves, hrests]; decide
  have hthere : ¬ (e.absent = true ∨ moduleStatus s e.modIx ≠ stOk) := by simp [habsent, hmod]
  refine answers rfl ((withDesc_starts hs (by simp [hop])).trans ?_)
  simp only [hd]
  exact (if_neg hform).trans ((if_neg hidle).trans (if_neg hthere))

theorem exec_resumeTreadRelease {s : State} {d : Nat} {r : Restore} (hr : mget s.rests d = some r) (htread : r.resume ≤ s.time.tread)
    (hrun : s.flt.sliceStopped = false) (hclosing : s.net.closing = false) :
    let u := r.insts.foldl (fun s k => (mget s.insts k).elim s fun i => if i.stalled then s else thawTiles s (instTiles i))
      { s with rests := merase s.rests d }
    exec (.resumeTreadRelease d) s = .next (unfused s
      (complete { u with flt.sliceStopped := false, net.recovery := none } d stOk (instMask r.insts) 0)) := by
  intro u
  have hkept : u.butTiles = { s with rests := merase s.rests d }.butTiles := butTiles_thawAll r.insts _
  have hstopped : u.flt.sliceStopped = false := (congrArg (·.flt.sliceStopped) hkept).trans hrun
  have hopen : u.net.closing = false := (congrArg (·.net.closing) hkept).trans hclosing
  have hrow : execResumeTreadRelease d s = .next (unfused s (complete
      { u with flt.sliceStopped := u.flt.sliceStopped && u.insts.any fun i => i.2.ctx != r.ctx && i.2.running,
               net.recovery := if (u.flt.sliceStopped && u.insts.any fun i => i.2.ctx != r.ctx && i.2.running) || u.net.closing then
                 u.net.recovery else none } d stOk (instMask r.insts) 0)) := by
    simp only [execResumeTreadRelease, hr, if_neg (Nat.not_lt.2 htread)]
    rfl
  refine answers hrow ?_
  simp only [hstopped, hopen, Bool.false_and, Bool.or_self, Bool.false_eq_true, if_false]

/-- Settles O25: each row's checks are the statement's; freezing and thawing touch tiles, and what counts frames. -/
theorem preemption : Obligations.preemption := by
  intro s d
  refine ⟨fun t e hs hop => ?save, fun sv hsv => ⟨fun hfrozen htread hsw hcopy => ?freeze,
      fun hfrozen hwriting hflight hmsgs e hd => exec_sendFenceSatisfied hsv hfrozen hwriting hflight hmsgs hd⟩,
    fun t e area hs hop => ?restore, fun r hr htread hrun hclosing => exec_resumeTreadRelease hr htread hrun hclosing⟩
  case save =>
    intro h is cc size hd h8 hctx hoff habsent hmod hrun hsaves hunbind
    have hexec := exec_ctxSave hs hop hd h8 hctx hoff habsent hmod hrun hsaves hunbind
    exact ⟨fun hsmall => answers hexec (if_pos hsmall), fun hfits => answers hexec (if_neg (Nat.not_lt.2 hfits))⟩
  case freeze =>
    have hexec := exec_ctxSaveFreeze hsv hfrozen htread hsw hcopy
    intro full
    refine ⟨fun hfull => answers hexec (if_pos hfull), fun hfits => ⟨_, answers hexec (if_neg (ne_true_of_eq_false hfits)), ?_, ?_⟩⟩
    · exact mget_mset_same _ _ _
    · exact (congrArg (unfused s) (butSaves_frozenFor s sv.ctx) :)
  case restore =>
    intro h hd hctx hoff hsaves hrests habsent hmod
    have hexec := exec_ctxRestore (area := area) hs hop hd hctx hoff hsaves hrests habsent hmod
    refine ⟨fun hhome => answers hexec (if_neg (not_not.2 hhome)), fun hfar => ⟨fun hshort => ?_, fun hlong => ?_⟩⟩
    · exact answers hexec ((if_pos hfar).trans (if_pos hshort))
    · exact answers hexec ((if_pos hfar).trans (if_neg (Nat.not_lt.2 hlong)))

/-! ### Telemetry and the event log -/

/-- TELEMETRY_LATCH in the first clk of its tread: its counters are serviced, and its result is written where it fits. -/
theorem exec_telemetryLatch {s : State} {d due : Nat} {t : Taken} (hdue : mget s.snaps d = some due) (ht : mget s.taken d = some t)
    (htick : due ≤ s.time.ticks) (hclk : s.clk = 0) (hrun : coresRun s = true) :
    let sets := fld t.bytes 20 4
    let u := serviceSets { s with snaps := merase s.snaps d } sets
    let out := snapBytes u t.ctx sets
    exec (.telemetryLatch d) s = .next (unfused s (
      if fld t.bytes 16 4 < out.length then finish u d eCapacity
      else complete (pmWrite (freeRecords u t.ctx sets) t.port (fld t.bytes 8 8) out) d stOk out.length 0)) := by
  have hnow : ¬ (s.time.ticks < due ∨ s.clk ≠ 0 ∨ (!coresRun s) = true) := by
    rintro (h | h | h)
    · omega
    · exact h hclk
    · simp [hrun] at h
  change execTelemetryLatch d s = _
  simp only [execTelemetryLatch, hdue, ht]
  exact congrArg (fun x => Host.Outcome.next (unfused s x)) (if_neg hnow)

/-- Settles O26: each row's guard is the statement's. -/
theorem telemetryAndLog : Obligations.telemetry_and_log := by
  intro s d t
  refine ⟨fun hs hop => ⟨fun hbad => ?reserved, fun hok => ?snap⟩, fun due hdue ht htick hclk hrun => ?latch, fun hfw => ?log⟩
  case reserved => exact answers rfl ((withDesc_starts hs (by simp [hop])).trans (if_pos hbad))
  case snap => exact answers rfl ((withDesc_starts hs (by simp [hop])).trans (if_neg (Nat.not_le.2 hok)))
  case latch =>
    have hexec := exec_telemetryLatch hdue ht htick hclk hrun
    exact ⟨fun hsmall => answers hexec (if_pos hsmall), fun hfits => answers hexec (if_neg (Nat.not_lt.2 hfits))⟩
  case log =>
    refine ⟨_, answers rfl (if_pos hfw), rfl, ?_⟩
    change (if storeOpen s then { s.store with eventLog := s.evPend.foldl pushLog s.store.eventLog } else s.store).eventLog = _
    split <;> rfl

end Sys2Proof.Machine
end

section
/-!
PROOFS. Operations on sync objects of this module: descriptors, control cores, releases of barriers and SYNC_FORCE (11 R353 to R366).
-/
namespace Sys2Proof.Machine

/-! ### What an operation does to an object -/

section SyncOp
variable {s : State} {k n : Nat} {who : Who} {m : Option Nat} {hold : Bool} {expiry : Option Nat} {o : SyncObj}
  (ho : mget s.objs k = some o)
include ho

theorem syncOp_add (hkind : o.kind = 0) : syncOp s k 1 n who m hold expiry =
    (.done ((o.value + n) % 2 ^ 32) 0, serveCounter (setObj (fwBump s (kSync 0) 1) k { o with value := (o.value + n) % 2 ^ 32 }) k) := by
  simp [syncOp, ho, hkind, opFits]

theorem syncOp_post (hkind : o.kind = 2) : syncOp s k 6 n who m hold expiry =
    (.done (min o.limit (o.value + n)) 0,
      serveSem (setObj (fwBump (fwBump s (kSync 0) 1) (kSync 9) (b2n (decide (o.limit < o.value + n)))) k
        { o with value := min o.limit (o.value + n) }) k o.waiters.length) := by
  simp [syncOp, ho, hkind, opFits]

theorem syncOp_setBase (hkind : o.kind = 1) : syncOp s k 7 n who m hold expiry =
    (.done 0 0, syncRun (setObj (fwBump s (kSync 0) 1) k { o with base := some n }) [.settle k]) := by
  simp [syncOp, ho, hkind, opFits]

theorem syncOp_newStep (hkind : o.kind = 3) : syncOp s k 8 n who m hold expiry =
    (.done 0 0, setObj (fwBump s (kSync 0) 1) k { o with finished := [], value := 0, baseGen := n % 2 ^ 32, curGen := n % 2 ^ 32 }) := by
  simp [syncOp, ho, hkind, opFits]

theorem syncOp_restart (hkind : o.kind = 3) : syncOp s k 9 n who m hold expiry =
    (.done 0 0, setObj (fwBump s (kSync 0) 1) k { o with value := 0, curGen := n % 2 ^ 32 }) := by
  simp [syncOp, ho, hkind, opFits]

/-- The wait of a requester, for what it waits for. -/
theorem syncOp_wait_counter (hkind : o.kind = 0) : syncOp s k 2 n who m true expiry =
    if reached o.value n then (.done o.value 0, fwBump s (kSync 0) 1)
    else (.waits, setObj (fwBump s (kSync 0) 1) k { o with waiters := o.waiters ++ [{ who := who, want := .value n, expiry := expiry }] }) := by
  simp [syncOp, ho, hkind, opFits]

theorem syncOp_wait_barrier (hkind : o.kind = 1) : syncOp s k 2 n who m true expiry =
    if o.released n then (.done n n, fwBump s (kSync 0) 1)
    else (.waits, setObj (fwBump s (kSync 0) 1) k { o with waiters := o.waiters ++ [{ who := who, want := .gen n, expiry := expiry }] }) := by
  simp [syncOp, ho, hkind, opFits]

theorem syncOp_acquire (hkind : o.kind = 2) : syncOp s k 5 n who m hold expiry =
    if o.waiters.isEmpty && decide (n ≤ o.value) then
      (.done (o.value - n) 0, setObj (fwBump s (kSync 0) 1) k { o with value := o.value - n })
    else (.waits, setObj (fwBump s (kSync 0) 1) k { o with waiters := o.waiters ++ [{ who := who, want := .count n, expiry := expiry }] }) := by
  simp [syncOp, ho, hkind, opFits]

/-- An arrival of a member in the window that asks for no wait. -/
theorem syncOp_arrive (hkind : o.kind = 1) {j : Nat} {x : BMember} (hm : m = some j) (hx : o.members[j]? = some x)
    (hwindow : x.arrivals < o.oldest + 16) {v : State} (hv : v = syncRun (fwBump s (kSync 0) 1) [.arrive k j s.time.tread])
    (hfree : ((mget v.objs k).any fun y => y.waiters.any fun w => w.who == who && w.want == .gen (x.arrivals % 2 ^ 32)) = false) :
    syncOp s k 0 n who m false expiry = (.done (x.arrivals % 2 ^ 32) (x.arrivals % 2 ^ 32), v) := by
  have hfit : opFits 0 o.kind = true := by rw [hkind]; rfl
  have hin : ¬ o.oldest + 16 ≤ x.arrivals := Nat.not_le.2 hwindow
  have htime : (fwBump s (kSync 0) 1).time.tread = s.time.tread := rfl
  subst hm hv
  simp only [syncOp, ho, hfit, Option.bind_some, hx, Option.map_some, if_neg hin, htime, hfree, Bool.not_true, Bool.false_and,
    Bool.false_eq_true, if_false]

end SyncOp

/-! ### Descriptors -/

section Desc
variable {s : State} {d op k kind : Nat} {t : Taken} (hv : vidOf s t.ctx (fld t.bytes 8 2) = some (k, s.net.index, kind))
include hv

theorem syncSet_unfit (hfree : partnerWrites s t.port = false) (hfit : opFits op kind = false) : syncSet s d op t = finish s d ePerm := by
  simp [syncSet, hfree, hv, hfit]

/-- A SYNC_SET on an object of this module whose kind allows it does its operation. -/
theorem syncSet_here (hfree : partnerWrites s t.port = false) (hfit : opFits op kind = true) (hn : op = 7 ∨ fld t.bytes 16 8 < 2 ^ 32)
    {v g : Nat} {u : State}
    (hop : syncOp s k op (fld t.bytes 16 8) (.desc d) ((mget s.objs k).bind fun o => memberLeast o 4) false none = (.done v g, u)) :
    syncSet s d op t = finish u d stOk := by
  have hform : ¬ (!opFits op kind || (op != 7 && decide (2 ^ 32 ≤ fld t.bytes 16 8))) = true := by
    rw [hfit]
    rcases hn with rfl | hn
    · simp
    · simp only [Bool.not_true, Bool.false_or, Bool.and_eq_true, decide_eq_true_eq]
      exact fun h => absurd h.2 (Nat.not_le.2 hn)
  simp only [syncSet, hfree, hv, if_neg hform, hop, Bool.false_eq_true, if_false, ne_eq, not_true_eq_false]

variable (hfit : opFits op kind = true)
include hfit

theorem syncWait_done {v g : Nat} {u : State}
    (hop : syncOp s k op (fld t.bytes 12 4) (.desc d) none true (if fld t.bytes 16 4 = 0 then none else some (t.tread + fld t.bytes 16 4)) =
      (.done v g, u)) : syncWait s d op t = complete u d stOk v 0 := by
  simp only [syncWait, hv, hfit, hop, Bool.not_true, Bool.false_eq_true, if_false, ne_eq, not_true_eq_false]

theorem syncWait_waits {u : State}
    (hop : syncOp s k op (fld t.bytes 12 4) (.desc d) none true (if fld t.bytes 16 4 = 0 then none else some (t.tread + fld t.bytes 16 4)) =
      (.waits, u)) : syncWait s d op t = holdDesc u d := by
  simp only [syncWait, hv, hfit, hop, Bool.not_true, Bool.false_eq_true, if_false, ne_eq, not_true_eq_false]

end Desc

theorem exec_syncSet {c : Instr} {d op : Nat} {s : State} {t : Taken}
    (hc : (c, op) ∈ [(.syncSetArrive d, 0), (.syncSetAdd d, 1), (.syncSetPost d, 6), (.syncSetBase d, 7)])
    (hs : s.starts d t setFields) (hcode : t.op = 0x60) (hop : byteAt t.bytes 10 = op) :
    exec c s = .next (unfused s (syncSet s d op t)) := by
  have hrow : isSync 0x60 op t = true := by simp [isSync, hcode, hop]
  simp only [List.mem_cons, Prod.mk.injEq, List.not_mem_nil, or_false] at hc
  rcases hc with ⟨rfl, rfl⟩ | ⟨rfl, rfl⟩ | ⟨rfl, rfl⟩ | ⟨rfl, rfl⟩ <;> exact answers rfl (withDesc_starts hs hrow)

theorem exec_syncWait {c : Instr} {d op : Nat} {s : State} {t : Taken} (hc : (c, op) ∈ [(.syncWaitWait d, 2), (.syncWaitAcquire d, 5)])
    (hs : s.starts d t waitFields) (hcode : t.op = 0x61) (hop : byteAt t.bytes 10 = op) :
    exec c s = .next (unfused s (syncWait s d op t)) := by
  have hrow : isSync 0x61 op t = true := by simp [isSync, hcode, hop]
  simp only [List.mem_cons, Prod.mk.injEq, List.not_mem_nil, or_false] at hc
  rcases hc with ⟨rfl, rfl⟩ | ⟨rfl, rfl⟩ <;> exact answers rfl (withDesc_starts hs hrow)

/-- Settles O27: each operation on an object of this module is `syncOp`'s. -/
theorem syncDescriptors : Obligations.sync_descriptors := by
  intro s d t k kind hv u
  refine ⟨fun c op hc hfree hs hcode hop hfit => answers (exec_syncSet hc hs hcode hop) (syncSet_unfit hv hfree hfit),
    fun c op hc hwrites hs hcode hop => answers (exec_syncSet hc hs hcode hop) (if_pos hwrites),
    fun o ho hkind hfree hs hcode => ?sets, fun o ho hkind hs hcode => ?waits,
    fun ht hcode hstage hlimit hpast => ?timeout, fun v ht hstage hcode => ?satisfied⟩
  case sets =>
    subst hkind
    intro n
    refine ⟨fun hop hkind hn => ?add, fun hop hkind hn => ?post, fun hop hkind => ?base, fun hop hkind hn m x hm hx hwindow => ?arrive⟩
    case add =>
      exact answers (exec_syncSet (by simp) hs hcode hop)
        (syncSet_here hv hfree (by rw [hkind]; rfl) (.inr hn) (syncOp_add ho hkind))
    case post =>
      exact answers (exec_syncSet (by simp) hs hcode hop)
        (syncSet_here hv hfree (by rw [hkind]; rfl) (.inr hn) (syncOp_post ho hkind))
    case base =>
      exact answers (exec_syncSet (by simp) hs hcode hop)
        (syncSet_here hv hfree (by rw [hkind]; rfl) (.inl rfl) (syncOp_setBase ho hkind))
    case arrive =>
      intro v hwait
      have hleast : ((mget s.objs k).bind fun o => memberLeast o 4) = some m := by rw [ho]; exact hm
      exact answers (exec_syncSet (by simp) hs hcode hop)
        (syncSet_here hv hfree (by rw [hkind]; rfl) (.inr hn) (syncOp_arrive ho hkind hleast hx hwindow rfl hwait))
  case waits =>
    subst hkind
    intro n limit hold
    have waits {c : Instr} {op : Nat} (hc : (c, op) ∈ [(.syncWaitWait d, 2), (.syncWaitAcquire d, 5)]) (hop : byteAt t.bytes 10 = op) :=
      exec_syncWait hc hs hcode hop
    refine ⟨fun hop hkind hr => ?counterDone, fun hop hkind hr => ?counterWaits, fun hop hkind hr => ?barrierDone,
      fun hop hkind hr => ?barrierWaits, fun hop hkind hfirst hle => ?acquired, fun hop hkind hbusy => ?acquireWaits⟩
    case counterDone =>
      exact answers (waits (by simp) hop) (syncWait_done hv (by rw [hkind]; rfl) ((syncOp_wait_counter ho hkind).trans (if_pos hr)))
    case counterWaits =>
      exact answers (waits (by simp) hop)
        (syncWait_waits hv (by rw [hkind]; rfl) ((syncOp_wait_counter ho hkind).trans (if_neg (ne_true_of_eq_false hr))))
    case barrierDone =>
      exact answers (waits (by simp) hop) (syncWait_done hv (by rw [hkind]; rfl) ((syncOp_wait_barrier ho hkind).trans (if_pos hr)))
    case barrierWaits =>
      exact answers (waits (by simp) hop)
        (syncWait_waits hv (by rw [hkind]; rfl) ((syncOp_wait_barrier ho hkind).trans (if_neg (ne_true_of_eq_false hr))))
    case acquired =>
      exact answers (waits (by simp) hop)
        (syncWait_done hv (by rw [hkind]; rfl) ((syncOp_acquire ho hkind).trans (if_pos (by rw [hfirst, decide_eq_true hle]; rfl))))
    case acquireWaits =>
      refine answers (waits (by simp) hop) (syncWait_waits hv (by rw [hkind]; rfl) ((syncOp_acquire ho hkind).trans (if_neg ?_)))
      rintro h
      obtain ⟨hfirst, hle⟩ := Bool.and_eq_true_iff.1 h
      rcases hbusy with hw | hlt
      · exact hw (List.isEmpty_iff.1 hfirst)
      · exact absurd (of_decide_eq_true hle) (Nat.not_le.2 hlt)
  case timeout =>
    intro v w
    change execSyncWaitTimeout d s = _
    simp only [execSyncWaitTimeout, ht, if_pos (And.intro hcode (And.intro hstage (And.intro hlimit hpast)))]
    rfl
  case satisfied =>
    change execSyncWaitSatisfied d s = _
    simp only [execSyncWaitSatisfied, ht, hstage, if_pos hcode]

/-! ### Control cores, releases of barriers and SYNC_FORCE -/

section Core
variable {s : State} {ctx vid op n k kind : Nat} (hv : vidOf s ctx vid = some (k, s.net.index, kind))
include hv

theorem coreOp_waits (hwrites : ownWrites s = true) : coreOp s ctx vid op n = s := by
  simp only [coreOp, hv, hwrites, Bool.or_true, if_true]

theorem coreOp_here (hrun : coresRun s = true) (hfree : ownWrites s = false) (hfit : opFits op kind = true) :
    coreOp s ctx vid op n = (syncOp s k op n .firmware none false none).2 := by
  simp only [coreOp, hv, hrun, hfree, hfit, Bool.not_true, Bool.or_self, Bool.false_eq_true, if_false, ne_eq, not_true_eq_false]

end Core

section Fire
variable {s : State} {k : SyncIx} {o : SyncObj} {kind : RelKind} (ho : mget s.objs k.val = some o) (hbarrier : o.kind = 1)
include ho hbarrier

theorem fireRow_not_due (h : ∀ due, o.dueOf o.next = some (due, kind) → s.time.tread < due) : fireRow s k (· == kind) = syncRun s [] := by
  have hsettle : settleObj s k (· == kind) = (s, []) := by
    cases hdue : o.dueOf o.next with
    | none => simp only [settleObj, ho, hbarrier, hdue, ne_eq, not_true_eq_false, if_false]
    | some x =>
      obtain ⟨due, other⟩ := x
      simp only [settleObj, ho, hbarrier, hdue, ne_eq, not_true_eq_false, if_false]
      refine if_neg fun hfires => ?_
      obtain ⟨hpast, hkind, -⟩ := hfires
      obtain rfl : other = kind := beq_iff_eq.1 hkind
      exact absurd hpast (Nat.not_le.2 (h due hdue))
  rw [fireRow, hsettle]

theorem fireRow_due {due : Nat} (hdue : o.dueOf o.next = some (due, kind)) (hpast : due ≤ s.time.tread) (hwindow : o.next < o.oldest + 16) :
    fireRow s k (· == kind) = syncRun (fireGen s k o.next due kind).1 (fireGen s k o.next due kind).2 := by
  have hsettle : settleObj s k (· == kind) = fireGen s k o.next due kind := by
    simp only [settleObj, ho, hbarrier, hdue, ne_eq, not_true_eq_false, if_false]
    exact if_pos ⟨hpast, beq_self_eq_true kind, hwindow⟩
  rw [fireRow, hsettle]

end Fire

/-- With no task left the state stays. -/
theorem runTasks_nil (n : Nat) (s : State) : runTasks n s [] = s := by
  cases n <;> rfl

theorem syncRun_nil (s : State) : syncRun s [] = s := runTasks_nil _ s

theorem exec_barrierRelease {c : Instr} {kind : RelKind} {k : SyncIx}
    (hc : (c, kind) ∈ [(.barrierTimedRelease k, .timer), (.barrierTimeout k, .timeout), (.barrierFloorRelease k, RelKind.arrival)]) (s : State) :
    exec c s = .next (unfused s (fireRow s k (· == kind))) := by
  simp only [List.mem_cons, Prod.mk.injEq, List.not_mem_nil, or_false] at hc
  rcases hc with ⟨rfl, rfl⟩ | ⟨rfl, rfl⟩ | ⟨rfl, rfl⟩ <;> rfl

section Force
variable {s : State} {k : SyncIx} {v : W32} {o : SyncObj} (hlc : s.fuses.lc ≠ .scrapped) (hyes : forceAllowed s = true)
  (ho : mget s.objs k.val = some o)
include hlc hyes ho

/-- SYNC_FORCE of a value where it acts: its fields and record, then the object of a kind that has a value. -/
theorem exec_syncForceSetValue {res : Nat} (hres : res = if o.kind = 1 then 3 else 0) :
    let u := forceRecord { s with sf := { object := k, action := 0, result := res, value := v.toNat } } k 0 res o.value v.toNat
    let w := setObj u k { o with value := v.toNat }
    exec (.syncForceSetValue k v) s = .next (unfused s (if res ≠ 0 then u
      else if o.kind = 0 then serveCounter w k else if o.kind = 2 then serveSem w k o.waiters.length else w)) := by
  subst hres
  change execSyncForceSetValue k v s = _
  simp only [execSyncForceSetValue, ho, hyes, Option.elim_some, Bool.not_true, Bool.false_eq_true, if_false, if_neg hlc]

/-- SYNC_FORCE of a release where it acts on a barrier: its fields and record, then the generation in the window. -/
theorem exec_syncForceRelease (hkind : o.kind = 1) (hopen : o.released v.toNat = false) {off res : Nat}
    (hoff : off = (v.toNat + 2 ^ 32 - o.oldest % 2 ^ 32) % 2 ^ 32) (hres : res = if off < 16 then 0 else 4) :
    let u := forceRecord { s with sf := { object := k, action := 1, result := res, value := v.toNat } } k 1 res 0 v.toNat
    let g : BGen := { o.gen (o.oldest + off) with forced := true, due := some (s.time.tread + 1) }
    exec (.syncForceRelease k v) s =
      .next (unfused s (if res ≠ 0 then u else setObj u k { o with gens := mset o.gens (o.oldest + off) g })) := by
  subst hres hoff
  change execSyncForceRelease k v s = _
  simp only [execSyncForceRelease, ho, hyes, hkind, hopen, Bool.not_true, Bool.false_eq_true, if_false, if_neg hlc, ne_eq,
    not_true_eq_false, forceRecord_time]

end Force

/-- Settles O28: control cores' operations are `syncOp`'s, releases go by the next generation's due tread, and SYNC_FORCE by its result. -/
theorem barriers : Obligations.barriers := by
  intro s k o ho
  refine ⟨fun ctx vid n w hrun hv => ?cores, fun c kind hc hbarrier => ?releases, ?retire, fun wave => answers rfl rfl, fun v hlc => ?force⟩
  case cores =>
    intro u
    refine ⟨fun hwrites c hc hfit => ?waits, fun hfree hkind => ?base, fun hfree hkind => ?newStep, fun hfree hkind => ?restart⟩
    case waits =>
      simp only [List.mem_cons, List.not_mem_nil, or_false] at hc
      rcases hc with rfl | rfl | rfl <;> exact answers rfl (coreOp_waits hv hwrites)
    case base =>
      exact answers rfl ((coreOp_here hv hrun hfree (by rw [hkind]; rfl)).trans (congrArg Prod.snd (syncOp_setBase ho hkind)))
    case newStep =>
      refine answers rfl ((coreOp_here hv hrun hfree (by rw [hkind]; rfl)).trans ((congrArg Prod.snd (syncOp_newStep ho hkind)).trans ?_))
      rw [Nat.mod_eq_of_lt w.isLt]
    case restart =>
      refine answers rfl ((coreOp_here hv hrun hfree (by rw [hkind]; rfl)).trans ((congrArg Prod.snd (syncOp_restart ho hkind)).trans ?_))
      rw [Nat.mod_eq_of_lt w.isLt]
  case releases =>
    have stays (h : ∀ due, o.dueOf o.next = some (due, kind) → s.time.tread < due) : exec c s = .next (unfused s s) :=
      answers (exec_barrierRelease hc s) ((fireRow_not_due ho hbarrier h).trans (syncRun_nil s))
    refine ⟨fun due hdue hpast hwindow => answers (exec_barrierRelease hc s) (fireRow_due ho hbarrier hdue hpast hwindow),
      fun due hdue hearly => stays fun x hx => ?_, fun hnone => stays fun x hx => ?_, fun due other hdue hother => stays fun x hx => ?_⟩
    · rw [hdue] at hx
      cases hx
      exact hearly
    · rw [hnone] at hx
      cases hx
    · rw [hdue] at hx
      cases hx
      exact absurd rfl hother
  case retire =>
    change execGenerationRetire k s = _
    simp only [execGenerationRetire, ho]
  case force =>
    intro u
    refine ⟨fun hno => ⟨?_, ?_⟩, fun hyes hkind => ?_, fun hyes hkind => ?_, fun hyes hkind => ?_, fun hyes hkind hopen => ?_⟩
    · refine (exec_syncForceSetValue_refused hlc hno k v).trans ?_
      rw [ho]
      rfl
    · exact exec_syncForceRelease_refused hlc hno k v
    · exact answers (exec_syncForceSetValue (res := 0) hlc hyes ho (by simp [hkind])) ((if_neg (by decide)).trans (if_pos hkind))
    · exact answers (exec_syncForceSetValue (res := 0) hlc hyes ho (by simp [hkind]))
        ((if_neg (by decide)).trans ((if_neg (by omega)).trans (if_pos hkind)))
    · exact answers (exec_syncForceSetValue (res := 3) hlc hyes ho (by simp [hkind])) (if_pos (by decide))
    · intro off
      refine ⟨fun hout => ?_, fun hin => ?_⟩
      · exact answers (exec_syncForceRelease (res := 4) hlc hyes ho hkind hopen rfl (if_neg (Nat.not_lt.2 hout)).symm) (if_pos (by decide))
      · exact answers (exec_syncForceRelease (res := 0) hlc hyes ho hkind hopen rfl (if_pos hin).symm) (if_neg (by decide))

end Sys2Proof.Machine
end

section
/-!
PROOFS. Repairs of memory (6 R228 to R234, 14 Table 14-8) and the serving loop of a group (10 R320 to R346).
-/
namespace Sys2Proof.Machine

/-! ### Repairs -/

/-- GO writes its fields, and is refused with a RESULT or sets BUSY. -/
theorem exec_repairGo {s : State} {v : W64} (hbusy : s.mem.repBusy = false) (hlc : s.fuses.lc ≠ .scrapped) :
    exec (.repairGo v) s = .next (unfused s (repairGo (repairFields s v))) :=
  answers rfl ((if_neg (ne_true_of_eq_false hbusy)).trans (if_neg hlc))

/-- COMMIT writes its fields, and is refused with a RESULT or sets BUSY. -/
theorem exec_repairCommit {s : State} {v : W64} (hbusy : s.mem.repBusy = false) (hlc : s.fuses.lc ≠ .scrapped) :
    exec (.repairCommit v) s = .next (unfused s (repairCommit (repairFields s v))) :=
  answers rfl ((if_neg (ne_true_of_eq_false hbusy)).trans (if_neg hlc))

/-- REPAIR_DONE of a soft repair: it is added to the soft repairs. -/
theorem exec_repairDone_soft {s : State} (hbusy : s.mem.repBusy = true) (hsoft : s.mem.repCommit = false) (hpad : padSlice s = false) :
    exec .repairDone s = .next (queued s (unfused s (softRepair { s with mem.repBusy := false } (repairTarget s)))) := by
  have hends : (s.mem.repBusy && !(padSlice s && !s.mem.repCommit && decide (s.mem.repKind ≤ 2))) = true := by simp [hbusy, hpad]
  refine congrArg (fun x => Host.Outcome.next (queued s x)) ((if_pos hends).trans (if_pos ?_))
  exact congrArg not hsoft

theorem exec_repairDone_commit {s : State} (hbusy : s.mem.repBusy = true) (hcommit : s.mem.repCommit = true) (hroom : s.fuses.repairUsed < 8) :
    exec .repairDone s = .next (queued s (commitRepairs { s with mem.repBusy := false, mem.repCommit := false })) := by
  have hends : (s.mem.repBusy && !(padSlice s && !s.mem.repCommit && decide (s.mem.repKind ≤ 2))) = true := by simp [hbusy, hcommit]
  refine congrArg (fun x => Host.Outcome.next (queued s x)) ((if_pos hends).trans ((if_neg ?_).trans (if_pos hroom)))
  exact ne_true_of_eq_false (congrArg not hcommit)

theorem core4_unfused {s t : State} (h : core4 t = core4 s) : core4 (unfused s t) = core4 s := by
  simp only [core4, Prod.mk.injEq] at h ⊢
  obtain ⟨hrest, -, hstore⟩ := h
  exact ⟨hrest, rfl, hstore⟩

/-- A commit leaves no soft repair, puts each into the map or the stacks' rows, and counts one commit more. -/
theorem core4_commitRepairs (s : State) :
    let map := s.store.repairMap ++ s.mem.soft.filter (·.kind != 3)
    let used := s.fuses.repairUsed + 1
    core4 (commitRepairs s) = ((s.mem.dir, [], s.mem.repBusy),
      (fuseLog { s with fuses.repairUsed := used } 4 used (sha3 (repairMapBytes map))).fuses, map,
      s.store.stackRows ++ s.mem.soft.filter (·.kind == 3)) := by
  intro map used
  exact core4_unfused ((core4_commitLife _ _).trans (core4_countLimit _ _ _ _))

/-- Settles O39: each row's guard is the statement's, and the end of a repair keeps what `core4` names. -/
theorem repairs : Obligations.repairs := by
  intro s
  refine ⟨fun v => ⟨fun hbusy => ⟨answers rfl (if_pos hbusy), answers rfl (if_pos hbusy)⟩, fun hbusy hlc => ⟨?_, ?_⟩,
    fun hbusy hlc => ?given⟩, fun hbusy hsoft hpad => ?soft, fun hbusy hcommit hroom => ?commit⟩
  · exact answers_plain rfl ((if_neg (ne_true_of_eq_false hbusy)).trans (if_pos hlc)) rfl
  · exact answers_plain rfl ((if_neg (ne_true_of_eq_false hbusy)).trans (if_pos hlc)) rfl
  case given =>
    intro u r
    have hgo := exec_repairGo (v := v) hbusy hlc
    have hcommit := exec_repairCommit (v := v) hbusy hlc
    have hopen (hblank : s.fuses.lc ≠ .blank) : ¬ (u.fuses.lc = .blank ∨ u.fuses.lc = .scrapped) := fun h => h.elim hblank hlc
    have hsome (h : s.mem.soft ≠ []) : ¬ u.mem.soft.isEmpty = true := fun he => h (List.isEmpty_iff.1 he)
    refine ⟨fun hr => answers_plain hgo (if_neg hr) rfl, fun hr => answers_plain hgo (if_pos hr) rfl,
      fun hblank => answers_plain hcommit (if_pos (.inl hblank)) rfl, fun hblank hnone => ?_, fun hblank hs hfull => ?_,
      fun hblank hs hroom => ?_⟩
    · exact answers_plain hcommit ((if_neg (hopen hblank)).trans (if_pos (List.isEmpty_iff.2 hnone))) rfl
    · exact answers_plain hcommit ((if_neg (hopen hblank)).trans ((if_neg (hsome hs)).trans (if_pos hfull))) rfl
    · exact answers_plain hcommit ((if_neg (hopen hblank)).trans ((if_neg (hsome hs)).trans (if_neg (Nat.not_le.2 hroom)))) rfl
  case soft =>
    have hcore := core4_softRepair { s with mem.repBusy := false } (repairTarget s)
    simp only [core4, rest, Prod.mk.injEq] at hcore
    obtain ⟨⟨-, hadded, hdone⟩, -⟩ := hcore
    exact ⟨_, exec_repairDone_soft hbusy hsoft hpad, hdone, hadded, rfl⟩
  case commit =>
    intro map
    have hcore := core4_commitRepairs { s with mem.repBusy := false, mem.repCommit := false }
    simp only [core4, rest, Prod.mk.injEq] at hcore
    obtain ⟨⟨-, hnone, hdone⟩, hfuses, hmap, hrows⟩ := hcore
    exact ⟨_, exec_repairDone_commit hbusy hcommit hroom, hdone, hnone, hmap, hrows, hfuses⟩

/-! ### The serving loop -/

/-- Plans the instances of a group in turn, after making room for their tokens. -/
def planned (s : State) (g : Group) : State × Group × List PEntry × List (Nat × Nat × KvPage) × Nat :=
  let c := withTokenRoom s g (candidates s g)
  (groupInsts s g).foldl (fun (x : State × Group × List PEntry × List (Nat × Nat × KvPage) × Nat) i =>
    let y := planInst x.1 x.2.1 c.2 i.1 i.2
    (y.1, y.2.1, x.2.2.1 ++ y.2.2.1, x.2.2.2.1 ++ y.2.2.2.1, max x.2.2.2.2 y.2.2.2.2)) (c.1, g, [], [], 0)

theorem planStep_empty {s : State} {g : Group} {k : Nat} (h : (planned s g).2.2.1 = []) :
    planStep s g k = setGroup (planned s g).1 (planned s g).2.1 := if_pos (List.isEmpty_iff.2 h)

/-- A plan with entries is held, with its step's number and generation, until every member has it. -/
theorem planStep_held {s : State} {g : Group} {k : Nat} (h : (planned s g).2.2.1 ≠ []) : ∃ (u : State) (g' : Group) (p : Plan),
    planStep s g k = planReached (setGroup u g') k ∧ g'.plan = some p ∧ g'.chunk = (planned s g).2.2.2.2 ∧
    p.entries = (planned s g).2.2.1 ∧ p.reached = none ∧ p.stepNo = (planned s g).2.1.stepNo + b2n (planned s g).2.1.run.isSome ∧
    p.gen = ((planned s g).2.1.gen + b2n (planned s g).2.1.run.isSome) % 2 ^ 32 :=
  ⟨_, _, _, if_neg fun he => h (List.isEmpty_iff.1 he), rfl, rfl, rfl, rfl, rfl, rfl⟩

section Loop
variable {s : State} {k : Nat} {g : Group} (hg : mget s.groups k = some g)
include hg

theorem exec_stepPlan (hlead : g.lead = s.net.index) (hnone : g.plan = none) (hrun : coresRun s = true) (hslice : s.flt.sliceStopped = false) :
    exec (.stepPlan k) s = .next (unfused s (planStep (endLong s g).1 (endLong s g).2 k)) := by
  have hplans : ¬ (g.lead ≠ s.net.index || g.plan.isSome || !coresRun s || s.flt.sliceStopped) = true := by simp [hlead, hnone, hrun, hslice]
  change Host.Outcome.next (unfused s (stepPlan s k)) = _
  simp only [stepPlan, hg]
  exact congrArg (fun x => Host.Outcome.next (unfused s x)) (if_neg hplans)

theorem exec_groupFirstStep {o : SyncObj} {m : Nat} {x : BMember} {ms : List Nat} (ho : mget s.objs g.bar = some o)
    (hm : o.memberIx true = m :: ms) (hx : o.members[m]? = some x) (hdue : x.arrivals ≤ o.oldest) (hlead : g.lead = s.net.index)
    (hrun : g.run = none) (hplan : g.plan.any (·.reached.isSome) = true) :
    exec (.groupFirstStep k) s = .next (unfused s (syncRun s [.arrive g.bar m s.time.tread])) := by
  have hidle : (mget s.groups k).any (fun g => g.run.isNone) = true := by simp [hg, hrun]
  have harrives : (decide (g.lead = s.net.index) && g.plan.any (·.reached.isSome) &&
      (o.members[m]?).any fun x => decide (x.arrivals ≤ o.oldest)) = true := by simp [hlead, hplan, hx, hdue]
  refine answers rfl ((if_pos hidle).trans ?_)
  simp only [floorArrive, hg, ho, hm, List.head?_cons]
  exact if_pos harrives

/-- STEP_START of a group whose plan has been released. -/
theorem exec_stepStart (hslice : s.flt.sliceStopped = false) (hrun : coresRun s = true) {u : State}
    (hu : u = if g.lead = s.net.index then syncRun (settleObj s g.bar (· == .arrival)).1 (settleObj s g.bar (· == .arrival)).2 else s)
    {h : Group} {t : Nat} {p : Plan} (hh : mget u.groups k = some h) (hrelease : h.release = some t) (hplan : h.plan = some p)
    (hidle : h.run = none) (hdue : t ≤ u.time.tread) (hrest : ((groupInsts u h).any fun i => i.2.running) = false) :
    exec (.stepStart k) s = .next (unfused s (
      if p.entries.any fun e => (mget u.insts e.inst).any Inst.serves then startGroup u h p t else deferGroup u h)) := by
  have hstops : ¬ (s.flt.sliceStopped || !coresRun s) = true := by simp [hslice, hrun]
  have hwaits : ¬ (u.time.tread < t ∨ h.run.isSome = true ∨ ((groupInsts u h).any fun i => i.2.running) = true) := by
    rintro (hlt | hr | hr)
    · omega
    · simp [hidle] at hr
    · exact absurd hr (ne_true_of_eq_false hrest)
  change execStepStart k s = _
  simp only [execStepStart, hg, if_neg hstops, ← hu, hh, hrelease, hplan]
  exact congrArg (fun x => Host.Outcome.next (unfused s x)) (if_neg hwaits)

theorem exec_stepSettle {outs : List EntryOut} {routing : List LayerLogits} {p : Plan} (hrun : coresRun s = true) (hp : g.run = some p) :
    exec (.stepSettle k outs routing) s = .next (unfused s (
      if ((groupInsts s g).filter (·.2.running)).all fun i => stepDone s i.2 then settleGroup s g p outs routing else s)) := by
  change execStepSettle k outs routing s = _
  simp only [execStepSettle, hg, hrun, hp, Bool.not_true, Bool.false_eq_true, if_false]

/-- ROLE_EVALUATION at the 64th tread before a flight: the counts of the flight before the last decide. -/
theorem exec_roleEvaluation (htread : s.time.tread % 4096 = 4032) (hlead : g.lead = s.net.index) (hseveral : 2 ≤ (groupInsts s g).length)
    (hpre : g.preOv ≠ 0) (hdec : g.decOv ≠ 0) (hheld : g.movedAt + g.hold ≤ flight s) (hrun : coresRun s = true) :
    exec (.roleEvaluation k) s = .next (unfused s (
      match roleMove s g (mgetD g.flights (flight s - 1) { tbtMiss := 0, settles := 0, chunked := 0 }) with
      | none => s
      | some (ix, uid) =>
        match mget s.insts ix with
        | none => s
        | some i =>
          if i.sw.isSome || i.unbind.isSome || s.saves.any fun x => x.2.ctx == i.ctx then s
          else fwBump (startSwitch (setGroup s { g with movedAt := flight s }) ix i uid 0 0 0 ((flight s + 1) * 4096) noDesc) (kSrv ix 10) 1)) := by
  have hmoves : ¬ (s.time.tread % 4096 ≠ 4032 ∨ g.lead ≠ s.net.index ∨ (groupInsts s g).length < 2 ∨ g.preOv = 0 ∨ g.decOv = 0 ∨
      flight s < g.movedAt + g.hold ∨ (!coresRun s) = true) := by
    simp only [hrun, Bool.not_true, Bool.false_eq_true, or_false]
    omega
  have hflight : flight s + 1 - 2 = flight s - 1 := by omega
  change execRoleEvaluation k s = _
  simp only [execRoleEvaluation, hg, if_neg hmoves, hflight] <;> rfl

end Loop

/-- Settles O45: each row's guard is the statement's. -/
theorem servingLoop : Obligations.serving_loop := by
  intro s k g hg
  refine ⟨fun hlead hnone hrun hslice => ?plans, fun o m x ms ho hm hx hdue hlead hrun hplan =>
      exec_groupFirstStep hg ho hm hx hdue hlead hrun hplan, fun hslice hrun => ?starts, fun outs routing p hrun hp => ?settles,
    fun htread hlead => ?periods, fun htread hlead hseveral hpre hdec hheld hrun => ?roles⟩
  case plans =>
    have hexec := exec_stepPlan hg hlead hnone hrun hslice
    intro s' g' c x
    refine ⟨fun hempty => answers hexec (planStep_empty hempty), fun hsome => ?_⟩
    obtain ⟨u, h, p, hstep, hrest⟩ := planStep_held (k := k) hsome
    exact ⟨u, h, p, answers hexec hstep, hrest⟩
  case starts =>
    intro r u h t p hh hrelease hplan hidle hdue hrest
    have hexec := exec_stepStart hg hslice hrun rfl hh hrelease hplan hidle hdue hrest
    exact ⟨fun hserves => answers hexec (if_pos hserves), fun hnot => answers hexec (if_neg (ne_true_of_eq_false hnot))⟩
  case settles =>
    have hexec := exec_stepSettle (outs := outs) (routing := routing) hg hrun hp
    exact ⟨fun hdrained => answers hexec (if_pos hdrained), fun hnot => answers hexec (if_neg (ne_true_of_eq_false hnot))⟩
  case periods =>
    have hlasts : ¬ (s.time.tread % 4096 ≠ 0 ∨ g.lead ≠ s.net.index) := fun h => h.elim (· htread) (· hlead)
    change execPeriodEstimateUpdate k s = _
    simp only [execPeriodEstimateUpdate, hg, if_neg hlasts]
  case roles =>
    have hexec := exec_roleEvaluation hg htread hlead hseveral hpre hdec hheld hrun
    intro c
    refine ⟨fun hstays => answers hexec (by rw [hstays]), fun ix uid i hmove hi hsw hunbind hsaves => answers hexec ?_⟩
    have hfree : ¬ (i.sw.isSome || i.unbind.isSome || s.saves.any fun x => x.2.ctx == i.ctx) = true := by
      rw [hsw, hunbind, hsaves]; decide
    rw [hmove]
    simp only [hi]
    exact if_neg hfree

end Sys2Proof.Machine
end

section
/-!
PROOFS. States of a link and its hello (12 R369 to R377).
-/
namespace Sys2Proof.Machine

theorem index_setLink_hwBump (s : State) (k n j : Nat) (l : LinkSt) : (setLink (hwBump s k n) j l).net.index = s.net.index :=
  congrArg (·.index) (hwBump_net s k n)

theorem goDown_up {s : State} {k cause : Nat} (h : (linkOf s k).isUp = true) : goDown s k cause =
    flushOut (sendLinkState (raiseModule (leaveUp s k 4 cause) 3 (leBytes 1 k ++ leBytes 1 cause ++ leBytes 2 (linkOf s k).peerIndex))) :=
  if_neg (ne_true_of_eq_false (congrArg not h))

section EnableLink
variable {s : State} {k : Nat}

theorem enableLink_on (hoff : (linkOf s k).en = false) : enableLink s k true = setLink s k { linkOf s k with en := true, state := 1 } :=
  (if_neg (by simp [hoff])).trans (if_pos rfl)

theorem enableLink_off (hon : (linkOf s k).en = true) : enableLink s k false =
    if (linkOf s k).isUp then
      let u := leaveUp (setLink s k { linkOf s k with en := false }) k 0 4
      flushOut { u with net.peers := madj u.net.peers u.net.index fun p => { p with links := ownLinks u } }
    else setLink (setLink s k { linkOf s k with en := false }) k
      { ({ linkOf s k with en := false } : LinkSt).cleared k with state := 0 } :=
  (if_neg (by simp [hon])).trans (if_neg (by simp))

end EnableLink

section HelloA
variable {s : State} {k : LinkIx} {payload : Bytes} {rx : Nat} {h : Hello} {r : SliceRec}

/-- A well-formed HELLO_A in HELLO: its cause, or the peer that it makes known. -/
theorem exec_helloA (hh : (linkOf s k).hello = some h) (hstate : (linkOf s k).state = 2) (hr : s.net.record = some r)
    (hform : helloAForm payload = true) :
    let u := hwBump s (kLink k 1) (packetCount payload.length)
    let c := helloACause u r (linkOf s k) payload
    let ix := fld payload 4 2
    let h' : Hello := { h with peerA := some payload, rxNs := rx, shared := none }
    let v := setLink u k { linkOf s k with hello := some h', peerIndex := ix, peerLink := byteAt payload 2 }
    exec (.helloA k payload rx) s = .next (unfused s (
      if c ≠ 0 then failHello u k c else if s.net.index < ix then sendHelloB v k payload else v)) := by
  intro u c ix h' v
  have hgood : ¬ ((linkOf s k).state ≠ 2 ∨ (!helloAForm payload) = true) := by simp [hstate, hform]
  have hindex : v.net.index = s.net.index := index_setLink_hwBump _ _ _ _ _
  rw [← hindex]
  change execHelloA k payload rx s = _
  simp only [execHelloA, hh, hr]
  exact congrArg (fun x => Host.Outcome.next (unfused s x)) (if_neg hgood)

end HelloA

section HelloB
variable {s : State} {k : LinkIx} {payload a : Bytes} {h : Hello}

/-- A well-formed HELLO_B at the higher end: its signature, then the secret that it yields. -/
theorem exec_helloB (hh : (linkOf s k).hello = some h) (hstate : (linkOf s k).state = 2) (ha : h.peerA = some a)
    (hend : (linkOf s k).peerIndex < s.net.index) (hnew : h.shared = none) (hlen : payload.length = 0x488 + 2420)
    (h0 : byteAt payload 0 = 2) (hzero : zeroAt payload 1 7 = true) (hnonces : slice payload 8 64 = slice a 0x10 32 ++ digestBytes h.nonce) :
    let u := hwBump s (kLink k 1) 1
    exec (.helloB k payload) s = .next (unfused s (
      if !dsaVerify (slice a 0x510 1312) (payload.take 0x488) (payload.drop 0x488) then failHello u k 5
      else match kemOpen h.ekSeed (slice payload 0x48 1088) with
        | none => u
        | some x => sendDelay (setLink u k
            { linkOf s k with hello := some { h with shared := some x, nonces := slice a 0x10 32 ++ digestBytes h.nonce } }) k)) := by
  have hgood : ¬ ((linkOf s k).state ≠ 2 ∨ s.net.index ≤ (linkOf s k).peerIndex ∨ h.shared.isSome = true ∨
      payload.length ≠ 0x488 + 2420 ∨ byteAt payload 0 ≠ 2 ∨ (!zeroAt payload 1 7) = true ∨
      slice payload 8 64 ≠ slice a 0x10 32 ++ digestBytes h.nonce) := by
    simp [hstate, hnew, hlen, h0, hzero, hnonces, hend]
  change execHelloB k payload s = _
  simp only [execHelloB, hh, ha]
  exact congrArg (fun x => Host.Outcome.next (unfused s x)) (if_neg hgood)

/-- A DELAY under a good tag takes the link UP with its delay. -/
theorem exec_helloDelay (hh : (linkOf s k).hello = some h) (hstate : (linkOf s k).state = 2) {x : Digest} (hx : h.shared = some x)
    (hlen : payload.length = 0x38) (h0 : byteAt payload 0 = 3) (hzero : zeroAt payload 1 7 = true)
    (htag : digestAt payload 0x18 = kdf (kdf x "DYDL" h.nonces) "" (payload.take 0x18)) :
    let d := delayUnits h.txNs (fld payload 0x10 8) (fld payload 8 8) h.rxNs
    let up : LinkSt := { (linkOf s k).cleared k with state := 3, lanes := (linkOf s k).lanes, hello := some h, delay := d }
    let u := hwBump s (kLink k 1) 1
    exec (.helloDelay k payload) s = .next (unfused s
      (flushOut (sendLinkState (setLink u k { up with sak := if macsecOn u (linkOf s k) then up.sakN 0 else none })))) := by
  have hgood : ¬ ((linkOf s k).state ≠ 2 ∨ payload.length ≠ 0x38 ∨ byteAt payload 0 ≠ 3 ∨ (!zeroAt payload 1 7) = true ∨
      digestAt payload 0x18 ≠ kdf (kdf x "DYDL" h.nonces) "" (payload.take 0x18)) := by
    simp [hstate, hlen, h0, hzero, htag]
  change execHelloDelay k payload s = _
  simp only [execHelloDelay, hh, hx]
  exact congrArg (fun x => Host.Outcome.next (unfused s x)) (if_neg hgood)

theorem exec_helloRetry (hh : (linkOf s k).hello = some h) : exec (.helloRetry k) s = .next (unfused s (
    if (linkOf s k).state = 2 ∧ h.sentTread + 1000 ≤ s.time.tread then startHello s k else s)) := by
  change execHelloRetry k s = _
  simp only [execHelloRetry, hh]

end HelloB

/-- The lanes on which a link may lock: all of its mode, or one half where the link may degrade. -/
theorem lanes_lock {l : LinkSt} {lanes : BitVec 4} (h : (l.mode ≤ 2 ∧ lanes = 15) ∨ (2 < l.mode ∧ lanes = 3) ∨
      (l.mode ≤ 2 ∧ l.degradeEn = true ∧ (lanes = 3 ∨ lanes = 12))) :
    ((if l.mode ≤ 2 then lanes == 15 else lanes == 3) || (decide (l.mode ≤ 2) && l.degradeEn && (lanes == 3 || lanes == 12))) = true := by
  rcases h with ⟨hm, rfl⟩ | ⟨hm, rfl⟩ | ⟨hm, hd, rfl | rfl⟩
  · simp [hm]
  · simp [Nat.not_le.2 hm]
  · simp [hm, hd]
  · simp [hm, hd]

/-- Settles O46: each row's guard is the statement's. -/
theorem linkStates : Obligations.link_states := by
  intro s k l
  refine ⟨fun en hlc => ⟨fun hsame => ?same, fun hoff hen => ?on, fun hon hen hdown => ?off, fun hon hen hup => ?offUp⟩,
    fun lanes hstate hlanes => answers rfl (if_pos ⟨hstate, lanes_lock hlanes⟩), fun cause hcause hup => ?down,
    fun hstate hen hfaulted hdue => ?retrain, fun hfaulted => ?faulted,
    fun h hh hstate => ⟨fun payload rx r hr hform => ?helloA, fun payload a ha hend hnew hlen h0 hzero hnonces => ?helloB,
      fun payload x hx hlen h0 hzero htag => exec_helloDelay hh hstate hx hlen h0 hzero htag,
      fun hdue => answers (exec_helloRetry hh) (if_pos ⟨hstate, hdue⟩), fun hearly => ?early⟩⟩
  case same => exact answers rfl ((if_neg hlc).trans (if_pos hsame))
  case on =>
    subst hen
    exact answers rfl ((if_neg hlc).trans (enableLink_on hoff))
  case off =>
    subst hen
    exact answers rfl ((if_neg hlc).trans ((enableLink_off hon).trans (if_neg (ne_true_of_eq_false hdown))))
  case offUp =>
    subst hen
    exact answers rfl ((if_neg hlc).trans ((enableLink_off hon).trans (if_pos hup)))
  case down => exact answers rfl ((if_pos hcause).trans (goDown_up hup))
  case retrain => exact answers rfl (if_pos ⟨hstate, hen, congrArg not hfaulted, hdue⟩)
  case faulted => exact answers rfl (if_neg fun h => absurd h.2.2.1 (ne_true_of_eq_false (congrArg not hfaulted)))
  case helloA =>
    have hexec := exec_helloA (rx := rx) hh hstate hr hform
    intro u c ix h' v
    exact ⟨fun hbad => answers hexec (if_pos hbad), fun hok hlower => answers hexec ((if_neg (not_not.2 hok)).trans (if_pos hlower)),
      fun hok hhigher => answers hexec ((if_neg (not_not.2 hok)).trans (if_neg (Nat.not_lt.2 hhigher)))⟩
  case helloB =>
    have hexec := exec_helloB hh hstate ha hend hnew hlen h0 hzero hnonces
    intro good u
    refine ⟨fun hbad => answers hexec (if_pos (congrArg not hbad)), fun x hgood hx =>
      answers hexec ((if_neg (ne_true_of_eq_false (congrArg not hgood))).trans ?_)⟩
    rw [hx]
  case early => exact answers (exec_helloRetry hh) (if_neg fun h => absurd h.2 (Nat.not_le.2 hearly))

end Sys2Proof.Machine
end

section
/-!
PROOFS. Frames, acknowledgements and the ends of messages (12 R375 to R400).
-/
namespace Sys2Proof.Machine

/-! ### Frames -/

/-- A frame that its filters pass, of a packet with an LSN: its header counts, then it is taken in order or asked for again. -/
theorem exec_frameReceive {s : State} {k : LinkIx} {f : Frame} {p : Packet} (hup : (linkOf s k).isUp = true)
    (hpass : frameDrop s k (linkOf s k) f = none) (hp : parsePacket f.gt = some p) (h11 : p.ty ≠ 11) (h12 : p.ty ≠ 12) (h13 : p.ty ≠ 13) :
    let l' : LinkSt := if macsecOn s (linkOf s k) then { linkOf s k with rxAn := f.an % 4 } else linkOf s k
    let u := takeHeader (hwBump (hwBump (setLink s k l') (kLink k 1) 1) (kLink k 3) p.payload.length) k p f.ce
    let m := linkOf u k
    let v := takePacket (setLink u k { m with rxLsn := (m.rxLsn + 1) % 2 ^ 32, nakSent := false, unacked := m.unacked + 1 }) k p
    exec (.frameReceive k f) s = .next (unfused s (
      if p.lsn = m.rxLsn then (if 16 ≤ (linkOf v k).unacked then sendAck v k else v)
      else if m.nakSent then u
      else hwBump (sendAck (setLink u k { m with nakSent := true }) k) (kLink k 5) 1)) := by
  have hdata : ¬ (p.ty = 12 ∨ p.ty = 13) := fun h => h.elim h12 h13
  change execFrameReceive k f s = _
  simp only [execFrameReceive, hup, hpass, hp, if_neg hdata, if_neg h11, Bool.not_true, Bool.false_eq_true, if_false]

/-- What an UP link does with a frame that its filters drop. -/
theorem exec_frameReceive_dropped {s : State} {k : LinkIx} {f : Frame} {c : Nat} (hup : (linkOf s k).isUp = true)
    (hdrop : frameDrop s k (linkOf s k) f = some c) : exec (.frameReceive k f) s = .next (unfused s (hwBump s (kLink k c) 1)) := by
  change execFrameReceive k f s = _
  simp only [execFrameReceive, hup, hdrop, Bool.not_true, Bool.false_eq_true, if_false]

/-- A packet for another member that still has hops and whose member can be reached is sent on, or waits. -/
theorem exec_gtForward {s t : State} {n : Nat} {r : RxPacket} (hr : mget s.net.rx n = some r) (hdst : r.pkt.dst ≠ s.net.index)
    (hhops : r.pkt.hops < 62) (hmod : moduleStatus s r.pkt.dst = stOk)
    (hsend : trySend s { r.pkt with hops := r.pkt.hops + 1 } (faceOf s r.link) = some t) :
    exec (.gtForward n) s = .next (unfused s (dropRx t n)) := by
  change execGtForward n s = _
  simp only [execGtForward, hr, if_neg hdst, if_neg (Nat.not_le.2 hhops), if_neg (not_not.2 hmod), hsend]

/-- Settles O47: each row's guard is the statement's. -/
theorem framesAndAcknowledgements : Obligations.frames_and_acknowledgements := by
  intro s k l
  refine ⟨fun hup => ⟨fun f c hdrop => exec_frameReceive_dropped hup hdrop, fun f p hpass hp h11 h12 h13 => ?frame, fun ack => ?ack,
      fun hwaits => answers rfl (if_pos ⟨hup, hwaits⟩), answers rfl (if_pos hup), fun hrole hrate => answers rfl (if_pos ⟨hup, hrole, hrate⟩)⟩,
    fun hdown f => answers rfl (if_pos (congrArg not hdown)), answers rfl rfl, fun n r hr hdst => ?forward, fun n m hm => ?timeout⟩
  case frame =>
    have hexec := exec_frameReceive hup hpass hp h11 h12 h13
    intro l' u m v
    exact ⟨fun hlsn hfew => answers hexec ((if_pos hlsn).trans (if_neg (Nat.not_le.2 hfew))),
      fun hlsn hmany => answers hexec ((if_pos hlsn).trans (if_pos hmany)),
      fun hlsn hfirst => answers hexec ((if_neg hlsn).trans (if_neg (ne_true_of_eq_false hfirst))),
      fun hlsn hlater => answers hexec ((if_neg hlsn).trans (if_pos hlater))⟩
  case ack => exact ⟨answers rfl ((if_pos hup).trans (if_neg Bool.false_ne_true)), answers rfl ((if_pos hup).trans (if_pos rfl))⟩
  case forward =>
    have hexec : exec (.gtForward n) s = execGtForward n s := rfl
    refine ⟨fun hhops => ?_, fun hhops hmod => ?_, fun t hhops hmod hsend => exec_gtForward hr hdst hhops hmod hsend⟩
    · rw [hexec]
      simp only [execGtForward, hr, if_neg hdst, if_pos hhops]
    · rw [hexec]
      simp only [execGtForward, hr, if_neg hdst, if_neg (Nat.not_le.2 hhops), if_pos hmod]
  case timeout =>
    have hrow : exec (.packetTimeout n) s = .next (unfused s (if m.sent + 4096 ≤ s.time.tread then msgEnd s n eUnreachable else s)) := by
      change execPacketTimeout n s = _
      simp only [execPacketTimeout, hm]
    exact ⟨fun hpast => answers hrow (if_pos hpast), fun hearly => answers hrow (if_neg (Nat.not_le.2 hearly))⟩

end Sys2Proof.Machine
end

section
/-!
PROOFS. Packets for this module (12 R380 to R400, 5 R175 to R186, 11 R349 to R352, 9 R300 to R305, 17 R447).
-/
namespace Sys2Proof.Machine

/-- Each packet row is `withRx` on the packets of its type. -/
theorem exec_packet {c : Instr} {p ty : Nat} (hc : (c, ty) ∈ [(.gtWrite p, 1), (.gtRead p, 2), (.gtData p, 3), (.gtStream p, 4), (.gtSync p, 5),
      (.gtSyncRsp p, 6), (.gtDir p, 8), (.gtDone p, 9), (.gtRedirect p, 10)]) (s : State) :
    ∃ act, exec c s = .next (unfused s (withRx s p ty act)) := by
  simp only [List.mem_cons, Prod.mk.injEq, List.not_mem_nil, or_false] at hc
  rcases hc with ⟨rfl, rfl⟩ | ⟨rfl, rfl⟩ | ⟨rfl, rfl⟩ | ⟨rfl, rfl⟩ | ⟨rfl, rfl⟩ | ⟨rfl, rfl⟩ | ⟨rfl, rfl⟩ | ⟨rfl, rfl⟩ | ⟨rfl, rfl⟩ <;>
    exact ⟨_, rfl⟩

/-- What a WRITE to an object does, by the verdict of its home. -/
def writeHere (s : State) (p : Nat) (r : RxPacket) : HomeVerdict → State
  | .wait => s
  | .refuse st => addDone (dropRx s p) r.link r.pkt st
  | .redirect e => sendRedirect (dropRx s p) r.pkt (handleAt r.pkt.target 0).1 e
  | .serve e =>
    let h := handleAt r.pkt.target 0
    let off := h.2 + 4096 * r.pkt.pkt
    if writeHeld s h.1 e off r.pkt.payload.length then askLines s h.1 e off r.pkt.payload.length
    else addDone (landBytes (usedLines (dropRx s p) h.1 off r.pkt.payload.length) e off r.pkt) r.link r.pkt stOk

/-- What a READ of an object does, by the verdict of its home. -/
def readHere (s : State) (p : Nat) (r : RxPacket) : HomeVerdict → State
  | .wait => s
  | .refuse st => addDone (dropRx s p) r.link r.pkt st
  | .redirect e => sendRedirect (dropRx s p) r.pkt (handleAt r.pkt.target 0).1 e
  | .serve e =>
    let off := (handleAt r.pkt.target 0).2
    let n := fld r.pkt.payload 12 4
    let x := takeObj (countObj (dropRx s p) e off n false) e off n
    sendData x.2.2 r.pkt x.1 x.2.1

/-- A whole data message at the stream of a tile that belongs to a placed harness: stale, in agreement with its route, or poisoned whole. -/
theorem exchangeArrive_at {s : State} {key n t j : Nat} {st : Stream} {b : Bytes} {bad : List Nat} {i : Inst} (htile : st.tile = t)
    (hi : instOfTile s t = some (j, i)) : exchangeArrive s key st n b bad =
      if staleExchange s t b then creditFor (fwBump s (kExp (if byteAt b 0 = 2 then 5 else 4)) 1) i.ctx key b t
      else if routeAgrees s j i b then landStream s key st n b bad
      else landStream (fwBump s (kExp 6) 1) key st n b (List.range (ceilDiv b.length 8)) := by
  subst htile
  simp only [exchangeArrive, hi]

section Rx
variable {s : State} {p : Nat} {r : RxPacket} (hr : mget s.net.rx p = some r) (hdst : r.pkt.dst = s.net.index)
  (hawake : (s.ps.state ≠ 2 ∧ s.pw.coolantStop = false) ∨ r.pkt.cls ≠ 0)
include hr hdst hawake

/-! ### WRITE and READ -/

theorem gtWrite_prompt (hty : r.pkt.ty = 1) (h0 : (handleAt r.pkt.target 0).1 = 0) :
    exec (.gtWrite p) s = .next (unfused s (addDone (landPrompt (dropRx s p) r.pkt ((handleAt r.pkt.target 0).2 + 4096 * r.pkt.pkt)) r.link
      r.pkt stOk)) :=
  answers rfl ((withRx_eq hr hdst hty hawake).trans (if_pos h0))

theorem gtWrite_staging (hty : r.pkt.ty = 1) (h0 : (handleAt r.pkt.target 0).1 ≠ 0) {g : Staging}
    (hg : mget s.mem.staging (handleAt r.pkt.target 0).1 = some g) :
    exec (.gtWrite p) s = .next (unfused s (addDone (landStaging (dropRx s p) (handleAt r.pkt.target 0).1 g
      ((handleAt r.pkt.target 0).2 + 4096 * r.pkt.pkt) r.pkt) r.link r.pkt stOk)) := by
  refine answers rfl ((withRx_eq hr hdst hty hawake).trans ((if_neg h0).trans ?_))
  simp only [hg]

theorem gtWrite_object (hty : r.pkt.ty = 1) (h0 : (handleAt r.pkt.target 0).1 ≠ 0)
    (hnone : mget s.mem.staging (handleAt r.pkt.target 0).1 = none) {v : HomeVerdict}
    (hv : homeVerdict s r.pkt.ctx (handleAt r.pkt.target 0).1 ((handleAt r.pkt.target 0).2 + 4096 * r.pkt.pkt) r.pkt.payload.length
      (fld r.pkt.target 16 8) true = v) : exec (.gtWrite p) s = .next (unfused s (writeHere s p r v)) := by
  refine answers rfl ((withRx_eq hr hdst hty hawake).trans ((if_neg h0).trans ?_))
  simp only [hnone, hv]
  cases v <;> rfl

theorem gtRead_staging (hty : r.pkt.ty = 2) {g : Staging} (hg : mget s.mem.staging (handleAt r.pkt.target 0).1 = some g) :
    exec (.gtRead p) s = .next (unfused s (readStaging (dropRx s p) r.pkt (handleAt r.pkt.target 0).1 g (handleAt r.pkt.target 0).2
      (fld r.pkt.payload 12 4))) := by
  refine answers rfl ((withRx_eq hr hdst hty hawake).trans ?_)
  simp only [hg]

theorem gtRead_object (hty : r.pkt.ty = 2) (hnone : mget s.mem.staging (handleAt r.pkt.target 0).1 = none) {v : HomeVerdict}
    (hv : homeVerdict s r.pkt.ctx (handleAt r.pkt.target 0).1 (handleAt r.pkt.target 0).2 (fld r.pkt.payload 12 4) (fld r.pkt.target 16 8)
      false = v) : exec (.gtRead p) s = .next (unfused s (readHere s p r v)) := by
  refine answers rfl ((withRx_eq hr hdst hty hawake).trans ?_)
  simp only [hnone, hv]
  cases v <;> rfl

/-! ### DATA -/

/-- DATA that a message of this module waits for go to where they were read for. -/
theorem gtData_answers (hty : r.pkt.ty = 3) {m : Msg} (hm : mget (dropRx s p).net.msgs r.pkt.msgId = some m) (hread : m.ty = 2)
    (hsrc : m.dst = r.pkt.src) (hleft : r.pkt.pkt ∈ m.left) {t : Option State}
    (ht : deliverData (dropRx s p) r.pkt.msgId m (fld r.pkt.target 4 8 + 4096 * r.pkt.pkt) r.pkt.payload (r.pkt.poison.map (8 * ·)) = t) :
    exec (.gtData p) s = .next (unfused s
      (t.elim (msgEnd (dropRx s p) r.pkt.msgId ePoison) (msgAnswer · r.pkt.msgId r.pkt.pkt stOk))) := by
  have hwaits : ¬ (m.ty ≠ 2 ∨ m.dst ≠ r.pkt.src ∨ (!m.left.contains r.pkt.pkt) = true) := by simp [hread, hsrc, hleft]
  refine answers rfl ((withRx_eq hr hdst hty hawake).trans ?_)
  simp only [hm, if_neg hwaits, ht]
  cases t <;> rfl

/-! ### STREAM -/

section Stream
variable (hty : r.pkt.ty = 4) {ps : List (Nat × RxPacket)} {b : Bytes} (hwhole : wholeMsg s r = some (ps, b))
include hty hwhole

theorem gtStream_credit (hcredit : byteAt b 0 = 3) :
    exec (.gtStream p) s = .next (unfused s (takeCredit (takeWhole s ps stOk) (fld r.pkt.target 0 2) b)) := by
  refine answers rfl ((withRx_eq hr hdst hty hawake).trans ?_)
  simp only [hwhole, if_pos hcredit]

/-- A whole data message arrives at the stream of its tile, where that is open. -/
theorem gtStream_data (hdata : byteAt b 0 ≠ 3) {key : Nat} (hkey : key = 128 * (fld r.pkt.target 0 2 / 64) +
      64 * (byteAt r.pkt.target 3 % 2) + byteAt r.pkt.target 2 % 64) {c : Option Stream} (hc : mget s.streams key = c) :
    exec (.gtStream p) s = .next (unfused s (c.elim (takeWhole s ps ePerm) fun st =>
      if st.tile ≠ fld r.pkt.target 0 2 then takeWhole s ps ePerm
      else exchangeArrive (takeWhole s ps stOk) key st (fld r.pkt.target 4 4) b
        (ps.flatMap fun x => x.2.pkt.poison.map (512 * x.2.pkt.pkt + ·)))) := by
  subst hkey
  refine answers rfl ((withRx_eq hr hdst hty hawake).trans ?_)
  simp only [hwhole, if_neg hdata, hc]
  cases c <;> rfl

end Stream

/-! ### SYNC and SYNC_RSP -/

theorem gtSync_op (hty : r.pkt.ty = 5) {y : SyncRes × State} (hy : syncOp (dropRx s p) (fld r.pkt.target 0 2) (byteAt r.pkt.payload 0)
      (fld r.pkt.payload 4 4) (.remote r.pkt.src r.pkt.msgId) ((mget s.objs (fld r.pkt.target 0 2)).bind fun o =>
        (o.members.zipIdx.find? fun x => x.1.kind == 2 && x.1.modIx == r.pkt.src && x.1.id == fld r.pkt.payload 8 2).map (·.2))
      true none = y) :
    let op := byteAt r.pkt.payload 0
    exec (.gtSync p) s = .next (unfused s (
      if (mget (dropRx s p).objs (fld r.pkt.target 0 2)).any fun o => o.ctx != r.pkt.ctx then addDone (dropRx s p) r.link r.pkt ePerm
      else match y.1 with
        | .bad => addDone y.2 r.link r.pkt ePerm
        | .waits => addDone y.2 r.link r.pkt stOk
        | .done v g =>
          let w := addDone y.2 r.link r.pkt stOk
          if op = 2 ∨ op = 3 ∨ op = 5 ∨ op = 0 then sendReply w 6 r.pkt.src r.pkt.ctx r.pkt.msgId 0 [] (rspBytes v g w.time.tread) []
          else w)) := by
  subst hy
  exact answers rfl (withRx_eq hr hdst hty hawake)

theorem gtSyncRsp_tile (hty : r.pkt.ty = 6) {o : SyncOut} {t : Nat} (ho : mget (dropRx s p).syncOut r.pkt.msgId = some o)
    (hwho : o.who = .tile t) (hreg : o.reg = none) :
    exec (.gtSyncRsp p) s =
      .next (unfused s (wakeTile { dropRx s p with syncOut := merase (dropRx s p).syncOut r.pkt.msgId } t)) := by
  refine answers rfl ((withRx_eq hr hdst hty hawake).trans ?_)
  simp only [ho, hwho, hreg]

/-! ### DIR, DONE and REDIRECT -/

/-- A DIR that carries an entry: an offer of a moving object, an older entry, or one that comes into the directory. -/
theorem gtDir_entry (hty : r.pkt.ty = 8) {o : Nat} {e : DirEntry} (he : entryOf r.pkt.payload = some (o, e)) {c : Option DirEntry}
    (hc : dirGet s o = c) :
    let d (st : Nat) : State := addDone (dropRx s p) r.link r.pkt st
    exec (.gtDir p) s = .next (unfused s (
      if e.modIx = s.net.index ∧ e.moving ∧ (c.all fun c => c.modIx != s.net.index) = true then
        if offerStatus s o e = stOk then
          { d (offerStatus s o e) with mem.moving := mset (d (offerStatus s o e)).mem.moving o { kind := 5, desc := 0, dest := e, sent := false } }
        else d (offerStatus s o e)
      else if c.any fun c => decide (e.epoch < c.epoch) then d stOk
      else c.elim (dirSet { d stOk with mem.moving := mkeep s.mem.moving fun k m => k != o || m.kind != 5 } o e) fun c =>
        if c.modIx = s.net.index ∧ c.epoch = e.epoch then dirSet (d stOk) o { c with bound := e.bound }
        else dirSet (if e.modIx = s.net.index then { d stOk with mem.moving := mkeep s.mem.moving fun k m => k != o || m.kind != 5 }
          else dropOffer (d stOk) o) o { e with absent := e.absent || c.absent && c.epoch == e.epoch && r.pkt.src != e.modIx })) := by
  intro d
  refine answers rfl ((withRx_eq hr hdst hty hawake).trans ?_)
  simp only [he, hc]
  cases c <;> rfl

theorem gtDir_gone (hty : r.pkt.ty = 8) (hnone : entryOf r.pkt.payload = none) {c : DirEntry}
    (hc : dirGet (addDone (dropRx s p) r.link r.pkt stOk) (fld r.pkt.payload 0 4) = some c) :
    let d := addDone (dropRx s p) r.link r.pkt stOk
    exec (.gtDir p) s = .next (unfused s (if c.epoch ≤ fld r.pkt.payload 8 8 then
      dirDel (if c.modIx = d.net.index ∧ (!c.absent) = true then objZero d c else d) (fld r.pkt.payload 0 4) else d)) := by
  refine answers rfl ((withRx_eq hr hdst hty hawake).trans ?_)
  simp only [hnone, hc]

theorem gtDone_ends (hty : r.pkt.ty = 9) :
    let b := r.pkt.payload
    exec (.gtDone p) s = .next (unfused s ((List.range (min 16 (b.length / 8))).foldl (fun s i =>
      msgAnswer s (fld b (8 * i) 4) (byteAt b (8 * i + 4)) (byteAt b (8 * i + 5))) (dropRx s p))) :=
  answers rfl (withRx_eq hr hdst hty hawake)

/-- A REDIRECT of a part that no fetch waits for: the higher of its entry and the directory's, and the part is made again. -/
theorem gtRedirect_reissues (hty : r.pkt.ty = 10) {obj : Nat} {e : DirEntry} {m : Msg} (he : entryOf (slice r.pkt.payload 8 48) = some (obj, e))
    {w : State} (hw : w = hwBump (dropRx s p) (kMem 179) 1) (hm : mget w.net.msgs (fld r.pkt.payload 0 4) = some m)
    (hfetch : ∀ a b, m.why ≠ .fetch a b) {v : State}
    (hv : (if (dirGet w obj).all fun c => decide (c.epoch < e.epoch) then dirSet w obj e else w) = v) {e' : DirEntry}
    (he' : (dirGet v obj).getD e = e') :
    exec (.gtRedirect p) s = .next (unfused s (reissue v (fld r.pkt.payload 0 4) (byteAt r.pkt.payload 4) m e')) := by
  subst hw hv he'
  refine answers rfl ((withRx_eq hr hdst hty hawake).trans ?_)
  simp only [he, hm]

end Rx

theorem dirGet_dirSet_same (s : State) (obj : Nat) (e : DirEntry) : dirGet (dirSet s obj e) obj = some e := mget_mset_same _ _ _

/-- Settles O48: each row's packet goes through the statement's cases. -/
theorem packets : Obligations.packets := by
  intro s p r hr hdst k h off u
  refine ⟨fun hasleep hcls c ty hc hty => ?busy, fun hawake => ⟨fun hty => ?write, fun hty => ?read, fun hty m hm hread hsrc hleft => ?data,
    fun hty ps b hwhole => ?stream, fun hty => ?sync, fun hty o t ho hwho hreg => gtSyncRsp_tile hr hdst hawake hty ho hwho hreg,
    fun hty => ?dir, fun hty => gtDone_ends hr hdst hawake hty, fun hty obj e m he => ?redirect⟩⟩
  case busy =>
    obtain ⟨act, hexec⟩ := exec_packet hc s
    exact answers hexec (withRx_busy hr hdst hty hasleep hcls)
  case write =>
    intro v
    refine ⟨fun h0 => gtWrite_prompt hr hdst hawake hty h0, fun g h0 hg => gtWrite_staging hr hdst hawake hty h0 hg, fun h0 hnone => ?_⟩
    have hexec {x : HomeVerdict} (hx : v = x) := gtWrite_object hr hdst hawake hty h0 hnone hx
    exact ⟨fun e he hfree => answers (hexec he) (if_neg (ne_true_of_eq_false hfree)), fun e he hheld => answers (hexec he) (if_pos hheld),
      fun st hst => hexec hst, fun e he => hexec he, fun hwait => hexec hwait⟩
  case read =>
    intro n v
    refine ⟨fun g hg => gtRead_staging hr hdst hawake hty hg, fun hnone => ?_⟩
    have hexec {x : HomeVerdict} (hx : v = x) := gtRead_object hr hdst hawake hty hnone hx
    exact ⟨fun e he => hexec he, fun st hst => hexec hst, fun e he => hexec he, fun hwait => hexec hwait⟩
  case data =>
    intro o bad
    have lands {x : State} (hx : deliverData u k.msgId m o k.payload bad = some x) :
        exec (.gtData p) s = .next (unfused s (msgAnswer x k.msgId k.pkt stOk)) := gtData_answers hr hdst hawake hty hm hread hsrc hleft hx
    have fails (hx : deliverData u k.msgId m o k.payload bad = none) :
        exec (.gtData p) s = .next (unfused s (msgEnd u k.msgId ePoison)) := gtData_answers hr hdst hawake hty hm hread hsrc hleft hx
    refine ⟨fun t w hwhy hw => ?tile, fun e i f st hwhy hf hst => ?fetch, fun d hwhy hclean => ?cxl, fun d hwhy hbad => ?cxlBad,
      fun d t hwhy ht hpartner => ?desc⟩
    case tile =>
      intro l
      refine lands ?_
      simp only [deliverData, hwhy, hw] <;> rfl
    case fetch =>
      refine lands ?_
      simp only [deliverData, hwhy, hf, hst]
    case cxl =>
      have hgood : ¬ (!bad.isEmpty) = true := by simp [bad, hclean]
      refine lands ?_
      simp only [deliverData, hwhy, if_neg hgood]
    case cxlBad =>
      have hpoison : (!bad.isEmpty) = true := by simp [bad, hbad]
      refine fails ?_
      simp only [deliverData, hwhy, if_pos hpoison]
    case desc =>
      refine lands ?_
      simp only [deliverData, hwhy, ht, if_pos hpartner]
  case stream =>
    intro t key w
    refine ⟨fun hcredit => gtStream_credit hr hdst hawake hty hwhole hcredit, fun hdata => ?_⟩
    have hexec {c : Option Stream} (hc : mget s.streams key = c) := gtStream_data hr hdst hawake hty hwhole hdata rfl hc
    refine ⟨fun hnone => hexec hnone, fun st hst htile => answers (hexec hst) (if_pos htile), fun st j i hst htile hi => ?_⟩
    have harrives := answers (hexec hst) ((if_neg (not_not.2 htile)).trans (exchangeArrive_at htile hi))
    intro n
    exact ⟨fun hstale => answers harrives (if_pos hstale),
      fun hfresh hroute => answers harrives ((if_neg (ne_true_of_eq_false hfresh)).trans (if_pos hroute)),
      fun hfresh hroute => answers harrives ((if_neg (ne_true_of_eq_false hfresh)).trans (if_neg (ne_true_of_eq_false hroute)))⟩
  case sync =>
    intro obj b who y
    have hexec := gtSync_op (y := y) hr hdst hawake hty rfl
    refine ⟨fun hother => answers hexec (if_pos hother), fun hown => ⟨fun hbad => ?_, fun hwaits => ?_, fun v g hdone => ?_⟩⟩
    · exact answers hexec ((if_neg (ne_true_of_eq_false hown)).trans (by rw [hbad]))
    · exact answers hexec ((if_neg (ne_true_of_eq_false hown)).trans (by rw [hwaits]))
    · have hdone' := answers hexec ((if_neg (ne_true_of_eq_false hown)).trans (by rw [hdone]))
      intro w
      refine ⟨fun hreply => answers hdone' (if_pos ?_), fun hplain => answers hdone' (if_neg ?_)⟩
      · simpa [or_assoc, or_comm, or_left_comm] using hreply
      · simpa [or_assoc, or_comm, or_left_comm] using hplain
  case dir =>
    intro d
    refine ⟨fun o e he => ?entry, fun c hnone hc => ?gone⟩
    case gone =>
      have hexec := gtDir_gone hr hdst hawake hty hnone hc
      exact ⟨fun hold => answers hexec (if_pos hold), fun hnewer => answers hexec (if_neg (Nat.not_le.2 hnewer))⟩
    case entry =>
      intro c
      have hexec {c' : Option DirEntry} (hc : c = c') := gtDir_entry hr hdst hawake hty he hc
      refine ⟨fun hhere hmoving hfar => ?offer, fun hstill => ?settled⟩
      case offer =>
        have hall : (c.all fun c => c.modIx != s.net.index) = true := by
          rcases hfar with hc | ⟨x, hc, hx⟩
          · rw [hc]; rfl
          · rw [hc]; simpa using hx
        have hoffer := answers (hexec rfl) (if_pos ⟨hhere, hmoving, hall⟩)
        refine ⟨fun hok => ?_, fun hbad => answers hoffer (if_neg hbad)⟩
        rw [hok] at hoffer
        exact answers hoffer (if_pos rfl)
      case settled =>
        have hno {c' : Option DirEntry} : ¬ (e.modIx = s.net.index ∧ e.moving = true ∧ (c'.all fun c => c.modIx != s.net.index) = true) :=
          fun h => absurd h.2.1 (ne_true_of_eq_false hstill)
        refine ⟨fun x hx hnewer => ?_, fun x hx hhome hsame => ?_, fun x hx hle haway hdiffers => ?_, fun hnone => ?_⟩
        · exact answers (hexec hx) ((if_neg hno).trans (if_pos (decide_eq_true hnewer)))
        · refine answers (hexec hx) ((if_neg hno).trans ((if_neg ?_).trans (if_pos ⟨hhome, hsame⟩)))
          simp [hsame]
        · refine answers (hexec hx) ((if_neg hno).trans ((if_neg ?_).trans ((if_neg ?_).trans ?_)))
          · simp [Nat.not_lt.2 hle]
          · exact fun h => hdiffers.elim (absurd h.1) (absurd h.2)
          · rw [if_neg haway]
        · exact answers (hexec hnone) ((if_neg hno).trans (if_neg Bool.false_ne_true))
  case redirect =>
    intro w hm hfetch
    refine ⟨fun hold => ?_, fun c hc hnewer => ?_⟩
    · have hall : ((dirGet w obj).all fun c => decide (c.epoch < e.epoch)) = true := by
        cases hc : dirGet w obj with
        | none => rfl
        | some c => exact decide_eq_true (hold c hc)
      exact gtRedirect_reissues hr hdst hawake hty he rfl hm hfetch (if_pos hall) (by rw [dirGet_dirSet_same]; rfl)
    · have hall : ¬ ((dirGet w obj).all fun c => decide (c.epoch < e.epoch)) = true := by
        rw [hc]
        exact fun h => absurd (of_decide_eq_true h) (Nat.not_lt.2 hnewer)
      exact gtRedirect_reissues hr hdst hawake hty he rfl hm hfetch (if_neg hall) (by rw [hc]; rfl)

end Sys2Proof.Machine
end

section
/-!
PROOFS. The tread pulse, its numbers, and holdover (15 R456 to R473).
-/
namespace Sys2Proof.Machine

section Rows
variable {s : State}

/-- A beacon on a link in HELLO or UP, well-formed: it is recorded, and numbers the treads where nothing has. -/
theorem exec_beacon_wellFormed {k : LinkIx} {p : Bytes} (ns : Nat) (hk : (linkOf s k).state = 2 ∨ (linkOf s k).state = 3)
    (hlen : p.length = 16) (hzero : zeroAt p 13 3 = true) (hst : byteAt p 12 ≤ 7) :
    let b : Beacon := { offset := (ns : Int) - (1000 * fld p 0 8 + fld p 8 4 + 4 * (linkOf s k).delay : Nat),
                        pulseOk := bit (byteAt p 12) 0, holdover := bit (byteAt p 12) 1, loaded := bit (byteAt p 12) 2 }
    let u := hwBump { s with time.beacons := mset s.time.beacons k b } (kLink k 1) 1
    exec (.beacon k p ns) s = .next (unfused s (
      if !s.time.loaded && s.time.load.isNone && s.time.beaconFor.isNone && b.loaded && b.pulseOk then
        { u with time.beaconFor := some (fld p 0 8 / 4096 + 1) }
      else u)) := by
  have hup : ¬ ((linkOf s k).state ≠ 2 ∧ (linkOf s k).state ≠ 3) := fun h => hk.elim h.1 h.2
  have hform : ¬ (p.length ≠ 16 ∨ (!zeroAt p 13 3) = true ∨ 7 < byteAt p 12) := by simp [hlen, hzero, hst]
  refine answers rfl ((if_neg hup).trans ((if_neg hform).trans ?_))
  simp only [hwBump_time]

theorem exec_beacon_malformed {k : LinkIx} {p : Bytes} (ns : Nat) (hk : (linkOf s k).state = 2 ∨ (linkOf s k).state = 3)
    (hlen : p.length ≠ 16) : exec (.beacon k p ns) s = .next (unfused s (hwBump s (kLink k 8) 1)) :=
  answers rfl ((if_neg fun h => hk.elim h.1 h.2).trans (if_pos (.inl hlen)))

theorem exec_treadEdge_locked {d : Int} {gap : Nat} (hok : s.time.pulseOk = true) :
    exec (.treadEdge d gap) s = .next (unfused s (lockedEdge s d)) := answers rfl (if_pos hok)

theorem exec_treadEdge_free {d : Int} {gap : Nat} (hfree : s.time.pulseOk = false) :
    exec (.treadEdge d gap) s = .next (unfused s (freeEdge s d gap)) := answers rfl (if_neg (ne_true_of_eq_false hfree))

theorem lockedEdge_late {d : Int} (hd : d ≤ 500) : lockedEdge s d =
    if s.time.edgeSeen then widthErr s else { s with time.pulseTread := some s.time.tread, time.edgeSeen := true } := by
  simp [lockedEdge, hd]

theorem lockedEdge_early {d : Int} (hd : 500 < d) : lockedEdge s d =
    if s.time.edgeEarly then widthErr s else { s with time.pulseTread := some (s.time.tread + 1), time.edgeEarly := true } := by
  simp [lockedEdge, Int.not_le.2 hd]

theorem exec_treadNumberLoaded_load {w : LoadWait} (hun : s.time.loaded = false) (hw : s.time.load = some w) (hlate : 16 < w.treads) :
    exec .treadNumberLoaded s = .next (unfused s { s with time.loaded := true, time.tread := w.flight * 4096 % 2 ^ 64, time.source := 1,
                                                          time.load := none, time.beaconFor := none, clk := 0 }) := by
  refine answers rfl ((if_neg (ne_true_of_eq_false hun)).trans ?_)
  simp only [hw, if_pos hlate]

theorem exec_treadNumberLoaded_beacon {f : Nat} (hun : s.time.loaded = false) (hw : s.time.load = none) (hf : s.time.beaconFor = some f) :
    exec .treadNumberLoaded s = .next (unfused s { s with time.loaded := true, time.tread := f * 4096 % 2 ^ 64, time.source := 2,
                                                          time.load := none, time.beaconFor := none, clk := 0 }) := by
  refine answers rfl ((if_neg (ne_true_of_eq_false hun)).trans ?_)
  simp only [hw, hf]

/-- A pulse too short to be one: its edge is taken back. -/
theorem exec_fallingEdge_short {high t : Nat} (ht : s.time.pulseTread = some t) (hshort : high < 150) :
    let u : State := { s with time.pulseTread := none }
    exec (.treadFallingEdge high) s = .next (unfused s (widthErr (
      if t = s.time.tread then { u with time.edgeSeen := false } else { u with time.edgeEarly := false }))) := by
  change execTreadFallingEdge high s = _
  simp only [execTreadFallingEdge, ht, if_pos hshort, decide_eq_true_eq]

/-- A pulse of a width: an error of width where it is between those of the spec, a mismatch where it says another
tread than the module's. -/
theorem exec_fallingEdge_width {high t : Nat} (ht : s.time.pulseTread = some t) (hwidth : 150 ≤ high) :
    let u : State := { s with time.pulseTread := none }
    let v := if high < 200 ∨ (300 < high ∧ high < 700) ∨ 800 < high then widthErr u else u
    exec (.treadFallingEdge high) s = .next (unfused s (
      if !v.time.loaded || decide (1000 ≤ high) then v else if (decide (500 ≤ high)) != (t % 4096 == 0) then mismatch v else v)) := by
  change execTreadFallingEdge high s = _
  simp only [execTreadFallingEdge, ht, if_neg (Nat.not_lt.2 hwidth)]

theorem says_otherwise {high t : Nat} :
    ((decide (500 ≤ high)) != (t % 4096 == 0)) = true ↔ ¬ (500 ≤ high ↔ t % 4096 = 0) := by
  rw [bne_iff_ne, ne_eq, Bool.eq_iff_iff, decide_eq_true_iff, beq_iff_eq]

theorem numbered_says {u : State} {high : Nat} (hload : u.time.loaded = true) (hhigh : high < 1000) :
    ¬ (!u.time.loaded || decide (1000 ≤ high)) = true := by
  simp [hload, hhigh]

theorem exec_flightTime (hload : s.time.loaded = true) (hflight : s.time.tread % 4096 = 0) (hhold : s.time.holdover = false) :
    let xs := offsetsOf s (·.pulseOk)
    let m := median xs
    let u : State := { s with time.offset := clampInt 32767 m }
    exec .flightBoundaryTimeCheck s = .next (unfused s (
      if xs.isEmpty then s else if 1000 ≤ m ∨ m ≤ -1000 then mismatch u else u)) := by
  intro xs m u
  have hrun : ¬ (!s.time.loaded || s.time.tread % 4096 != 0) = true := by simp [hload, hflight]
  refine answers rfl ((if_neg hrun).trans (if_neg ?_))
  have hkept : (if xs.isEmpty then s else if 1000 ≤ m ∨ m ≤ -1000 then mismatch u else u).time.holdover = false := by
    split
    · exact hhold
    · split
      · rw [mismatch, hwBump_time]
        exact hhold
      · exact hhold
  simp only [Bool.and_eq_true, and_assoc]
  exact fun h => absurd h.1 (ne_true_of_eq_false hkept)

theorem exec_anchor (v : W64) (hlc : s.fuses.lc ≠ .scrapped) (hfirst : s.life.cur.firstOnUtcS ≠ 0) :
    exec (.treadAnchorWrite 0 v) s = .next (unfused s
      (logEvent { s with time.anchorTread := s.time.anchorWord0, time.anchorUtc := v.toNat } 3 0xFFFF
        (leBytes 8 s.time.anchorWord0 ++ leBytes 8 v.toNat))) :=
  answers rfl ((if_neg (by simp [hlc])).trans (if_neg hfirst))

end Rows

/-- Settles O50: each row's guard is the statement's. -/
theorem timeBase : Obligations.time_base := by
  intro s
  refine ⟨fun hflight => answers rfl (if_neg (not_not.2 hflight)), fun k p ns hk => ?beacon, fun d gap hok => ?locked,
    fun d gap hfree => ⟨_, exec_treadEdge_free hfree, rfl, ?free, rfl⟩, fun hfree hhold hgood hal => answers rfl (if_pos ?lock),
    fun hfew => answers rfl (if_neg ?few), fun hhold hknown => answers rfl ((if_neg (ne_true_of_eq_false hhold)).trans (if_pos ?known)),
    fun hhold hal => answers rfl (if_pos ?relock), fun hload => answers rfl (if_pos hload), fun f src hun hsrc => ?number,
    fun high t ht => ?falling, fun hload hflight hhold => ?check, fun v hlc hfirst => exec_anchor v hlc hfirst,
    fun p v hp => answers rfl (if_pos (.inl fun h => hp (Fin.ext h)))⟩
  case beacon =>
    intro b u
    refine ⟨fun hlen hzero hst hload => answers (exec_beacon_wellFormed ns hk hlen hzero hst) (if_neg (by simp [hload])),
      fun hlen hzero hst hload hw hf hb hpulse => answers (exec_beacon_wellFormed ns hk hlen hzero hst) (if_pos ?_),
      exec_beacon_malformed ns hk⟩
    simp only [hload, hw, hf, Bool.not_false, Option.isNone_none, Bool.true_and, Bool.and_eq_true]
    exact ⟨hb, hpulse⟩
  case locked =>
    refine ⟨fun _ hd hseen => answers (exec_treadEdge_locked hok) ((lockedEdge_late (by omega)).trans (if_neg (ne_true_of_eq_false hseen))),
      fun hd _ hseen => answers (exec_treadEdge_locked hok) ((lockedEdge_early (by omega)).trans (if_neg (ne_true_of_eq_false hseen))),
      fun hd hseen => answers (exec_treadEdge_locked hok) ((lockedEdge_late hd).trans (if_pos hseen))⟩
  case free => simp [freeEdge, goodGap]
  case lock => simpa [hfree, hhold, hgood] using hal
  case few => simp [Nat.not_le.2 hfew]
  case known => simpa using hknown
  case relock => simp [hhold, hal]
  case number =>
    obtain ⟨rfl, w, hw, hlate, rfl⟩ | ⟨rfl, hw, hf⟩ := hsrc
    · exact exec_treadNumberLoaded_load hun hw hlate
    · exact exec_treadNumberLoaded_beacon hun hw hf
  case falling =>
    intro u
    have hplain (h1 : 200 ≤ high) (h2 : high ≤ 300 ∨ 700 ≤ high) (h3 : high ≤ 800) :
        ¬ (high < 200 ∨ (300 < high ∧ high < 700) ∨ 800 < high) := by omega
    refine ⟨fun hshort hown => answers (exec_fallingEdge_short ht hshort) (congrArg widthErr (if_pos hown)),
      fun hshort hother => answers (exec_fallingEdge_short ht hshort) (congrArg widthErr (if_neg hother)),
      fun h1 h2 hload hflight => answers (exec_fallingEdge_width ht (by omega)) ?_,
      fun h1 h2 hload hflight => answers (exec_fallingEdge_width ht (by omega)) ?_,
      fun h1 h2 hload hflight => answers (exec_fallingEdge_width ht (by omega)) ?_,
      fun h1 h2 hload => answers (exec_fallingEdge_width ht (by omega)) ?_⟩
    · rw [if_neg (hplain h1 (.inl h2) (by omega)), if_neg (numbered_says hload (by omega)), if_neg (by rw [says_otherwise]; omega)]
    · rw [if_neg (hplain h1 (.inl h2) (by omega)), if_neg (numbered_says hload (by omega)), if_pos (by rw [says_otherwise]; omega)]
      rfl
    · rw [if_neg (hplain (by omega) (.inr h1) h2), if_neg (numbered_says hload (by omega)), if_neg (by rw [says_otherwise]; omega)]
    · have hodd : high < 200 ∨ (300 < high ∧ high < 700) ∨ 800 < high := .inr (.inl ⟨h1, h2⟩)
      rw [if_pos hodd, if_pos (by simp [widthErr, hload])]
      rfl
  case check =>
    intro m
    refine ⟨fun hnone => answers (exec_flightTime hload hflight hhold) (if_pos (List.isEmpty_iff.2 hnone)),
      fun hsome hlow hhigh => answers (exec_flightTime hload hflight hhold)
        ((if_neg (mt List.isEmpty_iff.1 hsome)).trans (if_neg ?_)),
      fun hsome hout => answers (exec_flightTime hload hflight hhold)
        ((if_neg (mt List.isEmpty_iff.1 hsome)).trans (if_pos hout))⟩
    exact fun h => h.elim (fun h => absurd h (Int.not_le.2 hhigh)) (fun h => absurd h (Int.not_le.2 hlow))

end Sys2Proof.Machine
end

section
/-!
PROOFS. Power points, thermal, brake and coolant (15 R474 to R494).
-/
namespace Sys2Proof.Machine

section PowerRows
variable {s : State}

theorem exec_capDeadlineCheck {t : Nat} (hmem : t ∈ s.pw.capDeadlines) (ht : t ≤ s.time.ticks) :
    let u : State := { s with pw.capDeadlines := s.pw.capDeadlines.filter fun t => !decide (t ≤ s.time.ticks) }
    exec .capDeadlineCheck s = .next (unfused s (
      if s.pw.capW < ratedW (pointDue u) ∧ (!s.pw.failsafe) = true then failSafe u else u)) :=
  answers rfl (if_pos (List.any_eq_true.2 ⟨t, hmem, decide_eq_true ht⟩))

theorem exec_opVoltageStep {mv g : Nat} (hg : s.pw.rampTo = some g) :
    exec (.opVoltageStep mv) s = .next (unfused s (
      if voltMv s s.pw.now ≤ mv ∧ min g s.pw.supplyMv ≤ mv ∧ mv ≤ max g s.pw.supplyMv then
        settlePoint { s with pw.supplyMv := mv, pw.volt := voltPoint s mv, pw.rampTo := if mv = g then none else some g }
      else s)) := by
  change execOpVoltageStep mv s = _
  simp only [execOpVoltageStep, hg]

/-- A request of the module's own point sets AVG_LIMITED itself. -/
theorem requestOwn_avgLimited (b : Bool) : requestOwn { s with pw.avgLimited := b } = requestOwn s := rfl

theorem exec_averagePowerCheck (hnewel : newelRuns s = true) :
    let n := min (windowFlights s) s.pw.flightEnergy.length
    let used := s.pw.energyUj - s.pw.flightEnergy.getD (n - 1) 0
    let low := (((ownCauses s s.pw.failsafe).filter fun c => c.2 != 3).map (·.1)).foldl min 15
    let keep : State := { s with pw.flightEnergy := (s.pw.energyUj :: s.pw.flightEnergy).take 7325 }
    let at_ (op : Nat) : State := requestOwn { keep with pw.avgOp := op, pw.avgChange := s.time.ticks / 4096,
                                                         pw.avgLimited := decide (op < 15) && decide (op ≤ low) }
    exec .averagePowerCheck s = .next (unfused s (
      if n = 0 then keep
      else if s.pw.pwrLimit * (n * 4096) < used then at_ (min s.pw.avgOp (pointInForce s) - 1)
      else if used * 100 < s.pw.pwrLimit * (n * 4096) * 97 ∧ s.pw.avgOp < low ∧ s.pw.avgChange + 16 ≤ s.time.ticks / 4096 then at_ (s.pw.avgOp + 1)
      else keep)) :=
  answers rfl (if_neg (ne_true_of_eq_false (congrArg not hnewel)))

theorem not_over {limit used : Nat} (hunder : used * 100 < limit * 97) : ¬ limit < used := by omega

theorem exec_rampEnvelopeUpdate {draw : Nat} (hen : s.pw.rampEn = true) (hgo : rampStopped s = false) :
    let p : Int := 1000 * draw
    let e := min (max p (s.pw.envelope - s.pw.rampDown)) (s.pw.envelope + s.pw.rampUp)
    let burn := if s.pw.ballastEn then min 2200 ((e - p) / 1000).toNat else 0
    exec (.rampEnvelopeUpdate draw) s = .next (unfused s (
      if p ≤ e then hwBump { s with pw.envelope := e, pw.burnW := burn, pw.drawW := draw + burn } (kPow 12) burn
      else hwBump { s with pw.envelope := e, pw.burnW := 0, pw.drawW := (e / 1000).toNat, fv := s.fv + 1 } (kPow 11)
        (freeValue s.fv % freqMhz s.pw.now))) :=
  answers rfl (if_neg (by simp [hen, hgo]))

theorem exec_pull {o : SyncIx} {b : SyncObj} {m : Nat} {mb : BMember} (hb : mget s.objs o.val = some b)
    (hm : pullMember s b = some m) (hmb : b.members[m]? = some mb) (hkind : b.kind = 1) (hdomain : b.domain = 3)
    (hnewel : newelRuns s = true) (hquiet : ∀ t, s.pw.lastLower = some t → t + 64 ≤ s.time.ticks) (hpoint : 0 < slicePoint s)
    (hrec : s.net.record ≠ none) :
    let u := sendFloor s mb.modIx (slicePoint s - 1) 8
    let v : State := { u with pw.pullAt := mset u.pw.pullAt mb.modIx (u.time.ticks + u.pw.floorLead + 16 * 4096) }
    exec (.pull o) s = .next (unfused s
      (hwBump (logEvent v 4 b.ctx (leBytes 2 mb.modIx ++ leBytes 1 (slicePoint s - 1) ++ [8])) (kPow 9) 1)) := by
  have hmem : ((pullMember s b).bind fun m => b.members[m]?) = some mb := by rw [hm, Option.bind_some, hmb]
  change execPull o s = _
  simp only [execPull, hb, hmem]
  refine answers rfl (if_pos ⟨hkind, hdomain, hnewel, ?_, hpoint, Option.isSome_iff_ne_none.2 hrec⟩)
  cases hlast : s.pw.lastLower with
  | none => rfl
  | some t => exact decide_eq_true (hquiet t hlast)

end PowerRows

/-- Settles O51: each row's guard is the statement's. -/
theorem powerPoints : Obligations.power_points := by
  intro s
  refine ⟨fun hover hend => answers rfl (if_pos (by simp [hover, hend])), fun hearly => answers rfl (if_neg (by simp [hearly])),
    fun t hmem ht => ?deadline, ?adopt, ?start, fun mv g hg hlow hmin hmax => answers (exec_opVoltageStep hg) (if_pos ⟨hlow, hmin, hmax⟩),
    fun hnewel => ?average, fun draw => ?ramp,
    fun o b m mb hb hm hmb hkind hdomain hnewel hquiet hpoint hrec => exec_pull hb hm hmb hkind hdomain hnewel hquiet hpoint hrec, rfl⟩
  case deadline =>
    intro u
    exact ⟨fun hover hsafe => answers (exec_capDeadlineCheck hmem ht) (if_pos ⟨hover, congrArg not hsafe⟩),
      fun hunder => answers (exec_capDeadlineCheck hmem ht) (if_neg fun h => absurd h.1 (Nat.not_lt.2 hunder))⟩
  case adopt =>
    intro due
    exact ⟨fun hnone => answers rfl (if_pos (List.isEmpty_iff.2 hnone)), fun hsome => answers rfl (if_neg (mt List.isEmpty_iff.1 hsome))⟩
  case start =>
    intro soon want
    exact ⟨fun hlow => answers rfl (if_pos hlow), fun hhigh => answers rfl (if_neg (Nat.not_lt.2 hhigh))⟩
  case average =>
    intro n used low keep at_
    have hexec := exec_averagePowerCheck hnewel
    exact ⟨fun hnone => answers hexec (if_pos hnone), fun hsome hover => answers hexec ((if_neg hsome).trans (if_pos hover)),
      fun hsome hunder hlow hlong => answers hexec ((if_neg hsome).trans ((if_neg (not_over hunder)).trans (if_pos ⟨hunder, hlow, hlong⟩))),
      fun hsome hmost hleast => answers hexec ((if_neg hsome).trans ((if_neg (Nat.not_lt.2 hmost)).trans
        (if_neg fun h => absurd h.1 (Nat.not_lt.2 hleast))))⟩
  case ramp =>
    refine ⟨fun hoff => answers rfl (if_pos (by simp [hoff])), fun hen hgo => ?_⟩
    intro p e
    exact ⟨fun hbelow => answers (exec_rampEnvelopeUpdate hen hgo) (if_pos hbelow),
      fun habove => ⟨_, Nat.mod_lt _ (freq_pos _), answers (exec_rampEnvelopeUpdate hen hgo) (if_neg (Int.not_le.2 habove))⟩⟩

section Hardware
variable {s : State}

/-- A hardware cause that stands keeps the point at OP0 over the module's request. -/
theorem requestOwn_settlePoint_now (h : hwCause s = true) : (requestOwn (settlePoint s)).pw.now = 0 :=
  (requestOwn_now _).trans (settlePoint_now s h)

theorem tripNow_now : (tripNow s).pw.now = 0 :=
  requestOwn_settlePoint_now (by simp [hwCause])

theorem brakeOn_now : (brakeOn s).pw.now = 0 := by
  refine requestOwn_settlePoint_now ?_
  have hbrake : (abortProgram { s with pw.brake := true }).pw.brake = true := abort_brake s
  simp [hwCause, hbrake]

theorem atWarning_iff {die hbm : Int} : atWarning die hbm = true ↔ 95 ≤ die ∨ 90 ≤ hbm := decide_eq_true_iff

end Hardware

/-- Settles O52: each row's guard is the statement's. -/
theorem thermalBrakeCoolant : Obligations.thermal_brake_coolant := by
  intro s
  refine ⟨fun die hbm => ?thermal, ⟨tripNow_now, brakeOn_now⟩, fun hoff hgood => answers rfl (if_neg (by simp [hoff, hgood])),
    fun hon => answers rfl (if_pos (by simp [hon])), fun hon => answers rfl (if_pos hon),
    fun hoff hgood => answers rfl (if_neg (by simp [hoff, hgood])), fun hon hflight => answers rfl (if_pos ?resume)⟩
  case resume => exact ⟨hon, by simpa using hflight⟩
  case thermal =>
    intro u f
    refine ⟨fun hhot hnew => answers rfl (if_pos ?warn), fun hdie hhbm => answers rfl (if_neg ?cool), fun hrun => ?steps,
      fun hhot hnew hgood => answers rfl (if_pos ?trip), fun hdie hhbm => answers rfl (if_neg ?noTrip),
      fun hon hdie hhbm => answers rfl (if_pos ?clear)⟩
    case warn => simpa [atWarning, senseTemp, hnew] using hhot
    case cool => simp [atWarning, Int.not_le.2 hdie, Int.not_le.2 hhbm]
    case trip => simpa [senseTemp, hnew, hgood] using hhot
    case noTrip => simp [Int.not_le.2 hdie, Int.not_le.2 hhbm]
    case clear => simp [senseTemp, hon, hdie, hhbm]
    case steps =>
      have hexec := warn_step s die hbm hrun
      have hstep (hon : s.pw.warnOp ≠ 15 ∨ s.pw.warnOn = true) (hlong : s.pw.warnFlights + 16 ≤ f) :
          ¬ (s.pw.warnOp = 15 ∧ (!s.pw.warnOn) = true ∨ f < s.pw.warnFlights + 16) := by
        rintro (⟨h, hoff⟩ | h)
        · exact hon.elim (absurd h) fun hon => absurd hoff (ne_true_of_eq_false (congrArg not hon))
        · omega
      refine ⟨fun hhot hon hlong => answers hexec ((if_neg (hstep hon hlong)).trans (if_pos (atWarning_iff.2 hhot))),
        fun hdie hhbm hon hlong => answers hexec ((if_neg (hstep hon hlong)).trans
          ((if_neg (mt atWarning_iff.1 (by omega))).trans (if_pos ⟨hdie, hhbm⟩))),
        fun hshort => answers hexec (if_pos (.inr hshort))⟩

end Sys2Proof.Machine
end

section
/-!
PROOFS. Power states, Newel's faults and the I3C target (15 R480, 17 R500 to R506, 19 R529 to R534).
-/
namespace Sys2Proof.Machine

section PowerStates
variable {s : State}

theorem exec_a2Entry (hlc : s.fuses.lc ≠ .scrapped) (hcool : s.pw.coolantStop = false) (haway : s.ps.state ≠ 2) :
    let u : State := { s with ps.target := 2 }
    let w := logReset { commitLife (settleRebuilds u) true with ps.state := 2, ps.result := 0, ps.idle := 0 } 0x12 0xFF 0
    exec .a2Entry s = .next (unfused s (
      if !quiet u then { u with ps.result := 1 } else if w.i3c.remove then answerRemove w else w)) :=
  answers rfl ((if_neg hlc).trans ((if_neg (ne_true_of_eq_false hcool)).trans (if_neg haway)))

theorem exec_a2Exit (hlc : s.fuses.lc ≠ .scrapped) (hcool : s.pw.coolantStop = false) (hlow : s.ps.state = 2) :
    exec .a2Exit s =
      .next (unfused s (logReset { s with ps.target := 0, ps.state := 0, ps.result := 0, ps.idle := 0 } 0x13 0xFF 0)) :=
  answers rfl ((if_neg hlc).trans ((if_neg (ne_true_of_eq_false hcool)).trans (if_pos hlow)))

end PowerStates

section Newel
variable {s : State}

theorem exec_newelWatchdog (hfw : s.tr.fwRunning = true) :
    let soon := s.flt.restarted.any fun t => decide (s.time.ticks ≤ t + 4096)
    let u := hwBump { s with w1c := s.w1c ++ [4], flt.newelWdog := true, flt.restarting := true, flt.restarted := some s.time.ticks,
                             flt.holdOp0 := s.flt.holdOp0 || soon, pw.failsafe := true } (kPow 3) (b2n !s.pw.failsafe)
    let v := faultRecord (fwBump (notify (settlePoint u) 3) (kLife 10) 1) 4 u.net.index (s.net.recovery.getD 0)
    exec .newelWatchdogExpiry s = .next (unfused s (if soon then warmRequest v else v)) :=
  answers rfl (if_neg (ne_true_of_eq_false (congrArg not hfw)))

/-- FAULTED from a state in which Newel runs and the module is not in it. -/
theorem enterFaulted_eq {code : Nat} (hfw : s.tr.fwRunning = true) (hfine : s.flt.faulted = false) :
    let stopped := stopInsts { s with qps := mmap s.qps fun _ q => { q with en := false }, taken := [], graphs := [], fwds := [],
                                      net.recovery := some (s.net.recovery.getD s.time.tread), net.stopTread := none, net.stopRx := none }
    let v := faultRecord { stopped with flt.faulted := true, flt.sliceStopped := !stopped.insts.isEmpty } code stopped.net.index
      (s.net.recovery.getD 0)
    enterFaulted s code = warmRequest ((List.range 24).foldl faultLink (fwBump v (kLife 11) (b2n !v.insts.isEmpty))) :=
  if_neg (by simp [hfw, hfine])

end Newel

section I3c
variable {s : State} {b : Bytes}

theorem i3cWrite_taken {ix len : Nat} {act : State → State} (hgood : s.sup.pwrgood = true) (hlen : b.length = len) :
    i3cWrite s ix len b act = act { s with i3c.index := ix } := (if_pos hgood).trans (if_pos hlen)

theorem i3cWrite_wrongLength {ix len : Nat} {act : State → State} (hgood : s.sup.pwrgood = true) (hlen : b.length ≠ len) :
    i3cWrite s ix len b act = fwBump { s with i3c.index := ix } (kLife 14) 1 := (if_pos hgood).trans (if_neg hlen)

theorem withI3c_off {act : State → State} (hoff : s.sup.pwrgood = false) : withI3c s act = s := if_neg (ne_true_of_eq_false hoff)

end I3c

/-- Settles O53: each row's guard is the statement's. -/
theorem moduleControl : Obligations.module_control := by
  intro s
  refine ⟨fun hauto hon hidle => answers rfl (if_pos ?a1), fun hlow => answers rfl (if_pos hlow), fun hlc => ?a2, fun hfw => ?watchdog,
    fun hrestart => ⟨answers rfl ((if_neg (ne_true_of_eq_false (congrArg not hrestart))).trans (if_pos rfl)),
      answers rfl ((if_neg (ne_true_of_eq_false (congrArg not hrestart))).trans (if_neg (by simp)))⟩,
    fun hfw hfine => ?faulted, fun hgood => ?i3c, fun hoff b => ⟨answers_plain rfl (withI3c_off hoff) rfl, answers_plain rfl (withI3c_off hoff) rfl,
      answers_plain rfl (withI3c_off hoff) rfl, answers_plain rfl (withI3c_off hoff) rfl⟩⟩
  case a1 => simp [hauto, hon, hidle]
  case a2 =>
    intro u
    refine ⟨fun hcool => answers rfl ((if_neg hlc).trans (if_pos hcool)),
      fun hcool haway hbusy => answers (exec_a2Entry hlc hcool haway) (if_pos (congrArg not hbusy)),
      fun hcool haway hquiet => ?_, fun hcool hlow => exec_a2Exit hlc hcool hlow⟩
    have hq : ¬ (!quiet u) = true := ne_true_of_eq_false (congrArg not hquiet)
    exact ⟨fun hkeep => answers (exec_a2Entry hlc hcool haway) ((if_neg hq).trans (if_neg (ne_true_of_eq_false hkeep))),
      fun hremove => answers (exec_a2Entry hlc hcool haway) ((if_neg hq).trans (if_pos hremove))⟩
  case watchdog =>
    intro soon u v
    exact ⟨fun hfirst => answers (exec_newelWatchdog hfw) (if_neg (ne_true_of_eq_false hfirst)),
      fun hagain => answers (exec_newelWatchdog hfw) (if_pos hagain)⟩
  case faulted =>
    intro poisoned c code s0 hrow
    rcases List.mem_cons.1 hrow with hrow | hrow
    · cases hrow
      exact answers rfl ((if_neg (by simp [hfw, hfine])).trans (enterFaulted_eq (s := poisonSram s) hfw hfine))
    · obtain ⟨k, -, hrow⟩ := List.mem_map.1 hrow
      cases hrow
      exact answers rfl (enterFaulted_eq hfw hfine)
  case i3c =>
    refine ⟨fun b hlen => ?slot, fun b hlen => answers rfl (i3cWrite_taken hgood hlen), fun b hlen => answers rfl (i3cWrite_taken hgood hlen),
      fun c ix len b hrow hlen => ?length, fun ix b hsome hix => answers rfl ((if_pos hgood).trans ((if_neg ?_).trans (if_neg hix))),
      fun ix hix => answers rfl ((if_pos hgood).trans (if_pos ⟨rfl, hix⟩)), answers rfl (if_pos hgood), answers rfl (if_pos hgood),
      fun a ha hfree => ?address, answers rfl (if_pos hgood), answers rfl (if_pos hgood), answers rfl (if_pos hgood)⟩
    case slot =>
      intro u
      exact ⟨fun hremove => answers rfl ((i3cWrite_taken hgood hlen).trans (if_pos hremove)),
        fun hkeep => answers rfl ((i3cWrite_taken hgood hlen).trans (if_neg (ne_true_of_eq_false hkeep)))⟩
    case length =>
      simp only [List.mem_cons, Prod.mk.injEq, List.not_mem_nil, or_false] at hrow
      obtain ⟨rfl, rfl, rfl⟩ | ⟨rfl, rfl, rfl⟩ | ⟨rfl, rfl, rfl⟩ := hrow
      · exact answers rfl (i3cWrite_wrongLength hgood hlen)
      · exact answers rfl (i3cWrite_wrongLength hgood hlen)
      · exact answers rfl (i3cWrite_wrongLength hgood hlen)
    case address =>
      have hnone : s.i3c.dynAddr.isNone ∧ a < 128 := ⟨Option.isNone_iff_eq_none.2 hfree, ha⟩
      exact ⟨answers rfl ((if_pos hgood).trans (if_pos hnone)), answers rfl ((if_pos hgood).trans (if_pos hnone))⟩
    exact fun h => hsome h.1

end Sys2Proof.Machine
end

section
/-!
PROOFS. Register writes and reads, counters, the lifetime record and queue-depth samples (13 R417 to R430, 16 R512, 18 R556 to R567).
-/
namespace Sys2Proof.Machine

theorem bits_low (v n : Nat) : bits v n 0 = v % 2 ^ (n + 1) := by
  rw [bits, Nat.pow_zero, Nat.div_one, Nat.sub_zero]

theorem bit_zero (v : Nat) : bit v 0 = (v % 2 == 1) := by
  rw [bit, Nat.pow_zero, Nat.div_one]

/-- A field of 16 bits whose range leaves out 0 alone. -/
theorem ranged_nonzero {old x : Nat} (hx : x < 2 ^ 16) : ranged old x 1 65535 = if x = 0 then old else x := by
  unfold ranged
  by_cases h0 : x = 0
  · rw [if_pos h0, if_neg (by omega)]
  · rw [if_neg h0, if_pos (by omega)]

theorem ranged_low {old v : Nat} : ranged old (bits v 15 0) 1 65535 = if v % 2 ^ 16 = 0 then old else v % 2 ^ 16 := by
  rw [bits_low]
  exact ranged_nonzero (Nat.mod_lt _ (by decide))

section HostWrite
variable {s : State} {p : Port} {off size : Nat} {v : W64}

theorem hostWrites_of (hbooted : s.sup.booted = true) (hpresent : (portOf s p).present = true) (hlc : s.fuses.lc ≠ .scrapped) :
    hostWrites s p = true := by
  simp only [hostWrites, Bool.and_eq_true, bne_iff_ne]
  exact ⟨⟨hbooted, hpresent⟩, hlc⟩

theorem exec_registerWrite_bar0 (hacts : hostWrites s p = true) :
    exec (.registerWrite p 0 off size v) s = .next (queued s (
      if off / 8 * 8 = 0x50020 then writeBar0 s p off size v.toNat else unfused s (writeBar0 s p off size v.toNat))) :=
  congrArg (fun t => Host.Outcome.next (queued s t)) ((if_neg (ne_true_of_eq_false (congrArg not hacts))).trans (if_pos rfl))

/-- Only a mailbox command may fuse. -/
theorem exec_registerWrite_unfused (hacts : hostWrites s p = true) (hoff : off / 8 * 8 ≠ 0x50020) :
    exec (.registerWrite p 0 off size v) s = .next (unfused s (writeBar0 s p off size v.toNat)) := by
  rw [exec_registerWrite_bar0 hacts, if_neg hoff]
  rfl

theorem exec_registerWrite_unchanged (hacts : hostWrites s p = true) (h : writeBar0 s p off size v.toNat = s) :
    exec (.registerWrite p 0 off size v) s = .next s := by
  rw [exec_registerWrite_bar0 hacts, h]
  split <;> rfl

/-! ### Where a write reaches no register -/

theorem writeBar0_unsupported {n : Nat} (h : ¬ (size = 4 ∨ size = 8) ∨ off % size ≠ 0) : writeBar0 s p off size n = s := if_pos h

/-- A write of a supported size to a port's page: to the port's registers, where the page is the port's own. -/
theorem writeBar0_page {n q : Nat} (hsize : ¬ (¬ (size = 4 ∨ size = 8) ∨ off % size ≠ 0)) (hq : q < 4)
    (hlow : 0x4000 + 0x1000 * q ≤ off) (hhigh : off < 0x5000 + 0x1000 * q) : writeBar0 s p off size n =
      if q = p then writePort s p (off / 8 * 8 % 0x1000) (mergeHalf (portWord s p (off / 8 * 8 % 0x1000)) off size n) else s := by
  have hpage : 0x4000 ≤ off / 8 * 8 ∧ off / 8 * 8 < 0x8000 := by omega
  have hown : (off / 8 * 8 - 0x4000) / 0x1000 = q := by omega
  refine (if_neg hsize).trans ((if_pos hpage).trans ?_)
  rw [hown]

theorem writeBar0_otherPage {n : Nat} {q : Port} (hq : q ≠ p) (hlow : 0x4000 + 0x1000 * q.val ≤ off)
    (hhigh : off < 0x5000 + 0x1000 * q.val) : writeBar0 s p off size n = s := by
  by_cases hsize : ¬ (size = 4 ∨ size = 8) ∨ off % size ≠ 0
  · exact writeBar0_unsupported hsize
  · exact (writeBar0_page hsize q.isLt hlow hhigh).trans (if_neg fun h => hq (Fin.ext h))

theorem writeBar0_modulePage {n : Nat} (hp : p ≠ 0) (hoff : off < 0x4000 ∨ 0x8000 ≤ off) : writeBar0 s p off size n = s := by
  by_cases hsize : ¬ (size = 4 ∨ size = 8) ∨ off % size ≠ 0
  · exact writeBar0_unsupported hsize
  · exact (if_neg hsize).trans ((if_neg (by omega)).trans (if_pos fun h => hp (Fin.ext h)))

end HostWrite

section Counters
variable {s : State}

theorem serviceCtr_eq {k : Nat} {c : HwCtr} (hc : mget s.hwc k = some c) :
    serviceCtr s k = fwBump { s with hwc := mset s.hwc k c.service } (kLife 0) (b2n c.wrapped) := by
  simp only [serviceCtr, hc]

theorem exec_counterHalf {k : Nat} {c : HwCtr} (hc : mget s.hwc k = some c) :
    exec (.counterHalfWrapService k) s = .next (unfused s (if c.half then serviceCtr s k else s)) := by
  change execCounterHalfWrapService k s = _
  simp only [execCounterHalfWrapService, hc]

end Counters

/-- Settles O54: each row's guard is the statement's. -/
theorem registersAndCounters : Obligations.registers_and_counters := by
  intro s
  refine ⟨fun p off size v hbooted hpresent hlc => ?writes, fun v hlc => ?settings, fun k c hc =>
      ⟨fun hhalf => answers (exec_counterHalf hc) ((if_pos hhalf).trans (serviceCtr_eq hc)),
        fun hfew => answers (exec_counterHalf hc) (if_neg (ne_true_of_eq_false hfew))⟩,
    rfl, fun hfw => ⟨answers rfl (if_pos hfw), fun hlater => answers rfl (if_pos (by simp [hfw, hlater])),
      fun hsame => answers rfl (if_neg (by simp [hsame]))⟩,
    fun hlc hbooted hoff => ?enable, fun hon hfirst hperiod => ⟨fun hnew => answers rfl (if_pos ⟨hon, hfirst, hperiod, hnew⟩),
      fun hdone => answers rfl (if_neg fun h => h.2.2.2 hdone)⟩⟩
  case writes =>
    have hacts := hostWrites_of hbooted hpresent hlc
    refine ⟨exec_registerWrite_unfused hacts, fun hcmd => ?_, exec_registerWrite_bar2 hacts off size v,
      fun hsize => exec_registerWrite_unchanged hacts (writeBar0_unsupported (by simpa using hsize)),
      fun hp hoff => exec_registerWrite_unchanged hacts (writeBar0_modulePage hp hoff),
      fun q hq hlow hhigh => exec_registerWrite_unchanged hacts (writeBar0_otherPage hq hlow hhigh)⟩
    rw [exec_registerWrite_bar0 hacts, if_pos hcmd]
  case settings =>
    intro lo hi
    refine ⟨unfused s (writeCe s 0x30018 v.toNat), unfused s (writeCe s 0x30020 v.toNat), answers rfl (if_neg hlc), answers rfl (if_neg hlc),
      ?_, ?_, ?_, ?_, rfl, rfl⟩
    · exact ranged_low
    · exact ranged_nonzero (Nat.mod_lt _ (by decide))
    · exact ranged_low
    · exact ranged_nonzero (Nat.mod_lt _ (by decide))
  case enable =>
    have hmay : ¬ (s.fuses.lc = .scrapped ∨ (!s.sup.booted) = true) := fun h => h.elim hlc (ne_true_of_eq_false (congrArg not hbooted))
    exact ⟨fun hal => answers rfl ((if_neg hmay).trans (if_neg (by simp [hoff, hal]))),
      fun hal => answers rfl ((if_neg hmay).trans (if_pos (.inr hal)))⟩

section Reads
variable {s : State} {p : Port} {off : Nat}

/-- From 0x80000 on there is no register. -/
theorem moduleWord_beyond {a : Nat} (ha : 0x80000 ≤ a) : moduleWord s a = 0 := by
  unfold moduleWord
  dsimp only
  split <;> omega

theorem readDebugWord_beyond {a : Nat} (ha : 0x80000 ≤ a) : readDebugWord s a = 0 := by
  refine (if_neg (by omega)).trans ((if_neg (by omega)).trans ?_)
  split
  case h_9 => exact moduleWord_beyond ha
  all_goals omega

theorem readWord_scrapped (hlc : s.fuses.lc = .scrapped) : readWord s p off = if off = 0x50000 then 5 else 0 := by
  rw [readWord, if_pos hlc, hlc]
  rfl

theorem readWord_beyond (hoff : 0x80000 ≤ off) : readWord s p off = 0 := by
  by_cases hlc : s.fuses.lc = .scrapped
  · rw [readWord_scrapped hlc, if_neg (by omega)]
  · refine (if_neg hlc).trans ((if_neg (by omega)).trans ?_)
    by_cases hp : (p : Nat) = 0
    · rw [if_neg (by omega), if_neg (by omega), if_neg (by omega), if_neg (by omega), if_neg (by omega)]
      exact readDebugWord_beyond hoff
    · exact if_pos ⟨by omega, hp⟩

theorem readWord_otherPage {q : Port} (hq : q ≠ p) (hlow : 0x4000 + 0x1000 * q.val ≤ off) (hhigh : off < 0x5000 + 0x1000 * q.val) :
    readWord s p off = 0 := by
  have hqlt := q.isLt
  by_cases hlc : s.fuses.lc = .scrapped
  · rw [readWord_scrapped hlc, if_neg (by omega)]
  · have hown : (off - 0x4000) / 0x1000 = q := by omega
    refine (if_neg hlc).trans ((if_pos (by omega)).trans (if_neg ?_))
    rw [hown]
    exact fun h => hq (Fin.ext h)

theorem readWord_debugOf (hp : p ≠ 0) (hoff : 0x60000 ≤ off) : readWord s p off = 0 := by
  by_cases hlc : s.fuses.lc = .scrapped
  · rw [readWord_scrapped hlc, if_neg (by omega)]
  · exact (if_neg hlc).trans ((if_neg (by omega)).trans (if_pos ⟨hoff, fun h => hp (Fin.ext h)⟩))

/-- The identity below the order code. -/
theorem readIdWord_zero : readIdWord s 0 % 2 ^ 32 = 0x10D24 := Nat.add_mul_mod_self_right _ _ _

/-- The word at an aligned offset, as a read of `size` bytes gives it. -/
theorem readBar0_aligned {size : Nat} (hsize : size = 4 ∨ size = 8) (hoff : off % size = 0) : readBar0 s p off size =
    some (BitVec.ofNat 64 (if size = 8 then readWord s p (off / 8 * 8) % 2 ^ 64 else if off % 8 = 0 then
      readWord s p (off / 8 * 8) % 2 ^ 64 % 2 ^ 32 else readWord s p (off / 8 * 8) % 2 ^ 64 / 2 ^ 32)) :=
  if_neg fun h => h.elim (absurd hsize) (absurd hoff)

end Reads

/-- Settles O55: an aligned read is of the word it lies in; the word is 0 where the port has no register. -/
theorem registerReads : Obligations.register_reads := by
  intro s p
  refine ⟨fun off size hbad => if_pos (by simpa using hbad), fun off hoff => ?word, fun hoff => if_pos (congrArg not hoff), fun hon => ?i3c⟩
  case word =>
    have hword : off / 8 * 8 = off := by omega
    have hnext : (off + 4) / 8 * 8 = off := by omega
    have hzero (h : readWord s p off = 0) : BitVec.ofNat 64 (readWord s p off % 2 ^ 64) = 0 := by rw [h]; rfl
    have hvalue : (BitVec.ofNat 64 (readWord s p off % 2 ^ 64)).toNat = readWord s p off % 2 ^ 64 := by
      rw [BitVec.toNat_ofNat, Nat.mod_mod]
    refine ⟨BitVec.ofNat 64 (readWord s p off % 2 ^ 64), ?_, ?_, ?_, fun h => hzero (readWord_beyond h),
      fun q hq hlow hhigh => hzero (readWord_otherPage hq hlow hhigh), fun hp h => hzero (readWord_debugOf hp h), fun hlc => ?_⟩
    · rw [readBar0_aligned (.inr rfl) hoff, if_pos rfl, hword]
    · rw [readBar0_aligned (.inl rfl) (by omega), if_neg (by decide), if_pos hoff, hword, hvalue]
    · rw [readBar0_aligned (.inl rfl) (by omega), if_neg (by decide), if_neg (by omega), hnext, hvalue]
    · rw [readWord_scrapped hlc]
      split <;> rfl
  case i3c =>
    have hanswers : ¬ (!s.sup.pwrgood) = true := ne_true_of_eq_false (congrArg not hon)
    refine ⟨fun hix => (if_neg hanswers).trans ?_, fun hix => (if_neg hanswers).trans ?_, fun hix => (if_neg hanswers).trans ?_⟩
    · rw [hix]
      exact congrArg (fun n => some (leBytes 4 n)) readIdWord_zero
    · rw [hix]
      rfl
    · rw [hix]
      rfl

section Whole
variable {s : State} {p : Port} {v : W64}

/-- A whole write to a register of the port's own page. -/
theorem exec_portWrite {o : Nat} (hacts : hostWrites s p = true) (hal : o % 8 = 0) (ho : o < 0x1000) :
    exec (.registerWrite p 0 (0x4000 + 0x1000 * p.val + o) 8 v) s = .next (unfused s (writePort s p o v.toNat)) := by
  have hsize : ¬ (¬ (8 = 4 ∨ 8 = 8) ∨ (0x4000 + 0x1000 * p.val + o) % 8 ≠ 0) := by omega
  have hplt := p.isLt
  have hplace : (0x4000 + 0x1000 * p.val + o) / 8 * 8 % 0x1000 = o := by omega
  refine answers (exec_registerWrite_unfused hacts (by omega)) ?_
  rw [writeBar0_page hsize hplt (by omega) (by omega), if_pos rfl, hplace]
  rfl

/-- A whole write to register `w` of a queue pair. -/
theorem exec_qpWrite {off w : Nat} {q : Fin 64} (hacts : hostWrites s p = true) (hw : w < 6)
    (hoff : off = 0x4400 + 0x1000 * p.val + 0x30 * q.val + 8 * w) :
    exec (.registerWrite p 0 off 8 v) s = .next (unfused s (writeQp s p q w v.toNat)) := by
  have hqlt := q.isLt
  have hplace : off = 0x4000 + 0x1000 * p.val + (0x400 + 0x30 * q.val + 8 * w) := by omega
  have hpair : (0x400 + 0x30 * q.val + 8 * w - 0x400) / 0x30 = q := by omega
  have hword : (0x400 + 0x30 * q.val + 8 * w - 0x400) % 0x30 / 8 = w := by omega
  rw [hplace]
  refine answers (exec_portWrite hacts (by omega) (by omega)) ((if_neg (by omega)).trans ((if_neg (by omega)).trans
    ((if_neg (by omega)).trans ((if_pos (by omega)).trans ?_))))
  rw [hpair, hword]

/-- A whole write to the port's event-ring register. -/
theorem exec_eqBaseWrite (hacts : hostWrites s p = true) : exec (.registerWrite p 0 (0x4008 + 0x1000 * p.val) 8 v) s =
    .next (unfused s (if (portOf s p).eqEn then s else
      setPort s p { portOf s p with eqLog2 := ranged (portOf s p).eqLog2 (bits v.toNat 4 0) 4 16, eqAddr := v.toNat / 4096 * 4096 })) := by
  have hplace : 0x4008 + 0x1000 * p.val = 0x4000 + 0x1000 * p.val + 8 := by omega
  rw [hplace]
  exact answers (exec_portWrite hacts (by decide) (by decide)) rfl

/-- A whole write, through port 0, to a module register that is no link's. -/
theorem exec_moduleWrite {a : Nat} (hacts : hostWrites s 0 = true) (hal : a % 8 = 0) (hlow : 0x8000 ≤ a) (hhigh : a < 0x40000) :
    exec (.registerWrite 0 0 a 8 v) s = .next (unfused s (writeModule s a v.toNat)) := by
  have hplace : a / 8 * 8 = a := by omega
  refine answers (exec_registerWrite_unfused hacts (by omega)) ((if_neg (by omega)).trans ((if_neg (by omega)).trans
    ((if_neg (by decide)).trans ((if_neg (by omega)).trans ?_))))
  rw [hplace]
  rfl

/-- While QP_EN is set, no other register of the queue pair is written. -/
theorem writeQp_locked {q w n : Nat} (hen : (qpOf s p q).en = true) (hw : w ≠ 1) : writeQp s p q w n = s := by
  unfold writeQp
  dsimp only
  split
  case h_1 => exact absurd rfl hw
  all_goals exact if_pos hen

end Whole

/-- Settles O56: `ranged` keeps a field whose value lies outside; the locks are the guards of the queue pair's and the event ring's writes. -/
theorem rangesAndLocks : Obligations.ranges_and_locks := by
  intro s p v hbooted hpresent hlc
  have hacts := hostWrites_of hbooted hpresent hlc
  intro keep write n
  refine ⟨fun q => ?qp, ?event, fun hp => ?module⟩
  case qp =>
    intro x base
    refine ⟨fun hoff => ?_, fun hon w hw => ?_⟩
    · have hfree : ¬ x.en = true := ne_true_of_eq_false hoff
      refine ⟨answers (exec_qpWrite hacts (w := 3) (by decide) rfl) ((if_neg hfree).trans ?_),
        answers (exec_qpWrite hacts (w := 4) (by decide) rfl) ((if_neg hfree).trans ?_),
        _, answers (exec_qpWrite hacts (w := 5) (by decide) rfl) (if_neg hfree), rfl, rfl, rfl⟩
      · rw [bits_low]
        rfl
      · rw [bits_low]
        rfl
    · obtain ⟨word, hword, hw1, rfl⟩ : ∃ k, k < 6 ∧ k ≠ 1 ∧ w = 8 * k := by
        simp only [List.mem_cons, List.not_mem_nil, or_false] at hw
        exact ⟨w / 8, by omega, by omega, by omega⟩
      exact answers (exec_qpWrite hacts hword rfl) (writeQp_locked hon hw1)
  case event =>
    intro x base
    refine ⟨fun hoff => answers (exec_eqBaseWrite hacts) ((if_neg (ne_true_of_eq_false hoff)).trans ?_),
      fun hon => answers (exec_eqBaseWrite hacts) (if_pos hon)⟩
    rw [bits_low]
    rfl
  case module =>
    subst hp
    refine ⟨answers (exec_moduleWrite hacts (by decide) (by decide) (by decide)) ?_,
      answers (exec_moduleWrite hacts (by decide) (by decide) (by decide)) ?_,
      answers (exec_moduleWrite hacts (by decide) (by decide) (by decide)) ?_⟩
    · exact congrArg (fun x => { s with pw.pwrLimit := ranged s.pw.pwrLimit x 900 2700 }) (bits_low n 11)
    · exact congrArg (fun x => { s with pw.windowS := ranged s.pw.windowS x 1 30, pw.floorLead := ranged s.pw.floorLead (bits n 15 8) 8 255 })
        (bits_low n 4)
    · exact congrArg (fun b => { s with pw.rampEn := b, pw.rampDown := ranged s.pw.rampDown (bits n 31 16) 50 65535,
                                        pw.rampUp := ranged s.pw.rampUp (bits n 47 32) 50 65535 }) (bit_zero n)

end Sys2Proof.Machine
end

section
/-!
PROOFS. Self-test and scan (16 R517 to R526, 18 R566).
-/
namespace Sys2Proof.Machine

section SelfTest
variable {s : State}

/-- Reports leave the program's own state; the end of a slice then advances it. -/
theorem exec_selftestSliceEnd {rs : List UnitResult} (hrun : s.st.running = true) (hown : s.st.ctlBusy = false ∨ s.st.ctlQueued = true) :
    ∃ u : State, (∃ f m, u.st = { s.st with fail := f, marginal := m }) ∧ exec (.selftestSliceEnd rs) s = .next (unfused s
      { u with st.running := u.st.ctlQueued, st.ctlQueued := false,
               st.sliceTread := if u.st.ctlQueued then u.time.tread else u.st.sliceTread, st.nextSlice := (s.st.nextSlice + 1) % 204,
               st.passes := if s.st.nextSlice = 203 then satAdd (2 ^ 32 - 1) u.st.passes 1 else u.st.passes }) := by
  have hgo : ¬ ((!s.st.running) = true ∨ s.st.ctlBusy = true ∧ (!s.st.ctlQueued) = true) := by
    rcases hown with h | h
    · simp [hrun, h]
    · simp [hrun, h]
  refine ⟨_, ?_, answers rfl (if_neg hgo)⟩
  split
  · simp only [fwBump_st]
    exact ⟨_, reports_st 1 s.st.sliceTread _ s⟩
  · simp only [fwBump_st]
    exact ⟨_, reports_st 1 s.st.sliceTread _ s⟩

theorem exec_selftestProgramDone {rs : List UnitResult} (hbusy : s.st.ctlBusy = true) (hstarted : s.st.ctlQueued = false) :
    let u := rs.foldl (reportUnit s.st.ctlProgram s.st.sliceTread) s
    exec (.selftestProgramDone rs) s = .next (unfused s
      { u with st.ctlBusy := false, st.running := false, st.ctlResult := b2n (rs.any fun r => verdictOf r == 2),
               st.passes := if s.st.ctlProgram = 1 then satAdd (2 ^ 32 - 1) u.st.passes 1 else u.st.passes }) :=
  answers rfl (if_neg (by simp [hbusy, hstarted]))

theorem exec_selftestCfgWrite (v : W64) (hlc : s.fuses.lc ≠ .scrapped) :
    let period := if v.toNat / 2 ^ 16 % 2 ^ 16 = 0 then s.st.period else v.toNat / 2 ^ 16 % 2 ^ 16
    let en := v.toNat % 2 == 1
    exec (.selftestCfgWrite v) s = .next (unfused s (if en = s.st.en ∧ period = s.st.period then s else
      logEvent { s with st.en := en, st.period := period, fv := s.fv + 1 } 5 0xFFFF (leBytes 16 (freeValue s.fv)))) := by
  intro period en
  have hen : bit v.toNat 0 = en := bit_zero _
  change execSelftestCfgWrite v s = _
  simp only [execSelftestCfgWrite, hen]
  exact answers rfl (if_congr (or_iff_right hlc) rfl rfl)

/-- Each program's command starts it with its number and effect. -/
theorem exec_program {c : Instr} {unit program : Nat} {effect : State → State} (hrow : (c, program, effect) ∈ [
        (.inFieldPass unit, 1, id), (.padSweep unit, 0x12, id),
        (.t2March unit, 0x10, fun u => (unitsOf (unit % 2048) 2048).foldl zeroSlice u),
        (.t3March unit, 0x11, fun u => (unitsOf (unit % 2048) 24).foldl zeroStack u),
        (.linkLoopback unit, 0x13, fun u => (unitsOf (unit % 2048) 24).foldl loopLink u),
        (.hostLoopback unit, 0x14, fun u => (unitsOf (unit % 2048) 4).foldl loopPort u),
        (.tileBist unit, 0x15, fun u => (unitsOf (unit % 2048) 2048).foldl zeroTile u)]) :
    exec c s = .next (unfused s (startProgram s program unit effect)) := by
  simp only [List.mem_cons, Prod.mk.injEq, List.not_mem_nil, or_false] at hrow
  obtain ⟨rfl, rfl, rfl⟩ | ⟨rfl, rfl, rfl⟩ | ⟨rfl, rfl, rfl⟩ | ⟨rfl, rfl, rfl⟩ | ⟨rfl, rfl, rfl⟩ | ⟨rfl, rfl, rfl⟩ | ⟨rfl, rfl, rfl⟩ := hrow
  all_goals rfl

theorem exec_scan {c : Instr} {cmd : Nat} (hrow : (c, cmd) ∈ [(.scanFreeze, 0), (.scanOut, 1), (.scanIn, 2), (.scanRelease, 3)]) :
    exec c s = .next (unfused s (scanGo s cmd)) := by
  simp only [List.mem_cons, Prod.mk.injEq, List.not_mem_nil, or_false] at hrow
  obtain ⟨rfl, rfl⟩ | ⟨rfl, rfl⟩ | ⟨rfl, rfl⟩ | ⟨rfl, rfl⟩ := hrow
  all_goals rfl

theorem exec_scanCommandDone (hbusy : s.dbg.scanBusy = true) :
    let u : State := { s with dbg.scanBusy := false, dbg.scanResult := 0 }
    let a := s.dbg.scanAddr
    exec .scanCommandDone s = .next (unfused s (
      if s.dbg.scanCmd = 0 then freezeTiles u (scanTiles s)
      else if s.dbg.scanCmd = 1 then scanOutAll u (gaTier a) (gaOff a) (scanTiles s)
      else if s.dbg.scanCmd = 2 then scanInAll u (gaTier a) (gaOff a) (scanTiles s)
      else thawTiles u (scanTiles s))) :=
  answers rfl (if_neg (ne_true_of_eq_false (congrArg not hbusy)))

end SelfTest

/-- Settles O59: each row's guard is the statement's; reports change FAIL, MARGINAL and logs alone. -/
theorem selfTestAndScan : Obligations.self_test_and_scan := by
  intro s
  refine ⟨fun hdue hidle => ⟨exec_selftestSliceStart_deferred hdue hidle, fun hgo =>
      exec_selftestSliceStart_starts hdue hidle (ne_true_of_eq_false hgo)⟩,
    fun hno => exec_selftestSliceStart_notDue hno, fun rs hrun hown => ?sliceEnd, fun v hlc => ?cfg,
    fun c unit program effect hrow hidle hbooted => ?program, fun rs hbusy hstarted => ?done, fun c cmd hrow => ?scan, fun hbusy => ?scanDone⟩
  case sliceEnd =>
    obtain ⟨u, ⟨f, m, hst⟩, hexec⟩ := exec_selftestSliceEnd (rs := rs) hrun hown
    exact ⟨_, hexec, rfl, (congrArg SelfTest.ctlQueued hst :), rfl, by rw [hst]; rfl⟩
  case cfg =>
    intro period en
    refine ⟨fun hnew => answers (exec_selftestCfgWrite v hlc) (if_neg fun h => hnew.elim (absurd h.1) (absurd h.2)),
      fun hen hperiod => answers (exec_selftestCfgWrite v hlc) (if_pos ⟨hen, hperiod⟩)⟩
  case program =>
    have hexec := exec_program (s := s) hrow
    obtain ⟨hscrapped, hruns⟩ := start_eq s program unit effect hidle hbooted
    intro u
    refine ⟨fun hclosed => answers hexec ((hruns ?_).trans (if_pos hclosed)), fun hopen => ?_, fun hlc => answers hexec (hscrapped hlc)⟩
    · rcases hclosed with h | h
      · simp [h]
      · simp [h]
    have hlc : s.fuses.lc ≠ .scrapped ∧ ¬ (s.fuses.lc = .provisioned ∨ s.fuses.lc = .deployed) := by
      rcases hopen with h | h | h
      · simp [h]
      · simp [h]
      · simp [h]
    have hstarts := (hruns hlc.1).trans (if_neg hlc.2)
    have hsafe (h : program = 1 ∨ allQpsOff s = true) : ¬ (program ≠ 1 ∧ (!allQpsOff s) = true) :=
      fun ⟨hp, hq⟩ => h.elim hp fun h => absurd hq (ne_true_of_eq_false (congrArg not h))
    exact ⟨fun hp hq => answers hexec (hstarts.trans (if_pos ⟨hp, congrArg not hq⟩)),
      fun h hstop => answers hexec (hstarts.trans ((if_neg (hsafe h)).trans (if_pos hstop))),
      fun h hcool hbrake => answers hexec (hstarts.trans ((if_neg (hsafe h)).trans (if_neg (by simp [hcool, hbrake]))))⟩
  case done =>
    obtain ⟨m, hst⟩ := reports_st s.st.ctlProgram s.st.sliceTread rs s
    exact ⟨_, exec_selftestProgramDone hbusy hstarted, rfl, rfl, rfl, congrArg SelfTest.fail hst⟩
  case scan =>
    refine ⟨fun hidle hlc hbooted => ?_, fun hbusy => answers (exec_scan hrow) (if_pos (.inl hbusy))⟩
    intro r
    exact answers (exec_scan hrow) (if_neg (by simp [hidle, hlc, hbooted]))
  case scanDone =>
    intro u a
    refine ⟨fun h => answers (exec_scanCommandDone hbusy) (if_pos h), fun h => answers (exec_scanCommandDone hbusy) ?_,
      fun h => answers (exec_scanCommandDone hbusy) ?_, fun h => answers (exec_scanCommandDone hbusy) ?_⟩
    · rw [h, if_neg (by decide), if_pos rfl]
    · rw [h, if_neg (by decide), if_neg (by decide), if_pos rfl]
    · rw [h, if_neg (by decide), if_neg (by decide), if_neg (by decide)]

end Sys2Proof.Machine
end

section
/-!
PROOFS. Control messages between members (12 R401 to R409, 10 R322 to R333, 17 R500).
-/
namespace Sys2Proof.Machine

/-- Each row of a control message is `withCtrl` on the messages of its kind, taken by firmware or by the control cores. -/
theorem exec_ctrl {s : State} {p : Nat} {c : Instr} {kind least : Nat} {reserved : List (Nat × Nat)} (hfw : s.tr.fwRunning = true)
    (hcores : coresRun s = true) (hrow : (c, kind, least, reserved) ∈ [
        (.floorReq p, 1, 32, [(3, 1), (12, 4), (24, 8)]), (.linkState p, 2, 112, [(1, 1)]), (.descFwd p, 3, 128, [(3, 5), (20, 44)]),
        (.descDone p, 4, 40, [(3, 5)]), (.reqFwd p, 5, 160, [(1, 3), (21, 11)]), (.reqAck p, 6, 32, [(2, 2), (24, 8)]),
        (.stepPlanReceive p, 7, 64, [(2, 2), (40, 24)]), (.settle p, 8, 32, [(2, 2), (28, 4)]), (.bind p, 9, 64, [(52, 12)]),
        (.sliceStop p, 10, 24, [(4, 4)]), (.adapterCtrl p, 11, 32, [(3, 1), (16, 16)])]) :
    ∃ runs act, runs = true ∧ exec c s = .next (unfused s (withCtrl s p kind least runs reserved act)) := by
  simp only [List.mem_cons, Prod.mk.injEq, List.not_mem_nil, or_false] at hrow
  rcases hrow with ⟨rfl, rfl, rfl, rfl⟩ | ⟨rfl, rfl, rfl, rfl⟩ | ⟨rfl, rfl, rfl, rfl⟩ | ⟨rfl, rfl, rfl, rfl⟩ | ⟨rfl, rfl, rfl, rfl⟩ |
    ⟨rfl, rfl, rfl, rfl⟩ | ⟨rfl, rfl, rfl, rfl⟩ | ⟨rfl, rfl, rfl, rfl⟩ | ⟨rfl, rfl, rfl, rfl⟩ | ⟨rfl, rfl, rfl, rfl⟩ | ⟨rfl, rfl, rfl, rfl⟩
  all_goals exact ⟨_, _, by assumption, rfl⟩

/-- A control message of its kind, long enough and with its reserved bytes clear. -/
abbrev CtrlGood (b : Bytes) (kind least : Nat) (reserved : List (Nat × Nat)) : Prop :=
  byteAt b 0 = kind ∧ least ≤ b.length ∧ ∀ x ∈ reserved, zeroAt b x.1 x.2 = true

section Message
variable {s : State} {p : Nat} {r : RxPacket} {ps : List (Nat × RxPacket)} {b : Bytes} (hr : mget s.net.rx p = some r)
  (hdst : r.pkt.dst = s.net.index) (hty : r.pkt.ty = 7) (hawake : (s.ps.state ≠ 2 ∧ s.pw.coolantStop = false) ∨ r.pkt.cls ≠ 0)
  (hwhole : wholeMsg s r = some (ps, b))
include hr hdst hty hawake hwhole

theorem withCtrl_whole {kind least : Nat} {runs : Bool} {reserved : List (Nat × Nat)} {act : State → Packet → Bytes → State} :
    withCtrl s p kind least runs reserved act =
      if byteAt b 0 ≠ kind ∨ (!runs) = true then s
      else if b.length < least ∨ (!reserved.all fun x => zeroAt b x.1 x.2) = true then takeWhole s ps ePerm
      else act (takeWhole s ps stOk) r.pkt b := by
  refine (withRx_eq hr hdst hty hawake).trans ?_
  simp only [hwhole]

theorem withCtrl_otherKind {kind least : Nat} {runs : Bool} {reserved : List (Nat × Nat)} {act : State → Packet → Bytes → State}
    (hkind : byteAt b 0 ≠ kind) : withCtrl s p kind least runs reserved act = s :=
  (withCtrl_whole hr hdst hty hawake hwhole).trans (if_pos (.inl hkind))

theorem withCtrl_malformed {kind least : Nat} {runs : Bool} {reserved : List (Nat × Nat)} {act : State → Packet → Bytes → State}
    (hruns : runs = true) (hkind : byteAt b 0 = kind) (hbad : b.length < least ∨ ∃ x ∈ reserved, zeroAt b x.1 x.2 = false) :
    withCtrl s p kind least runs reserved act = takeWhole s ps ePerm := by
  refine (withCtrl_whole hr hdst hty hawake hwhole).trans ((if_neg (by simp [hruns, hkind])).trans (if_pos (hbad.imp_right ?_)))
  rintro ⟨x, hx, hset⟩
  refine congrArg not (Bool.eq_false_of_not_eq_true fun hall => ?_)
  exact absurd (List.all_eq_true.1 hall x hx) (ne_true_of_eq_false hset)

theorem withCtrl_acts {kind least : Nat} {runs : Bool} {reserved : List (Nat × Nat)} {act : State → Packet → Bytes → State}
    (hruns : runs = true) (hgood : CtrlGood b kind least reserved) :
    withCtrl s p kind least runs reserved act = act (takeWhole s ps stOk) r.pkt b := by
  obtain ⟨hkind, hlen, hzero⟩ := hgood
  have hall : (reserved.all fun x => zeroAt b x.1 x.2) = true := List.all_eq_true.2 hzero
  exact (withCtrl_whole hr hdst hty hawake hwhole).trans
    ((if_neg (by simp [hruns, hkind])).trans (if_neg (by simp [hall, hlen])))

section Cores
variable (hcores : coresRun s = true)
include hcores

/-- A forwarded descriptor that has ended at the member it was sent to. -/
theorem exec_descDone (hgood : CtrlGood b 4 40 [(3, 5)]) {d : Nat} {t : Taken}
    (hfound : ((takeWhole s ps stOk).taken.find? fun t => t.2.stage == .sent r.pkt.src && t.2.origin.isNone && t.2.port == byteAt b 1 &&
      t.2.qp == byteAt b 2 && slice t.2.bytes 4 4 == slice b 8 4 && t.2.op == byteAt b 14) = some (d, t)) :
    let u := takeWhole s ps stOk
    exec (.descDone p) s = .next (unfused s ((exportRead u d r.pkt.src (byteAt b 15) (fld b 16 8) (fld b 24 8)).getD
      (complete (fwdEnded { u with mem.partner := merase u.mem.partner d } d t (byteAt b 15)) d (byteAt b 15) (fld b 16 8) (fld b 24 8)))) := by
  intro u
  refine answers rfl ((withCtrl_acts hr hdst hty hawake hwhole hcores hgood).trans ?_)
  simp only [hfound]
  cases exportRead u d r.pkt.src (byteAt b 15) (fld b 16 8) (fld b 24 8) <;> rfl

theorem exec_reqFwd (hgood : CtrlGood b 5 160 [(1, 3), (21, 11)]) {g : Group}
    (hg : mget (takeWhole s ps stOk).groups (groupKey r.pkt.ctx (byteAt b 20)) = some g) (hlead : g.lead = (takeWhole s ps stOk).net.index)
    (hruns : (takeWhole s ps stOk).flt.sliceStopped = false) :
    let u := takeWhole s ps stOk
    let prm := slice b 32 128
    let st := leadStatus u g prm (fld b 16 4) (fld b 8 8)
    let v := if fld prm 8 4 = 0 then none else (versionOf u g.ctx (fld prm 8 4) (fld prm 12 4)).map (·.1)
    let x := openAt u g prm (fld b 16 4) (fld b 8 8) r.pkt.src none v
    exec (.reqFwd p) s = .next (unfused s (
      if st ≠ stOk then sendCtrl u r.pkt.src r.pkt.ctx .firmware (reqAckBody st (fld b 4 4) 0)
      else sendCtrl x.2 r.pkt.src r.pkt.ctx .firmware (reqAckBody stOk (fld b 4 4) x.1))) := by
  intro u prm st v x
  refine answers rfl ((withCtrl_acts hr hdst hty hawake hwhole hcores hgood).trans ?_)
  simp only [hg]
  exact (if_neg (not_not.2 hlead)).trans (if_neg (ne_true_of_eq_false hruns))

theorem exec_reqAck (hgood : CtrlGood b 6 32 [(2, 2), (24, 8)]) {f : Fwd} {t : Taken}
    (hf : mget (takeWhole s ps stOk).fwds (fld b 4 4) = some f) (hstage : f.stage = .asked) (ht : mget (takeWhole s ps stOk).taken f.desc = some t) :
    let u := takeWhole s ps stOk
    exec (.reqAck p) s = .next (unfused s (
      if byteAt b 1 ≠ stOk then finish (unbindVersion { u with fwds := merase u.fwds (fld b 4 4) } t.ctx f.params) f.desc (byteAt b 1)
      else writeFar (admitReq { u with fwds := mset u.fwds (fld b 4 4) { f with stage := .prompt (fld b 8 4) } } t.ctx (fld b 8 4) t f.sealing)
        r.pkt.src t.ctx (.desc f.desc) (handleAt b 12).1 (handleAt b 12).2 0 f.prompt [])) := by
  intro u
  refine answers rfl ((withCtrl_acts hr hdst hty hawake hwhole hcores hgood).trans ?_)
  simp only [hf, hstage, ht]
  rfl

/-- A BIND: the firmware of the member at which a bind is under way compares it with its own. -/
theorem exec_bind (hgood : CtrlGood b 9 64 [(52, 12)]) :
    let u := takeWhole s ps stOk
    let x : BindRx := { ctx := r.pkt.ctx, group := byteAt b 3, inst := byteAt b 2, uid := fld b 4 16, table := digestAt b 20 }
    let rest := u.net.binds.filter fun y => !(y.ctx == x.ctx && y.group == x.group && y.inst == x.inst)
    let w : State := { u with net.binds := rest ++ [x] }
    exec (.bind p) s = .next (unfused s (
      if bit (byteAt b 1) 0 then { u with net.binds := rest }
      else (mget w.insts x.inst).elim w fun i =>
        if i.ctx = x.ctx ∧ i.group = x.group ∧ bindDiffers w i.ctx i.group x.inst i.uid i.table = true then endBind w x.inst ePerm else w)) := by
  intro u x rest w
  refine answers rfl ((withCtrl_acts hr hdst hty hawake hwhole hcores hgood).trans (if_congr Iff.rfl rfl ?_))
  dsimp only
  cases mget u.insts (byteAt b 2) with
  | none =>
    rfl
  | some i =>
    rfl

theorem exec_adapterCtrl (hgood : CtrlGood b 11 32 [(3, 1), (16, 16)]) :
    let u := takeWhole s ps stOk
    let k := r.pkt
    let id := fld b 4 4
    let ver := fld b 8 4
    let own := (versionOf u k.ctx id ver).map (·.1)
    exec (.adapterCtrl p) s = .next (unfused s (
      if byteAt b 1 = 1 then
        let x := bindVersion u k.ctx id ver
        sendCtrl x.2.2 k.src k.ctx .firmware (adapterMsg 6 x.1 id (x.2.1.elim ver (·.2.version)) (fld b 12 4))
      else if byteAt b 1 = 2 then own.elim u (releaseRef u)
      else if byteAt b 1 = 3 then
        let x := retireVersion u k.ctx id ver
        sendCtrl x.2 k.src k.ctx .firmware (adapterMsg 6 x.1 id ver (fld b 12 4))
      else if byteAt b 1 = 4 then own.elim u fun v => sharePlaced u v k.src (byteAt b 2)
      else if byteAt b 1 = 5 then own.elim u (dropVersion u)
      else if byteAt b 1 = 6 then adapterResult u k b
      else u)) :=
  answers rfl (withCtrl_acts hr hdst hty hawake hwhole hcores hgood)

end Cores

end Message

theorem exec_sliceStopTread {s : State} {t cause member earlier : Nat} (hfw : s.tr.fwRunning = true) (ht : s.net.stopTread = some t)
    (hrx : s.net.stopRx = some (cause, member, earlier)) (hdue : t ≤ s.time.tread) :
    let w := stopInsts { s with net.stopTread := none, net.stopRx := none }
    let v := fwBump (faultRecord { w with flt.sliceStopped := !w.insts.isEmpty, flt.stopTread := t % 2 ^ 32 } cause member earlier) (kLife 11) 1
    exec .sliceStopTread s = .next (unfused s (if v.insts.isEmpty && !v.net.closing then { v with net.recovery := none } else v)) := by
  intro w v
  change execSliceStopTread s = _
  simp only [execSliceStopTread, ht, hrx]
  exact answers rfl (if_neg (by simp [hfw, hdue]))

/-- Settles O49: a message of its kind and form is acted on, one of another form refused, one of another kind left. -/
theorem controlMessages : Obligations.control_messages := by
  intro s p r ps b hr hdst hty hawake hwhole hfw hcores k u good
  refine ⟨fun c kind least reserved hrow => ?form, fun hgood => ?floor, fun hgood => ?links,
    fun hgood => answers rfl (withCtrl_acts hr hdst hty hawake hwhole hcores hgood), fun hgood d t hfound => ?descDone,
    fun hgood g hg hlead hruns => ?reqFwd, fun hgood f t hf hstage ht => ?reqAck,
    fun hgood => answers rfl (withCtrl_acts hr hdst hty hawake hwhole hcores hgood),
    fun hgood => answers rfl (withCtrl_acts hr hdst hty hawake hwhole hcores hgood), fun hgood => ?bind, fun hgood => ?stop,
    fun t cause member earlier ht hrx hdue => exec_sliceStopTread hfw ht hrx hdue, fun hgood => ?adapter⟩
  case form =>
    obtain ⟨runs, act, hruns, hexec⟩ := exec_ctrl (s := s) (p := p) hfw hcores hrow
    exact ⟨fun hkind hbad => answers hexec (withCtrl_malformed hr hdst hty hawake hwhole hruns hkind hbad),
      fun hother => answers hexec (withCtrl_otherKind hr hdst hty hawake hwhole hother)⟩
  case floor =>
    intro f
    exact ⟨fun hlate => answers rfl ((withCtrl_acts hr hdst hty hawake hwhole hfw hgood).trans (if_pos hlate)),
      fun hsoon => answers rfl ((withCtrl_acts hr hdst hty hawake hwhole hfw hgood).trans (if_neg (Nat.not_lt.2 hsoon)))⟩
  case links =>
    refine ⟨fun x hx hold => answers rfl ((withCtrl_acts hr hdst hty hawake hwhole hfw hgood).trans (if_pos ?_)),
      fun hnew => answers rfl ((withCtrl_acts hr hdst hty hawake hwhole hfw hgood).trans (if_neg ?_))⟩
    · exact (Option.any_eq_true _ _).2 ⟨x, hx, decide_eq_true hold⟩
    · rintro hany
      obtain ⟨x, hx, hold⟩ := (Option.any_eq_true _ _).1 hany
      exact absurd (hnew x hx) (Nat.not_lt.2 (of_decide_eq_true hold))
  case descDone =>
    have hexec := exec_descDone hr hdst hty hawake hwhole hcores hgood hfound
    refine ⟨fun hnone => answers hexec ?_, fun v hv => answers hexec ?_⟩
    · rw [hnone]
      rfl
    · rw [hv]
      rfl
  case reqFwd =>
    have hexec := exec_reqFwd hr hdst hty hawake hwhole hcores hgood hg hlead hruns
    intro prm st
    exact ⟨fun hbad => answers hexec (if_pos hbad), fun hok => answers hexec (if_neg (not_not.2 hok))⟩
  case reqAck =>
    have hexec := exec_reqAck hr hdst hty hawake hwhole hcores hgood hf hstage ht
    exact ⟨fun hbad => answers hexec (if_pos hbad), fun hok => answers hexec (if_neg (not_not.2 hok))⟩
  case bind =>
    have hexec := exec_bind hr hdst hty hawake hwhole hcores hgood
    intro x rest w
    refine ⟨fun hend => answers hexec (if_pos hend), fun hbegin hfree => answers hexec ((if_neg (ne_true_of_eq_false hbegin)).trans ?_),
      fun i hbegin hi hctx hgroup => ⟨fun hdiff => answers hexec ((if_neg (ne_true_of_eq_false hbegin)).trans ?_),
        fun hsame => answers hexec ((if_neg (ne_true_of_eq_false hbegin)).trans ?_)⟩⟩
    · rw [hfree]
      rfl
    · rw [hi]
      exact if_pos ⟨hctx, hgroup, hdiff⟩
    · rw [hi]
      exact if_neg fun h => absurd h.2.2 (ne_true_of_eq_false hsame)
  case stop =>
    exact ⟨fun hstopped => answers rfl ((withCtrl_acts hr hdst hty hawake hwhole hfw hgood).trans (if_pos hstopped)),
      fun hruns => answers rfl ((withCtrl_acts hr hdst hty hawake hwhole hfw hgood).trans (if_neg (ne_true_of_eq_false hruns)))⟩
  case adapter =>
    have hexec := exec_adapterCtrl hr hdst hty hawake hwhole hcores hgood
    intro id ver own
    refine ⟨fun hop => answers hexec (if_pos hop), fun v hop hv => answers hexec ?_, fun hop => answers hexec ?_,
      fun v hop hv => answers hexec ?_, fun v hop hv => answers hexec ?_, fun hop => answers hexec ?_⟩
    · rw [hop, if_neg (by decide), if_pos rfl]
      exact congrArg (Option.elim · u (releaseRef u)) hv
    · rw [hop, if_neg (by decide), if_neg (by decide), if_pos rfl]
    · rw [hop, if_neg (by decide), if_neg (by decide), if_neg (by decide), if_pos rfl]
      exact congrArg (Option.elim · u (fun v => sharePlaced u v k.src (byteAt b 2))) hv
    · rw [hop, if_neg (by decide), if_neg (by decide), if_neg (by decide), if_neg (by decide), if_pos rfl]
      exact congrArg (Option.elim · u (dropVersion u)) hv
    · rw [hop, if_neg (by decide), if_neg (by decide), if_neg (by decide), if_neg (by decide), if_neg (by decide), if_pos rfl]

end Sys2Proof.Machine
end
